-- ==== Sys2Proof/Word.lean ====
section
/-! DEFINITION. The word types of the module and the ranges its numbers are drawn from (R6, R13, R14). -/
namespace Sys2Proof

/-- One byte of any memory or packet. -/
abbrev Byte := BitVec 8

/-- A 64-bit register, record word or counter (R7, R11). -/
abbrev Word := BitVec 64

/-- A host physical address: the module stores it in a 64-bit field (R13). -/
abbrev HostAddr := BitVec 64

/-- A 16-bit status code (R411). -/
abbrev Code := BitVec 16

/-- A forme number, 0 to 15 (R30). -/
abbrev FormeId := Fin 16

/-- A host port (ECP) number, 0 to 3 (R14). -/
abbrev PortId := Fin 4

/-- A function number on a port: 0 to 15 formes, 16 the management window (R331). -/
abbrev FnId := Fin 17

/-- An Aczia link, 0 to 5 for X+, X-, Y+, Y-, Z+, Z- (R328). -/
abbrev LinkId := Fin 6

/-- A ring number of a function, 0 to 63 (R241). -/
abbrev RingId := Fin 64

/-- A press core number, die times 16 plus core (R14). -/
abbrev CoreId := Fin 128

/-- A stack channel number, 0 to 255 (R137). -/
abbrev ChannelId := Fin 256

/-- A compositor core number (R14). -/
abbrev CompId := Fin 16

/-- A ring sequence number, 48 bits, counting from 0 at the ring's enabling (R242). -/
abbrev Seq := BitVec 48

/-- A slug's issue tag (R183). -/
abbrev SlugTag := BitVec 16

/-- An image binding of a forme, 0 to 7 (R228). -/
abbrev BindingId := Fin 8

/-- A job slot of a forme, 0 to 63 (R315). -/
abbrev JobSlot := Fin 64

end Sys2Proof
end

