-- ==== Sys2Proof/Syntax.lean ====
section
/-! DEFINITION. The commands of the block: one constructor of `Instr` for each row of spec/opcode_table.json, with the
operands that reach the module from outside with it (a request's header and data, a flit, an image, a sensor reading, the
verdict of a named cryptographic standard on the bytes presented). -/
namespace Sys2Proof

/-- The header fields of a host request that decide who it is for (R343). -/
structure HostReq where
  port : PortId
  fn   : FnId
  sec  : Bool
  tag  : BitVec 12
  deriving DecidableEq, Repr, Inhabited

/-- STATUS of a host packet (R343). -/
inductive EcpStatus where
  | ok | unmapped | denied | busError | timeout
  deriving DecidableEq, Repr, Inhabited

/-- A sparse byte string: bytes not listed are zero. -/
structure Blob where
  length : Nat
  cells  : List (Nat × Byte)
  deriving DecidableEq, Repr, Inhabited

/-- A read of host memory as the module meets it: the data, or the STATUS of a fault (R344, R350). -/
inductive Fetched (α : Type) where
  | data  (x : α)
  | fault (st : EcpStatus) (addr : HostAddr)
  deriving DecidableEq, Repr

/-- Bytes with FIPS 204's verdict on the signature they carry (R31). -/
structure SignedImage where
  blob  : Blob
  sigOk : Bool
  deriving DecidableEq, Repr, Inhabited

/-- What the boot environment finds (R398): the channels and cores whose self-test fails, and the entropy health test. -/
structure BootEnv where
  failingChannels : List ChannelId
  failingCores    : List CoreId
  entropyOk       : Bool
  deriving DecidableEq, Repr, Inhabited

/-- One stroke of the input pair: the edge period before it and its high time (R42). -/
structure PairEdge where
  periodPs : Nat
  highNs   : Nat
  deriving DecidableEq, Repr, Inhabited

/-- A stroke mark flit (R310); `crcOk` is the flit CRC of R307. -/
structure MarkFlit where
  stroke  : Word
  hops    : BitVec 4
  locked  : Bool
  delayPs : BitVec 16
  crcOk   : Bool
  deriving DecidableEq, Repr, Inhabited

/-- A ring entry as fetched: the 64-byte header as eight words and the constant block (R247). -/
structure RingEntry where
  hdr    : Vector Word 8
  consts : List Byte
  deriving DecidableEq, Repr

/-- How a stack channel leaves service at run time (R148). -/
inductive MapOutKind where
  | draining | failed
  deriving DecidableEq, Repr, Inhabited

/-- What detects (R190), with what the rules that follow need to know of it. -/
inductive DetectKind where
  | check (core : CoreId)
  | stackWeight (binding : BindingId) (chunk : Nat) (channel : ChannelId) (line : Nat)
  | stackOther (channel : ChannelId) (line : Nat)
  | stackLeaf (record : Nat) (channel : ChannelId) (line : Nat)
  | stackHeld (channel : ChannelId) (line : Nat)
  | galley
  | finishing
  | packet
  deriving DecidableEq, Repr, Inhabited

/-- A weight image's header as read, and the leading chunks that its content directory takes: chunk 0 and those its tables run on into
(R223, R230). -/
structure InkHeader where
  blob : Blob
  lead : Fetched (List Blob)
  deriving DecidableEq, Repr

/-- The part of an Aczia packet that travels encrypted (R317), with what the two ends need to match a response to its
request: the requester's slug tag, and for a refused packet its PTYPE, that tag and its destination (log 50). A collective
data packet names the run of its half, the phase, the half, the ring step and its first element. -/
inductive PacketBody where
  | loadReq (tag : BitVec 16) (offset : BitVec 40) (sectors : Nat)
  | loadResp (tag : BitVec 16) (offset : BitVec 40) (data : List Byte)
  | store (tag : BitVec 16) (offset : BitVec 40) (data : List Byte)
  | flagAdd (tag : BitVec 16) (offset : BitVec 40) (value : Word)
  | storeAck (tag : BitVec 16)
  | nack (ptype : BitVec 4) (tag : BitVec 16) (target : BitVec 12)
  | collData (run phase half step : Nat) (first : Nat) (elems : List (BitVec 32))
  | join (k : Nat) (stroke : Word) (digest : BitVec 128)
  | reroute (axis half : Nat)
  | abort
  | job (msg frag frags : BitVec 16) (data : List Byte)
  deriving DecidableEq, Repr, Inhabited

/-- An Aczia packet: the header fields of R317, its body, and whether its GCM tag holds at the endpoint. -/
structure Packet where
  ptype    : BitVec 4
  vc       : Fin 4
  src      : BitVec 12
  dst      : BitVec 12
  len      : BitVec 9
  cls      : Bool
  reversed : Bool
  hops     : BitVec 4
  jobId    : Word
  pktNum   : Word
  dseq     : BitVec 32
  arg      : BitVec 32
  body     : PacketBody
  tagOk    : Bool
  deriving DecidableEq, Repr, Inhabited

/-- An Aczia flit (R307): the packets that end in it, its sequence fields, its credit returns and its CRC's verdict. -/
structure AczFlit where
  seq     : BitVec 12
  ack     : BitVec 12
  nak     : Bool
  type    : BitVec 3
  credits : Vector (BitVec 8) 8
  packets : List Packet
  crcOk   : Bool
  deriving DecidableEq, Repr

/-- An ECP flit (R342). -/
structure EcpFlit where
  seq     : BitVec 10
  ack     : BitVec 10
  nak     : Bool
  type    : BitVec 2
  credits : Vector (BitVec 8) 4
  crcOk   : Bool
  deriving DecidableEq, Repr

/-- A QUOIN_OPEN request block (R377): the hash of the key it carries and the verdict on its signature over the identity
hash, the valid nonce and the scope. -/
structure QuoinRequest where
  keyHash : BitVec 256
  sigOk   : Bool
  deriving DecidableEq, Repr, Inhabited

/-- A FUSE_PROGRAM request block (R359, R374), the verdict on its signature, and whether the bits it blows read back 1. -/
structure FuseRequest where
  field   : BitVec 8
  slot    : BitVec 8
  value   : BitVec 256
  keyHash : BitVec 256
  sigOk   : Bool
  blown   : Bool
  deriving DecidableEq, Repr, Inhabited

/-- A whole JK_OFFER or JK_DELIVER with the verdicts of R369 on it. -/
structure JobKeyMsg where
  jobId      : Word
  member     : BitVec 16
  certOk     : Bool
  sigOk      : Bool
  signerHash : BitVec 256
  fwSvn      : BitVec 32
  unwrapOk   : Bool
  deriving DecidableEq, Repr, Inhabited

/-- A private TAP instruction, by the scope that opens it (R375). -/
inductive PrivateTap where
  | memorySelfTest | analogueMonitors | compositorDebug (core : CompId) | pressCoreScan (die : Fin 8)
  deriving DecidableEq, Repr, Inhabited

/-- The scope in which a DOMAIN_DISCHARGE_DONE falls (R381, R382). -/
inductive ClearScope where
  | forme (f : FormeId)
  | quoin
  deriving DecidableEq, Repr, Inhabited

/-- A sheet of R120, as a plan record names it: context, tensor handle, sheet index. -/
structure SheetId where
  ctx    : BitVec 16
  handle : BitVec 32
  index  : Nat
  deriving DecidableEq, Repr, Inhabited

/-- A fetch of a sheet that ends (R127), with what host memory answers where the sheet comes from spill pages. -/
structure SheetFetch where
  id   : SheetId
  data : Fetched (List Byte)
  deriving DecidableEq, Repr

/-- The parameters that a compositor program names in a calibration launch (R111): eta = 2^−etaLog and beta by its code (0: 0.75, 1: 0.875,
2: 0.9375); a value outside its range stands for its default. -/
structure CalibParams where
  steps  : Nat
  etaLog : Nat
  beta   : Nat
  sequences : Nat
  tokens : Nat
  learnWeights : Bool
  deriving DecidableEq, Repr, Inhabited

/-- A calibration's second descriptor set (R112, R113): the descriptors learned with their state records, the set that host software
presents to start from, where there is one, and where the second set and its vectors go. -/
structure CalibSet where
  params : CalibParams
  learned : List (Nat × BitVec 56)
  start   : Option (BitVec 56)
  set     : BitVec 56
  vectors : BitVec 56
  deriving DecidableEq, Repr, Inhabited

/-- An attention backward (R217): its descriptor, the handles of what it reads and of what it writes (retained m and l, 0xFFFF_FFFF for
none), the position of the first query row, and the trained range. -/
structure AttnBack where
  desc  : BitVec 56
  (q dOut out retained dQ dK dV : BitVec 32)
  first : Nat
  (trained count : Nat)
  deriving DecidableEq, Repr, Inhabited

/-- Work of the finishing unit for which R259 prints no code and the rules give the meaning: the error and gradient of a layer against its
reference in the image's calibration section (R112), the gradients of a descriptor's scales and zero points (R110), a step of learning
(R111), the second set, presented to the ops that follow (R112) or compared and committed (R113), a self-test's verdict (R112), the conversion of gradient rows under a format record (R218 to R220), attention
backward (R217), and the writing of a tensor's bytes at a device address (R179). -/
inductive FinWork where
  | loss (reference : Nat) (total : BitVec 56)
  | scaleGrads (index : Nat) (gradient : BitVec 32) (state : BitVec 56) (params : CalibParams)
  | learn (index : Nat) (state : BitVec 56) (params : CalibParams)
  | present (c : CalibSet)
  | commit (c : CalibSet) (errNew errOld : BitVec 56)
  | selfTest (total : BitVec 56) (recorded : Nat) (verdict : BitVec 56)
  | gradient (record : BitVec 56)
  | attnBack (w : AttnBack)
  | deliver (dest : BitVec 56)
  deriving DecidableEq, Repr, Inhabited

/-- The commands: one constructor for each row of spec/opcode_table.json, in the table's order. -/
inductive Instr where
  | coldReset (rstHigh : Bool) (input10mV : BitVec 16)
  | inputPowerLoss (input10mV : BitVec 16)
  | supplyFault (input10mV : BitVec 16) (durationUs : Nat)
  | supplyFaultRestart (input10mV : BitVec 16) (heldMs : Nat) (hottest : Nat)
  | platenRstNAssert (heldUs : Nat)
  | platenRstNRelease (input10mV : BitVec 16) (heldMs : Nat) (hottest : Nat)
  | moduleResetSteps (env : BootEnv)
  | bringupScrubDone (entropyOk : Bool)
  | thermalSample (junctions : Vector (BitVec 8) 10) (inlet outlet : BitVec 8)
  | powerIntervalEnd (watts : BitVec 16)
  | currentLimitEngage
  | domainDischargeDone (scope : ClearScope)
  | freset (h : HostReq)
  | functionResetScrubDone (f : FormeId) (entropyOk : Bool)
  | impose (p : PortId)
  | impositionFetched (r : Fetched SignedImage)
  | reimposeDrainDone
  | reimposeScrubDone (entropyOk : Bool)
  | reimposeCommit
  | strokeEdge
  | localCountIncrement
  | strokeFrame (edges : Vector PairEdge 128) (phaseNs : Int)
  | strokeMark (l : LinkId) (m : MarkFlit) (phaseNs : Int)
  | strokeSourceLost
  | holdoverExpiry
  | mrtGo (h : HostReq) (value : Word)
  | mrtCopyDone (f : FormeId)
  | mrtActivate (f : FormeId)
  | stepBoundary (f : FormeId)
  | collectiveWindowOpen (f : FormeId) (entry : BitVec 8)
  | collectiveWindowClose (f : FormeId) (entry : BitVec 8)
  | fillerWindowOpen (f : FormeId) (entry : BitVec 8)
  | fillerWindowEnd (f : FormeId) (entry : BitVec 8)
  | sharePeriodEnd (f : FormeId)
  | feedRingTail (h : HostReq) (r : RingId) (value : Word)
  | ringEnable (h : HostReq) (r : RingId) (value : Word)
  | ringDisable (h : HostReq) (r : RingId) (value : Word)
  | bellErrClear (h : HostReq) (r : RingId)
  | replay (h : HostReq) (r : RingId)
  | feedEntryFetch (f : FormeId)
  | entryReadFault (f : FormeId) (r : RingId) (st : EcpStatus)
  | nop (f : FormeId) (r : RingId) (e : RingEntry)
  | launch (f : FormeId) (r : RingId) (e : RingEntry)
  | store (f : FormeId) (r : RingId) (e : RingEntry)
  | patch (f : FormeId) (r : RingId) (e : RingEntry)
  | free (f : FormeId) (r : RingId) (e : RingEntry)
  | matterImageReadDone (f : FormeId) (r : RingId) (seq : Seq) (image : Fetched Blob)
  | entryRelease (f : FormeId) (r : RingId)
  | launchComplete (f : FormeId) (r : RingId) (seq : Seq)
  | recordWriteDone (f : FormeId) (r : RingId) (seq : Seq) (st : EcpStatus)
  | launchTimeout (f : FormeId) (r : RingId) (seq : Seq)
  | issue (f : FormeId) (r : RingId) (seq : Seq) (slug : BitVec 16) (consts : List Byte) (antecedent : SlugTag)
  | resolve (f : FormeId) (first : SlugTag) (cut : Nat)
  | wait (f : FormeId) (tag : SlugTag)
  | proofRead (f : FormeId) (tag : SlugTag) (offset : Nat)
  | endLaunch (f : FormeId) (r : RingId) (seq : Seq) (status : Code) (resultAddr : Nat) (result : List Byte)
  | programException (f : FormeId) (r : RingId) (seq : Seq)
  | opComplete (f : FormeId) (tag : SlugTag) (committed : Nat) (work : Option FinWork)
  | detection (f : FormeId) (tag : SlugTag) (kind : DetectKind)
  | slugPassPoint (f : FormeId) (tag : SlugTag)
  | proofWritesDone (f : FormeId) (tag : SlugTag)
  | releaseDrainDone (f : FormeId) (tag : SlugTag)
  | acquireFlagPoll (f : FormeId) (tag : SlugTag) (outside : Word)
  | matchPrompt (f : FormeId) (tag : SlugTag)
  | leafCopyDone (f : FormeId) (tag : SlugTag)
  | planComplete (f : FormeId)
  | runaheadFetchDone (f : FormeId) (c : CoreId) (sheet : SheetFetch)
  | explicitRegionApply (f : FormeId)
  | swapStart (f : FormeId)
  | swapOutCopyDone (f : FormeId) (c : CoreId)
  | swapInDone (f : FormeId)
  | swapSliceDrained (f : FormeId) (c : CoreId)
  | saveSpaceRetest (f : FormeId)
  | channelMapOut (ch : ChannelId) (kind : MapOutKind)
  | channelCommandTimeout (ch : ChannelId) (consecutive : Nat) (trained : Bool)
  | migrationComplete (detected : List Nat)
  | ink (f : FormeId)
  | inkHeaderReadDone (f : FormeId) (r : Fetched InkHeader)
  | inkChunkDone (f : FormeId) (r : Fetched Blob)
  | inkCopyComplete (f : FormeId)
  | stopServiceDrained (f : FormeId)
  | attach (f : FormeId)
  | detach (f : FormeId)
  | chunkRefetchDone (f : FormeId) (b : BindingId) (chunk : Nat) (r : Fetched Blob)
  | linkTrainingDone (l : LinkId) (peer : BitVec 12) (loopPs : BitVec 24)
  | linkTrainRetry (l : LinkId)
  | retrain (h : HostReq) (l : LinkId) (value : Word)
  | disable (h : HostReq) (l : LinkId) (value : Word)
  | aczSelf (h : HostReq) (value : Word)
  | flitReceive (l : LinkId) (x : AczFlit)
  | laneBad (l : LinkId) (lane : Fin 16)
  | linkLost (l : LinkId)
  | loadReq (p : Packet)
  | loadResp (p : Packet)
  | storePacket (p : Packet)
  | storeAck (p : Packet)
  | nackRemote (p : Packet)
  | remoteLoadTimeout (f : FormeId) (tag : SlugTag)
  | collData (p : Packet)
  | collectiveStart (f : FormeId) (tag : SlugTag)
  | join (p : Packet)
  | joinTimeout (f : FormeId) (slot : JobSlot)
  | reroute (p : Packet)
  | abort (p : Packet)
  | collectiveComplete (f : FormeId) (tag : SlugTag)
  | jobOpen (f : FormeId)
  | jobOpenTimeout (f : FormeId) (slot : JobSlot)
  | jobClose (f : FormeId)
  | jkOffer (m : JobKeyMsg)
  | jkDeliver (m : JobKeyMsg)
  | jkReject (jobId : Word)
  | portTrainingDone (p : PortId) (goodLanes : BitVec 16)
  | portTrainRetry (p : PortId)
  | portDown (p : PortId)
  | portRetrain (h : HostReq) (value : Word)
  | hostMemoryRead (h : HostReq) (bar : Fin 6) (offset : BitVec 40) (len : Nat)
  | hostMemoryWrite (h : HostReq) (bar : Fin 6) (offset : BitVec 40) (data : List Byte)
  | registerWrite (h : HostReq) (offset : BitVec 20) (size : Nat) (value : Word)
  | dcpl (p : PortId) (tag : BitVec 12) (st : EcpStatus) (data : List Byte)
  | dack (p : PortId) (tag : BitVec 12) (st : EcpStatus)
  | drdTimeout (p : PortId) (tag : BitVec 12)
  | snpInv (p : PortId) (page : BitVec 40)
  | ecpSpillInval (h : HostReq) (value : Word)
  | mboxGo (h : HostReq) (value : Word)
  | mboxAck (h : HostReq) (value : Word)
  | compositorWake (c : CompId)
  | compositorPowerGate (c : CompId)
  | report (p : PortId) (writeFault : Option EcpStatus)
  | identity (p : PortId) (writeFault : Option EcpStatus)
  | quoinChallenge (p : PortId) (entropyOk : Bool)
  | quoinNonceExpiry
  | quoinOpen (p : PortId) (req : Fetched QuoinRequest)
  | quoinOpeningDone (entropyOk : Bool)
  | quoinClose (p : PortId)
  | fuseProgram (p : PortId) (req : Fetched FuseRequest)
  | i3cWriteOffset (bytes : List Byte)
  | i3cRead (len : Nat)
  | i3cAddressAssign (addr : BitVec 7)
  | tapBypass (instruction : Nat)
  | tapIdcode
  | tapSamplePreload (load : Vector Bool 6)
  | tapExtest
  | tapPrivateInstruction (op : PrivateTap)
  | tapReset (low : Bool)
  | cableConnected (l : LinkId)
  | linkTrainingTimeout (l : LinkId)
  | remoteStoreTimeout (f : FormeId) (tag : SlugTag)
  | ecpLaneFailed (p : PortId) (lane : Fin 16)
  | ecpFlitReceive (p : PortId) (x : EcpFlit)
  | hostRegisterRead (h : HostReq) (offset : BitVec 20) (size : Nat)
  deriving DecidableEq, Repr

end Sys2Proof
end

