-- ==== Sys2Proof/Decode.lean ====
section
/-! DEFINITION. The command a word of the opcode table spells: no row of spec/opcode_table.json gives bits ("fields" is
empty in all 150 rows), so no word spells a command. -/
namespace Sys2Proof

/-- The command that the low `nbits` bits of `w` spell: none, for every word (log 2). -/
def decodeTableWord (_nbits _w : Nat) : Option Instr := none

end Sys2Proof
end

