-- ==== Sys2Proof/Machine/Bits.lean ====
section
/-! DEFINITION. Bit fields, little-endian byte strings and sparse blobs (R6, R7). -/
namespace Sys2Proof.Machine

/-- Bits [hi:lo] of a word, as a number (R6). -/
def fld (w : Word) (hi lo : Nat) : Nat := (w.toNat >>> lo) % 2 ^ (hi + 1 - lo)

/-- Bit [n] of a word. -/
def bitOf (w : Word) (n : Nat) : Bool := w.getLsbD n

/-- A number placed at [lo] of a 64-bit word. -/
def place (lo n : Nat) : Word := BitVec.ofNat 64 n <<< lo

/-- A flag placed at [lo]. -/
def placeBit (lo : Nat) (b : Bool) : Word := place lo b.toNat

/-- The `n` bytes of a number, least significant first (R7). -/
def leBytes : Nat → Nat → List Byte
  | 0, _ => []
  | n + 1, x => BitVec.ofNat 8 x :: leBytes n (x / 256)

/-- The number a little-endian byte string spells (R7). -/
def leNat : List Byte → Nat
  | [] => 0
  | b :: bs => b.toNat + 256 * leNat bs

/-- A word of the bytes given, least significant first. -/
def leWord (bs : List Byte) : Word := BitVec.ofNat 64 (leNat bs)

/-- The byte of a blob at an offset; zero where nothing is listed. -/
def blobByte (b : Blob) (off : Nat) : Byte :=
  match b.cells.find? (fun c => c.1 == off) with
  | some c => c.2
  | none => 0

/-- The bytes [off, off + n) of a blob. -/
def blobBytes (b : Blob) (off n : Nat) : List Byte := (List.range n).map (fun i => blobByte b (off + i))

/-- The little-endian number of `n` bytes at an offset of a blob. -/
def blobLe (b : Blob) (off n : Nat) : Nat := leNat (blobBytes b off n)

/-- The 64-bit word at an offset of a blob. -/
def blobWord (b : Blob) (off : Nat) : Word := BitVec.ofNat 64 (blobLe b off 8)

/-- ⌈a ÷ b⌉. -/
def ceilDiv (a b : Nat) : Nat := (a + b - 1) / b

/-- A counter of width `w` that stays at its largest value. -/
def satInc {w : Nat} (x : BitVec w) : BitVec w := if x = BitVec.allOnes w then x else x + 1

/-- The nearer limit for a value outside a range (R134, R283). -/
def clampTo (lo hi x : Nat) : Nat := max lo (min hi x)

/-- The numbers of the bits set, ascending. -/
def bitsSet {w : Nat} (x : BitVec w) : List Nat := (List.range w).filter (fun i => x.getLsbD i)

/-- A mask with one bit set. -/
def oneBit (w n : Nat) : BitVec w := 1#w <<< n

/-- Every item of a list satisfies the test on its index. -/
def allIdx {α : Type} (xs : List α) (p : Nat → α → Bool) : Bool :=
  (List.range xs.length).all (fun i => match xs[i]? with | some x => p i x | none => true)

/-- The first item that fails, with its index. -/
def firstBad {α : Type} (p : α → Bool) : Nat → List α → Option (Nat × α)
  | _, [] => none
  | i, x :: xs => if p x then firstBad p (i + 1) xs else some (i, x)

/-- Replace the first item that matches. -/
def updFirst {α : Type} (p : α → Bool) (g : α → α) : List α → List α
  | [] => []
  | x :: xs => if p x then g x :: xs else x :: updFirst p g xs

/-- The sum of a list of numbers. -/
def sumNat (xs : List Nat) : Nat := xs.foldl (· + ·) 0

/-- No two items of a list are equal. -/
def distinct {α : Type} [BEq α] : List α → Bool
  | [] => true
  | x :: xs => !xs.contains x && distinct xs

/-- The list strictly or weakly rises. -/
def ascending : List Nat → Bool
  | [] => true
  | [_] => true
  | x :: y :: r => decide (x ≤ y) && ascending (y :: r)

end Sys2Proof.Machine
end

