-- ==== Sys2Proof/Machine/Aes.lean ====
section
/-! DEFINITION. AES-256 on one block (FIPS 197), AES-256-CTR as R224 uses it and AES-256-XTS as R145 and R153 use it. -/
namespace Sys2Proof.Machine

/-! ### The field of bytes -/

/-- Multiply by x. -/
def gfDouble (a : BitVec 8) : BitVec 8 := if a.getLsbD 7 then (a <<< 1) ^^^ 0x1B else a <<< 1

/-- Multiply two bytes; the number is the count of bits of the second still to be taken. -/
def gfMul : Nat → BitVec 8 → BitVec 8 → BitVec 8
  | 0, _, _ => 0
  | n + 1, a, b => (if b.getLsbD 0 then a else 0) ^^^ gfMul n (gfDouble a) (b >>> 1)

/-- The inverse of a byte, its 254th power; that of 0 is 0. -/
def gfInv (a : BitVec 8) : BitVec 8 :=
  let sq (x : BitVec 8) : BitVec 8 := gfMul 8 x x
  let a2 := sq a
  let a4 := sq a2
  let a8 := sq a4
  let a16 := sq a8
  let a32 := sq a16
  let a64 := sq a32
  let a128 := sq a64
  gfMul 8 a128 (gfMul 8 a64 (gfMul 8 a32 (gfMul 8 a16 (gfMul 8 a8 (gfMul 8 a4 a2)))))

/-- SubBytes of one byte. -/
def aesSub (a : BitVec 8) : BitVec 8 :=
  let b := gfInv a
  b ^^^ b.rotateLeft 1 ^^^ b.rotateLeft 2 ^^^ b.rotateLeft 3 ^^^ b.rotateLeft 4 ^^^ 0x63

/-- InvSubBytes of one byte. -/
def aesUnsub (a : BitVec 8) : BitVec 8 := gfInv (a.rotateLeft 1 ^^^ a.rotateLeft 3 ^^^ a.rotateLeft 6 ^^^ 0x05)

/-! ### The key schedule -/

/-- Two byte strings added. -/
def xorBytes (a b : List Byte) : List Byte := List.zipWith (· ^^^ ·) a b

/-- The words of the expanded key from the n-th on, given the eight before it: `rc` is the round constant. -/
def keyWords : Nat → Nat → BitVec 8 → List (List Byte) → List (List Byte)
  | 0, _, _, _ => []
  | f + 1, n, rc, prev =>
    let last := prev.getLastD []
    let t := if n % 8 = 0 then xorBytes ((last.drop 1 ++ last.take 1).map aesSub) [rc, 0, 0, 0]
      else if n % 8 = 4 then last.map aesSub else last
    let w := xorBytes (prev.headD []) t
    w :: keyWords f (n + 1) (if n % 8 = 0 then gfDouble rc else rc) (prev.drop 1 ++ [w])

/-- The fifteen round keys of a 32-byte key. -/
def roundKeys (key : List Byte) : List (List Byte) :=
  let first := (List.range 8).map (fun i => (key.drop (4 * i)).take 4)
  let ws := first ++ keyWords 52 8 1 first
  (List.range 15).map (fun r => ((ws.drop (4 * r)).take 4).flatten)

/-! ### A block -/

/-- Byte i of a block after its rows have been rotated by their number times `k` columns. -/
def turnRows (k : Nat) (b : List Byte) : List Byte := (List.range 16).map (fun i => b.getD ((i + 4 * k * (i % 4)) % 16) 0)

/-- Multiply every column of a block by a circulant. -/
def mixBlock (c : List (BitVec 8)) (b : List Byte) : List Byte :=
  (List.range 16).map (fun i => ((List.range 4).map (fun k =>
    gfMul 8 (b.getD (i / 4 * 4 + k) 0) (c.getD ((k + 4 - i % 4) % 4) 0))).foldl (· ^^^ ·) 0)

/-- Encrypt one block of 16 bytes. -/
def aesEncrypt (key block : List Byte) : List Byte :=
  let ks := roundKeys key
  let b := (List.range 13).foldl (fun b r => xorBytes (mixBlock [2, 3, 1, 1] (turnRows 1 (b.map aesSub))) (ks.getD (r + 1) []))
    (xorBytes block (ks.getD 0 []))
  xorBytes (turnRows 1 (b.map aesSub)) (ks.getD 14 [])

/-- Decrypt one block of 16 bytes. -/
def aesDecrypt (key block : List Byte) : List Byte :=
  let ks := roundKeys key
  let b := (List.range 13).foldl (fun b r => mixBlock [14, 11, 13, 9] (xorBytes ((turnRows 3 b).map aesUnsub) (ks.getD (13 - r) [])))
    (xorBytes block (ks.getD 14 []))
  xorBytes ((turnRows 3 b).map aesUnsub) (ks.getD 0 [])

/-! ### CTR (R224) -/

/-- The `n` bytes of a number, most significant first. -/
def beBytes (n x : Nat) : List Byte := (leBytes n x).reverse

/-- The counter block of AES block k of chunk c: NONCE, little-endian, then c and k, big-endian (R224). -/
def counterBlock (nonce : Word) (c k : Nat) : List Byte := leBytes 8 nonce.toNat ++ beBytes 4 c ++ beBytes 4 k

/-- The byte that encrypts byte i of chunk c. -/
def streamByte (key : List Byte) (nonce : Word) (c i : Nat) : Byte := (aesEncrypt key (counterBlock nonce c (i / 16))).getD (i % 16) 0

/-! ### AES-KW (R226) -/

/-- The unwrapping steps of NIST SP 800-38F, from step `t` down to 1: the check half, and the semiblocks of the key. -/
def kwSteps (key : List Byte) : Nat → List Byte × List (List Byte) → List Byte × List (List Byte)
  | 0, x => x
  | t + 1, (a, rs) =>
    let i := t % rs.length
    let b := aesDecrypt key (xorBytes a (beBytes 8 (t + 1)) ++ rs.getD i [])
    kwSteps key t (b.take 8, rs.set i (b.drop 8))

/-- Unwrap a wrapped key of whole semiblocks; none where the integrity check fails. -/
def kwUnwrap (key wrapped : List Byte) : Option (List Byte) :=
  let n := wrapped.length / 8 - 1
  let r := kwSteps key (6 * n) (wrapped.take 8, (List.range n).map (fun i => (wrapped.drop (8 * (i + 1))).take 8))
  if r.1 == List.replicate 8 0xA6#8 then some r.2.flatten else none

/-! ### XTS (R145, R153) -/

/-- A tweak multiplied by x in the field of XTS, as 16 bytes, least significant first. -/
def tweakDouble (t : List Byte) : List Byte :=
  let n := leNat t * 2
  leBytes 16 (if 2 ^ 128 ≤ n then (n - 2 ^ 128) ^^^ 0x87 else n)

/-- The tweak of block j of a data unit. -/
def xtsTweak (key2 : List Byte) (unit : Nat) : Nat → List Byte
  | 0 => aesEncrypt key2 (leBytes 16 unit)
  | j + 1 => tweakDouble (xtsTweak key2 unit j)

/-- Decrypt block j of a data unit. -/
def xtsDecrypt (key1 key2 : List Byte) (unit j : Nat) (c : List Byte) : List Byte :=
  let t := xtsTweak key2 unit j
  xorBytes (aesDecrypt key1 (xorBytes c t)) t

/-- Encrypt block j of a data unit. -/
def xtsEncrypt (key1 key2 : List Byte) (unit j : Nat) (p : List Byte) : List Byte :=
  let t := xtsTweak key2 unit j
  xorBytes (aesEncrypt key1 (xorBytes p t)) t

end Sys2Proof.Machine
end

