-- ==== Sys2Proof/Machine/Shake.lean ====
section
/-! DEFINITION. SHAKE256 (FIPS 202), which R31, R135, R171, R226, R324 and R401 name, and the CRCs of R43 and R145. -/
namespace Sys2Proof.Machine

/-- The 24 round constants of Keccak-f[1600]. -/
def keccakRc : List Word :=
  [0x0000000000000001, 0x0000000000008082, 0x800000000000808A, 0x8000000080008000, 0x000000000000808B, 0x0000000080000001,
   0x8000000080008081, 0x8000000000008009, 0x000000000000008A, 0x0000000000000088, 0x0000000080008009, 0x000000008000000A]
  ++ [0x000000008000808B, 0x800000000000008B, 0x8000000000008089, 0x8000000000008003, 0x8000000000008002, 0x8000000000000080,
   0x000000000000800A, 0x800000008000000A, 0x8000000080008081, 0x8000000000008080, 0x0000000080000001, 0x8000000080008008]

/-- Rotation amounts by lane x + 5y. -/
def keccakRot : List Nat :=
  [0, 1, 62, 28, 27, 36, 44, 6, 55, 20, 3, 10, 43, 25, 39, 41, 45, 15, 21, 8, 18, 2, 61, 56, 14]

def lane (a : List Word) (x y : Nat) : Word := a.getD (x % 5 + 5 * (y % 5)) 0

/-- One round on 25 lanes, lane (x, y) at index x + 5y. -/
def keccakRound (rc : Word) (a : List Word) : List Word :=
  let c := (List.range 5).map (fun x => lane a x 0 ^^^ lane a x 1 ^^^ lane a x 2 ^^^ lane a x 3 ^^^ lane a x 4)
  let d := (List.range 5).map (fun x => c.getD ((x + 4) % 5) 0 ^^^ (c.getD ((x + 1) % 5) 0).rotateLeft 1)
  let t := (List.range 25).map (fun i => a.getD i 0 ^^^ d.getD (i % 5) 0)
  let b := (List.range 25).map (fun i =>
    -- lane (X, Y) of the result comes from (x, y) with X = y and Y = 2x + 3y
    let x' := i % 5
    let y' := i / 5
    let x := (x' + 3 * y') % 5
    let y := x'
    (lane t x y).rotateLeft (keccakRot.getD (x + 5 * y) 0))
  let e := (List.range 25).map (fun i => lane b (i % 5) (i / 5) ^^^ (~~~ lane b (i % 5 + 1) (i / 5) &&& lane b (i % 5 + 2) (i / 5)))
  match e with
  | [] => []
  | h :: r => (h ^^^ rc) :: r

def keccakF (a : List Word) : List Word := keccakRc.foldl (fun s rc => keccakRound rc s) a

/-- XOR a 136-byte block into the lanes. -/
def absorbBlock (a : List Word) (block : List Byte) : List Word :=
  (List.range 25).map (fun i => if i < 17 then a.getD i 0 ^^^ leWord ((block.drop (8 * i)).take 8) else a.getD i 0)

/-- Absorb whole blocks; `fuel` bounds their number. -/
def absorb : Nat → List Word → List Byte → List Word
  | 0, a, _ => a
  | n + 1, a, bs => absorb n (keccakF (absorbBlock a (bs.take 136))) (bs.drop 136)

/-- The 200-byte state after a message so far: whole blocks absorbed, and the rest of it xored in. -/
def shakeState (msg : List Byte) : List Byte :=
  let n := msg.length / 136
  ((absorbBlock (absorb n (List.replicate 25 0) (msg.take (136 * n))) (msg.drop (136 * n))).flatMap (fun w => leBytes 8 w.toNat)).take 200

/-- SHAKE's padding of a message to a multiple of 136 bytes. -/
def shakePad (msg : List Byte) : List Byte :=
  let r := 136 - msg.length % 136
  if r = 1 then msg ++ [0x9F] else msg ++ [0x1F] ++ List.replicate (r - 2) 0 ++ [0x80]

/-- The first `n` output bytes, at most 136, of SHAKE256. -/
def shake256 (msg : List Byte) (n : Nat) : List Byte :=
  let p := shakePad msg
  let a := absorb (p.length / 136) (List.replicate 25 0) p
  ((a.flatMap (fun w => leBytes 8 w.toNat)).take 136).take n

/-- SHAKE256-256, as a number whose byte 0 is the least significant. -/
def shake256Hash (msg : List Byte) : BitVec 256 := BitVec.ofNat 256 (leNat (shake256 msg 32))

/-- The ASCII bytes of a label such as "KTCW0". -/
def ascii (s : String) : List Byte := s.toList.map (fun c => BitVec.ofNat 8 c.toNat)

/-- The imposition hash: 64 bytes over bytes 0x0000 to 0xF49C (R31). -/
def impositionHash (b : Blob) : BitVec 512 := BitVec.ofNat 512 (leNat (shake256 (blobBytes b 0 0xF49D) 64))

/-- SHAKE256-256 of the signer's public key in an imposition (R28, R32 check 2). -/
def signerKeyHash (b : Blob) : BitVec 256 := shake256Hash (blobBytes b 0xE010 1952)

/-- CRC-16, polynomial x^16 + x^12 + x^5 + 1, initial value 0xFFFF, over bits in transmission order (R43). -/
def crc16 (bits : List Bool) : BitVec 16 :=
  bits.foldl (fun c b => if c.getLsbD 15 != b then (c <<< 1) ^^^ 0x1021 else c <<< 1) 0xFFFF

/-- One byte into the CRC-64 register of R145, most significant bit first. -/
def crc64Byte (c : BitVec 64) (b : Byte) : BitVec 64 :=
  (List.range 8).foldl (fun c i => if c.getLsbD 63 != b.getLsbD (7 - i) then (c <<< 1) ^^^ 0x42F0E1EBA9EA3693 else c <<< 1) c

/-- CRC-64 with the polynomial, initial value and final complement of R145. -/
def crc64 (bs : List Byte) : BitVec 64 := ~~~ (bs.foldl crc64Byte (BitVec.allOnes 64))

/-- The check of sector `i` of a stack line: its ciphertext, the home line number, the sector index (R145). -/
def sectorCheck (cipher : List Byte) (line i : Nat) : BitVec 64 := crc64 (cipher ++ leBytes 8 line ++ leBytes 1 i)

end Sys2Proof.Machine
end

