-- ==== Sys2Proof/Config.lean ====
section
/-! DEFINITION. What the part fixes (the figures of the geometry table as shipped, R1 and R20) and the free values:
constants with no body, of which nothing can be proved. Each free value has its row in the assumption log. -/
namespace Sys2Proof.Config

/-- Working press cores of a part as shipped (R20). -/
def pressCores : Nat := 128
/-- Rows of one array (R20). -/
def arrayRows : Nat := 512
/-- Usable columns of one array (R20). -/
def arrayColumns : Nat := 1024
/-- Pages of 64 KiB in one core's galley (R116). -/
def galleyPagesPerCore : Nat := 3072
/-- Stack channels of the module (R137). -/
def stackChannels : Nat := 256
/-- Usable stack memory with every channel working, GiB (R17). -/
def usableGib : Nat := 952
/-- Longest sequence, positions (R20). -/
def maxPositions : Nat := 4194304
/-- Launches in flight for each ring, forme and module (R255). -/
def launchesPerRing : Nat := 64
/-- As `launchesPerRing`, for a forme. -/
def launchesPerForme : Nat := 256
/-- As `launchesPerRing`, for the module. -/
def launchesPerModule : Nat := 1024
/-- Slugs in flight on one compositor (R255). -/
def slugsPerCompositor : Nat := 64
/-- Press cycles of one nominal stroke (R14). -/
def cyclesPerStroke : Nat := 800

/-! ### Free values -/

/-- The stepping fused at manufacture (R358). The manual fixes no value. -/
opaque stepping : BitVec 8
/-- IDENTITY_SEED, fused at manufacture and never readable (R358). -/
opaque identitySeed : BitVec 256
/-- MFG_ROOT_HASH, fused at manufacture (R358). -/
opaque mfgRootHash : BitVec 256
/-- The public key of ML-DSA-65 key generation from a seed (R362, FIPS 204). -/
opaque dsaPublicKey : List Byte → List Byte
/-- The ML-DSA-65 signature by the key pair of a seed, under a context, over a message (R368, R373, FIPS 204). -/
opaque dsaSignature : List Byte → List Byte → List Byte → List Byte
/-- Bifeco's signature in the identity certificate that boot flash holds (R363). -/
opaque certificateSignature : List Byte
/-- What the on-die entropy source delivers at its n-th draw (R364): keys, nonces and domain secrets. -/
opaque entropy : Nat → BitVec 256
/-- Whether the health test before that draw passes, where no operand of the command says so (R364). -/
opaque drawTest : Nat → Bool
/-- The second half of the XTS key of that serial number, from the same draw (R145, R365). -/
opaque entropyTweak : Nat → BitVec 256
/-- A byte of a tensor's stored form for which no plan has given a home yet: forme, handle, byte. -/
opaque unwrittenByte : Nat → Nat → Nat → Byte
/-- Where the leaf engine puts a run record of a forme in its area, in units of 64 bytes (R159 to R161): forme and serial number. -/
opaque recordOffset : Nat → Nat → BitVec 27
/-- Where it puts a context's run directory, in units of 64 bytes: forme and context number. -/
opaque directoryOffset : Nat → BitVec 16 → BitVec 32
/-- Where the content directory that a weight image's plaintext begins with says its four parts lie: offset and length of the tensor table,
the initial descriptor set, the calibration section and the tensor data (R223). The manual prints no layout of it. -/
opaque directoryPart : List Byte → Fin 4 → Nat × Nat
/-- The secret ML-KEM-1024 decapsulation yields under the ink key of a serial number from a ciphertext (R226, FIPS 203). -/
opaque kemSecret : Nat → List Byte → List Byte
/-- The measurement of a firmware image, by image number and copy (R401). -/
opaque measurement : Nat → Nat → BitVec 512
/-- ROPE_BASE^(−j ÷ 64) for a negative base, which has no real power the manual states (R162). -/
opaque ropeNegative : BitVec 32 → Nat → BitVec 32
/-- A result of a finishing function whose code the manual does not define (R259, KIND 0x05):
function code, the parameters, and the input row; element index. -/
opaque finishingResult : BitVec 16 → List Word → List (BitVec 32) → Nat → BitVec 32
/-- A value the manual leaves open, fresh for each use of the state's counter. -/
opaque freeValue : Nat → BitVec 64
/-- The encapsulation key of the ML-KEM-1024 key pair with this serial number: an ink key, or the ephemeral key of an offer (R225, R368). -/
opaque inkEncapsulationKey : Nat → List Byte

/-- The larger or the smaller, as R322 asks, of two FP32 values that do not compare: a NaN among them, or zeros of both signs. -/
opaque reduceOpen : Bool → BitVec 32 → BitVec 32 → BitVec 32
/-- What a JK_DELIVER carries between its certificate and its signature, by JOB_ID and member index: the ML-KEM-1024 ciphertext to the member's
key and K_JOB wrapped under the secret it holds (R368, FIPS 203). -/
opaque jobWrap : BitVec 64 → Nat → List Byte

end Sys2Proof.Config
end

