-- ==== Sys2Proof/Machine/State.lean ====
section
/-! DEFINITION. The state of the module as plain data: every register, queue, buffer, counter, mode and pin the spec
gives it, grouped by subsystem, and the queue of commands that wait. `State.reset` is the state at a cold reset. -/
namespace Sys2Proof.Machine

/-- Why a step stops. No rule of the spec ends a command of this block in a stop that keeps no state: every misuse has an
outcome in State (R4). The one fault is raised by no meaning of the present table; it stands for an access of the model
itself to an address the spec says does not exist, after every check of R119, R333 and R337 has passed. Safe. -/
inductive Fault where
  /-- An address outside the module's memory reached the memory operations. Raised by nobody: the checks precede. Safe. -/
  | noSuchAddress (addr : Nat)
  deriving DecidableEq, Repr

/-- Why a command has no meaning here. -/
inductive Refusal where
  /-- Raised by an arm of `exec` whose command has no meaning yet. Safe. -/
  | notModelled (mnemonic : String)
  /-- Raised by TAP_PRIVATE_INSTRUCTION while its scope is open: R375 names memory self-test, the analogue monitors, the
  debug module and the scan chains, and the spec does not say what they do. Safe: the model stops where the part goes on. -/
  | privateTapScopeOpen
  deriving DecidableEq, Repr

/-- A sparse memory: addresses strictly rising, no entry equal to what an unlisted address holds. -/
abbrev Memory := List Host.Cell

/-! ### Strokes (R40 to R57) -/

inductive StrokeState where
  | unlocked | locked | holdover | lost | rejoining
  deriving DecidableEq, Repr, Inhabited

/-- What the module knows of one stroke source: the pair, or the marks of one link (R44, R47, R48). -/
structure SourceMon where
  /-- consecutive valid frames, or consecutive accepted marks -/
  run      : Nat
  /-- the number last announced by a frame or mark -/
  last     : Word
  /-- the source is locked, or monitored as ready -/
  locked   : Bool
  /-- the source's stroke number at the present stroke, while locked -/
  number   : Word
  /-- consecutive frames that are invalid or disagree with the count, while it is the active source (R49) -/
  bad      : Nat
  /-- strokes since its last frame or mark: how the monitor of R48 sees a fallback stop (log 85) -/
  quiet    : Nat
  hops     : BitVec 4
  /-- offset of its edge from the module's held edge (R50) -/
  phaseNs  : Int
  deriving DecidableEq, Repr, Inhabited

structure TimeBase where
  stroke    : Word
  ticks     : Word
  localCount : Word
  state     : StrokeState
  /-- SOURCE encoding; 7 none -/
  active    : BitVec 3
  hops      : BitVec 4
  holdover  : BitVec 20
  losses    : BitVec 16
  /-- the last stroke number counted while LOCKED (R50) -/
  lastLocked : Word
  /-- the source's own number while REJOINING -/
  rejoin    : Word
  /-- phase still to be slewed after a switch, at most 1 ns per stroke (R50) -/
  slewNs    : Int
  /-- the number the count stood at before it was set at the present stroke (R433) -/
  jumpFrom  : Option Word
  /-- sources, indexed as SOURCE: 0 the pair, 1 to 6 the links' marks -/
  mon       : Vector SourceMon 7
  deriving DecidableEq, Repr

/-! ### Platen (R384 to R396) and reset status (R410) -/

inductive Thermal where
  | normal | warm | hold | trip
  deriving DecidableEq, Repr, Inhabited

/-- One forme's energy account: closed buckets of 1,000 ticks, newest first, at most 4,000, and the open one, in
femtojoules (R387, R388). -/
structure Account where
  buckets : List Nat
  current : Nat
  held    : BitVec 32
  deriving DecidableEq, Repr, Inhabited

structure Platen where
  junctions : Vector (BitVec 8) 10
  inlet     : BitVec 8
  outlet    : BitVec 8
  thermal   : Thermal
  /-- dies in thermal HOLD, 0 to 7 press, 8 and 9 hub -/
  hot       : BitVec 10
  input10mV : BitVec 16
  low       : Bool
  trip      : Code
  account   : Vector Account 16
  /-- measured input power of the last intervals, newest first, at most 4,000 -/
  measured  : List Nat
  /-- the tick at which the last interval of 1,000 ticks ended -/
  lastClose : Word
  lastMs    : BitVec 16
  overCap   : Bool
  limit     : Bool
  above     : BitVec 8
  limits    : BitVec 16
  deriving DecidableEq, Repr

/-- What holds the module's power (R386, R393, R399). -/
inductive PowerState where
  /-- no input: the always-on rail is down -/
  | absent
  /-- the always-on rail is up and platen runs; no other rail -/
  | standby
  /-- removed by the reset input, held off until its release -/
  | resetHeld
  /-- removed by a supply fault -/
  | supplyFault
  /-- removed by a trip -/
  | tripped
  /-- removed by a trip, and the reset input has been released since (R399) -/
  | releaseWaits
  /-- the module-reset steps may run or have run -/
  | on
  deriving DecidableEq, Repr, Inhabited

structure Boot where
  power    : PowerState
  /-- the level of PLATEN_RST_N -/
  rstHigh  : Bool
  /-- the state of PLATEN_PWRGD (R399) -/
  pwrgd    : Bool
  /-- platen firmware runs: I3C answers (R423) -/
  platenUp : Bool
  cause    : BitVec 3
  phase    : BitVec 4
  copies   : BitVec 4
  code     : Code
  resets   : BitVec 16
  ready    : Bool
  (measPlaten measLoader measColophon measCompositor : BitVec 512)
  deriving DecidableEq, Repr

/-! ### Fuses and boot flash (R358, R401, R403) -/

structure HashSlot where
  hash       : BitVec 256
  programmed : Bool
  revoked    : Bool
  deriving DecidableEq, Repr, Inhabited

structure Fuses where
  /-- IDENTITY_SEED, never readable, and MFG_ROOT_HASH -/
  (identitySeed mfgRootHash : BitVec 256)
  stepping : BitVec 8
  /-- the rule bits in the order of COLO_FUSE_RULES [5:0] -/
  rules    : BitVec 6
  /-- bits blown of FR_SVN_MIN -/
  svnMin   : Nat
  signer   : Vector HashSlot 4
  operator : Vector HashSlot 4
  deriving DecidableEq, Repr

/-- One copy of a firmware image: its security version, the verdict on its signature, its measurement. -/
structure FwCopy where
  svn     : BitVec 32
  sigOk   : Bool
  measure : BitVec 512
  deriving DecidableEq, Repr, Inhabited

structure FwImage where
  a : FwCopy
  b : FwCopy
  deriving DecidableEq, Repr, Inhabited

structure JournalRec where
  number   : Nat
  hash     : BitVec 512
  newHash  : Option (BitVec 512)
  seq      : Word
  newSeq   : Option Word
  named    : BitVec 16
  phase    : BitVec 3
  withheld : BitVec 16
  /-- the slot of the committed image; none before the first commit -/
  slot     : Option (Fin 2)
  /-- the record's SHAKE256 check holds; a torn record's does not -/
  intact   : Bool
  deriving DecidableEq, Repr, Inhabited

structure Flash where
  (platen loader colophon compositor : FwImage)
  /-- the certificate's public key equals the derived one, and its signature verifies under a key of MFG_ROOT_HASH (R363) -/
  (certKeyOk certSigOk : Bool)
  slots    : Vector (Option SignedImage) 2
  /-- the records written, oldest first -/
  journal  : List JournalRec
  /-- channels in the order they were mapped out (R148) -/
  mapOut   : List ChannelId
  deriving DecidableEq, Repr

/-! ### The imposition, parsed (R29, R30); records stay raw words so that R36 can compare them bit for bit -/

structure Region where
  base : Nat
  len  : Nat
  deriving DecidableEq, Repr, Inhabited

structure Imposition where
  sequence   : Word
  svnMin     : BitVec 32
  formeCount : Nat
  debugScopes : BitVec 8
  flags      : BitVec 16
  named      : BitVec 16
  /-- FORME records: words 0 and 1 -/
  formes     : List (Word × Word)
  memory     : List Word
  port       : List Word
  link       : List (Word × Word)
  share      : List Word
  power      : List Word
  stroke     : List Word
  /-- the heads of the POWER and STROKE sections, low word first -/
  powerHead  : Word × Word
  strokeHead : Word × Word
  deriving DecidableEq, Repr, Inhabited

/-! ### Colophon (R33, R361 to R383) -/

/-- A live or full re-imposition in progress (R37, R405). -/
structure Reimp where
  image   : SignedImage
  imp     : Imposition
  hash    : BitVec 512
  full    : Bool
  named   : BitVec 16
  done    : BitVec 16
  abandoned : BitVec 16
  deriving DecidableEq, Repr

/-- An opening of the quoin in progress (R379). -/
structure Opening where
  scope   : BitVec 3
  port    : PortId
  tag     : BitVec 16
  domainsOff : Bool
  offSince : Word
  deriving DecidableEq, Repr

structure Scrub where
  active   : Bool
  cause    : BitVec 3
  forme    : BitVec 4
  gibDone  : BitVec 16
  gibTotal : BitVec 16
  deriving DecidableEq, Repr, Inhabited

structure Colophon where
  fwSvn     : BitVec 32
  identityUp : Bool
  /-- entropy failed: management and attestation exchanges only (R364) -/
  mgmtOnly  : Bool
  kHeld     : Option Nat
  kShared   : Option Nat
  kDom      : Vector (Option Nat) 16
  committed : Option Imposition
  seq       : Word
  hash      : BitVec 512
  withheld  : BitVec 16
  code      : Code
  formeNo   : BitVec 4
  secType  : BitVec 8
  phase     : BitVec 3
  /-- the exchange that waits for its fetch or its commit: port and TAG -/
  requester : Option (PortId × BitVec 16)
  reimp     : Option Reimp
  named     : BitVec 16
  done      : BitVec 16
  abandoned : BitVec 16
  scopes    : BitVec 3
  /-- the draw number of the valid nonce and the tick it was issued at (R376) -/
  nonce     : Option (Nat × Word)
  opening   : Option Opening
  quoinCode : Code
  scrub     : Scrub
  /-- REPORT exchanges that wait for the end of an opening (R383), with the write's outcome and the words named -/
  heldReports : List (PortId × List Word × Option EcpStatus)
  /-- job offers that came before this module's own JOB_OPEN (R368) -/
  offers    : List JobKeyMsg
  deriving DecidableEq, Repr

/-! ### Mailboxes (R351 to R355) -/

structure Mbox where
  inData  : Vector Word 16
  full    : Bool
  outData : Vector Word 16
  valid   : Bool
  evtEn   : Bool
  /-- a message the receiver has copied out and not yet acted on -/
  taken   : Option (Vector Word 16)
  /-- responses that wait for the outbound direction -/
  waiting : List (Vector Word 16)
  deriving DecidableEq, Repr

/-! ### Host ports (R331 to R350) -/

/-- What an outstanding DRD, DRD_S or DWR is for (R350). -/
inductive EcpUse where
  | ringEntry (f : FormeId) (r : RingId)
  | matterImage (f : FormeId) (r : RingId) (seq : Seq)
  | slugRead (f : FormeId) (tag : SlugTag)
  | slugWrite (f : FormeId) (tag : SlugTag)
  | spillMap (f : FormeId) (page : Nat)
  | sheetRead (f : FormeId) (page : Nat)
  | sheetWrite (f : FormeId) (page : Nat)
  | inkHeader (f : FormeId)
  | inkChunk (f : FormeId)
  | inkRefetch (f : FormeId) (b : BindingId) (chunk : Nat)
  | record (f : FormeId) (r : RingId) (seq : Seq)
  | result (f : FormeId) (r : RingId) (seq : Seq)
  | imposition
  | colophon
  deriving DecidableEq, Repr, Inhabited

structure EcpReq where
  tag    : BitVec 12
  fn     : FnId
  use    : EcpUse
  addr   : HostAddr
  write  : Bool
  /-- a coherent copy is to be kept: a DRD_S whose page has not been invalidated since (R344, R347) -/
  keep   : Bool
  issued : Word
  /-- the spill-map entry it reads was withdrawn since: it is read again (R340) -/
  again  : Bool
  /-- the page of a forme's spill range that it reaches, and whether the page was withdrawn since (R340) -/
  page      : Option (FormeId × Nat)
  withdrawn : Bool
  deriving DecidableEq, Repr, Inhabited

structure Port where
  /-- LINK: 0 down, 1 training, 2 up at 16 lanes, 3 up at 8 lanes -/
  link      : BitVec 3
  /-- lanes without a failure -/
  goodLanes : BitVec 16
  /-- the tick at which training began or ended without a link (R341) -/
  since     : Word
  nextTag   : BitVec 12
  reqs      : List EcpReq
  /-- 4 KiB host pages of which the module holds a coherent copy (R346) -/
  copies    : List (FormeId × BitVec 40)
  txSeq     : BitVec 10
  unacked   : List (BitVec 10)
  rxExpect  : BitVec 10
  nakSent   : Bool
  /-- credit toward the companion by class P, NP, C, S, in 16-byte units (R345) -/
  credits   : Vector Nat 4
  /-- packet units of each class that wait for credit, and bytes that have it and wait for a flit (R342, R345) -/
  waiting   : Vector Nat 4
  backlog   : Nat
  /-- register reads that wait for requests to withdrawn spill pages: forme, request, offset, size (R340) -/
  heldReads : List (FormeId × HostReq × BitVec 20 × Nat)
  evtEnable : Bool
  evtAddr   : BitVec 50
  evtData   : BitVec 16
  mbox      : Mbox
  deriving DecidableEq, Repr

/-! ### Aczia links and jobs (R302 to R330) -/

inductive LinkState where
  | down | training | up | retraining | lost | refused
  deriving DecidableEq, Repr, Inhabited

structure Link where
  state    : LinkState
  /-- working lane groups, bit g for lanes 4g to 4g + 3 -/
  groups   : BitVec 4
  /-- a training that ends at 16 lanes is in progress on a link that was up: RETRAIN (R306, R328) -/
  wider    : Bool
  peer     : BitVec 12
  loopPs   : BitVec 24
  degrades : BitVec 16
  disable  : Bool
  txSeq    : BitVec 12
  /-- the replay buffer: data flits not yet acknowledged, oldest first (R308) -/
  replay   : List (BitVec 12 × List Packet)
  /-- packets that wait for credit, replay space or a route -/
  queue    : List Packet
  rxExpect : BitVec 12
  nakSent  : Bool
  /-- resends of the oldest unacknowledged flit (R311) -/
  resends  : Nat
  /-- the tick at which training began, or failed (R306) -/
  since    : Word
  /-- credits toward the peer, VC 0 class 0, VC 0 class 1, … VC 3 class 1, in 64-byte units -/
  credits  : Vector Nat 8
  deriving DecidableEq, Repr

/-- Per source of a job: the delivery state of R318. -/
structure Reorder where
  src     : BitVec 12
  next    : BitVec 32
  window  : List Packet
  deriving DecidableEq, Repr, Inhabited

/-- A collective in progress at this member (R322 to R327). -/
structure Coll where
  tag     : SlugTag
  k       : Nat
  op      : Word
  elements : Nat
  joinAt  : Word
  /-- the occurrence's stroke number -/
  stroke  : Word
  digest  : BitVec 128
  joined  : List Nat
  input   : List (BitVec 32)
  /-- values this member adds in a phase, by phase and element (R325) -/
  vals    : List (Nat × Nat × BitVec 32)
  /-- data packets of a phase the member has not reached -/
  held    : List PacketBody
  /-- output elements received or computed so far: index and value -/
  output  : List (Nat × BitVec 32)
  sat     : Bool
  /-- axis and half that run on the other link (R327) -/
  flips   : List (Nat × Nat)
  moving  : Bool
  deriving DecidableEq, Repr, Inhabited

structure Job where
  jobId   : Word
  (x0 nxj y0 nyj : Nat)
  podMask : BitVec 16
  /-- word 2 and word 3 of the JOB_OPEN request, which every member must have given alike -/
  (w2 w3 : Word)
  isOpen  : Bool
  /-- K_JOB is held (R316) -/
  keyed   : Bool
  /-- TAG of the JOB_OPEN exchange that waits, and the tick of the request -/
  waiting : Option (BitVec 16)
  since   : Word
  offers  : List (BitVec 16)
  pktNum  : Word
  /-- next DSEQ by destination -/
  dseq    : List (BitVec 12 × BitVec 32)
  rx      : List Reorder
  /-- the window of this job now open: table entry's stroke, close stroke, JOIN_STROKES, MAX_COLL, collectives begun -/
  window  : Option (Word × Word × Nat × Nat × Nat)
  coll    : Option Coll
  /-- JOINs received for the present occurrence before the member's own: member, k, stroke, digest -/
  early   : List (Nat × Nat × Word × BitVec 128)
  deriving DecidableEq, Repr, Inhabited

/-! ### Standing matter, launches and rings (R241 to R264) -/

structure TensorRec where
  handle   : BitVec 32
  format   : BitVec 8
  cls      : Nat
  scaleSeq : Bool
  pin      : Bool
  isLocal  : Bool
  binding  : BindingId
  qdesc    : Nat
  rows     : Nat
  cols     : Nat
  uses     : BitVec 32
  offset   : Word
  deriving DecidableEq, Repr, Inhabited

structure SlugRec where
  ctrl    : Word
  firstOp : Nat
  opCount : Nat
  deriving DecidableEq, Repr, Inhabited

/-- An op record: its eight words (R259, R288, R289, R322). -/
structure OpRec where
  w : Vector Word 8
  deriving DecidableEq, Repr

structure Version where
  number   : BitVec 32
  length   : Nat
  entry    : Nat
  frame    : Nat
  explicitNeed : Nat
  binding  : BindingId
  tensors  : List TensorRec
  slugs    : List SlugRec
  ops      : List OpRec
  image    : Blob
  /-- the tick of the entry's completion: visible to every ring from the next stroke (R260) -/
  since    : Word
  deriving DecidableEq, Repr

structure Matter where
  id       : BitVec 32
  /-- the newest version's number; none after FREE -/
  newest   : Option (BitVec 32)
  versions : List Version
  deriving DecidableEq, Repr

structure Record where
  seq     : Seq
  status  : Code
  flags   : BitVec 3
  version : BitVec 32
  elapsed : Word
  matter  : BitVec 32
  ctx     : BitVec 16
  passed  : BitVec 16
  result  : List Byte
  deriving DecidableEq, Repr, Inhabited

/-- What a fetched entry that has not completed is doing. -/
inductive EntryPhase where
  /-- held under R250 -/
  | held
  /-- a STORE or PATCH whose image is being read -/
  | reading
  /-- a STORE or PATCH that waits for versions to be freed (R261) -/
  | waiting
  /-- an admitted launch -/
  | running
  /-- complete; its result lines or record are being written or are held -/
  | writing
  deriving DecidableEq, Repr, Inhabited

/-- A fetched entry in flight: a launch, or an entry of another opcode that has not completed (R250, R255). -/
structure Launch where
  ring    : RingId
  seq     : Seq
  entry   : RingEntry
  phase   : EntryPhase
  fetched : Word
  /-- the tick at which an accepted doorbell first covered the entry (R257) -/
  timer   : Word
  version : BitVec 32
  /-- order of admission in the forme, for R265 -/
  order   : Nat
  /-- the launch's frame on the compositor: its bytes as written (R262) -/
  frame   : Memory
  passed  : BitVec 16
  flags   : BitVec 3
  /-- the first slug fault: tick and code (R413) -/
  fault   : Option (Word × Code)
  /-- a status of R413 rank 1 to 5, or of a launch that completes without running -/
  imposedStatus : Option Code
  ended   : Option Code
  result  : List Byte
  /-- prefill: first position and length of the chunk described by the present chunk word; the last chunk was cut -/
  chunkFirst : Nat
  chunkLen   : Nat
  chunkLast  : Bool
  chunkSlugs : List SlugTag
  cutDone    : Bool
  /-- the match M of R174, in runs -/
  matched : Nat
  /-- NORM2_PREV as read when the launch's first update slug was issued (R211) -/
  norm2   : Option (BitVec 32)
  /-- descriptors whose powers this step has multiplied: address, the slug that did, P1 and P2 (R210) -/
  powers  : List (BitVec 56 × SlugTag × BitVec 32 × BitVec 32)
  /-- the image of a STORE or PATCH that waits for room (R261) -/
  image   : Option Version
  record  : Option Record
  deriving DecidableEq, Repr

structure Ring where
  base    : Word
  cpl     : Word
  depth   : BitVec 4
  enable  : Bool
  intrEn  : Bool
  tail    : Seq
  head    : Seq
  done    : Seq
  fault   : Code
  state   : BitVec 3
  bellErr : Bool
  /-- ENABLE was written 0 while STATE was 2 (R244) -/
  disableMemo : Bool
  /-- the read of the next entry is outstanding -/
  fetching : Bool
  /-- accepted doorbells not yet wholly fetched: TAIL value and tick, oldest first -/
  bells   : List (Seq × Word)
  /-- records held in the holding area (R253) -/
  held    : List Record
  /-- launches whose result line faulted and is held -/
  heldResults : List Seq
  /-- sequence numbers at or above SEQ whose record is written -/
  written : List Seq
  /-- an entry read faulted at HEAD (R350) -/
  entryFault : Bool
  /-- DONE changed, or STATE entered 2, in this stroke (R254) -/
  evtDue  : Bool
  deriving DecidableEq, Repr, Inhabited

/-! ### Slugs (R179 to R199) -/

inductive SlugState where
  | queued | running | proved | passing | passed | discarding | discarded | failed
  deriving DecidableEq, Repr, Inhabited

/-- Where a descriptor set lies (R104, R107, R113): none, the set the inker wrote with an image copy, or a set that a calibration wrote at
an address of the forme's own space, with where it put the correction vector that stands for the one at each CORR. -/
inductive SetBase where
  | none
  | image (gen : Nat)
  | placed (addr : BitVec 56) (count : Nat) (corr : List (BitVec 56 × BitVec 56))
  deriving DecidableEq, Repr, Inhabited

/-- A write a slug holds back (R179). -/
inductive Proof where
  /-- a tensor's whole stored byte stream -/
  | tensor (handle : BitVec 32) (data : List Byte)
  | append (entry pos : Nat) (k v : List (BitVec 4))
  | stack (offset : Nat) (data : List Byte)
  | galley (addr : Nat) (data : List Byte)
  | host (addr : HostAddr) (data : List Byte)
  | spill (offset : Nat) (data : List Byte)
  | remote (dst : BitVec 12) (offset : BitVec 40) (data : List Byte)
  | pointer (b : BindingId) (set : SetBase)
  /-- an update's sum of squares for the job record at an address, and whether it closes the step (R211) -/
  | norm2 (job : BitVec 56) (sum : BitVec 32) (stepEnd : Bool)
  deriving DecidableEq, Repr, Inhabited

/-- The chunks of inked images a slug has read (R194): up to 64 ranges for each image, or FULL. -/
structure ReadRecord where
  ranges : List (BindingId × Nat × Nat)
  full   : List BindingId
  deriving DecidableEq, Repr, Inhabited

/-- What a seal keeps (R197): the op after the collective, the proofs, the slug-local tensors and the flags so far. -/
structure Seal where
  op     : Nat
  proofs : List Proof
  locals : List (BitVec 32 × List Byte)
  flags  : BitVec 3
  appended : Nat
  tokens : List Nat
  shown  : Option SetBase
  deriving DecidableEq, Repr, Inhabited

/-- What a slug waits for in the middle of its ops. -/
inductive SlugWait where
  | none | flag | window | collective | remote | matchCopy
  deriving DecidableEq, Repr, Inhabited

structure Slug where
  tag     : SlugTag
  ring    : RingId
  seq     : Seq
  ctx     : BitVec 16
  index   : Nat
  matter  : BitVec 32
  version : BitVec 32
  proofKib : Nat
  speculative : Bool
  antecedent : Option SlugTag
  state   : SlugState
  /-- resolved to pass or to discard (R188) -/
  resolved : Option Bool
  runs    : Nat
  /-- it replays, counted or not, and has not completed a collective since (R197) -/
  replayed : Bool
  /-- captured at first issue (R87, R106): seed and the base of the descriptor set of the launch's binding -/
  seed    : Word
  set     : SetBase
  /-- the set that a calibration's op has presented to the ops that follow it (R112) -/
  shown   : Option SetBase
  /-- image generations of the bindings as captured: which copy each binding read (R234) -/
  images  : List Nat
  consts  : List Byte
  op      : Nat
  reserved : Bool
  inStep  : Bool
  /-- what the slug waits for -/
  wait    : SlugWait
  /-- the acquire that opens the slug has been satisfied (R291) -/
  acquired : Bool
  cores   : List CoreId
  /-- cores on which this run has had tiles, rows or element-wise work placed (R67) -/
  worked  : List CoreId
  flags   : BitVec 3
  proofs  : List Proof
  locals  : List (BitVec 32 × List Byte)
  /-- snapshots of sheets, by handle and index, kept until the slug ends (R132, R192) -/
  snaps   : List (BitVec 32 × Nat × List Byte)
  /-- drained rows that an update consumes, by the product's index in OPS, with whether a special value was met (R209) -/
  drains  : List (Nat × List (BitVec 32) × Bool)
  reads   : ReadRecord
  /-- the last seal (R197) -/
  sealed  : Option Seal
  /-- a detection held while a collective runs (R326) -/
  heldDetect : Option DetectKind
  sentColl : Bool
  /-- n', the committed length named at pass (R164) -/
  newLength : Nat
  appended : Nat
  /-- tokens absorbed at pass -/
  tokens  : List Nat
  matched : Nat
  /-- the records of the match, from run 0, and their forme (R174) -/
  hit     : Option (FormeId × List Nat)
  status  : Code
  /-- PASSING: the local proofs are in place and the remote stores have left (R181, R287) -/
  written : Bool
  /-- destinations of remote stores not yet acknowledged, and whether one is lost (R288, R321) -/
  remoteDue : List (BitVec 12)
  remoteLost : Bool
  /-- RELEASE ops whose wait has ended (R288) -/
  released : Nat
  /-- what reads of host, spill or remote space brought in: device address and bytes (R320, R350) -/
  fetched : List (BitVec 56 × List Byte)
  /-- reads of host, spill or remote space asked for: device address and bytes -/
  asked : List (BitVec 56 × Nat)
  /-- the ticks at which the last remote load and the last remote store left (R320, R321) -/
  (askedAt storesAt : Word)
  runStart : Word
  /-- core-ticks of the present run charged to its context in this share period (R274, R277) -/
  charge   : Nat
  deriving DecidableEq, Repr, Inhabited

/-! ### Contexts and leaves (R156 to R178, R265 to R284) -/

inductive CtxState where
  | resident | swappingOut | swapped | swappingIn
  deriving DecidableEq, Repr, Inhabited

/-- Where a swapped context's image is: pages of the forme's save-area share in the image's order, or a run of pages of its stack pool or
spill range (R282). -/
inductive ImageAt where
  | save (pages : List Nat)
  | pool (page : Nat)
  | spill (page : Nat)
  deriving DecidableEq, Repr, Inhabited

structure LeafEntry where
  valid : Bool
  spill : Bool
  page  : BitVec 32
  deriving DecidableEq, Repr, Inhabited

/-- A run record (R161), named by a serial number in place of its offset ÷ 64. -/
structure RunRec where
  id      : Nat
  hash    : BitVec 256
  prev    : Option Nat
  run     : Nat
  owner   : BitVec 16
  refs    : Nat
  fill    : Nat
  lg      : Nat
  full    : Bool
  indexed : Bool
  bad     : Bool
  /-- copies of another forme's that are being read from it (R174) -/
  holds   : Nat
  leaves  : List LeafEntry
  deriving DecidableEq, Repr, Inhabited

/-- Where a plan puts one sheet (R123, R135). -/
inductive Home where
  | galley (core : CoreId) (page : Nat)
  | stackPage (page : Nat)
  | spillPage (page : Nat)
  /-- a page of a shared image, in the inker's area (R231) -/
  | sharedPage (page : Nat)
  deriving DecidableEq, Repr, Inhabited

structure PlanRec where
  sheet : SheetId
  cls   : Nat
  pages : Nat
  /-- the core whose slugs it is for (R123) -/
  core  : CoreId
  home  : Home
  /-- a copy's first page of the forme's stack space, watched under R130 -/
  src   : Option Nat
  /-- a copy's first page of the spill range, coherent under R131 -/
  spill : Option Nat
  /-- read at most once a step: staged with the discard hint (R127) -/
  once  : Bool
  deriving DecidableEq, Repr, Inhabited

structure Context where
  num      : BitVec 16
  state    : CtxState
  weight   : Nat
  batch    : Bool
  deficit  : Int
  charges  : Nat
  active   : Bool
  length   : Nat
  coreOrigin : Nat
  lg       : Nat
  /-- the directory: run records by run number, and whether another context owns them (R160) -/
  dir      : List (Nat × Bool)
  /-- the chain hash of the last full run, and the tokens of the open run (HASH_STATE) -/
  chain    : BitVec 256
  openTokens : List Nat
  /-- shape of the current or most recent launch, and its matter and version (R123) -/
  shape    : Nat × Nat
  matter   : BitVec 32
  version  : BitVec 32
  creator  : Option (RingId × Seq)
  releasing : Option Nat
  /-- boundaries for which a token launch has been runnable (R277) -/
  ready    : Nat
  /-- the ring of its most recent launch (R279) -/
  ring     : RingId
  /-- swapped: pages of its image, where they are, and the order of its swap (R281, R282) -/
  image    : Nat
  imageAt  : ImageAt
  swapNo   : Nat
  /-- while not in the key: the sheets of its image in the image's order, and its class 2 and 3 sheets that stay at homes outside galley -/
  (saved outside : List PlanRec)
  deriving DecidableEq, Repr, Inhabited

/-! ### Make-up, scheduler, make-ready (R51 to R56, R116 to R136, R265 to R284) -/

/-- A sheet staged on a core (R127): the first stack page its copy watches, or the first spill page it was read from with the bytes
read; a snapshot watches nothing (R132). -/
structure Staged where
  core  : CoreId
  sheet : SheetId
  src   : Option Nat
  spill : Option Nat
  data  : List Byte
  deriving DecidableEq, Repr, Inhabited

/-- What the key holds of one context: its matter and version, its sequences and rounded positions, the switches of the bindings it
reads (R234), and the owner and number of each shared run (R175). -/
structure KeyCtx where
  ctx       : BitVec 16
  matter    : BitVec 32
  version   : BitVec 32
  sequences : Nat
  positions : Nat
  switches  : Nat
  sharing   : List (BitVec 16 × Nat)
  deriving DecidableEq, Repr, Inhabited

structure PlanKey where
  octets  : BitVec 16
  fenced  : BitVec 128
  tune    : Word
  ctxs    : List KeyCtx
  deriving DecidableEq, Repr, Inhabited

structure Makeup where
  reserve  : Nat
  runahead : Nat
  shapeLog : Nat
  explicitMib : Nat
  explicitDue : Bool
  code     : Code
  explicitActive : Nat
  plans    : BitVec 32
  digest   : Word
  key      : Option PlanKey
  plan     : List PlanRec
  /-- the launch that made the new key -/
  keyMaker : Option (RingId × Seq)
  /-- staged sheets -/
  staged   : List Staged
  /-- galley copies that await a fetch: new in the plan, or invalidated (R126, R130) -/
  stale    : List SheetId
  /-- pages of the spill range that reads of the make-up engine or of a swap have brought in, by page -/
  arrived  : List (Nat × List Byte)
  /-- cores whose run-ahead has met a page outside the mapped set in this step (R128) -/
  halted   : List CoreId
  deriving DecidableEq, Repr

structure MrtEntry where
  w0 : Word
  w1 : Word
  w2 : Word
  w3 : Word
  deriving DecidableEq, Repr, Inhabited

/-- A window now open (R51, R53): the entry's index and words, and the stroke at which it ends. -/
structure OpenWindow where
  entry  : Nat
  words  : MrtEntry
  opened : Word
  last   : Word
  deriving DecidableEq, Repr, Inhabited

structure Mrt where
  addr     : BitVec 51
  activate : Word
  count    : BitVec 9
  code     : Code
  entry    : BitVec 8
  state    : BitVec 2
  /-- ADDR, COUNT and STROKE as sampled at the GO being copied -/
  sampled  : Option (BitVec 51 × BitVec 9 × Word)
  armed    : Option (List MrtEntry × Word)
  table    : List MrtEntry
  windows  : List OpenWindow
  deriving DecidableEq, Repr

structure Swap where
  /-- SWAP_STATE (R281, R282) -/
  state    : BitVec 3
  incoming : Option (BitVec 16)
  victim   : Option (BitVec 16)
  /-- pages of the victim's image not yet copied: page of the image, core, core-local galley page -/
  toCopy   : List (Nat × CoreId × Nat)
  /-- pages of it in the swap slices: page of the image, core, core-local galley page -/
  slice    : List (Nat × CoreId × Nat)
  incomingIn : Bool
  deriving DecidableEq, Repr, Inhabited

structure Sched where
  ctxTable : BitVec 53
  /-- SCHED_TUNE and SCHED_MIX as they read; their fields take effect at the next step boundary (R283) -/
  (tuneReg mixReg : Word)
  (residentMax swapHorizon : Nat)
  preempt  : Bool
  /-- the SHARE_PERIOD in force, which a change replaces at the next period -/
  periodInForce : Nat
  periodStart : Word
  (chunkLog prefillEighths rowsMax chunksMax : Nat)
  code     : Code
  coreTicks : Word
  steps    : BitVec 32
  missed   : BitVec 32
  stepOn   : Bool
  /-- tick and count of the last step boundary: one falls in a stroke (R270) -/
  lastBoundary : Option (Word × Word)
  /-- tick at which the last step ended (R54) -/
  stepEnd  : Option Word
  /-- slugs that a fence discarded and that make up the next step, in issue order (R193) -/
  replay   : List SlugTag
  swap     : Swap
  swaps    : Nat
  deriving DecidableEq, Repr

/-! ### Inker (R222 to R240) -/

/-- One tensor of a weight image's content directory (R223, R259). -/
structure ImageTensor where
  handle : Nat
  format : BitVec 8
  rows   : Nat
  cols   : Nat
  offset : Nat
  qdesc  : Nat
  deriving DecidableEq, Repr, Inhabited

/-- A quantisation descriptor, two words (R104). -/
structure QDesc where
  w0  : Word
  w1  : Word
  deriving DecidableEq, Repr, Inhabited

/-- The content directory of chunk 0, decrypted (R223): the four parts it locates, as offset and length in the plaintext. -/
structure ImageDir where
  tensors     : List ImageTensor
  descriptors : List QDesc
  parts       : List (Nat × Nat)
  deriving DecidableEq, Repr, Inhabited

structure ImageCopy where
  /-- serial number of the copy: which copy a slug reads (R234) -/
  gen     : Nat
  imageId : BitVec 256
  chunks  : Nat
  tiles   : Nat
  base    : Nat
  pages   : Nat
  source  : HostAddr
  /-- the image key (R226), and the header's NONCE -/
  key     : List Byte
  nonce   : Word
  dir     : ImageDir
  /-- the reference exponent of each column of each tensor, by handle (R80) -/
  refs    : List (Nat × List Int)
  /-- plaintext of chunks that some sheet not yet written draws on -/
  plain   : List (Nat × List Byte)
  shareMask : BitVec 16
  shared  : Bool
  /-- chunks declared bad (R237) -/
  bad     : List Nat
  /-- bad chunks whose source is bad as well (R238) -/
  dead    : List Nat
  /-- chunks rewritten and not yet read clean (R238) -/
  fresh   : List Nat
  deriving DecidableEq, Repr, Inhabited

structure Binding where
  image   : Option ImageCopy
  /-- an attached shared image: inking forme and its binding (R231) -/
  attached : Option (FormeId × BindingId)
  /-- the copy an attached binding reads, by serial number; 0 none -/
  attachedGen : Nat
  /-- copies of attachments that DETACH has emptied and that end with their last slug (R236) -/
  ending  : List Nat
  /-- old copies whose pages await release (R234, R236) -/
  old     : List ImageCopy
  /-- the attachment that ends when its last slug has (R236) -/
  detaching : Option (BitVec 16)
  /-- the descriptor-set pointer (R107), and the hash of the set that enters B of R171 -/
  set     : SetBase
  bHash   : BitVec 256
  switches : Nat
  deriving DecidableEq, Repr, Inhabited

structure InkReq where
  binding : BindingId
  mode    : BitVec 2
  base    : Nat
  source  : HostAddr
  shareMask : BitVec 16
  tag     : BitVec 16
  /-- none until the header is accepted -/
  copy    : Option ImageCopy
  /-- the old copy was dropped (R235) -/
  dropped : Bool
  deriving DecidableEq, Repr

structure Inker where
  code     : Code
  state    : BitVec 3
  binding  : BitVec 3
  done     : BitVec 32
  total    : BitVec 32
  req      : Option InkReq
  bindings : Vector Binding 8
  deriving DecidableEq, Repr

/-! ### A forme -/

/-- A forme's records in force, resolved (R30, R241, R256). -/
structure FormeCfg where
  octets     : BitVec 16
  compositor : CompId
  clientTag  : BitVec 16
  domain     : Fin 16
  (galleyMib proofMib swapMib : Nat)
  regions    : List Region
  port       : PortId
  fn         : Fin 16
  spillGib   : Nat
  linkMask   : BitVec 6
  (remoteLoad remoteStore collective : Bool)
  (remoteBase remoteCount maxJobs : Nat)
  (weight capShare : Nat)
  localTime  : Bool
  rings      : Nat
  /-- the run-record allotment, bytes (R159) -/
  allot      : Nat
  deriving DecidableEq, Repr, Inhabited

/-- The block of ECP function registers (R349, R408). -/
structure EcpFn where
  code      : Code
  aperture  : BitVec 8
  spillEn   : Bool
  spillAddr : BitVec 40
  evtEnable : Bool
  evtAddr   : BitVec 50
  evtData   : BitVec 16
  faultAddr : BitVec 52
  faultStat : BitVec 3
  /-- PHASE of ECP_FUNC_RESET (R407) -/
  phase     : BitVec 3
  totalMib  : BitVec 32
  /-- spill pages whose map entry is held, with the entry (R338) -/
  spillMap  : List (Nat × Word)
  deriving DecidableEq, Repr

structure Forme where
  cfg       : Option FormeCfg
  /-- keyed and not stopped: its window answers and its work may run -/
  live      : Bool
  kStack    : Option Nat
  inkKey    : Option Nat
  epoch     : BitVec 32
  /-- its domains are off and held discharged (R382), since this tick -/
  domainsOff : Bool
  offSince  : Word
  /-- drained under R37, or its service stopped under R235: rings read STATE 4 -/
  drained   : Bool
  stopped   : Bool
  geoGen    : BitVec 32
  /-- RINGS assigned at the commit that last assigned the forme; a withheld forme keeps them (R241) -/
  ringsHeld : Nat
  rings     : Vector Ring 64
  /-- the ring after which the next visit of R250 falls -/
  visit     : RingId
  matters   : List Matter
  launches  : List Launch
  admitted  : Nat
  slugs     : List Slug
  nextTag   : SlugTag
  slugCode  : Code
  replays   : BitVec 32
  checkCount : BitVec 32
  seed      : Word
  detects   : BitVec 32
  leafCode  : Code
  ctxs      : List Context
  runs      : List RunRec
  nextRun   : Nat
  makeup    : Makeup
  sched     : Sched
  mrt       : Mrt
  inker     : Inker
  jobs      : Vector (Option Job) 64
  collCode  : Code
  collCause : BitVec 3
  collSlot  : BitVec 6
  authFail  : BitVec 32
  ecp       : EcpFn
  mbox      : Mbox
  /-- remote-space sectors held in the forme's stone-cache set blocks: module, sector number, 64 bytes (R319) -/
  remoteLines : List (BitVec 12 × Nat × List Byte)
  deriving DecidableEq, Repr

/-! ### Cores, compositors, stack, test access -/

/-- One weight plane slot of an array: the bit of every cell, row by row, bit j of a row that of column j, and the counts that the
check-column cells of each row hold beside it, one for each group of 128 columns (R58, R64). -/
structure PlaneSlot where
  bits   : List (BitVec 1024)
  counts : List (List (BitVec 8))
  deriving DecidableEq, Repr, Inhabited

/-- An accumulator slot: its 64-bit value, whether it has saturated, after which it keeps its value, and its mod-3 residue (R60, R62,
R65). -/
structure AccSlot where
  v   : Int
  sat : Bool
  res : Nat
  deriving DecidableEq, Repr, Inhabited

/-- What an array and its loader hold (R58, R60, R70, R72, R78). -/
structure PressArray where
  /-- the 32 plane slots, two banks of 16: slot number and content; a slot not listed holds zeros -/
  planes   : List (Nat × PlaneSlot)
  /-- tiles kept resident: tensor handle, tile, first slot and planes (R72), and the slug that loaded them -/
  resident : List (BitVec 32 × Nat × Nat × Nat)
  owner    : Option (FormeId × SlugTag)
  /-- the row buffer: lanes of each row in flight, or the 1,024 per-column lanes of element-wise mode (R70, R73) -/
  rowBuf   : List (List Int)
  /-- the accumulator file: column, slot of 64, content -/
  acc      : List (Nat × Nat × AccSlot)
  /-- element-wise mode (R73, R74) -/
  elementWise : Bool
  deriving DecidableEq, Repr, Inhabited

structure Core where
  working : Bool
  fenced  : Bool
  /-- the slug run on the core before the present one ended in a check detection on it, and so has the present one (R67) -/
  (streak hit : Bool)
  /-- activity level, 0 to 8, and for how many press cycles it has stood, counted to 6 (R75) -/
  level   : Fin 9
  age     : Nat
  /-- press cycles of the present stroke already counted, and whether real work has run in it (R75, R387) -/
  used    : Nat
  ran     : Bool
  /-- a filler window holds the core at level 8 (R77) -/
  filler  : Bool
  holdGalley : Bool
  array   : PressArray
  deriving DecidableEq, Repr, Inhabited

structure Compositor where
  powered : Bool
  /-- ticks with no launch in flight and no message pending (R354) -/
  idle    : Nat
  deriving DecidableEq, Repr, Inhabited

/-- A failed map-out wrote every displaced line of its channel poisoned (R151): lines of the channel from `low` on, but for
those of the relocation area and the ranges of lines written whole or scrubbed since. -/
structure PoisonSet where
  channel : ChannelId
  low     : Nat
  /-- first line of the relocation area, which ends at GiB 952 -/
  limit   : Nat
  cleared : List (Nat × Nat)
  deriving DecidableEq, Repr, Inhabited

/-- A hint that a request to stack memory carries (R143). -/
inductive Hint where
  | normal | stream | keep | discard
  deriving DecidableEq, Repr, Inhabited

/-- What a way of the stone cache holds: a line of stack memory by its number, or a line of a module's remote space (R142, R319). -/
inductive StoneTag where
  | own (line : Nat)
  | remote (m : BitVec 12) (line : Nat)
  deriving DecidableEq, Repr, Inhabited

structure StoneWay where
  tag   : StoneTag
  keep  : Bool
  dirty : Bool
  deriving DecidableEq, Repr, Inhabited

/-- A set of a forme's set blocks in the stone cache of a hub die, its ways from the most recent to the least recent (R142, R143). -/
structure StoneSet where
  hub   : Fin 2
  owner : FormeId
  index : Nat
  ways  : List StoneWay
  deriving DecidableEq, Repr, Inhabited

structure Stack where
  mem      : Memory
  /-- the stone cache: sets that hold a line (R142) -/
  stone    : List StoneSet
  /-- line numbers of poisoned lines (R147) -/
  poisoned : List Nat
  /-- poison left by failed map-outs (R151) -/
  poisonSets : List PoisonSet
  /-- detections counted against a channel: line and stroke (R148) -/
  detects  : List (ChannelId × Nat × Word)
  /-- the migration in progress: its channel, and whether it is of the failed kind -/
  migrating : Option (ChannelId × Bool)
  /-- migrations that wait for the present one (R155) -/
  pendingMig : List (ChannelId × Bool)
  retired  : Bool
  /-- channels that were mapped out at boot: the first of the list (R20) -/
  bootOut  : Nat
  deriving DecidableEq, Repr

/-- An entry of the catchword index (R172): partition, entry number, owner forme, run record, tag. -/
structure IndexEntry where
  domain : Fin 16
  slot   : BitVec 18
  forme  : FormeId
  run    : Nat
  tag    : BitVec 16
  deriving DecidableEq, Repr, Inhabited

structure Tap where
  /-- held in reset by COLO_TRST_N (R420) -/
  inReset : Bool
  /-- the instruction in force: 0 BYPASS, 1 IDCODE, 2 SAMPLE/PRELOAD, 3 EXTEST -/
  ir      : Nat
  bypass  : Bool
  /-- the drive cells of I3C_SCL, I3C_SDA, RST_N, PWRGD and the observe cells of STROKE_P and STROKE_N -/
  cells   : Vector Bool 6
  deriving DecidableEq, Repr

structure I3c where
  offset  : Option (BitVec 16)
  addr    : Option (BitVec 7)
  deriving DecidableEq, Repr

/-- What leaves the module, in order. -/
inductive Output where
  | hcpl (p : PortId) (fn : FnId) (tag : BitVec 12) (st : EcpStatus) (data : List Byte)
  | evt (p : PortId) (addr : HostAddr) (source : BitVec 8) (data : BitVec 16)
  | drd (p : PortId) (fn : FnId) (tag : BitVec 12) (keep : Bool) (addr : HostAddr) (len : Nat)
  | dwr (p : PortId) (fn : FnId) (tag : BitVec 12) (addr : HostAddr) (data : List Byte)
  | snpAck (p : PortId) (page : BitVec 40)
  | mark (l : LinkId) (m : MarkFlit)
  | flit (l : LinkId) (seq : BitVec 12) (packets : List Packet)
  | linkNak (l : LinkId) (expect : BitVec 12)
  | linkAck (l : LinkId) (expect : BitVec 12) (credits : List Nat)
  | ecpNak (p : PortId) (expect : BitVec 10)
  | ecpAck (p : PortId) (expect : BitVec 10)
  | ecpResend (p : PortId) (seqs : List (BitVec 10))
  | wait (f : FormeId) (tag : SlugTag) (state : SlugState) (status : Code)
  | proof (f : FormeId) (tag : SlugTag) (data : List Byte)
  | issued (f : FormeId) (tag : SlugTag)
  | pwrgd (high : Bool)
  | i3c (data : List Byte)
  | i3cNack
  | tdo (bits : List Bool)
  | tapCells (cells : Vector Bool 6)
  deriving DecidableEq, Repr

/-- The whole module, and the commands that wait. -/
structure State where
  pending  : List Instr
  boot     : Boot
  fuses    : Fuses
  flash    : Flash
  time     : TimeBase
  platen   : Platen
  colo     : Colophon
  stack    : Stack
  /-- the galley of every core, core × 2^28 + byte (R116, R118) -/
  galley   : Memory
  formes   : Vector Forme 16
  cores    : Vector Core 128
  comps    : Vector Compositor 16
  ports    : Vector Port 4
  links    : Vector Link 6
  /-- ACZ_SELF: links may train once NX and NY are set (R303) -/
  selfReg  : Word
  /-- the catchword index (R172) -/
  index    : List IndexEntry
  /-- formes whose fetch found no pool slot free, in order (R256) -/
  poolQueue : List FormeId
  /-- shared images whose inking forme was reset while formes stay attached (R240) -/
  orphans  : List ImageCopy
  /-- engine deficits by forme for planning, matching and inking, in 2^-16 stroke (R276) -/
  engines  : Vector (Vector Int 16) 3
  tap      : Tap
  i3c      : I3c
  /-- the model's own memory of FIPS 204's verdicts: the signed bytes of each image presented, with the verdict it got (R31) -/
  verdicts : List (List (Nat × Byte) × Bool)
  /-- serial number of the next key, nonce or other draw of the entropy source -/
  draws    : Nat
  /-- the model's own counter of free values -/
  free     : Nat
  out      : List Output
  deriving DecidableEq, Repr

/-! ### Reset values -/

def Mbox.reset : Mbox :=
  { inData := Vector.replicate 16 0, full := false, outData := Vector.replicate 16 0, valid := false, evtEn := false,
    taken := none, waiting := [] }

def SourceMon.reset : SourceMon :=
  { run := 0, last := 0, locked := false, number := 0, bad := 0, quiet := 0, hops := 0, phaseNs := 0 }

/-- R40, R50, R57: counters 0, UNLOCKED, no source. -/
def TimeBase.reset : TimeBase :=
  { stroke := 0, ticks := 0, localCount := 0, state := .unlocked, active := 7, hops := 0, holdover := 0, losses := 0,
    lastLocked := 0, rejoin := 0, slewNs := 0, jumpFrom := none, mon := Vector.replicate 7 SourceMon.reset }

/-- R396. The readings before the first sample are DESIGN CHOICE values of the model (log 8). -/
def Platen.reset : Platen :=
  { junctions := Vector.replicate 10 0, inlet := 0, outlet := 0, thermal := .normal, hot := 0, input10mV := 0,
    low := false, trip := 0, account := Vector.replicate 16 { buckets := [], current := 0, held := 0 }, measured := [], lastClose := 0,
    lastMs := 0, overCap := false, limit := false, above := 0, limits := 0 }

/-- R410: PHASE 1 and CAUSE 0 at a cold reset. -/
def Boot.reset : Boot :=
  { power := .standby, rstHigh := true, pwrgd := false, platenUp := false, cause := 0, phase := 1, copies := 0, code := 0,
    resets := 0, ready := false, measPlaten := 0, measLoader := 0, measColophon := 0, measCompositor := 0 }

/-- An unowned part (R358, R361): the two manufacture rules blown, no slot programmed. -/
def Fuses.reset : Fuses :=
  { identitySeed := Config.identitySeed, mfgRootHash := Config.mfgRootHash, stepping := Config.stepping, rules := 0b000110, svnMin := 0,
    signer := Vector.replicate 4 { hash := 0, programmed := false, revoked := false },
    operator := Vector.replicate 4 { hash := 0, programmed := false, revoked := false } }

/-- Firmware as written at manufacture: both copies of image number `n` good (log 9). -/
def FwImage.reset (n : Nat) : FwImage :=
  { a := { svn := 0, sigOk := true, measure := Config.measurement n 0 },
    b := { svn := 0, sigOk := true, measure := Config.measurement n 1 } }

/-- Boot flash as shipped (R403): no journal record, no imposition, no channel mapped out. -/
def Flash.reset : Flash :=
  { platen := FwImage.reset 0, loader := FwImage.reset 1, colophon := FwImage.reset 2, compositor := FwImage.reset 3,
    certKeyOk := true, certSigOk := true, slots := Vector.replicate 2 none, journal := [], mapOut := [] }

/-- R33, R361: reset fields, and the committed values of a module with no committed imposition (R404). -/
def Colophon.reset : Colophon :=
  { fwSvn := 0, identityUp := false, mgmtOnly := false, kHeld := none, kShared := none, kDom := Vector.replicate 16 none,
    committed := none, seq := 0, hash := 0, withheld := 0, code := 0, formeNo := 0, secType := 0, phase := 0,
    requester := none, reimp := none, named := 0, done := 0, abandoned := 0, scopes := 0, nonce := none, opening := none,
    quoinCode := 0, scrub := { active := true, cause := 4, forme := 0, gibDone := 0, gibTotal := 1024 },
    heldReports := [], offers := [] }

def Port.reset : Port :=
  { link := 0, goodLanes := 0xFFFF, since := 0, nextTag := 0, reqs := [], copies := [], txSeq := 0, unacked := [],
    rxExpect := 0, nakSent := false, credits := Vector.replicate 4 0, waiting := Vector.replicate 4 0, backlog := 0,
    heldReads := [], evtEnable := false, evtAddr := 0, evtData := 0,
    mbox := Mbox.reset }

def Link.reset : Link :=
  { state := .down, groups := 0, wider := false, peer := 0, loopPs := 0, degrades := 0, disable := false, txSeq := 0, replay := [],
    queue := [], rxExpect := 0, nakSent := false, resends := 0, since := 0, credits := Vector.replicate 8 0 }

def Ring.reset : Ring :=
  { base := 0, cpl := 0, depth := 0, enable := false, intrEn := false, tail := 0, head := 0, done := 0, fault := 0,
    state := 0, bellErr := false, disableMemo := false, fetching := false, bells := [], held := [], heldResults := [],
    written := [], entryFault := false, evtDue := false }

/-- R134: RESERVE_PAGES 256, RUNAHEAD 8, SHAPE_LEAVES_LOG2 6, EXPLICIT_MIB 0. -/
def Makeup.reset : Makeup :=
  { reserve := 256, runahead := 8, shapeLog := 6, explicitMib := 0, explicitDue := false, code := 0, explicitActive := 0,
    plans := 0, digest := 0, key := none, plan := [], keyMaker := none, staged := [], stale := [], arrived := [], halted := [] }

def Mrt.reset : Mrt :=
  { addr := 0, activate := 0, count := 0, code := 0, entry := 0, state := 0, sampled := none, armed := none, table := [],
    windows := [] }

def Swap.reset : Swap :=
  { state := 0, incoming := none, victim := none, toCopy := [], slice := [], incomingIn := false }

/-- R283: SCHED_TUNE 64, 1,000, 0, 1,000 and SCHED_MIX 9, 4, 4,096, 8. -/
def Sched.reset : Sched :=
  { ctxTable := 0, tuneReg := 0x0003E80003E80040, mixReg := 0x0000000810000409, residentMax := 64, swapHorizon := 1000, preempt := false, periodInForce := 1000,
    periodStart := 0, chunkLog := 9, prefillEighths := 4, rowsMax := 4096, chunksMax := 8, code := 0, coreTicks := 0,
    steps := 0, missed := 0, stepOn := false, lastBoundary := none, stepEnd := none, replay := [], swap := Swap.reset, swaps := 0 }

def Binding.reset : Binding :=
  { image := none, attached := none, attachedGen := 0, ending := [], old := [], detaching := none, set := .none, bHash := 0, switches := 0 }

def Inker.reset : Inker :=
  { code := 0, state := 0, binding := 0, done := 0, total := 0, req := none, bindings := Vector.replicate 8 Binding.reset }

def EcpFn.reset : EcpFn :=
  { code := 0, aperture := 0, spillEn := false, spillAddr := 0, evtEnable := false, evtAddr := 0, evtData := 0,
    faultAddr := 0, faultStat := 0, phase := 0, totalMib := 0, spillMap := [] }

def Forme.reset : Forme :=
  { cfg := none, live := false, kStack := none, inkKey := none, epoch := 0, domainsOff := false, offSince := 0, drained := false,
    stopped := false, geoGen := 1, ringsHeld := 0, rings := Vector.replicate 64 Ring.reset, visit := 63, matters := [], launches := [],
    admitted := 0, slugs := [], nextTag := 0, slugCode := 0, replays := 0, checkCount := 0, seed := 0, detects := 0,
    leafCode := 0, ctxs := [], runs := [], nextRun := 0, makeup := Makeup.reset, sched := Sched.reset,
    mrt := Mrt.reset, inker := Inker.reset, jobs := Vector.replicate 64 none, collCode := 0, collCause := 0, collSlot := 0,
    authFail := 0, ecp := EcpFn.reset, mbox := Mbox.reset, remoteLines := [] }

/-- An array with every plane slot, count, accumulator slot, residue and the row buffer clear (R78). -/
def PressArray.clear : PressArray := { planes := [], resident := [], owner := none, rowBuf := [], acc := [], elementWise := false }

def Core.reset : Core :=
  { working := true, fenced := false, streak := false, hit := false, level := 0, age := 6, used := 0, ran := false, filler := false, holdGalley := false, array := .clear }

def Compositor.reset : Compositor := { powered := false, idle := 0 }

def Stack.reset : Stack :=
  { mem := [], stone := [], poisoned := [], poisonSets := [], detects := [], migrating := none, pendingMig := [],
    retired := false, bootOut := 0 }

def Tap.reset : Tap := { inReset := true, ir := 1, bypass := false, cells := Vector.replicate 6 false }

def I3c.reset : I3c := { offset := none, addr := none }

/-- The module at a cold reset: the always-on rail in regulation, no firmware run yet, a part as shipped. -/
def State.reset : State :=
  { pending := [], boot := Boot.reset, fuses := Fuses.reset, flash := Flash.reset, time := TimeBase.reset,
    platen := Platen.reset, colo := Colophon.reset, stack := Stack.reset, galley := [],
    formes := Vector.replicate 16 Forme.reset, cores := Vector.replicate 128 Core.reset,
    comps := Vector.replicate 16 Compositor.reset, ports := Vector.replicate 4 Port.reset,
    links := Vector.replicate 6 Link.reset, selfReg := 0, index := [], poolQueue := [], orphans := [],
    engines := Vector.replicate 3 (Vector.replicate 16 0), tap := Tap.reset, i3c := I3c.reset, verdicts := [], draws := 0, free := 0,
    out := [] }

end Sys2Proof.Machine
end

