-- ==== Sys2Proof/Machine/Stone.lean ====
section
/-! DEFINITION. Channels of stack memory, and the tags of the stone cache: which lines each forme's set blocks hold, in which order, and what
a request changes of that (R137, R138, R142, R143, R155). The cache is memory-side, so the bytes themselves are those of stack memory
(R144). -/
namespace Sys2Proof.Machine

/-! ### Channels (R137, R138) -/

/-- The channel of a slot-space address (R138). -/
def channelOf (a : Nat) : ChannelId :=
  let l := a / 256
  Fin.ofNat 256 ((l % 256) ^^^ (l / 256 % 256) ^^^ (l / 65536 % 256))

/-- The offset of a line on its channel (R138). -/
def channelOffset (l : Nat) : Nat := l / 256 % 2 ^ 24 * 256

/-- The stack a channel is in, and its number there (R137). -/
def stackOf (c : ChannelId) : Nat × Nat := (c.val / 32, c.val % 32)

/-- The hub die that serves a channel (R137). -/
def hubOf (c : ChannelId) : Fin 2 := if c.val < 128 then 0 else 1

/-! ### Ways of a set (R143), most recent first -/

/-- Ways of a set, and those of them that may hold keep lines. -/
def stoneAssoc : Nat := 16
/-- As `stoneAssoc`. -/
def keepLimit : Nat := 8

/-- Put a line at a place of the order; the least recent one beyond the ways of the set goes. -/
def placeWay (ws : List StoneWay) (i : Nat) (w : StoneWay) : List StoneWay := (ws.take i ++ w :: ws.drop i).take stoneAssoc

/-- A set that holds 8 keep lines: the least recent of them becomes a normal line. -/
def demoteKeep (ws : List StoneWay) : List StoneWay :=
  if (ws.filter (·.keep)).length < keepLimit then ws
  else (updFirst (fun w => w.keep) (fun w => { w with keep := false }) ws.reverse).reverse

/-- A miss: normal allocates at the least recent end of the middle half, stream not at all, keep and discard as the most recent. -/
def wayMiss (h : Hint) (write : Bool) (t : StoneTag) (ws : List StoneWay) : List StoneWay :=
  match h with
  | .normal => placeWay ws 11 { tag := t, keep := false, dirty := write }
  | .stream => ws
  | .keep => placeWay (demoteKeep ws) 0 { tag := t, keep := true, dirty := write }
  | .discard => placeWay ws 0 { tag := t, keep := false, dirty := write }

/-- A hit: stream changes no order; the last read under discard leaves nothing; otherwise the line becomes the most recent. -/
def wayHit (h : Hint) (write last : Bool) (w : StoneWay) (ws : List StoneWay) : List StoneWay :=
  let rest := ws.filter (·.tag != w.tag)
  match h with
  | .stream => updFirst (·.tag == w.tag) (fun v => { v with dirty := v.dirty || write }) ws
  | .discard => if last && !write then rest else { w with dirty := w.dirty || write } :: rest
  | .normal | .keep => { w with dirty := w.dirty || write } :: rest

/-- A request at a set; LAST acts with the discard hint alone (R155). -/
def wayAccess (h : Hint) (write last : Bool) (t : StoneTag) (ws : List StoneWay) : List StoneWay :=
  match ws.find? (·.tag == t) with
  | some w => wayHit h write last w ws
  | none => wayMiss h write t ws

/-! ### Sets (R142) -/

/-- The line number that picks a set and a hub die: of a line of stack memory its own, of a line of remote space that of its offset (log 93). -/
def StoneTag.number : StoneTag → Nat
  | .own l => l
  | .remote _ l => l

/-- A request of a forme with so many set blocks; a forme without blocks has no cache. -/
def stoneAccess (ss : List StoneSet) (f : FormeId) (blocks : Nat) (h : Hint) (write last : Bool) (t : StoneTag) : List StoneSet :=
  let i := t.number % (2048 * blocks)
  let hub := hubOf (channelOf (256 * t.number))
  if blocks = 0 then ss
  else match ss.find? (fun e => e.owner == f && e.hub == hub && e.index == i) with
    | some _ => updFirst (fun e => e.owner == f && e.hub == hub && e.index == i) (fun e => { e with ways := wayAccess h write last t e.ways }) ss
    | none => match wayAccess h write last t [] with
      | [] => ss
      | ws => ss ++ [{ hub := hub, owner := f, index := i, ways := ws }]

/-- A forme's set blocks hold a line. -/
def stoneHolds (ss : List StoneSet) (f : FormeId) (t : StoneTag) : Bool := ss.any (fun e => e.owner == f && e.ways.any (·.tag == t))

end Sys2Proof.Machine
end

