-- ==== Sys2Proof/Machine/Ops.lean ====
section
/-! DEFINITION. The named operations every family shares: memory, access to the parts of the state, the ports, the
mailboxes and the entropy source. -/
namespace Sys2Proof.Machine

/-- The outcome of a command. -/
abbrev Res := Host.Outcome State Fault Refusal

/-! ### Sparse memory -/

/-- The byte listed at an address, if any. -/
def memGet : Memory → Nat → Option Byte
  | [], _ => none
  | (a, b) :: m, x => if a = x then some b else memGet m x

/-- Remove the entry of an address. -/
def memErase : Memory → Nat → Memory
  | [], _ => []
  | (a, b) :: m, x => if a = x then m else (a, b) :: memErase m x

/-- Put an entry at its place in rising order. -/
def memInsert : Memory → Nat → Byte → Memory
  | [], x, v => [(x, v)]
  | (a, b) :: m, x, v =>
    if x < a then (x, v) :: (a, b) :: m else if x = a then (x, v) :: m else (a, b) :: memInsert m x v

/-- Write one byte; `dflt` is the byte an unlisted address holds, if it holds one. Writing it removes the entry. -/
def memPut (dflt : Option Byte) (m : Memory) (x : Nat) (v : Byte) : Memory :=
  if dflt = some v then memErase m x else memInsert m x v

/-- Write bytes at rising addresses. -/
def memPutAll (dflt : Option Byte) : Memory → Nat → List Byte → Memory
  | m, _, [] => m
  | m, x, v :: vs => memPutAll dflt (memPut dflt m x v) (x + 1) vs

/-- Drop every entry of a range. -/
def memClear (m : Memory) (base len : Nat) : Memory := m.filter (fun c => c.1 < base || base + len ≤ c.1)

/-- Every address of the memory is above `lo`, in strictly rising order, and no entry holds the unlisted byte. -/
def memWfFrom (dflt : Option Byte) : Nat → Memory → Bool
  | _, [] => true
  | lo, (a, b) :: m => decide (lo ≤ a) && decide (dflt ≠ some b) && memWfFrom dflt (a + 1) m

/-- The canonical form: strictly rising addresses, no entry equal to what an unlisted address holds. -/
def Memory.wf (dflt : Option Byte) (m : Memory) : Bool := memWfFrom dflt 0 m

/-- Galley that nothing has written holds zero (R382). -/
def galleyDefault : Option Byte := some 0

/-- A byte of a galley's explicit region (R118). -/
def galleyByte (m : Memory) (a : Nat) : Byte := (memGet m a).getD 0

/-- The bytes [a, a + n) of galley. -/
def galleyBytes (m : Memory) (a n : Nat) : List Byte := (List.range n).map (fun i => galleyByte m (a + i))

/-- The two halves of the XTS key of a serial number (R145). -/
def xtsKey (key : Nat) : List Byte × List Byte := (leBytes 32 (Config.entropy key).toNat, leBytes 32 (Config.entropyTweak key).toNat)

/-- The byte read at a slot-space address of a line that has only been scrubbed: the XTS decryption of zero (R153). -/
def scrubbedByte (key a : Nat) : Byte :=
  (xtsDecrypt (xtsKey key).1 (xtsKey key).2 (a / 256) (a % 256 / 16) (List.replicate 16 0)).getD (a % 16) 0

/-- A byte of stack memory at a slot-space address under the key in force: what was last written, or the decryption of a
scrubbed line (R153). A line that has only been scrubbed lists nothing. -/
def stackByte (m : Memory) (key a : Nat) : Byte := (memGet m a).getD (scrubbedByte key a)

/-- The bytes [a, a + n) of stack memory. -/
def stackBytes (m : Memory) (key a n : Nat) : List Byte := (List.range n).map (fun i => stackByte m key (a + i))

/-! ### Parts of the state -/

/-- A forme. -/
def State.forme (s : State) (f : FormeId) : Forme := s.formes[f.val]
/-- Put a forme back. -/
def State.setForme (s : State) (f : FormeId) (x : Forme) : State := { s with formes := s.formes.set f.val x f.isLt }
/-- Change a forme. -/
def State.modForme (s : State) (f : FormeId) (g : Forme → Forme) : State := s.setForme f (g (s.forme f))
/-- A ring of a forme. -/
def Forme.ring (x : Forme) (r : RingId) : Ring := x.rings[r.val]
/-- Put a ring back. -/
def Forme.setRing (x : Forme) (r : RingId) (y : Ring) : Forme := { x with rings := x.rings.set r.val y r.isLt }
/-- Change a ring of a forme. -/
def State.modRing (s : State) (f : FormeId) (r : RingId) (g : Ring → Ring) : State :=
  s.modForme f (fun x => x.setRing r (g (x.ring r)))
/-- A host port. -/
def State.port (s : State) (p : PortId) : Port := s.ports[p.val]
/-- Change a host port. -/
def State.modPort (s : State) (p : PortId) (g : Port → Port) : State :=
  { s with ports := s.ports.set p.val (g (s.port p)) p.isLt }
/-- A link. -/
def State.link (s : State) (l : LinkId) : Link := s.links[l.val]
/-- Change a link. -/
def State.modLink (s : State) (l : LinkId) (g : Link → Link) : State :=
  { s with links := s.links.set l.val (g (s.link l)) l.isLt }
/-- A press core. -/
def State.core (s : State) (c : CoreId) : Core := s.cores[c.val]
/-- Change a press core. -/
def State.modCore (s : State) (c : CoreId) (g : Core → Core) : State :=
  { s with cores := s.cores.set c.val (g (s.core c)) c.isLt }
/-- A compositor core. -/
def State.comp (s : State) (c : CompId) : Compositor := s.comps[c.val]
/-- Change a compositor core. -/
def State.modComp (s : State) (c : CompId) (g : Compositor → Compositor) : State :=
  { s with comps := s.comps.set c.val (g (s.comp c)) c.isLt }
/-- Change every forme. -/
def State.mapFormes (s : State) (g : FormeId → Forme → Forme) : State :=
  { s with formes := s.formes.mapFinIdx (fun i x h => g ⟨i, h⟩ x) }

/-- Every forme number, ascending. -/
def allFormes : List FormeId := List.finRange 16
/-- Every press core number, ascending. -/
def allCores : List CoreId := List.finRange 128

/-- A packet or signal leaves the module. -/
def State.emit (s : State) (o : Output) : State := { s with out := s.out ++ [o] }

/-- One draw of the entropy source: its serial number, and the state after it (R364). -/
def State.draw (s : State) : Nat × State := (s.draws, { s with draws := s.draws + 1 })

/-- One fresh value of those the manual leaves open, and the state after it. -/
def State.freshValue (s : State) : Word × State := (Config.freeValue s.free, { s with free := s.free + 1 })

/-- The module's rails are up and its ports may answer (R398). -/
def State.isOn (s : State) : Bool := s.boot.power == .on

/-- What the PLATEN_PWRGD pin shows: the state of R399, or the value EXTEST drives (R425). -/
def State.pinPwrgd (s : State) : Bool := if s.tap.ir = 3 && !s.tap.inReset then s.tap.cells[3] else s.boot.pwrgd

/-- PLATEN_PWRGD takes a level (R399, R425). -/
def State.setPwrgd (s : State) (high : Bool) : State :=
  let s1 := { s with boot := { s.boot with pwrgd := high } }
  if s1.pinPwrgd == s.pinPwrgd then s1 else s1.emit (.pwrgd high)

/-! ### A forme's energy account (R387) -/

/-- Add to a forme's energy account, in femtojoules (R387). -/
def State.charge (s : State) (f : FormeId) (fJ : Nat) : State :=
  let a := s.platen.account[f.val]
  { s with platen := { s.platen with account := s.platen.account.set f.val { a with current := a.current + fJ } f.isLt } }

/-- A byte of stack memory moved, and a byte of galley read or written (R387). -/
def stackByteFj : Nat := 17100
/-- As `stackByteFj`. -/
def galleyByteFj : Nat := 205

/-- Bytes of stack memory move for a forme's request (R387). -/
def State.chargeStack (s : State) (f : FormeId) (n : Nat) : State := s.charge f (n * stackByteFj)

/-! ### A core's activity (R75 to R78) -/

/-- One press cycle of a core's activity: towards level 8 while real work, dummy operations of a short gap or filler work want it, towards 0
otherwise; it changes by one eighth, and at most every 6 cycles (R75 to R77). -/
def Core.cycle (k : Core) (want : Bool) : Core :=
  if k.age < 6 then { k with age := k.age + 1 }
  else if want then (if k.level = 8 then k else { k with level := k.level + 1, age := 1 })
  else if k.level = 0 then k else { k with level := k.level - 1, age := 1 }

/-- A run of press cycles: the core after it, and the eighths of level in it. -/
def Core.cycles (k : Core) (wants : List Bool) : Core × Nat :=
  wants.foldl (fun a w => let n := a.1.cycle w; (n, a.2 + n.level.val)) (k, 0)

/-- The charge of one press cycle at level 1, femtojoules (R387). -/
def levelFj : Nat := 1285000

/-- Press cycles of a start ramp from where the activity stands; 48 from rest (R75). -/
def Core.toStart (k : Core) : Nat := 6 - k.age + 6 * (8 - k.level.val)

/-- Press cycles of a stop ramp from where the activity stands; 48 from level 8 (R75). -/
def Core.toStop (k : Core) : Nat := if k.level = 0 then 0 else 6 - k.age + 6 * k.level.val

/-- Real work runs at level 8: a core below it first rises from its present level, and the cycles of the ramp are charged (R75, R387). -/
def State.rampUp (s : State) (f : FormeId) (c : CoreId) : State :=
  let k := s.core c
  let r := k.cycles (List.replicate k.toStart true)
  (s.charge f (r.2 * levelFj)).modCore c (fun _ => { r.1 with used := k.used + k.toStart, ran := true })

/-- A core abandons its work: a stop ramp (R75, R78). -/
def State.rampDown (s : State) (f : FormeId) (c : CoreId) : State :=
  let k := s.core c
  let r := k.cycles (List.replicate k.toStop false)
  (s.charge f (r.2 * levelFj)).modCore c (fun _ => { r.1 with used := k.used + k.toStop, ran := false })

/-! ### A forme's records -/

/-- The core octets a forme holds are bits; the cores follow, ascending (R30). -/
def FormeCfg.cores (c : FormeCfg) : List CoreId := allCores.filter (fun k => c.octets.getLsbD (k.val / 8))
/-- STACK_GIB: the forme's regions together (R20). -/
def FormeCfg.stackGib (c : FormeCfg) : Nat := sumNat (c.regions.map (·.len))
/-- The forme's cores, none when it has no records in force. -/
def Forme.cores (x : Forme) : List CoreId := match x.cfg with | some c => c.cores | none => []
/-- The forme's cores that are not fenced (R67). -/
def State.liveCores (s : State) (f : FormeId) : List CoreId := (s.forme f).cores.filter (fun c => !(s.core c).fenced)

/-- The forme bound to a function of a port by the committed imposition and not withheld (R332); none serves once the entropy
source has failed (R364). -/
def State.bound (s : State) (p : PortId) (fn : FnId) : Option FormeId :=
  if s.colo.mgmtOnly then none else
  allFormes.find? (fun f => match (s.forme f).cfg with
    | some c => c.port == p && c.fn.val == fn.val && !s.colo.withheld.getLsbD f.val
    | none => false)

/-- The slot-space address of a byte of a forme's stack space: its regions joined end to end (R30, R139). -/
def slotAddr : List Region → Nat → Option Nat
  | [], _ => none
  | r :: rs, off => if off < r.len * 2 ^ 30 then some (r.base * 2 ^ 30 + off) else slotAddr rs (off - r.len * 2 ^ 30)

/-- Bytes of a forme's stack space from an offset, under its key (R333, R337); none beyond STACK_GIB. -/
def State.stackRead (s : State) (f : FormeId) (off n : Nat) : Option (List Byte) :=
  match (s.forme f).cfg, (s.forme f).kStack with
  | some c, some k =>
    if off + n ≤ c.stackGib * 2 ^ 30 then
      some ((List.range n).map (fun i => match slotAddr c.regions (off + i) with | some a => stackByte s.stack.mem k a | none => 0))
    else none
  | _, _ => none

/-- A line is poisoned (R147, R151). -/
def Stack.isPoisoned (k : Stack) (l : Nat) : Bool :=
  k.poisoned.contains l || k.poisonSets.any (fun p =>
    channelOf (256 * l) == p.channel && p.low ≤ l && (l < p.limit || Config.usableGib * 2 ^ 22 ≤ l) && !p.cleared.any (fun r => r.1 ≤ l && l < r.1 + r.2))

/-- Lines of a range of slot-space lines are written whole, which clears their poison (R147, R153). -/
def Stack.clearPoison (k : Stack) (first n : Nat) : Stack :=
  if n = 0 then k else { k with
    poisoned := k.poisoned.filter (fun l => l < first || first + n ≤ l)
    poisonSets := k.poisonSets.map (fun p => { p with cleared := p.cleared ++ [(first, n)] }) }

/-- The lines of a range of the forme's stack space. -/
def stackLines (c : FormeCfg) (off n : Nat) : List Nat :=
  if n = 0 then [] else (List.range ((off + n - 1) / 256 + 1 - off / 256)).filterMap (fun i =>
    (slotAddr c.regions (256 * (off / 256 + i))).map (· / 256))

/-- The first poisoned line of a range of the forme's stack space (R147). -/
def State.poisonedLine (s : State) (f : FormeId) (off n : Nat) : Option Nat :=
  match (s.forme f).cfg with
  | some c => (stackLines c off n).find? s.stack.isPoisoned
  | none => none

/-- Some line of a range of the forme's stack space is poisoned (R147). -/
def State.stackPoisoned (s : State) (f : FormeId) (off n : Nat) : Bool := (s.poisonedLine f off n).isSome

/-- Set blocks of the stone cache that a forme has in each hub die: one for each octet it holds (R142). -/
def FormeCfg.blocks (c : FormeCfg) : Nat := (bitsSet c.octets).length

/-- Requests for lines go through the stone cache of their hub die (R142, R143). -/
def Stack.request (k : Stack) (f : FormeId) (blocks : Nat) (h : Hint) (write last : Bool) (ls : List Nat) : Stack :=
  { k with stone := ls.foldl (fun ss l => stoneAccess ss f blocks h write last (.own l)) k.stone }

/-- Bytes of a forme's stack space are read with a hint: charged, and noted in the stone cache (R143, R387). -/
def State.stackFetch (s : State) (f : FormeId) (h : Hint) (last : Bool) (ls : List Nat) (n : Nat) : State :=
  match (s.forme f).cfg with
  | some c => State.chargeStack { s with stack := s.stack.request f c.blocks h false last ls } f n
  | none => s

/-- Bytes [off, off + n) of a forme's stack space are read with a hint. -/
def formeFetch (s : State) (f : FormeId) (h : Hint) (last : Bool) (off n : Nat) : State :=
  match (s.forme f).cfg with
  | some c => s.stackFetch f h last (stackLines c off n) n
  | none => s

/-- Write bytes of a forme's stack space with a hint; nothing beyond STACK_GIB. A write of a whole line clears its poison (R143, R147). -/
def State.stackStore (s : State) (f : FormeId) (h : Hint) (off : Nat) (data : List Byte) : State :=
  match (s.forme f).cfg with
  | none => s
  | some c =>
    if off + data.length ≤ c.stackGib * 2 ^ 30 then
      let m := (List.range data.length).foldl (fun m i => match slotAddr c.regions (off + i) with
        | some a => memPut none m a (data.getD i 0)
        | none => m) s.stack.mem
      let first := ceilDiv off 256
      let whole := stackLines c (256 * first) (256 * ((off + data.length) / 256 - first))
      let k := whole.foldl (fun (k : Stack) l => k.clearPoison l 1) (s.stack.request f c.blocks h true false (stackLines c off data.length))
      State.chargeStack { s with stack := { k with mem := m } } f data.length
    else s

/-- A 64-bit word of a forme's stack space. -/
def State.stackWord (s : State) (f : FormeId) (off : Nat) : Option Word := (s.stackRead f off 8).map leWord

/-- Scrub the GiB ranges given: what was written there is gone, poison with it (R153). -/
def State.scrubRegions (s : State) (rs : List Region) : State :=
  let k := rs.foldl (fun (k : Stack) r => k.clearPoison (r.base * 2 ^ 22) (r.len * 2 ^ 22)) s.stack
  { s with stack := { k with mem := rs.foldl (fun m r => memClear m (r.base * 2 ^ 30) (r.len * 2 ^ 30)) s.stack.mem } }

/-- Scrub bytes of stack memory, and clear the poison of their lines (R153). -/
def State.scrubBytes (s : State) (base n : Nat) : State :=
  { s with stack := { s.stack.clearPoison (base / 256) (n / 256) with mem := memClear s.stack.mem base n } }

/-! ### Inked images (R231, R234) -/

/-- Every image copy the module holds: in force, awaiting release, being inked, or without an inking forme. -/
def State.copies (s : State) : List ImageCopy :=
  s.formes.toList.flatMap (fun x => x.inker.bindings.toList.flatMap (fun b => b.image.toList ++ b.old) ++
    (match x.inker.req with | some q => q.copy.toList | none => [])) ++ s.orphans

/-- A copy by its serial number. -/
def State.copy (s : State) (gen : Nat) : Option ImageCopy := s.copies.find? (·.gen == gen)

/-- Change a copy wherever it is held. -/
def State.modCopy (s : State) (gen : Nat) (g : ImageCopy → ImageCopy) : State :=
  let h (i : ImageCopy) : ImageCopy := if i.gen == gen then g i else i
  let b' (b : Binding) : Binding := { b with image := b.image.map h, old := b.old.map h }
  { s.mapFormes (fun _ x => { x with inker := { x.inker with
      bindings := x.inker.bindings.map b',
      req := x.inker.req.map (fun q => { q with copy := q.copy.map h }) } }) with
    orphans := s.orphans.map h }

/-- The serial number of the copy a binding reads now; 0 none. -/
def Binding.gen (b : Binding) : Nat := match b.image with | some i => i.gen | none => b.attachedGen

/-- The copy a binding of the forme reads now: its own, or the shared one it is attached to (R231). -/
def bindingImage (s : State) (f : FormeId) (b : BindingId) : Option ImageCopy :=
  let g := ((s.forme f).inker.bindings[b.val]).gen
  if g = 0 then none else s.copy g

/-! ### Where a line is kept (R139, R150) -/

/-- The first GiB of the relocation area with the channels of a list mapped out (R139). -/
def relocationGib (out : List ChannelId) : Nat := Config.usableGib - 4 * out.length

/-- The lines of one aligned block of 256, by position, that lie on the channels that pass a test: a block has one line on each
channel (R138). -/
def blockLines (b : Nat) (p : ChannelId → Bool) : List Nat := ((List.range 256).map (256 * b + ·)).filter (fun l => p (channelOf (256 * l)))

/-- A line lies outside the relocation area (R150). -/
def outsideRelocation (out : List ChannelId) (l : Nat) : Bool := l < relocationGib out * 2 ^ 22 || Config.usableGib * 2 ^ 22 ≤ l

/-- The rank of a block of 256 lines among those outside the relocation area (R150). -/
def blockRank (out : List ChannelId) (b : Nat) : Nat := if b < relocationGib out * 2 ^ 14 then b else b - 4 * out.length * 2 ^ 14

/-- The line's place: itself, or, on a mapped-out channel outside the relocation area, the host line whose rank among the host
lines equals the line's rank among the displaced lines (R150). -/
def hostLine (out : List ChannelId) (l : Nat) : Nat :=
  if out.contains (channelOf (256 * l)) && outsideRelocation out l then
    let rank := blockRank out (l / 256) * out.length + (blockLines (l / 256) out.contains).findIdx (· == l)
    let block := relocationGib out * 2 ^ 14 + rank / (256 - out.length)
    (blockLines block (fun c => !out.contains c)).getD (rank % (256 - out.length)) l
  else l

/-! ### Galley explicit regions (R117 to R119) -/

/-- The core and offset a galley address names (R118). -/
def galleyCore (a : Nat) : Option CoreId := if h : a / 2 ^ 28 < 128 then some ⟨a / 2 ^ 28, h⟩ else none

/-- The address lies in the active explicit region of one of the forme's working cores, for the whole access (R118, R119). -/
def State.galleyOk (s : State) (f : FormeId) (a n : Nat) : Bool :=
  match galleyCore a with
  | some c => (s.forme f).cores.contains c && a % 2 ^ 28 + n ≤ (s.forme f).makeup.explicitActive * 2 ^ 20
  | none => false

/-- Write bytes of an explicit region. -/
def State.galleyWrite (s : State) (a : Nat) (data : List Byte) : State :=
  { s with galley := memPutAll galleyDefault s.galley a data }

/-- Power off and zero the galley of the cores given (R382). -/
def State.clearGalley (s : State) (cs : List CoreId) : State :=
  { s with galley := s.galley.filter (fun c => !cs.any (fun k => k.val * 2 ^ 28 ≤ c.1 && c.1 < (k.val + 1) * 2 ^ 28)) }

/-! ### Requests to host memory (R343 to R350) -/

/-- Units of 16 bytes for which a class has credit now start (R345). -/
def startUnits (x : Port) (c : Fin 4) : Port :=
  let n := min x.waiting[c.val] x.credits[c.val]
  { x with waiting := x.waiting.set c.val (x.waiting[c.val] - n) c.isLt, credits := x.credits.set c.val (x.credits[c.val] - n) c.isLt,
           backlog := x.backlog + 16 * n }

/-- What has credit goes into data flits of 112 payload bytes while the replay buffer of 512 has room (R342, R345). -/
def pumpPort (x : Port) : Port :=
  let y := (List.finRange 4).foldl startUnits x
  let n := min (ceilDiv y.backlog 112) (512 - y.unacked.length)
  { y with unacked := y.unacked ++ (List.range n).map (fun i => y.txSeq + BitVec.ofNat 10 i), txSeq := y.txSeq + BitVec.ofNat 10 n,
           backlog := y.backlog - 112 * n }

/-- A packet, or a run of them, of a class P, NP, C or S leaves through a port (R342 to R345; log 20). -/
def State.ecpOut (s : State) (p : PortId) (cls : Fin 4) (units : Nat) (o : Output) : State :=
  (s.modPort p (fun x => pumpPort { x with waiting := x.waiting.set cls.val (x.waiting[cls.val] + units) cls.isLt })).emit o

/-- Units of packets that carry so many bytes of data, 256 to a packet with its 16-byte header (R343). -/
def dataUnits (n : Nat) : Nat := max 1 (ceilDiv n 256) + ceilDiv n 16

/-- The first tag from one on that no outstanding request holds; `fuel` bounds the search (R343). -/
def freeReqTag (rs : List EcpReq) : Nat → BitVec 12 → BitVec 12
  | 0, t => t
  | n + 1, t => if rs.any (·.tag == t) then freeReqTag rs n (t + 1) else t

/-- The tag of a port's next request. -/
def State.reqTag (s : State) (p : PortId) : BitVec 12 := freeReqTag (s.port p).reqs (s.port p).reqs.length (s.port p).nextTag

/-- Issue a read: one request stands for the run of packets of a bulk read (log 20). -/
def State.sendDrd (s : State) (p : PortId) (fn : FnId) (use : EcpUse) (keep : Bool) (addr : HostAddr) (len : Nat) : State :=
  let t := s.reqTag p
  (s.modPort p (fun x => { x with
    nextTag := t + 1,
    reqs := x.reqs ++ [{ tag := t, fn := fn, use := use, addr := addr, write := false, keep := keep, issued := s.time.ticks, again := false, page := none, withdrawn := false }] })).ecpOut
    p 1 (max 1 (ceilDiv len 256)) (.drd p fn t keep addr len)

/-- Issue a write, answered by a DACK (R344). -/
def State.sendDwr (s : State) (p : PortId) (fn : FnId) (use : EcpUse) (addr : HostAddr) (data : List Byte) : State :=
  let t := s.reqTag p
  (s.modPort p (fun x => { x with
    nextTag := t + 1,
    reqs := x.reqs ++ [{ tag := t, fn := fn, use := use, addr := addr, write := true, keep := false, issued := s.time.ticks, again := false, page := none, withdrawn := false }] })).ecpOut
    p 0 (dataUnits data.length) (.dwr p fn t addr data)

/-- A forme's own port and function, for its engines' requests (R331). -/
def FormeCfg.fnId (c : FormeCfg) : FnId := ⟨c.fn.val, by omega⟩

/-- Issue a read for a forme through its own port. -/
def State.formeDrd (s : State) (f : FormeId) (use : EcpUse) (keep : Bool) (addr : HostAddr) (len : Nat) : State :=
  match (s.forme f).cfg with
  | some c => s.sendDrd c.port c.fnId use keep addr len
  | none => s

/-- Issue a write for a forme through its own port. -/
def State.formeDwr (s : State) (f : FormeId) (use : EcpUse) (addr : HostAddr) (data : List Byte) : State :=
  match (s.forme f).cfg with
  | some c => s.sendDwr c.port c.fnId use addr data
  | none => s

/-- The forme's newest request reaches a page of its spill range (R340). -/
def State.markPage (s : State) (f : FormeId) (page : Nat) : State :=
  match (s.forme f).cfg with
  | some c => s.modPort c.port (fun k => { k with reqs := k.reqs.dropLast ++ k.reqs.getLast?.toList.map (fun q => { q with page := some (f, page) }) })
  | none => s

/-- Read bytes of a spill page of a forme at their host address (R338). -/
def State.spillDrd (s : State) (f : FormeId) (use : EcpUse) (keep : Bool) (page : Nat) (addr : HostAddr) (len : Nat) : State :=
  if (s.forme f).cfg.isSome then (s.formeDrd f use keep addr len).markPage f page else s

/-- Write bytes of a spill page of a forme at their host address (R338). -/
def State.spillDwr (s : State) (f : FormeId) (use : EcpUse) (page : Nat) (addr : HostAddr) (data : List Byte) : State :=
  if (s.forme f).cfg.isSome then (s.formeDwr f use addr data).markPage f page else s

/-- Retire the requests that match. -/
def State.retire (s : State) (p : PortId) (q : EcpReq → Bool) : State :=
  s.modPort p (fun x => { x with reqs := x.reqs.filter (fun r => !q r) })

/-- Retire every request of a use, on every port: the engine has its data (R344). -/
def State.retireUse (s : State) (u : EcpUse) : State :=
  { s with ports := s.ports.map (fun x => { x with reqs := x.reqs.filter (fun r => r.use != u) }) }

/-- An EVT of a forme: sent only while ENABLE is 1 (R348). -/
def State.formeEvent (s : State) (f : FormeId) (source : BitVec 8) : State :=
  match (s.forme f).cfg with
  | some c =>
    let e := (s.forme f).ecp
    if e.evtEnable then s.ecpOut c.port 0 2 (.evt c.port (e.evtAddr.zeroExtend 64 <<< 2) source e.evtData) else s
  | none => s

/-- An EVT of a port's management window (R348, source 0x42). -/
def State.portEvent (s : State) (p : PortId) (source : BitVec 8) : State :=
  let e := s.port p
  if e.evtEnable then s.ecpOut p 0 2 (.evt p (e.evtAddr.zeroExtend 64 <<< 2) source e.evtData) else s

/-- The STATUS encoding of R343. -/
def ecpCode : EcpStatus → Nat
  | .ok => 0
  | .unmapped => 1
  | .denied => 2
  | .busError => 3
  | .timeout => 4

/-- Record the low 52 bits of the address and the STATUS of a forme's last faulted host access in ECP_FAULT_ADDR (R349). -/
def State.noteFault (s : State) (f : FormeId) (addr : HostAddr) (st : EcpStatus) : State :=
  s.modForme f (fun x => { x with ecp := { x.ecp with faultAddr := addr.truncate 52, faultStat := BitVec.ofNat 3 (ecpCode st) } })

/-! ### Mailboxes (R351 to R355) -/

/-- A channel: a port's secure one, or a forme's non-secure one. -/
inductive Chan where
  | secure (p : PortId)
  | plain (f : FormeId)
  deriving DecidableEq, Repr

/-- The channel's registers. -/
def State.mbox (s : State) : Chan → Mbox
  | .secure p => (s.port p).mbox
  | .plain f => (s.forme f).mbox

/-- Change a channel's registers. -/
def State.modMbox (s : State) (c : Chan) (g : Mbox → Mbox) : State :=
  match c with
  | .secure p => s.modPort p (fun x => { x with mbox := g x.mbox })
  | .plain f => s.modForme f (fun x => { x with mbox := g x.mbox })

/-- OPCODE, TAG and STATUS words (R353). -/
def msgOpcode (m : Vector Word 16) : Nat := fld m[0] 15 0
/-- TAG of a message. -/
def msgTag (m : Vector Word 16) : BitVec 16 := BitVec.ofNat 16 (fld m[0] 31 16)
/-- A response: OPCODE and TAG echoed, STATUS, and further words. -/
def mkResponse (opcode : Nat) (tag : BitVec 16) (status : Code) (words : List Word) : Vector Word 16 :=
  Vector.ofFn (fun i => if i.val = 0 then place 0 opcode ||| place 16 tag.toNat ||| place 32 status.toNat
    else words.getD (i.val - 1) 0)

/-- The event of a response, when EVT_EN is 1 (R348, R352). -/
def State.mboxEvent (s : State) (c : Chan) : State :=
  if (s.mbox c).evtEn then
    match c with
    | .secure p => s.portEvent p 0x42
    | .plain f => s.formeEvent f 0x40
  else s

/-- The receiver writes its response: at once when the outbound direction is free, otherwise after ACK (R353). -/
def State.respond (s : State) (c : Chan) (r : Vector Word 16) : State :=
  if (s.mbox c).valid then s.modMbox c (fun m => { m with waiting := m.waiting ++ [r] })
  else (s.modMbox c (fun m => { m with outData := r, valid := true })).mboxEvent c

/-- The channel's receiver can copy a message out: colophon firmware always, a compositor while its domain has power, and
neither while a response of its own waits for the outbound direction (R353, R354; log 21). -/
def State.receiverReady (s : State) (c : Chan) : Bool :=
  (s.mbox c).waiting.isEmpty && match c with
    | .secure _ => true
    | .plain f => match (s.forme f).cfg with
      | some k => (s.comp k.compositor).powered && !(s.forme f).domainsOff
      | none => false

/-- The opcodes each kind of channel defines (R355, R374). -/
def opcodeDefined : Chan → Nat → Bool
  | .secure _, n => 0x0101 ≤ n && n ≤ 0x0107
  | .plain _, n => 1 ≤ n && n ≤ 5

/-- The receiver copies the message out, which clears FULL; an undefined or wrong-channel OPCODE is answered with 0x1201
and has no other effect (R353, R355). The secure channels wait for READY with it (R403). -/
def State.rejectUndefined (s : State) (c : Chan) : State :=
  let m := (s.mbox c).inData
  let due := match c with | .secure _ => s.boot.ready | .plain _ => true
  if due && (s.mbox c).full && s.receiverReady c && !opcodeDefined c (msgOpcode m) then
    (s.modMbox c (fun x => { x with full := false })).respond c (mkResponse (msgOpcode m) (msgTag m) 0x1201 [])
  else s

/-- Take a waiting message of the OPCODE given: the message, and the state with FULL clear (R353). -/
def State.take (s : State) (c : Chan) (opcode : Nat) : Option (Vector Word 16 × State) :=
  if (s.mbox c).full && s.receiverReady c && msgOpcode (s.mbox c).inData == opcode then
    some ((s.mbox c).inData, s.modMbox c (fun x => { x with full := false }))
  else none

/-! ### Geometry (R21) -/

/-- GEN adds 1; after 0xFFFF_FFFF it becomes 1 (R20). -/
def nextGen (g : BitVec 32) : BitVec 32 := if g = 0xFFFFFFFF then 1 else g + 1

/-- GEN of every forme increments (R21). -/
def State.bumpGen (s : State) : State := s.mapFormes (fun _ x => { x with geoGen := nextGen x.geoGen })

/-- Mapped-out channels (R148). -/
def State.mappedOut (s : State) : Nat := s.flash.mapOut.length

/-- STACK_USABLE_GIB (R17, R139). -/
def State.usableGib (s : State) : Nat := Config.usableGib - 4 * s.mappedOut

/-- Working lanes of a link as the geometry block shows them (R20). -/
def Link.lanes (l : Link) : Nat := if l.state == .up || l.state == .retraining then 4 * (bitsSet l.groups).length else 0

/-- The entropy source fails: no key is issued, and only management and attestation exchanges are served (R364). -/
def entropyFails (s : State) : State :=
  { s.mapFormes (fun _ x => { x with live := false }) with colo := { s.colo with mgmtOnly := true } }

end Sys2Proof.Machine
end

