-- ==== Sys2Proof/Machine/Flags.lean ====
section
/-! DEFINITION. Status codes, their ranking, the CODE fields that keep them (R411 to R413), and the format flags (R94, R182). -/
namespace Sys2Proof.Machine

/-- Rank 1 to 5 of R413 for the statuses imposed on a launch from outside its slugs; 6 for any other. -/
def statusRank (c : Code) : Nat :=
  if c = 0x0803 then 1 else if c = 0x0802 then 2 else if c = 0x1306 then 3 else if c = 0x0D05 then 4
  else if c = 0x0D04 then 5 else 6

/-- The imposed status that stands when another comes (R413). -/
def mergeImposed (old : Option Code) (new : Code) : Option Code :=
  match old with
  | some o => if statusRank o ≤ statusRank new then some o else some new
  | none => some new

/-- The slug fault that stands: the first in ticks, and the lowest code within one tick (R413 rank 6). -/
def mergeFault (old : Option (Word × Code)) (tick : Word) (c : Code) : Option (Word × Code) :=
  match old with
  | none => some (tick, c)
  | some (t, o) => if t = tick ∧ c.toNat < o.toNat then some (t, c) else some (t, o)

/-- The one STATUS of a launch (R413). -/
def launchStatus (l : Launch) : Code :=
  match l.imposedStatus with
  | some c => c
  | none =>
    match l.fault with
    | some (_, c) => c
    | none => l.ended.getD 0

/-- SATURATED, OVERFLOW and SPECIAL_IN of R94. -/
def flagSaturated : BitVec 3 := 1
/-- As `flagSaturated`. -/
def flagOverflow : BitVec 3 := 2
/-- As `flagSaturated`. -/
def flagSpecialIn : BitVec 3 := 4

/-- Keep a code in the CODE field of its kind (R412): the high byte names the subsystem. MAKEUP_STATUS keeps only the codes of a launch that the
make-up engine refused (R134). -/
def noteFormeCode (x : Forme) (c : Code) : Forme :=
  match c.toNat / 256 with
  | 0x07 => if c = 0x0701 || c = 0x0702 then { x with makeup := { x.makeup with code := c } } else x
  | 0x09 => { x with leafCode := c }
  | 0x0A => { x with slugCode := c }
  | 0x0C => { x with inker := { x.inker with code := c } }
  | 0x0E => { x with sched := { x.sched with code := c } }
  | 0x10 => { x with collCode := c }
  | 0x11 => { x with ecp := { x.ecp with code := c } }
  | _ => x

/-- As `noteFormeCode`; a code written to ECP_FUNC_STATUS.CODE also sends event 0x41 (R348). -/
def State.noteCode (s : State) (f : FormeId) (c : Code) : State :=
  let s1 := s.modForme f (fun x => noteFormeCode x c)
  if c.toNat / 256 = 0x11 then s1.formeEvent f 0x41 else s1

end Sys2Proof.Machine
end

