-- ==== Sys2Proof/Machine/Launches.lean ====
section
/-! DEFINITION. What the feeder, the compositors and the run scheduler share: entries and op records by field, launches,
slugs and their ends, chunk words, steps, contexts and their release, and the completion of an entry. -/
namespace Sys2Proof.Machine

/-! ### Entry fields (R247) -/

/-- Word `i` of an entry's header. -/
def entryWord (e : RingEntry) (i : Fin 8) : Word := e.hdr[i.val]
def entryOpcode (e : RingEntry) : Nat := fld (entryWord e 0) 7 0
def entryNewCtx (e : RingEntry) : Bool := bitOf (entryWord e 0) 8
def entryReleaseCtx (e : RingEntry) : Bool := bitOf (entryWord e 0) 9
def entryFence (e : RingEntry) : Bool := bitOf (entryWord e 0) 10
def entryContext (e : RingEntry) : BitVec 16 := BitVec.ofNat 16 (fld (entryWord e 0) 31 16)
def entryMatter (e : RingEntry) : BitVec 32 := BitVec.ofNat 32 (fld (entryWord e 0) 63 32)
def entryVersion (e : RingEntry) : BitVec 32 := BitVec.ofNat 32 (fld (entryWord e 1) 31 0)
def entryBaseVersion (e : RingEntry) : BitVec 32 := BitVec.ofNat 32 (fld (entryWord e 1) 63 32)
def entrySeq (e : RingEntry) : Seq := BitVec.ofNat 48 (fld (entryWord e 2) 47 0)
def entryConstLen (e : RingEntry) : Nat := fld (entryWord e 3) 7 0
def entrySequences (e : RingEntry) : Nat := fld (entryWord e 4) 15 0
def entryPositions (e : RingEntry) : Nat := fld (entryWord e 4) 39 16
def entryNewPositions (e : RingEntry) : Nat := fld (entryWord e 5) 23 0
def entrySource (e : RingEntry) : HostAddr := entryWord e 6
def entryLength (e : RingEntry) : Nat := fld (entryWord e 7) 31 0

/-- A token launch adds 1 to 16 positions; any other LAUNCH is a prefill launch (R271). -/
def isToken (e : RingEntry) : Bool := 1 ≤ entryNewPositions e && entryNewPositions e ≤ 16

/-! ### Op records (R259, R288, R289, R322) -/

/-- Word `i` of an op record. -/
def opWord (o : OpRec) (i : Fin 8) : Word := o.w[i.val]
def opKind (o : OpRec) : Nat := fld (opWord o 0) 7 0
/-- A handle in [31:0] of a word. -/
def handleLo (o : OpRec) (i : Fin 8) : BitVec 32 := (opWord o i).truncate 32
/-- A handle in [63:32] of a word. -/
def handleHi (o : OpRec) (i : Fin 8) : BitVec 32 := BitVec.ofNat 32 (fld (opWord o i) 63 32)
/-- PRELOAD of a product or element-wise run. -/
def opPreload (o : OpRec) : Bool := bitOf (opWord o 0) 44
/-- The handle that means none. -/
def noHandle : BitVec 32 := 0xFFFFFFFF

/-- The tensor handles an op reads, by kind (R259, R322). -/
def opReads (o : OpRec) : List (BitVec 32) :=
  match opKind o with
  | 0x01 | 0x02 => [handleLo o 1, handleHi o 1] ++ (if opPreload o then [handleHi o 2] else [])
  | 0x03 | 0x05 => [handleLo o 2]
  | 0x04 => [handleLo o 2] ++ (if bitOf (opWord o 5) 0 && handleLo o 4 != noHandle then [handleLo o 4] else [])
  | 0x07 => [handleLo o 1]
  | 0x08 => [handleLo o 1]
  | _ => []

/-- The tensor handles an op writes, by kind. -/
def opWrites (o : OpRec) : List (BitVec 32) :=
  match opKind o with
  | 0x01 | 0x02 => [handleLo o 2]
  | 0x03 => [handleLo o 3] ++ (if handleLo o 4 != noHandle then [handleLo o 4] else [])
  | 0x04 => [handleLo o 3] ++ (if !bitOf (opWord o 5) 0 && handleLo o 4 != noHandle then [handleLo o 4] else [])
  | 0x05 => [handleLo o 3]
  | 0x07 => [handleHi o 1]
  | _ => []

/-! ### Matters and versions (R260, R261) -/

/-- A stored matter. -/
def findMatter (x : Forme) (id : BitVec 32) : Option Matter := x.matters.find? (·.id == id)
/-- A live version of a stored matter. -/
def findVersion (x : Forme) (id v : BitVec 32) : Option Version :=
  (findMatter x id).bind (fun m => m.versions.find? (·.number == v))
/-- A tensor record of a version. -/
def findTensor (v : Version) (h : BitVec 32) : Option TensorRec := v.tensors.find? (·.handle == h)
/-- The ops of a slug record of a version. -/
def slugOps (v : Version) (index : Nat) : List OpRec :=
  match v.slugs[index]? with
  | some r => (v.ops.drop r.firstOp).take r.opCount
  | none => []

/-! ### Launches and slugs -/

/-- The entry of a ring in flight with this sequence number. -/
def findLaunch (x : Forme) (r : RingId) (q : Seq) : Option Launch := x.launches.find? (fun l => l.ring == r && l.seq == q)
/-- Change a launch. -/
def modLaunch (x : Forme) (r : RingId) (q : Seq) (g : Launch → Launch) : Forme :=
  { x with launches := updFirst (fun l => l.ring == r && l.seq == q) g x.launches }
/-- Fetched and not complete (R251, R255). -/
def launchOpen (l : Launch) : Bool := l.phase != .writing
/-- INFLIGHT of a ring (R243). -/
def ringInflight (x : Forme) (r : RingId) : Nat := (x.launches.filter (fun l => l.ring == r && launchOpen l)).length
/-- INFLIGHT of the forme (R245). -/
def formeInflight (x : Forme) : Nat := (x.launches.filter launchOpen).length

/-- A slug by its tag. -/
def findSlug (x : Forme) (t : SlugTag) : Option Slug := x.slugs.find? (·.tag == t)
/-- Change a slug. -/
def modSlug (x : Forme) (t : SlugTag) (g : Slug → Slug) : Forme := { x with slugs := updFirst (·.tag == t) g x.slugs }
/-- PASSED, DISCARDED or FAILED (R187). -/
def slugEnded (sl : Slug) : Bool := sl.state == .passed || sl.state == .discarded || sl.state == .failed
/-- At or past its pass point (R181). -/
def pastPoint (sl : Slug) : Bool := sl.state == .passing || sl.state == .passed
/-- Slugs in flight on the forme's compositor (R255). -/
def slugsInFlight (x : Forme) : Nat := (x.slugs.filter (fun sl => !slugEnded sl)).length
/-- HELD_KIB (R198). -/
def heldKib (x : Forme) : Nat := sumNat ((x.slugs.filter (·.reserved)).map (·.proofKib))
/-- SPEC_KIB (R198, R186). -/
def specKib (x : Forme) : Nat :=
  sumNat ((x.slugs.filter (fun sl => sl.reserved && sl.speculative && sl.resolved.isNone)).map (·.proofKib))
/-- The forme's proof space in KiB (R185). -/
def proofSpaceKib (x : Forme) : Nat := match x.cfg with | some c => c.proofMib * 1024 | none => 0

/-- The version a slug runs. -/
def slugVersion (x : Forme) (sl : Slug) : Option Version := findVersion x sl.matter sl.version
/-- The ops of a slug. -/
def opsOf (x : Forme) (sl : Slug) : List OpRec := match slugVersion x sl with | some v => slugOps v sl.index | none => []
/-- Whether a handle names a slug-local tensor of the slug's version (R179): such a tensor is no other slug's input. -/
def isLocalHandle (x : Forme) (sl : Slug) (h : BitVec 32) : Bool :=
  match slugVersion x sl with | some v => (match findTensor v h with | some t => t.isLocal | none => false) | none => false
/-- The handles a slug reads, or writes, in a way other slugs of its launch can meet (R287). -/
def slugReadsOf (x : Forme) (sl : Slug) : List (BitVec 32) :=
  ((opsOf x sl).flatMap opReads).filter (fun h => !isLocalHandle x sl h)
/-- As `slugReadsOf`. -/
def slugWritesOf (x : Forme) (sl : Slug) : List (BitVec 32) :=
  ((opsOf x sl).flatMap opWrites).filter (fun h => !isLocalHandle x sl h)

/-- `d` was issued after `w` in the same launch and reads a handle `w` writes, and does not read `w`'s proofs as its
antecedent (R287). -/
def waitsOn (x : Forme) (d w : Slug) : Bool :=
  d.ring == w.ring && d.seq == w.seq && d.tag != w.tag && d.antecedent != some w.tag &&
  (slugReadsOf x d).any (fun h => (slugWritesOf x w).contains h)

/-- The slugs issued before `sl`. -/
def issuedBefore (x : Forme) (sl : Slug) : List Slug := x.slugs.takeWhile (fun w => w.tag != sl.tag)

/-- The first op of a slug is an ACQUIRE_WAIT (R291). -/
def opensWithAcquire (x : Forme) (sl : Slug) : Bool :=
  match opsOf x sl with | o :: _ => opKind o == 0x0A | [] => false

/-- The slug's inputs are ready (R184, R287, R291). -/
def inputsReady (x : Forme) (sl : Slug) : Bool :=
  (issuedBefore x sl).all (fun w => !(waitsOn x sl w) || w.state == .passed) &&
  (!opensWithAcquire x sl || sl.acquired || sl.sealed.isSome)

/-- The antecedent lets the slug run: it is RUNNING or PROVED, or at its pass already (R184). -/
def antecedentReady (x : Forme) (sl : Slug) : Bool :=
  match sl.antecedent with
  | none => true
  | some t => match findSlug x t with
    | some a => a.state == .running || a.state == .proved || pastPoint a
    | none => true

/-- The proof space for the slug's reservation is free, or already held (R185, R186). -/
def canReserve (x : Forme) (sl : Slug) : Bool :=
  sl.reserved ||
  (decide (heldKib x + sl.proofKib ≤ proofSpaceKib x) &&
    (!(sl.speculative && sl.resolved.isNone) || decide (2 * (specKib x + sl.proofKib) ≤ proofSpaceKib x)))

/-- An empty read record (R194). -/
def noReads : ReadRecord := { ranges := [], full := [] }

/-- Back to QUEUED for a replay: from the start, or from the last seal; reservation, seed, descriptor-set base, streams and
tag are kept (R184, R197). -/
def slugReplay (sl : Slug) : Slug :=
  match sl.sealed with
  | some z => { sl with
      state := .queued, replayed := true, op := z.op, shown := z.shown, proofs := z.proofs, locals := z.locals, flags := z.flags, appended := z.appended,
      tokens := z.tokens, reads := noReads, drains := [], fetched := [], asked := [], cores := [], worked := [], wait := .none, heldDetect := none }
  | none => { sl with
      state := .queued, replayed := true, op := 0, shown := none, proofs := [], locals := [], flags := 0, appended := 0, tokens := [], reads := noReads,
      drains := [], fetched := [], asked := [], cores := [], worked := [], wait := .none, acquired := false, heldDetect := none }

/-- The end of a slug in DISCARDED or FAILED: nothing stays (R184). -/
def slugDrop (st : SlugState) (c : Code) (sl : Slug) : Slug :=
  { sl with state := st, status := c, reserved := false, proofs := [], locals := [], snaps := [], drains := [], cores := [], sealed := none,
            inStep := false, wait := .none, heldDetect := none, appended := 0, tokens := [] }

/-- The slugs that end with slug `t`: those that name it as antecedent, and the QUEUED ones that wait for what it writes
(R187, R287). -/
def dependantsOf (x : Forme) (t : SlugTag) : List SlugTag :=
  match findSlug x t with
  | none => []
  | some w => (x.slugs.filter (fun d => !slugEnded d && !pastPoint d &&
      (d.antecedent == some t || (d.state == .queued && waitsOn x d w && (issuedBefore x d).any (·.tag == t))))).map (·.tag)

/-- Finally discard the dependants of an ended slug, and theirs; `fuel` bounds the depth by the slugs there are. -/
def dropDependants : Nat → Forme → SlugTag → Forme
  | 0, x, _ => x
  | n + 1, x, t => (dependantsOf x t).foldl (fun y d => dropDependants n (modSlug y d (slugDrop .discarded 0)) d) x

/-- End a slug as DISCARDED or FAILED with its dependants, unless its pass point is behind it (R184, R187). -/
def Forme.endSlug (x : Forme) (t : SlugTag) (st : SlugState) (c : Code) : Forme :=
  match findSlug x t with
  | some sl =>
    if slugEnded sl || pastPoint sl then x
    else dropDependants (x.slugs.length) (modSlug x t (slugDrop st c)) t
  | none => x

/-- Note a slug's fault on its launch (R413). -/
def Forme.noteSlugFault (x : Forme) (t : SlugTag) (tick : Word) (c : Code) : Forme :=
  match findSlug x t with
  | some sl => modLaunch x sl.ring sl.seq (fun l => { l with fault := mergeFault l.fault tick c })
  | none => x

/-! ### Prefill chunks (R271, R272) -/

/-- The chunk length L: CHUNK, or the largest multiple of 256 that ROWS_MAX admits, at least 256 (R271). -/
def chunkLength (sc : Sched) (sequences : Nat) : Nat :=
  max 256 (min (2 ^ sc.chunkLog) (sc.rowsMax / (max 1 sequences) / 256 * 256))

/-- The chunk word of R272. -/
def chunkWord (first len : Nat) (last : Bool) : Word := place 0 first ||| place 24 len ||| placeBit 48 last

/-- Write a chunk word at frame bytes 240 to 247 and keep what it says. -/
def putChunk (l : Launch) (first len : Nat) (last : Bool) : Launch :=
  { l with chunkFirst := first, chunkLen := len, chunkLast := last, chunkSlugs := [],
           frame := memPutAll galleyDefault l.frame 240 (leBytes 8 (chunkWord first len last).toNat) }

/-- The word of the chunk that starts at `first`; LENGTH 0 when the positions are exhausted. -/
def cutChunk (sc : Sched) (l : Launch) (first : Nat) : Launch :=
  let total := entryPositions l.entry + entryNewPositions l.entry
  if total ≤ first then putChunk l first 0 false
  else
    let len := min (chunkLength sc (entrySequences l.entry)) (total - first)
    putChunk l first len (first + len == total)

/-- The next chunk word, once every slug of the chunk has ended (R272). -/
def nextChunk (x : Forme) (l : Launch) : Launch :=
  let slugs := x.slugs.filter (fun sl => l.chunkSlugs.contains sl.tag)
  if launchOpen l && entryOpcode l.entry == 1 && !isToken l.entry && !l.cutDone && !slugs.isEmpty && slugs.all slugEnded then
    if slugs.all (fun sl => sl.state == .passed) then
      let n := cutChunk x.sched l (l.chunkFirst + l.chunkLen)
      { n with cutDone := n.chunkLen == 0 }
    else { putChunk l (l.chunkFirst + l.chunkLen) 0 false with cutDone := true }
  else l

/-! ### Steps (R184, R268) -/

/-- The slug waits only for a resolution, its own or an earlier slug's of its context (R268). -/
def waitsResolution (x : Forme) (sl : Slug) : Bool :=
  sl.state == .proved && ((sl.speculative && sl.resolved.isNone) ||
    (issuedBefore x sl).any (fun w => w.ctx == sl.ctx && !slugEnded w && w.speculative && w.resolved.isNone))

/-- Every slug of the running step has ended or waits only for a resolution (R268). -/
def stepOver (x : Forme) : Bool := x.slugs.all (fun sl => !sl.inStep || slugEnded sl || waitsResolution x sl)

/-- End the running step when it is over. -/
def settleStep (now : Word) (x : Forme) : Forme :=
  if x.sched.stepOn && stepOver x then
    { x with sched := { x.sched with stepOn := false, stepEnd := some now }, slugs := x.slugs.map (fun sl => { sl with inStep := false }) }
  else x

/-- The copies of its image bindings a slug reads, by binding (R234). -/
def bindingGens (x : Forme) : List Nat :=
  x.inker.bindings.toList.map (fun b => match b.image with | some i => i.gen | none => b.attachedGen)

/-- The descriptor set in force for a version's MODEL_BINDING (R107). -/
def bindingSet (x : Forme) (b : BindingId) : SetBase := (x.inker.bindings[b.val]).set

/-- Start a slug: it leaves QUEUED, with its seed and descriptor-set base captured at its first issue only (R184). -/
def startSlug (cores : List CoreId) (now : Word) (x : Forme) (sl : Slug) : Slug :=
  let sl1 := if sl.reserved then sl else
    { sl with reserved := true, seed := x.seed, images := bindingGens x,
              set := match slugVersion x sl with | some v => bindingSet x v.binding | none => .none }
  { sl1 with state := .running, cores := cores, runStart := now, charge := 0, flags := match sl1.sealed with | some z => z.flags | none => 0 }

/-- Start every QUEUED slug of the running step that may run, in issue order (R184). -/
def startReady (cores : List CoreId) (now : Word) (x : Forme) : Forme :=
  (x.slugs.map (·.tag)).foldl (fun y t =>
    match findSlug y t with
    | some sl =>
      if sl.inStep && sl.state == .queued && canReserve y sl && antecedentReady y sl && inputsReady y sl && !cores.isEmpty then
        modSlug y t (startSlug cores now y)
      else y
    | none => y) x

/-- The slug whose tiles an array holds is in flight, and placed them in its present run (R72). -/
def tilesStand (x : Forme) (t : SlugTag) (c : CoreId) : Bool :=
  match findSlug x t with
  | some sl => (sl.state == .running || sl.state == .proved || sl.state == .passing) && sl.worked.contains c
  | none => false

/-- Resident tiles go when the slug that loaded them passes or is discarded (R72). -/
def State.releaseTiles (s : State) (f : FormeId) : State :=
  { s with cores := s.cores.mapFinIdx (fun i k h =>
      if k.array.resident.isEmpty then k
      else match k.array.owner with
        | some (g, t) => if g = f && !tilesStand (s.forme f) t ⟨i, h⟩ then { k with array := { k.array with resident := [] } } else k
        | none => k) }

/-- What follows a change of some slug's state: chunk words, the end of the step, starts, and resident tiles. -/
def State.settle (s : State) (f : FormeId) : State :=
  (s.modForme f (fun x =>
    let x1 := { x with launches := x.launches.map (nextChunk x) }
    startReady (s.liveCores f) s.time.ticks (settleStep s.time.ticks x1))).releaseTiles f

/-- A slug fails, or is finally discarded, with a status of its own: the code is kept, the fault ranked, the dependants
discarded (R184, R187, R412, R413). -/
def State.faultSlug (s : State) (f : FormeId) (t : SlugTag) (st : SlugState) (c : Code) : State :=
  match findSlug (s.forme f) t with
  | some sl =>
    if slugEnded sl || pastPoint sl then s
    else (((s.modForme f (fun x => (x.noteSlugFault t s.time.ticks c).endSlug t st c)).noteCode f c)).settle f
  | none => s

/-- Stop a slug without replay (R337, R350): FAILED with the code. -/
def State.failSlug (s : State) (f : FormeId) (t : SlugTag) (c : Code) : State := s.faultSlug f t .failed c

/-! ### Contexts (R175, R261, R265) -/

/-- A context of the forme. -/
def findCtx (x : Forme) (c : BitVec 16) : Option Context := x.ctxs.find? (·.num == c)
/-- Change a context. -/
def modCtx (x : Forme) (c : BitVec 16) (g : Context → Context) : Forme := { x with ctxs := updFirst (·.num == c) g x.ctxs }
/-- In the placement key (R267). -/
def ctxResident (c : Context) : Bool := c.state == .resident
/-- RESIDENT of SCHED_STATUS (R283). -/
def residentCount (x : Forme) : Nat := (x.ctxs.filter ctxResident).length

/-- The contexts other than `c` whose directory names a record, lowest number first. -/
def namersOf (x : Forme) (c : BitVec 16) (id : Nat) : List Nat :=
  ((x.ctxs.filter (fun k => k.num != c && k.dir.any (·.1 == id))).map (·.num.toNat))

/-- What a release does to one run record: REFS falls, and OWNER passes on; a record with no reference goes, unless a copy to another
forme holds it (R174, R175). -/
def releaseRecord (x : Forme) (c : BitVec 16) (named : List Nat) (r : RunRec) : Option RunRec :=
  if named.contains r.id then
    if r.refs ≤ 1 then (if r.holds = 0 then none else some { r with refs := 0, indexed := false })
    else some { r with
      refs := r.refs - 1,
      owner := if r.owner == c then (match (namersOf x c r.id).min? with | some n => BitVec.ofNat 16 n | none => r.owner)
               else r.owner }
  else some r

/-- Release a context: the leaf engine drops its references, a record whose OWNER passes on is SHARED no more in its new owner's directory,
and the context's header and saved image are freed (R160, R175, R265). -/
def Forme.releaseCtx (x : Forme) (c : BitVec 16) : Forme :=
  match findCtx x c with
  | none => x
  | some k =>
    let runs := x.runs.filterMap (releaseRecord x c (k.dir.map (·.1)))
    { x with
      ctxs := (x.ctxs.filter (·.num != c)).map (fun (d : Context) =>
        { d with dir := d.dir.map (fun e => (e.1, e.2 && !runs.any (fun r => r.id == e.1 && r.owner == d.num))) }),
      runs := runs }

/-- Index entries whose record is gone leave the index (R175). -/
def State.trimIndex (s : State) (f : FormeId) : State :=
  { s with index := s.index.filter (fun e => e.forme != f || (s.forme f).runs.any (fun r => r.id == e.run && !r.bad && r.refs != 0)) }

/-- Free the versions that are no longer newest, that no launch pins and no resident context names (R261). -/
def Forme.freeVersions (x : Forme) : Forme :=
  let pinned (m v : BitVec 32) : Bool :=
    x.launches.any (fun l => launchOpen l && (l.phase == .running) && entryMatter l.entry == m && l.version == v) ||
    x.ctxs.any (fun c => ctxResident c && c.matter == m && c.version == v)
  let kept := x.matters.map (fun m => { m with versions := m.versions.filter (fun v => m.newest == some v.number || pinned m.id v.number) })
  { x with matters := kept.filter (fun m => !m.versions.isEmpty) }

/-- Release the contexts whose releasing launch, and every launch of theirs admitted before it, have completed (R265). -/
def Forme.releaseDue (x : Forme) : Forme :=
  (x.ctxs.filter (fun c => match c.releasing with
    | some o => !x.launches.any (fun l => launchOpen l && entryOpcode l.entry == 1 && entryContext l.entry == c.num && l.order ≤ o && l.phase == .running)
    | none => false)).foldl (fun y c => y.releaseCtx c.num) x

/-! ### Records and rings (R244, R251, R253) -/

/-- The record of R251 as its 64 bytes. -/
def recordBytes (r : Record) : List Byte :=
  leBytes 8 (place 0 r.seq.toNat ||| place 48 r.status.toNat).toNat
  ++ leBytes 8 (place 0 r.flags.toNat ||| place 32 r.version.toNat).toNat
  ++ leBytes 8 r.elapsed.toNat
  ++ leBytes 8 (place 0 r.matter.toNat ||| place 32 r.ctx.toNat ||| place 48 r.passed.toNat).toNat
  ++ (r.result ++ List.replicate (32 - r.result.length) 0).take 32

/-- Ring depth, entries (R242, R243). -/
def ringDepth (r : Ring) : Nat := 2 ^ r.depth.toNat
/-- The host address of a record slot (R242). -/
def recordAddr (r : Ring) (q : Seq) : HostAddr := BitVec.ofNat 64 (r.cpl.toNat + 64 * (q.toNat % ringDepth r))
/-- The host address of an entry slot (R242). -/
def entryAddr (r : Ring) (q : Seq) : HostAddr := BitVec.ofNat 64 (r.base.toNat + 256 * (q.toNat % ringDepth r))

/-- Where a sequence number stands after DONE (R242). -/
def seqAhead (done q : Seq) : Nat := (q - done).toNat

/-- Insert a held record in sequence order (R253). -/
def insertHeld (done : Seq) (r : Record) : List Record → List Record
  | [] => [r]
  | h :: t => if seqAhead done r.seq < seqAhead done h.seq then r :: h :: t else h :: insertHeld done r t

/-- Advance DONE over the records that are written; `fuel` bounds it by their number (R251). -/
def advanceDone : Nat → Ring → Ring
  | 0, r => r
  | n + 1, r => if r.written.contains r.done then
      advanceDone n { r with done := r.done + 1, written := r.written.filter (· != r.done), evtDue := true }
    else r

/-- FAULT as it reads once DONE names a held launch (R253, R350). -/
def ringFault (r : Ring) : Code :=
  if r.state != 2 then 0
  else if r.entryFault && (r.done == r.head || r.held.any (·.seq == r.done) || r.heldResults.contains r.done) then 0x1102
  else if r.held.any (·.seq == r.done) then 0x0D06
  else if r.heldResults.contains r.done then 0x0D07
  else 0

/-- A ring whose disable was asked reaches STATE 0 when nothing of it is in flight or held (R244). -/
def settleRing (x : Forme) (r : RingId) : Forme :=
  let y := advanceDone (x.ring r).written.length (x.ring r)
  let y1 := { y with fault := ringFault y }
  let idle := !x.launches.any (fun l => l.ring == r) && y1.held.isEmpty && !y1.fetching
  x.setRing r (if y1.state == 3 && idle then { y1 with state := 0, enable := false, disableMemo := false } else y1)

/-- The ring enters STATE 2; a disable under way is remembered (R244, R253). -/
def Ring.enterFaulted (r : Ring) : Ring :=
  if r.state == 2 then r else { r with state := 2, evtDue := true, disableMemo := r.disableMemo || r.state == 3 }

/-- The STATE a ring takes when its hold is empty (R253). -/
def afterHold (x : Forme) (r : Ring) : BitVec 3 :=
  if r.disableMemo then 3 else if x.drained || x.stopped then 4 else 1

/-- Take an entry's launch off the list and settle its ring. -/
def dropLaunch (x : Forme) (r : RingId) (q : Seq) : Forme :=
  settleRing { x with launches := x.launches.filter (fun l => !(l.ring == r && l.seq == q)),
                      slugs := x.slugs.filter (fun sl => !(sl.ring == r && sl.seq == q)) } r

/-- The record of a completing entry (R251). -/
def makeRecord (now : Word) (l : Launch) : Record :=
  { seq := l.seq, status := launchStatus l, flags := l.flags, version := if entryOpcode l.entry == 1 then l.version else 0,
    elapsed := now - l.fetched, matter := entryMatter l.entry, ctx := entryContext l.entry, passed := l.passed, result := l.result }

/-- The entry completes: what it pins and creates is released, its slot returns, and its record is written, or held while
its ring is in STATE 2 (R251, R253, R256, R261, R265). -/
def State.completeEntry (s : State) (f : FormeId) (r : RingId) (q : Seq) : State :=
  match findLaunch (s.forme f) r q with
  | none => s
  | some l =>
    let rec' := makeRecord s.time.ticks l
    let s1 := s.modForme f (fun x =>
      let y : Forme := modLaunch x r q (fun l => { l with phase := .writing, record := some rec' })
      let z := { y with ctxs := y.ctxs.map (fun (c : Context) => if c.creator == some (r, q) then { c with creator := none } else c) }
      z.releaseDue.freeVersions)
    let s2 := s1.trimIndex f
    if ((s2.forme f).ring r).state == 2 then
      s2.modForme f (fun x =>
        let g := x.ring r
        dropLaunch (x.setRing r { g with held := insertHeld g.done rec' g.held }) r q)
    else s2.formeDwr f (.record f r q) (recordAddr ((s2.forme f).ring r) q) (recordBytes rec')

/-- An entry completes with a status and without running: a context it created is released, and the code is kept (R249,
R265, R412). -/
def State.completeWith (s : State) (f : FormeId) (r : RingId) (q : Seq) (c : Code) : State :=
  let s1 := s.modForme f (fun x =>
    let y := modLaunch x r q (fun l => { l with ended := some c, phase := .running })
    (y.ctxs.filter (fun k => k.creator == some (r, q))).foldl (fun z k => z.releaseCtx k.num) y)
  (s1.noteCode f c).completeEntry f r q

/-- Every slug of the launch has ended (R263). -/
def launchSlugsEnded (x : Forme) (l : Launch) : Bool :=
  (x.slugs.filter (fun sl => sl.ring == l.ring && sl.seq == l.seq)).all slugEnded

/-- The launch may complete: END ran or a status was imposed, and its slugs have ended (R251, R263). -/
def launchReady (x : Forme) (l : Launch) : Bool :=
  l.phase == .running && (l.ended.isSome || l.imposedStatus.isSome) && launchSlugsEnded x l

/-- A fault that no one slug has ends a running launch: its slugs that are not at their pass point fail, and the fault is ranked with
those of slugs (R146, R67, R413). -/
def Forme.failLaunch (x : Forme) (now : Word) (r : RingId) (q : Seq) (c : Code) : Forme :=
  let y := (x.slugs.filter (fun sl => sl.ring == r && sl.seq == q)).foldl (fun y sl => y.endSlug sl.tag .failed c) x
  modLaunch y r q (fun l => { l with fault := mergeFault l.fault now c, ended := some (l.ended.getD 0) })

/-- Impose a status on a running launch: its slugs that are not at their pass point fail (R257, R264). -/
def Forme.imposeStatus (x : Forme) (r : RingId) (q : Seq) (c : Code) : Forme :=
  let y := (x.slugs.filter (fun sl => sl.ring == r && sl.seq == q)).foldl (fun y sl => y.endSlug sl.tag .failed c) x
  modLaunch y r q (fun l => { l with imposedStatus := mergeImposed l.imposedStatus c })

end Sys2Proof.Machine
end

