-- ==== Sys2Proof/Machine/Operands.lean ====
section
/-! DEFINITION. The operand forms: who a host request is for (R331, R332, R407), and where a device address leads
(R336, R337), with the reads and writes of a forme's own space. -/
namespace Sys2Proof.Machine

/-! ### Host requests -/

/-- Who answers a host request. -/
inductive HostTarget where
  /-- the port is down: nothing arrives -/
  | absent
  /-- BUS_ERROR and no effect (R332) -/
  | denied
  /-- the management window of the port -/
  | management
  | forme (f : FormeId)
  /-- a forme in a per-function reset, phases 1 to 5 (R407) -/
  | resetting (f : FormeId)
  deriving DecidableEq, Repr

/-- The port has trained (R341, R349 LINK 2 or 3) and the module has power. -/
def State.portUp (s : State) (p : PortId) : Bool := s.isOn && 2 ≤ (s.port p).link.toNat

/-- Who answers (R331, R332, R407). -/
def hostTarget (s : State) (h : HostReq) : HostTarget :=
  if !s.portUp h.port then .absent
  else if h.fn.val = 16 then (if h.sec then .management else .denied)
  else match s.bound h.port h.fn with
    | some f => if (s.forme f).ecp.phase = 0 then .forme f else .resetting f
    | none => .denied

/-- The answer to a faulted request: an HCPL with STATUS BUS_ERROR and no data (R11, R332, R344). -/
def State.busError (s : State) (h : HostReq) : State := s.ecpOut h.port 2 1 (.hcpl h.port h.fn h.tag .busError [])

/-- A host write to a register of a forme's window: the effect for the forme; BUS_ERROR where R332 says so; ignored during a
per-function reset (R407) and in the management window, which has no such register. -/
def formeWrite (s : State) (h : HostReq) (k : FormeId → State) : State :=
  match hostTarget s h with
  | .forme f => k f
  | .denied => s.busError h
  | .management | .resetting _ | .absent => s

/-- As `formeWrite`, for a register of the management window; a forme's function has no such register. -/
def managementWrite (s : State) (h : HostReq) (k : PortId → State) : State :=
  match hostTarget s h with
  | .management => k h.port
  | .denied => s.busError h
  | .forme _ | .resetting _ | .absent => s

/-! ### Device addresses -/

/-- Where a device address leads for a forme: bytes of its own stack space or explicit regions, its spill range, host memory
through its port, another module, or nowhere, with the status of R119 or R337. -/
inductive Place where
  | stack (off : Nat)
  | galley (addr : Nat)
  | spill (off : Nat)
  | host (addr : HostAddr)
  | remote (mod : BitVec 12) (off : BitVec 40)
  | bad (c : Code)
  deriving DecidableEq, Repr

/-- Decode a device address for an access of `n` bytes (R118, R119, R336, R337). -/
def place? (s : State) (f : FormeId) (a : BitVec 56) (n : Nat) : Place :=
  let space := a.toNat / 2 ^ 52
  let low := a.toNat % 2 ^ 52
  match (s.forme f).cfg with
  | none => .bad 0x1104
  | some c =>
    match space with
    | 0 => if low < 2 ^ 40 && low + n ≤ c.stackGib * 2 ^ 30 then .stack low else .bad 0x1104
    | 1 => if 2 ^ 40 ≤ low then .bad 0x1104 else if s.galleyOk f low n then .galley low else .bad 0x0703
    | 3 => if low < 2 ^ 40 && low + n ≤ c.spillGib * 2 ^ 30 then .spill low else .bad 0x1104
    | 4 | 5 | 6 | 7 => if space - 4 = c.port.val then .host (BitVec.ofNat 64 low) else .bad 0x1103
    | 8 => .remote (BitVec.ofNat 12 (low / 2 ^ 40)) (BitVec.ofNat 40 low)
    | _ => .bad 0x1104

/-- The address lies in the forme's own space: its stack space or its explicit regions (R51, R158, R209). -/
def ownSpace (s : State) (f : FormeId) (a : BitVec 56) (n : Nat) : Bool :=
  match place? s f a n with
  | .stack _ | .galley _ => true
  | _ => false

/-- Bytes of the forme's own space. -/
def ownRead (s : State) (f : FormeId) (a : BitVec 56) (n : Nat) : Option (List Byte) :=
  match place? s f a n with
  | .stack off => s.stackRead f off n
  | .galley g => some (galleyBytes s.galley g n)
  | _ => none

/-- A 64-bit word of the forme's own space. -/
def ownWord (s : State) (f : FormeId) (a : BitVec 56) : Option Word := (ownRead s f a 8).map leWord

/-- The words of a descriptor of `n` words in the forme's own space. -/
def ownWords (s : State) (f : FormeId) (a : BitVec 56) (n : Nat) : Option (List Word) :=
  (ownRead s f a (8 * n)).map (fun bs => (List.range n).map (fun i => leWord ((bs.drop (8 * i)).take 8)))

/-- An access of the bytes would read a poisoned line (R147). -/
def ownPoisoned (s : State) (f : FormeId) (a : BitVec 56) (n : Nat) : Bool :=
  match place? s f a n with
  | .stack off => s.stackPoisoned f off n
  | _ => false

/-- Count a detection on a forme's read and against its channel, by line (R146, R148, R154). -/
def countDetect (s : State) (f : FormeId) (ch : ChannelId) (line : Nat) : State :=
  let s1 := s.modForme f (fun x => { x with detects := satInc x.detects })
  { s1 with stack := { s1.stack with detects := s1.stack.detects ++ [(ch, line, s.time.stroke)] } }

/-- A read of a poisoned line of the forme's stack space by other than a running slug: counted (R146, R147). -/
def countPoison (s : State) (f : FormeId) (off n : Nat) : State :=
  match (s.forme f).cfg with
  | some c => ((stackLines c off n).filter s.stack.isPoisoned).foldl (fun t l => countDetect t f (channelOf (l * 256)) l) s
  | none => s

/-- Bytes the spec gives no value for. -/
def freeBytes (s : State) (n : Nat) : List Byte := (List.range n).map (fun i => (Config.freeValue (s.free + i)).truncate 8)

/-- An engine reads bytes of its forme's own space for itself: a poisoned line among them is a detection, after which the values read are
open (R146, R147; log 52). -/
def engineRead (s : State) (f : FormeId) (a : BitVec 56) (n : Nat) : Option (List Byte × State) :=
  match place? s f a n with
  | .stack off =>
    if s.stackPoisoned f off n then some (freeBytes s n, { countPoison s f off n with free := s.free + n })
    else (s.stackRead f off n).map (fun bs => (bs, s))
  | .galley g => some (galleyBytes s.galley g n, s)
  | _ => none

/-- A sheet's watched copy lies in one of the pages given. -/
def pagesHit (pages : List Nat) (src : Option Nat) (n : Nat) : Bool :=
  match src with
  | some p => pages.any (fun g => p ≤ g && g < p + n)
  | none => false

/-- Pages of a sheet by the plan in force. -/
def sheetPages (x : Forme) (h : SheetId) : Nat := match x.makeup.plan.find? (·.sheet == h) with | some p => p.pages | none => 1

/-- A write lands in pages of the forme's stack space: watched galley copies of them are invalidated, to be refetched before
their next read (R130). -/
def invalidatePages (x : Forme) (pages : List Nat) : Forme :=
  let hit := (x.makeup.plan.filter (fun p => pagesHit pages p.src p.pages)).map (·.sheet)
  { x with makeup := { x.makeup with
      staged := x.makeup.staged.filter (fun t => !pagesHit pages t.src (sheetPages x t.sheet)),
      stale := x.makeup.stale ++ hit.filter (fun h => !x.makeup.stale.contains h) } }

/-- The 64 KiB pages of `n` bytes at an offset. -/
def pagesOf (off n : Nat) : List Nat :=
  if n = 0 then [] else (List.range ((off + n - 1) / 65536 + 1 - off / 65536)).map (· + off / 65536)

/-- Write bytes of a forme's stack space with a hint, and invalidate the watched copies (R130). -/
def watchedStore (s : State) (f : FormeId) (h : Hint) (off : Nat) (data : List Byte) : State :=
  (s.stackStore f h off data).modForme f (fun x => invalidatePages x (pagesOf off data.length))

/-- As `watchedStore`, with the normal hint. -/
def watchedWrite (s : State) (f : FormeId) (off : Nat) (data : List Byte) : State := watchedStore s f .normal off data

/-- Write bytes of the forme's own space. -/
def ownWrite (s : State) (f : FormeId) (a : BitVec 56) (data : List Byte) : State :=
  match place? s f a data.length with
  | .stack off => watchedWrite s f off data
  | .galley g => s.galleyWrite g data
  | _ => s

/-- A device address in [55:0] of a word. -/
def devAddr (w : Word) : BitVec 56 := w.truncate 56

end Sys2Proof.Machine
end

