-- ==== Sys2Proof/Machine/Leaves.lean ====
section
/-! DEFINITION. The leaf engine's tables: attention descriptors (R158), run records and their allotment (R159 to R165), the
hash chain and the catchword index (R171 to R175). -/
namespace Sys2Proof.Machine

/-! ### Attention descriptors (R158) -/

/-- An attention descriptor. -/
structure AttnDesc where
  (groups qheads : Nat)
  (kSigned vSigned causal retain : Bool)
  round : Nat
  scale : BitVec 32
  (kvec vvec : BitVec 56)
  rope : BitVec 32
  deriving DecidableEq, Repr, Inhabited

/-- Read an attention descriptor of four words; none where a field lies outside R158. -/
def attnDesc? (ws : List Word) : Option AttnDesc :=
  match ws with
  | [w0, w1, w2, w3] =>
    let d : AttnDesc := {
      groups := fld w0 7 0, qheads := fld w0 15 8, kSigned := bitOf w0 16, vSigned := bitOf w0 17, causal := bitOf w0 18,
      retain := bitOf w0 19, round := fld w0 21 20, scale := BitVec.ofNat 32 (fld w0 63 32), kvec := devAddr w1,
      vvec := devAddr w2, rope := BitVec.ofNat 32 (fld w3 31 0) }
    if 1 ≤ d.groups && d.groups ≤ 64 && 1 ≤ d.qheads && d.qheads ≤ 64 && d.round ≤ 2 then some d else none
  | _ => none

/-- A column-vector entry: scale and signed zero point (R104). -/
def vectorEntry (w : Word) : BitVec 32 × Int := (BitVec.ofNat 32 (fld w 31 0), (BitVec.ofNat 16 (fld w 47 32)).toInt)

/-- Zero points of a 4-bit half: 0 when signed, a UINT 4 code otherwise (R96, R158). -/
def halfZeroOk (signed : Bool) (z : Int) : Bool := if signed then z == 0 else 0 ≤ z && z ≤ 15

/-- Attention descriptors of a version by first use: their order numbers the layers (log 30). -/
def layerAddrs (v : Version) : List (BitVec 56) :=
  (v.ops.filter (fun o => opKind o == 0x03)).foldl (fun acc o =>
    let a := devAddr (opWord o 1)
    if acc.contains a then acc else acc ++ [a]) []

/-- The layer of an attention descriptor. -/
def layerOf (v : Version) (a : BitVec 56) : Nat := (layerAddrs v).findIdx (· == a)

/-- Layers × GROUPS of a version, from its first readable descriptor (R158, R160). -/
def versionLg (s : State) (f : FormeId) (v : Version) : Nat :=
  match (layerAddrs v).filterMap (fun a => (ownWords s f a 4).bind attnDesc?) with
  | d :: _ => (layerAddrs v).length * d.groups
  | [] => 0

/-! ### Allotment (R159) -/

/-- Leaf entries of a context's run record: LG for each of its sequences, which share one record (R161, R265; log 36). -/
def Context.leaves (c : Context) : Nat := c.lg * max 1 c.shape.1

/-- Bytes of a run record with a number of leaf entries (R161); R159's allotment for the forme's leaf bound counts them so, 80 bytes at
LG = 1. -/
def recordSize (leaves : Nat) : Nat := 64 + 8 * leaves

/-- Bytes of the forme's allotment in use: records, and 4 KiB of directory for each 512 runs (R159, R160). -/
def allotUsed (x : Forme) : Nat :=
  sumNat (x.runs.map (fun r => recordSize r.leaves.length)) + sumNat (x.ctxs.map (fun c => 4096 * ceilDiv c.dir.length 512))

/-- Bytes more that a context needs to hold `n` positions. -/
def allotNeed (c : Context) (n : Nat) : Nat :=
  let runs := ceilDiv n 256
  if runs ≤ c.dir.length then 0
  else (runs - c.dir.length) * recordSize c.leaves + 4096 * (ceilDiv runs 512 - ceilDiv c.dir.length 512)

/-! ### The chain (R171) -/

/-- The bytes of a descriptor set. -/
def dsetBytes (q : List QDesc) : List Byte := q.flatMap (fun d => leBytes 8 d.w0.toNat ++ leBytes 8 d.w1.toNat)

/-- The descriptor set the inker writes with a copy: that of the image, SHARED set in each descriptor of a shared one (R104, R231). -/
def imageSet (i : ImageCopy) : List QDesc :=
  i.dir.descriptors.map (fun d => { d with w0 := if i.shared then d.w0 ||| oneBit 64 58 else d.w0 })

/-- The descriptors at a base: those the inker wrote with an image copy, or the records that stand at an address (R104, R107). -/
def setAt (s : State) (f : FormeId) : SetBase → List QDesc
  | .none => []
  | .image g => match s.copy g with | some i => imageSet i | none => []
  | .placed a n _ => (List.range n).map (fun i => match ownWords s f (a + BitVec.ofNat 56 (16 * i)) 2 with
      | some [w0, w1] => { w0 := w0, w1 := w1 }
      | _ => { w0 := 0, w1 := 0 })

/-- The bytes of a 256-bit value. -/
def hashBytes (h : BitVec 256) : List Byte := leBytes 32 h.toNat

/-- The model binding B of a version's MODEL_BINDING (R171). -/
def modelBinding (s : State) (f : FormeId) (v : Version) : BitVec 256 :=
  let b := (s.forme f).inker.bindings[v.binding.val]
  let id : BitVec 256 := match bindingImage s f v.binding with | some i => i.imageId | none => 0
  let descs := (layerAddrs v).flatMap (fun a => (ownRead s f a 32).getD [])
  shake256Hash (ascii "KTCWB" ++ hashBytes id ++ hashBytes b.bHash ++ hashBytes (shake256Hash descs))

/-- The domain secret of a forme's sharing domain (R171, R365). -/
def domainSecret (s : State) (c : FormeCfg) : BitVec 256 :=
  match s.colo.kDom[c.domain.val] with | some n => Config.entropy n | none => 0

/-- h_-1. -/
def chainStart (k b : BitVec 256) : BitVec 256 := shake256Hash (ascii "KTCW0" ++ hashBytes k ++ hashBytes b)

/-- h_r from h_(r-1) and the 256 tokens of run r. -/
def chainNext (k h : BitVec 256) (tokens : List Nat) : BitVec 256 :=
  shake256Hash (ascii "KTCW1" ++ hashBytes k ++ hashBytes h ++ tokens.flatMap (leBytes 4))

/-! ### The index (R172, R173) -/

/-- The home entry of a hash. -/
def indexHome (h : BitVec 256) : Nat := h.toNat % 2 ^ 18
/-- The TAG of a hash. -/
def indexTag (h : BitVec 256) : BitVec 16 := BitVec.ofNat 16 (h.toNat / 2 ^ 24)
/-- The eight slots of a probe, wrapping within the partition. -/
def probeSlots (h : BitVec 256) : List (BitVec 18) := (List.range 8).map (fun i => BitVec.ofNat 18 (indexHome h + i))

/-- The entry of a slot of a domain's partition, if VALID. -/
def indexAt (s : State) (d : Fin 16) (slot : BitVec 18) : Option IndexEntry :=
  s.index.find? (fun e => e.domain == d && e.slot == slot)

/-- The record an index entry names. -/
def entryRecord (s : State) (e : IndexEntry) : Option RunRec := (s.forme e.forme).runs.find? (·.id == e.run)

/-- Probe a domain's partition for a hash (R172). -/
def probe (s : State) (d : Fin 16) (h : BitVec 256) : Option IndexEntry :=
  (probeSlots h).findSome? (fun sl => match indexAt s d sl with
    | some e => if e.tag == indexTag h && ((entryRecord s e).any (fun r => r.hash == h)) then some e else none
    | none => none)

/-- Insert a full run that ends a quad (R173): skipped when an equal hash stands or the eight entries are all VALID. -/
def indexInsert (s : State) (d : Fin 16) (f : FormeId) (run : Nat) (h : BitVec 256) : State :=
  if (probe s d h).isSome then s
  else match (probeSlots h).find? (fun sl => (indexAt s d sl).isNone) with
    | some sl =>
      let s1 := { s with index := s.index ++ [IndexEntry.mk d sl f run (indexTag h)] }
      s1.modForme f (fun x => { x with runs := updFirst (·.id == run) (fun r => { r with indexed := true }) x.runs })
    | none => s

/-! ### Contexts and appends (R160, R164, R165, R169) -/

/-- A new context (R160, R169, R265, R267): resident while fewer than RESIDENT_MAX are. -/
def newContext (s : State) (f : FormeId) (l : Launch) (v : Version) (weight : Nat) (batch : Bool) : Context :=
  let x := s.forme f
  let n := max 1 (s.liveCores f).length
  let num := entryContext l.entry
  let k := match x.cfg with | some c => domainSecret s c | none => 0
  { num := num, state := if residentCount x < x.sched.residentMax then .resident else .swapped, weight := weight, batch := batch,
    deficit := 0, charges := 0, active := true, length := 0, coreOrigin := num.toNat % n, lg := versionLg s f v, dir := [],
    chain := chainStart k (modelBinding s f v), openTokens := [],
    shape := (entrySequences l.entry, entryPositions l.entry + entryNewPositions l.entry), matter := entryMatter l.entry, version := v.number,
    creator := some (l.ring, l.seq), releasing := none, ready := 0, ring := l.ring, image := 0, imageAt := .save [], swapNo := 0,
    saved := [], outside := [] }

/-- The leaf entry the plan in force gives a leaf of the context, by sheet index (R161, R165). -/
def plannedLeaf (x : Forme) (c : Context) (index : Nat) : LeafEntry :=
  let none' : LeafEntry := { valid := false, spill := false, page := 0 }
  match x.makeup.plan.find? (fun p => p.cls == 1 && p.sheet.ctx == c.num && p.sheet.index == index) with
  | some p => match p.home, p.src, p.spill with
    | .stackPage a, _, _ | .galley _ _, some a, _ => { valid := true, spill := false, page := BitVec.ofNat 32 a }
    | .spillPage a, _, _ | .galley _ _, none, some a => { valid := true, spill := true, page := BitVec.ofNat 32 a }
    | _, _, _ => none'
  | none => none'

/-- A run record with no slot committed (R161, R165). -/
def newRun (x : Forme) (c : Context) (r : Nat) : RunRec :=
  { id := x.nextRun, hash := 0, prev := if r = 0 then none else (c.dir[r - 1]?).map (·.1), run := r, owner := c.num, refs := 1,
    fill := 0, lg := c.lg, full := false, indexed := false, bad := false, holds := 0,
    leaves := (List.range c.leaves).map (fun e => plannedLeaf x c (r * c.leaves + e)) }

/-- Make sure that a context's directory names a record for every run of its first `n` positions (R165); `fuel` bounds the
runs made at once. -/
def growRuns : Nat → Forme → BitVec 16 → Nat → Forme
  | 0, x, _, _ => x
  | k + 1, x, c, n =>
    match findCtx x c with
    | some ctx =>
      if ctx.dir.length * 256 < n then
        let r := newRun x ctx ctx.dir.length
        growRuns k (modCtx { x with runs := x.runs ++ [r], nextRun := x.nextRun + 1 } c (fun k => { k with dir := k.dir ++ [(r.id, false)] })) c n
      else x
    | none => x

/-- Absorb one committed token: it joins the open run, and a run that becomes full is finalised and, at the end of a quad,
indexed (R164, R173). -/
def absorbToken (s : State) (f : FormeId) (c : BitVec 16) (tok : Nat) : State :=
  match (s.forme f).cfg, findCtx (s.forme f) c with
  | some cfg, some ctx =>
    let toks := ctx.openTokens ++ [tok]
    let r := ctx.length / 256
    let fill := ctx.length % 256 + 1
    let setFill (g : RunRec → RunRec) (x : Forme) : Forme := match ctx.dir[r]? with
      | some (id, _) => { x with runs := updFirst (·.id == id) g x.runs }
      | none => x
    if fill < 256 then
      s.modForme f (fun x => modCtx (setFill (fun q => { q with fill := fill }) x) c
        (fun k => { k with openTokens := toks, length := k.length + 1 }))
    else
      let h := chainNext (domainSecret s cfg) ctx.chain toks
      let s1 := s.modForme f (fun x => modCtx (setFill (fun q => { q with fill := 256, full := true, hash := h }) x) c
        (fun k => { k with openTokens := [], chain := h, length := k.length + 1 }))
      match ctx.dir[r]? with
      | some (id, _) => if r % 4 = 3 then indexInsert s1 cfg.domain f id h else s1
      | none => s1
  | _, _ => s

/-- The tokens the manual has the leaf engine absorb: those of the launch's prompt where a match names it, otherwise values
the manual gives the model no source for, and so free (log 31). -/
def tokenAt (s : State) (prompt : List Nat) (pos i : Nat) : Nat :=
  match prompt[pos]? with
  | some t => t
  | none => (Config.freeValue (s.free + i)).toNat % 2 ^ 32

/-! ### Matching (R174) -/

/-- Hash the prompt's runs in order from h_-1 and count consecutive quad hits, stopping at the first miss and at a BAD record:
the hits' last entry and the number of runs. -/
def matchRuns (s : State) (d : Fin 16) (k : BitVec 256) : Nat → BitVec 256 → Nat → List Nat → Nat → Option IndexEntry → Nat × Option IndexEntry
  | 0, _, _, _, m, e => (m, e)
  | n + 1, h, r, toks, m, e =>
    let h' := chainNext k h (toks.take 256)
    if r % 4 = 3 then
      match probe s d h' with
      | some i => if (entryRecord s i).any (fun q => q.bad) then (m, e) else matchRuns s d k n h' (r + 1) (toks.drop 256) (m + 4) (some i)
      | none => (m, e)
    else matchRuns s d k n h' (r + 1) (toks.drop 256) m e

/-- M in runs and the deepest hit, for a context's prompt of `p` tokens: runs 0 to ⌊(P − 1) ÷ 256⌋ − 1 are hashed. -/
def matchPromptRuns (s : State) (c : FormeCfg) (ctx : Context) (prompt : List Nat) (p : Nat) : Nat × Option IndexEntry :=
  matchRuns s c.domain (domainSecret s c) ((p - 1) / 256) ctx.chain 0 (prompt.take p) 0 none

/-- The records of a chain from a record back to run 0, deepest first; `fuel` bounds its length. -/
def chainBack (x : Forme) : Nat → Option Nat → List RunRec
  | 0, _ => []
  | n + 1, id => match id.bind (fun i => x.runs.find? (·.id == i)) with
    | some r => r :: chainBack x n r.prev
    | none => []

/-- Fill the directory with matched runs of the same forme: SHARED, one more reference each; the split follows the owner of
run 0 (R169, R174). -/
def shareRuns (x : Forme) (c : BitVec 16) (rs : List RunRec) : Forme :=
  let ids := rs.map (·.id)
  let origin := (rs.head?.bind (fun r => findCtx x r.owner)).map (·.coreOrigin)
  let last := rs.getLast?
  let y := { x with runs := x.runs.map (fun r => if ids.contains r.id then { r with refs := r.refs + 1 } else r) }
  modCtx y c (fun k => { k with
    dir := ids.map (fun i => (i, true)), length := 256 * rs.length, openTokens := [],
    chain := match last with | some r => r.hash | none => k.chain,
    coreOrigin := origin.getD k.coreOrigin })

/-- The record that a copy of another forme's matched run becomes: FULL, one's own, its leaves at the homes planned for them (R174). -/
def copiedRun (x : Forme) (c : Context) (r : RunRec) : RunRec :=
  { newRun x c r.run with hash := r.hash, fill := 256, full := true }

/-! ### The tables as bytes (R7, R160, R161); where the engine puts them is a value the manual leaves open (log 96) -/

/-- A leaf entry (R161). -/
def leafWord (l : LeafEntry) : Word := placeBit 0 l.valid ||| placeBit 1 l.spill ||| place 4 l.page.toNat

/-- The record of a number's offset ÷ 64, all ones for none. -/
def recordRef (f : FormeId) (r : Option Nat) : Nat := match r with | some i => (Config.recordOffset f.val i).toNat | none => 0xFFFFFFFF

/-- A run record: its head of 64 bytes and its leaf entries (R161). -/
def runBytes (f : FormeId) (r : RunRec) : List Byte :=
  hashBytes r.hash ++ leBytes 4 (recordRef f r.prev) ++ leBytes 4 r.run ++ leBytes 4 r.owner.toNat ++ leBytes 4 r.refs ++ leBytes 2 r.fill ++
    leBytes 2 r.lg ++ leBytes 1 (r.full.toNat + 2 * r.indexed.toNat + 4 * r.bad.toNat) ++ leBytes 1 f.val ++ leBytes 10 0 ++
    r.leaves.flatMap (fun l => leBytes 8 (leafWord l).toNat)

/-- A directory entry of a run (R160). -/
def dirWord (f : FormeId) (d : Nat × Bool) : Word := placeBit 0 true ||| placeBit 1 d.2 ||| place 8 (Config.recordOffset f.val d.1).toNat

/-- A context's run directory, in chunks of 512 entries (R160). -/
def dirBytes (f : FormeId) (c : Context) : List Byte :=
  let es := c.dir.flatMap (fun d => leBytes 8 (dirWord f d).toNat)
  es ++ List.replicate (4096 * ceilDiv c.dir.length 512 - es.length) 0

/-- HASH_STATE: the hash of the open run over the tokens it has (R160, R171). -/
def hashState (s : State) (k : FormeCfg) (c : Context) : List Byte :=
  shakeState (ascii "KTCW1" ++ hashBytes (domainSecret s k) ++ hashBytes c.chain ++ c.openTokens.flatMap (leBytes 4))

/-- A context header of 256 bytes (R160). -/
def headerBytes (s : State) (f : FormeId) (k : FormeCfg) (c : Context) : List Byte :=
  hashState s k c ++ leBytes 4 c.length ++ leBytes 4 c.coreOrigin ++ leBytes 4 (Config.directoryOffset f.val c.num).toNat ++ leBytes 2 c.lg ++
    leBytes 1 k.domain.val ++ leBytes 1 f.val ++ leBytes 40 0

end Sys2Proof.Machine
end

