-- ==== Sys2Proof/Machine/Matter.lean ====
section
/-! DEFINITION. Standing-matter images: their layout and the checks of STORE and PATCH (R258 to R260). -/
namespace Sys2Proof.Machine

/-- A weight format code of R82. -/
def weightFormat (c : Nat) : Bool :=
  (0x01 ≤ c && c ≤ 0x10) || (0x22 ≤ c && c ≤ 0x30) || (0x41 ≤ c && c ≤ 0x47) || (0x61 ≤ c && c ≤ 0x6F)
/-- An activation format code of R83. -/
def activationFormat (c : Nat) : Bool :=
  (0x01 ≤ c && c ≤ 0x10) || (0x22 ≤ c && c ≤ 0x30) || (0x41 ≤ c && c ≤ 0x49) || (0x57 ≤ c && c ≤ 0x59)
/-- An output format code of R89. -/
def outputFormat (c : Nat) : Bool :=
  (0x01 ≤ c && c ≤ 0x10) || (0x22 ≤ c && c ≤ 0x30) || (0x81 ≤ c && c ≤ 0x85) || (0x8A ≤ c && c ≤ 0x90)
/-- The formats a tensor of a class may have (R260). -/
def classFormat (cls c : Nat) : Bool :=
  if cls = 0 then weightFormat c else if cls = 1 then c == 0x04 || c == 0x24 else activationFormat c || outputFormat c

/-- One section table entry (R30). -/
structure SectionEntry where
  (type version offset length size count : Nat)
  deriving DecidableEq, Repr, Inhabited

/-- The section table entry at an offset of an image. -/
def sectionAt (b : Blob) (off : Nat) : SectionEntry :=
  { type := blobLe b off 2, version := blobLe b (off + 2) 2, offset := blobLe b (off + 4) 4, length := blobLe b (off + 8) 4,
    size := blobLe b (off + 12) 2, count := blobLe b (off + 14) 2 }

/-- Two spans share no byte. -/
def sectionApart (a b : SectionEntry) : Bool := a.offset + a.length ≤ b.offset || b.offset + b.length ≤ a.offset

/-- Sections do not overlap. -/
def sectionsApart : List SectionEntry → Bool
  | [] => true
  | e :: es => es.all (sectionApart e) && sectionsApart es

/-- The bounds of R30 for a section that ends by `limit`. -/
def sectionBounds (limit : Nat) (e : SectionEntry) : Bool :=
  e.offset % 16 == 0 && 0x100 ≤ e.offset && e.length == 16 + e.size * e.count && e.offset + e.length ≤ limit

/-- RECORD_SIZE of a standing-matter section (R258). -/
def matterRecordSize : Nat → Nat
  | 1 => 1
  | 2 => 32
  | 3 => 16
  | 4 => 64
  | 5 => 1
  | _ => 0

/-- A tensor record (R259). -/
def readTensor (b : Blob) (off : Nat) : TensorRec :=
  let w0 := blobWord b off
  let w1 := blobWord b (off + 8)
  { handle := BitVec.ofNat 32 (fld w0 31 0), format := BitVec.ofNat 8 (fld w0 39 32), cls := fld w0 41 40, scaleSeq := bitOf w0 42,
    pin := bitOf w0 43, isLocal := bitOf w0 44, binding := Fin.ofNat 8 (fld w0 47 45), qdesc := fld w0 63 48,
    rows := fld w1 31 0, cols := fld w1 63 32, uses := BitVec.ofNat 32 (fld (blobWord b (off + 16)) 31 0), offset := blobWord b (off + 24) }

/-- A slug record (R259). -/
def readSlugRec (b : Blob) (off : Nat) : SlugRec :=
  { ctrl := blobWord b off, firstOp := fld (blobWord b (off + 8)) 15 0, opCount := fld (blobWord b (off + 8)) 31 16 }

/-- An op record (R259). -/
def readOpRec (b : Blob) (off : Nat) : OpRec := { w := Vector.ofFn (fun i => blobWord b (off + 8 * i.val)) }

/-- The records of a section, by their reader. -/
def readRecords {α : Type} (b : Blob) (e : SectionEntry) (g : Blob → Nat → α) : List α :=
  (List.range e.count).map (fun i => g b (e.offset + 16 + e.size * i))

/-- KIND is defined in R259 or by R288 and R289. -/
def kindDefined (k : Nat) : Bool := 1 ≤ k && k ≤ 0x0A

/-- A handle word names a tensor, or means none where it may (R260). -/
def handleOk (ts : List TensorRec) (optional : Bool) (h : BitVec 32) : Bool :=
  ts.any (·.handle == h) || (optional && h == noHandle)

/-- Every handle word of an op is present (R259, R260, R322). -/
def opHandlesOk (ts : List TensorRec) (o : OpRec) : Bool :=
  match opKind o with
  | 0x01 | 0x02 => handleOk ts false (handleLo o 1) && handleOk ts false (handleHi o 1) && handleOk ts false (handleLo o 2)
      && (!opPreload o || handleOk ts false (handleHi o 2))
  | 0x03 | 0x04 => handleOk ts false (handleLo o 2) && handleOk ts false (handleLo o 3) && handleOk ts true (handleLo o 4)
  | 0x05 => handleOk ts false (handleLo o 2) && handleOk ts false (handleLo o 3)
  | 0x07 => handleOk ts false (handleLo o 1) && handleOk ts false (handleHi o 1)
  | 0x08 => handleOk ts false (handleLo o 1)
  | _ => true

/-- The format and rounding codes of a product or element-wise op (R260). -/
def opFormatsOk (o : OpRec) : Bool :=
  if opKind o == 1 || opKind o == 2 then
    weightFormat (fld (opWord o 0) 15 8) && activationFormat (fld (opWord o 0) 23 16) && outputFormat (fld (opWord o 0) 31 24) &&
    fld (opWord o 0) 33 32 ≤ 2 && fld (opWord o 0) 35 34 ≤ 2
  else true

/-- An update names a product of OPS, and its constant-block offset is a multiple of 8 from 0 to 184 (R260). -/
def opUpdateOk (ops : List OpRec) (o : OpRec) : Bool :=
  if opKind o == 6 then
    (match ops[fld (opWord o 2) 15 0]? with | some p => opKind p == 1 | none => false) &&
    fld (opWord o 3) 7 0 % 8 == 0 && fld (opWord o 3) 7 0 ≤ 184
  else true

/-- Read an image of `len` bytes as a version; none where a check of R260 fails. Its number and stroke are given later. -/
def parseMatter (b : Blob) (len : Nat) : Option Version :=
  let es := (List.range 5).map (fun i => sectionAt b (0x40 + 16 * i))
  let sec (t : Nat) : SectionEntry := (es.find? (·.type == t)).getD default
  let frame := blobLe b 0x10 2
  let need := blobLe b 0x12 1
  let model := blobLe b 0x13 1
  let headOk := 0x90 ≤ len && b.length == len && blobLe b 0 4 == 0x54414D53 && blobLe b 4 2 == 1 && blobLe b 6 2 == 0x2410 &&
    blobLe b 8 4 == len && 256 ≤ frame && frame ≤ 8192 && need ≤ 64
  let tableOk := [1, 2, 3, 4, 5].all (fun t => (es.filter (·.type == t)).length == 1) &&
    es.all (fun e => e.version == 1 && e.size == matterRecordSize e.type && sectionBounds len e) && sectionsApart es
  if headOk && tableOk then
    let ts := readRecords b (sec 2) readTensor
    let ss := readRecords b (sec 3) readSlugRec
    let os := readRecords b (sec 4) readOpRec
    let ok := distinct (ts.map (·.handle)) && ts.all (fun t => t.handle != noHandle && classFormat t.cls t.format.toNat) &&
      ss.all (fun r => 1 ≤ r.opCount && r.opCount ≤ 4096 && r.firstOp + r.opCount ≤ os.length) &&
      os.all (fun o => kindDefined (opKind o) && opHandlesOk ts o && opFormatsOk o && opUpdateOk os o) &&
      blobLe b 0x0C 4 < (sec 1).count
    if ok then some {
      number := 0, length := len, entry := blobLe b 0x0C 4, frame := frame, explicitNeed := need, binding := Fin.ofNat 8 model,
      tensors := ts, slugs := ss, ops := os, image := b, since := 0 }
    else none
  else none

/-- Bytes of the forme's standing-matter allotment: 48 MiB per core (R260). -/
def matterAllot (c : FormeCfg) : Nat := 48 * 2 ^ 20 * c.cores.length

/-- Bytes in use by the live versions (R245). -/
def matterUsed (x : Forme) : Nat := sumNat (x.matters.flatMap (fun m => m.versions.map (·.length)))

/-- Bytes of the versions that stay whatever is freed: the newest ones (R261). -/
def matterNewest (x : Forme) : Nat :=
  sumNat (x.matters.flatMap (fun m => (m.versions.filter (fun v => m.newest == some v.number)).map (·.length)))

end Sys2Proof.Machine
end

