-- ==== Sys2Proof/Machine/Formats.lean ====
section
/-! DEFINITION. Number formats and rounding (R79 to R94): exact values, the three rounding modes, the element formats, the
decoder and the output conversion. -/
namespace Sys2Proof.Machine

/-! ### Exact values and rounding (R85, R86) -/

/-- The exact value m × 2^e. -/
structure Dy where
  m : Int
  e : Int
  deriving DecidableEq, Repr, Inhabited

/-- The sum of two exact values. -/
def Dy.add (a b : Dy) : Dy :=
  let e := min a.e b.e
  { m := a.m * 2 ^ (a.e - e).toNat + b.m * 2 ^ (b.e - e).toNat, e := e }

/-- The product of two exact values. -/
def Dy.mul (a b : Dy) : Dy := { m := a.m * b.m, e := a.e + b.e }

/-- The numerator and denominator of the magnitude of an exact value. -/
def Dy.frac (a : Dy) : Nat × Nat :=
  if 0 ≤ a.e then (a.m.natAbs * 2 ^ a.e.toNat, 1) else (a.m.natAbs, 2 ^ (-a.e).toNat)

/-- ⌊log2 (n ÷ d)⌋ of a positive fraction. -/
def floorLog2 (n d : Nat) : Int :=
  let c : Int := (n.log2 : Int) - (d.log2 : Int)
  if (if 0 ≤ c then d * 2 ^ c.toNat ≤ n else d ≤ n * 2 ^ (-c).toNat) then c else c - 1

/-- Round the fraction n ÷ d to an integer in a mode of R85; `r` is the word of R86. -/
def roundNat (mode r n d : Nat) : Nat :=
  let q := n / d
  let rem := n % d
  if rem = 0 then q
  else match mode with
    | 0 => if d < 2 * rem || (2 * rem == d && q % 2 == 1) then q + 1 else q
    | 1 => q
    | _ => if r < rem * 2 ^ 32 / d then q + 1 else q

/-- Round an exact value × 2^k to an integer. -/
def Dy.round (mode r : Nat) (a : Dy) (k : Int) : Int :=
  let f := ({ a with e := a.e + k } : Dy).frac
  let q : Int := roundNat mode r f.1 f.2
  if a.m < 0 then -q else q

/-- mix of R86. -/
def mix64 (z0 : Word) : Word :=
  let z1 := (z0 ^^^ (z0 >>> 30)) * 0xBF58476D1CE4E5B9#64
  let z2 := (z1 ^^^ (z1 >>> 27)) * 0x94D049BB133111EB#64
  z2 ^^^ (z2 >>> 31)

/-- word of R86. -/
def roundWord (seed stream : Word) (i : Nat) : Nat :=
  (mix64 (seed + mix64 (stream + BitVec.ofNat 64 i * 0x9E3779B97F4A7C15#64)) >>> 32).toNat

/-! ### Floating formats (R84, R92, R93) -/

/-- A floating element format: widths of its fields, its bias, whether it has an infinity, its largest finite code. -/
structure FpFmt where
  (ebits mbits bias : Nat)
  hasInf : Bool
  maxCode : Nat
  deriving DecidableEq, Repr

def fp32 : FpFmt := { ebits := 8, mbits := 23, bias := 127, hasInf := true, maxCode := 0x7F7FFFFF }
def bf16 : FpFmt := { ebits := 8, mbits := 7, bias := 127, hasInf := true, maxCode := 0x7F7F }
def fp16 : FpFmt := { ebits := 5, mbits := 10, bias := 15, hasInf := true, maxCode := 0x7BFF }
def e4m3 : FpFmt := { ebits := 4, mbits := 3, bias := 7, hasInf := false, maxCode := 0x7E }
def e5m2 : FpFmt := { ebits := 5, mbits := 2, bias := 15, hasInf := true, maxCode := 0x7B }

/-- A magnitude and sign of an element after R92 and R94: its exact value, and whether it was a NaN or an infinity. -/
structure Elem where
  v : Dy
  special : Bool
  deriving DecidableEq, Repr, Inhabited

/-- The exact value of a finite code's magnitude. -/
def FpFmt.magnitude (f : FpFmt) (code : Nat) : Dy :=
  let x := code / 2 ^ f.mbits
  { m := (2 ^ f.mbits + code % 2 ^ f.mbits : Nat), e := (x : Int) - f.bias - f.mbits }

/-- Read an element: a subnormal is zero, a NaN is zero, an infinity is the largest finite value (R92, R94). -/
def FpFmt.read (f : FpFmt) (code : Nat) : Elem :=
  let body := code % 2 ^ (f.ebits + f.mbits)
  let neg := code / 2 ^ (f.ebits + f.mbits) % 2 == 1
  let sign (d : Dy) : Dy := if neg then { d with m := -d.m } else d
  if body < 2 ^ f.mbits then { v := { m := 0, e := 0 }, special := false }
  else if body ≤ f.maxCode then { v := sign (f.magnitude body), special := false }
  else if f.hasInf && body == (2 ^ f.ebits - 1) * 2 ^ f.mbits then { v := sign (f.magnitude f.maxCode), special := true }
  else { v := { m := 0, e := 0 }, special := true }

/-- An element as it enters the finishing unit: the FP32 word of its value, a subnormal as a zero of its sign, a NaN or an infinity as
such (R92, R94). -/
def FpFmt.toF32 (f : FpFmt) (code : Nat) : BitVec 32 :=
  let body := code % 2 ^ (f.ebits + f.mbits)
  let sign := code / 2 ^ (f.ebits + f.mbits) % 2 * 2 ^ 31
  if body < 2 ^ f.mbits then BitVec.ofNat 32 sign
  else if body ≤ f.maxCode then
    BitVec.ofNat 32 (sign + (body / 2 ^ f.mbits + 127 - f.bias) * 2 ^ 23 + body % 2 ^ f.mbits * 2 ^ (23 - f.mbits))
  else if f.hasInf && body == (2 ^ f.ebits - 1) * 2 ^ f.mbits then BitVec.ofNat 32 (sign + 0x7F800000)
  else 0x7FC00000

/-- Place a sign on a magnitude code. -/
def FpFmt.signed (f : FpFmt) (neg : Bool) (code : Nat) : Nat := if neg then code + 2 ^ (f.ebits + f.mbits) else code

/-- Convert an exact value to a floating format: flush, one rounding, overflow (R85, R92, R93): the code, and overflow. -/
def FpFmt.write (f : FpFmt) (mode r : Nat) (inf : Bool) (y : Dy) : Nat × Bool :=
  let neg := y.m < 0
  let fr := y.frac
  if fr.1 = 0 then (0, false)
  else
    let e := floorLog2 fr.1 fr.2
    if e < 1 - (f.bias : Int) then (f.signed neg 0, false)
    else
      let q := (Dy.round mode r { y with m := y.m.natAbs } ((f.mbits : Int) - e)).toNat
      let code := ((e + f.bias - 1).toNat) * 2 ^ f.mbits + q
      if code ≤ f.maxCode then (f.signed neg code, false)
      else if inf && f.hasInf then (f.signed neg ((2 ^ f.ebits - 1) * 2 ^ f.mbits), true)
      else (f.signed neg f.maxCode, true)

/-! ### MX elements (R82, R90) -/

/-- The doubled value of an E2M1 magnitude code. -/
def e2m1Double (c : Nat) : Nat := [0, 1, 2, 3, 4, 6, 8, 12].getD c 0

/-- Convert y to E2M1. -/
def e2m1Write (mode r : Nat) (y : Dy) : Nat × Bool :=
  let fr := y.frac
  if fr.1 = 0 then (0, false)
  else
    let e := max 0 (floorLog2 fr.1 fr.2)
    let q := (Dy.round mode r { y with m := y.m.natAbs } (1 - e)).toNat
    let code := 2 * e.toNat + q
    let neg := y.m < 0
    if code ≤ 7 then (if neg && code != 0 then code + 8 else code, false) else (if neg then 15 else 7, true)

/-- Convert y to the MXINT8 element, whose step is 2^-6. -/
def mxint8Write (mode r : Nat) (y : Dy) : Nat × Bool :=
  let q := Dy.round mode r y 6
  if 127 < q then (127, true) else if q < -127 then (129, true) else ((q % 256).toNat, false)

/-- The MX element kinds: 0 MXINT8, 1 MXFP4, 2 MXFP8 E4M3, 3 MXFP8 E5M2, and emax of R90. -/
def mxEmax : Nat → Int
  | 0 => 0
  | 1 => 2
  | 2 => 8
  | _ => 15

/-- Convert one MX element after division by its scale. -/
def mxWrite (kind mode r : Nat) (inf : Bool) (y : Dy) : Nat × Bool :=
  match kind with
  | 0 => mxint8Write mode r y
  | 1 => e2m1Write mode r y
  | 2 => e4m3.write mode r inf y
  | _ => e5m2.write mode r inf y

/-- The scale byte of a block of exact values (R90). -/
def mxScale (kind : Nat) (ys : List Dy) : Nat :=
  match ((ys.map Dy.frac).filter (fun f => f.1 != 0)).map (fun f => floorLog2 f.1 f.2) with
  | [] => 0
  | e :: es => (min 254 (max 0 (es.foldl max e - mxEmax kind + 127))).toNat

/-- Convert a block of up to 32 values: scale byte, codes, overflow. `r` gives the word of R86 by place in the block. -/
def mxBlock (kind mode : Nat) (r : Nat → Nat) (inf : Bool) (ys : List Dy) : Nat × List Nat × Bool :=
  let x := mxScale kind ys
  let cs := ys.mapIdx (fun i y => mxWrite kind mode (r i) inf { y with e := y.e - ((x : Int) - 127) })
  (x, cs.map (·.1), cs.any (·.2))

/-- Read one MX element with its scale byte; 0xFF makes the block zero (R94). -/
def mxRead (kind code scale : Nat) : Elem :=
  if scale = 255 then { v := { m := 0, e := 0 }, special := true }
  else
    let base : Elem := match kind with
      | 0 => { v := { m := (BitVec.ofNat 8 code).toInt, e := -6 }, special := false }
      | 1 => { v := { m := if 8 ≤ code % 16 then -(e2m1Double (code % 8) : Int) else e2m1Double (code % 8), e := -1 }, special := false }
      | 2 => e4m3.read code
      | _ => e5m2.read code
    { base with v := { base.v with e := base.v.e + ((scale : Int) - 127) } }

/-! ### Format codes (R82, R83, R89) -/

/-- The role a format code is read in: the codes of R82 and R83 agree where both define one; R89 has its own. -/
inductive Kind where
  | uint (n : Nat)
  | int (n : Nat)
  | octavo (n : Nat)
  | mx (kind : Nat)
  | fp (f : FpFmt)
  | int32 | uint32 | partialSum
  | undefined
  deriving DecidableEq, Repr

/-- What a stored format code means (R82, R83, R89). -/
def formatKind (c : Nat) : Kind :=
  if 0x01 ≤ c && c ≤ 0x10 then .uint c
  else if 0x22 ≤ c && c ≤ 0x30 then .int (c - 0x20)
  else if 0x61 ≤ c && c ≤ 0x6F then .octavo (c - 0x60)
  else match c with
    | 0x41 => .mx 0 | 0x42 => .mx 1 | 0x43 => .mx 2 | 0x44 => .mx 3
    | 0x45 => .fp e4m3 | 0x46 => .fp e5m2
    | 0x47 => .fp bf16 | 0x48 => .fp fp16 | 0x49 => .fp fp32
    | 0x57 => .fp bf16 | 0x58 => .fp fp16 | 0x59 => .fp fp32
    | 0x81 => .fp fp32 | 0x82 => .fp bf16 | 0x83 => .fp fp16 | 0x84 => .fp e4m3 | 0x85 => .fp e5m2
    | 0x8A => .int32 | 0x8B => .uint32
    | 0x8C => .mx 0 | 0x8D => .mx 1 | 0x8E => .mx 2 | 0x8F => .mx 3
    | 0x90 => .partialSum
    | _ => .undefined

/-- Bits of one stored element, without MX scales (R82, R89, R432). -/
def elementBits (c : Nat) : Nat :=
  match formatKind c with
  | .uint n | .int n | .octavo n => n
  | .mx 1 => 4
  | .mx _ => 8
  | .fp f => 1 + f.ebits + f.mbits
  | .int32 | .uint32 => 32
  | .partialSum => 128
  | .undefined => 0

/-- Planes of a weight format (R82). -/
def weightPlanes (c : Nat) : Nat :=
  match formatKind c with
  | .uint n | .int n => n
  | .octavo n => n + 1
  | .mx 1 => 5
  | .mx _ => 8
  | .fp f => if f.ebits + f.mbits = 7 then 8 else 16
  | _ => 0

/-- A weight's planes are unsigned: UINT n (R82). -/
def weightUnsigned (c : Nat) : Bool := match formatKind c with | .uint _ => true | _ => false

/-- Passes of an activation format: 2 for 16-bit lanes (R83). -/
def activationPasses (c : Nat) : Nat :=
  match formatKind c with
  | .uint n | .int n => if n ≤ 8 then 1 else 2
  | .fp _ => if 0x57 ≤ c then 2 else 1
  | _ => 1

/-- Least and greatest codes of an integer format (R89, R95, R96). -/
def codeRange (c : Nat) : Option (Int × Int) :=
  match formatKind c with
  | .uint n | .octavo n => some (0, 2 ^ n - 1)
  | .int n => some (-(2 ^ (n - 1)), 2 ^ (n - 1) - 1)
  | .int32 => some (-(2 ^ 31), 2 ^ 31 - 1)
  | .uint32 => some (0, 2 ^ 32 - 1)
  | _ => none

/-- The number an integer code stands for: two's complement for INT n. -/
def codeInt (c code : Nat) : Int :=
  match formatKind c with
  | .int n => (BitVec.ofNat n code).toInt
  | .int32 => (BitVec.ofNat 32 code).toInt
  | _ => code

/-- The stored code of an integer in an integer format. -/
def intCode (c : Nat) (q : Int) : Nat := (q % 2 ^ elementBits c).toNat

/-- The exact value of a stored element, whatever its format; zero point and scale of quantisation are not applied here. -/
def readElem (c code scale : Nat) : Elem :=
  match formatKind c with
  | .mx k => mxRead k code scale
  | .fp f => f.read code
  | .partialSum => { v := { m := (BitVec.ofNat 64 code).toInt, e := (BitVec.ofNat 16 (code / 2 ^ 64)).toInt }, special := false }
  | _ => { v := { m := codeInt c code, e := 0 }, special := false }

/-! ### The decoder (R79 to R84) -/

/-- A block of the common form: mantissas, group exponent (none for a block that has no exponent), special values met. -/
structure Block where
  ms : List Int
  e  : Option Int
  special : Bool
  deriving DecidableEq, Repr, Inhabited

/-- Limit a mantissa to P planes (R84 step 4). -/
def limitMantissa (p : Nat) (m : Int) : Int := max (-(2 ^ (p - 1) - 1)) (min (2 ^ (p - 1) - 1) m)

/-- Decode a block of floating elements into P planes (R84). -/
def decodeFloat (p mode : Nat) (r : Nat → Nat) (xs : List Elem) : Block :=
  let us := ((xs.map (fun x => x.v.frac)).filter (fun f => f.1 != 0)).map (fun f => floorLog2 f.1 f.2)
  let special := xs.any (·.special)
  match us with
  | [] => { ms := xs.map (fun _ => 0), e := none, special := special }
  | u :: rest =>
    let e := rest.foldl max u - ((p : Int) - 2)
    { ms := xs.mapIdx (fun i x => limitMantissa p (x.v.round mode (r i) (-e))), e := some e, special := special }

/-- Bring a block whose elements were stored under different group exponents under the largest of them: the others shift right
and round (R204). -/
def regroup (mode : Nat) (r : Nat → Nat) (xs : List (Int × Option Int)) : List Int × Option Int :=
  match xs.filterMap (·.2) with
  | [] => (xs.map (fun _ => 0), none)
  | e :: es =>
    let top := es.foldl max e
    (xs.mapIdx (fun i x => match x.2 with
      | some k => if k = top then x.1 else Dy.round mode (r i) { m := x.1, e := k } (-top)
      | none => 0), some top)

/-- A block of one format whose elements carry their own exponents: an MX block along the reduction draws on as many stored scales
as the rows its elements stand in (R79, R432); the scale 0xFF makes its elements zero (R94). -/
def scaledBlock (mode : Nat) (r : Nat → Nat) (m : Nat → Int) (bias : Int) (xs : List (Nat × Nat)) : Block :=
  let g := regroup mode r (xs.map (fun x => if x.2 = 255 then (0, none) else (m x.1, some ((x.2 : Int) - bias))))
  { ms := g.1, e := g.2, special := xs.any (·.2 == 255) }

/-- Decode a block of 32 along the reduction from its stored elements, each a code with the scale byte of its stored block (R79,
R82 to R84): `planes` is P, `flip` what an unsigned activation loses (R83), `zp` what Octavo subtracts (R108), by place. -/
def decodeBlock (c planes mode : Nat) (r : Nat → Nat) (flip : Int) (zp : Nat → Int) (xs : List (Nat × Nat)) : Block :=
  match formatKind c with
  | .octavo _ => { ms := xs.mapIdx (fun i x => (x.1 : Int) - zp i), e := some 0, special := false }
  | .mx 0 => scaledBlock mode r (fun q => (BitVec.ofNat 8 q).toInt) 133 xs
  | .mx 1 => scaledBlock mode r (fun q => (mxRead 1 q 127).v.m) 128 xs
  | .mx k => decodeFloat planes mode r (xs.map (fun x => mxRead k x.1 x.2))
  | .fp f => decodeFloat planes mode r (xs.map (fun x => f.read x.1))
  | _ => { ms := xs.map (fun x => codeInt c x.1 - flip), e := some 0, special := false }

/-- Decode a block of weights (R82). -/
def decodeWeight (c mode : Nat) (r : Nat → Nat) (zp : Nat → Int) (xs : List (Nat × Nat)) : Block :=
  decodeBlock c (weightPlanes c) mode r 0 zp xs

/-- What the decoder takes from an unsigned activation code (R83). -/
def activationFlip (c : Nat) : Int := match formatKind c with | .uint n => if n ≤ 8 then 128 else 32768 | _ => 0

/-- Decode a block of activations into lanes (R83). -/
def decodeActivation (c mode : Nat) (r : Nat → Nat) (xs : List (Nat × Nat)) : Block :=
  decodeBlock c (8 * activationPasses c) mode r (activationFlip c) (fun _ => 0) xs

/-- The offset of a block below its reference exponent, limited, with its mantissas shifted right by any excess (R80). -/
def limitOffset (limit mode : Nat) (r : Nat → Nat) (ref : Int) (ms : List Int) (e : Option Int) : List Int × Nat :=
  match e with
  | none => (ms, 0)
  | some k =>
    if ms.all (· == 0) then (ms, 0)
    else
      let d := (ref - k).toNat
      if d ≤ limit then (ms, d)
      else (ms.mapIdx (fun i m => Dy.round mode (r i) { m := m, e := -((d - limit : Nat) : Int) } 0), limit)

/-- The reference exponent of a column or row: the largest group exponent; 0 when no block has one (R80). -/
def refExponent (es : List (Option Int)) : Int :=
  match es.filterMap id with
  | [] => 0
  | e :: rest => rest.foldl max e

/-! ### Output conversion (R89 to R94) -/

/-- The result of converting one element: code, and the format flags it sets. -/
structure OutElem where
  code  : Nat
  flags : BitVec 3
  deriving DecidableEq, Repr, Inhabited

/-- Round an exact value to an integer format and limit it (R85, R89, R93). -/
def intOut (c mode r : Nat) (flag : Bool) (y : Dy) : OutElem :=
  match codeRange c with
  | some (lo, hi) =>
    let q := y.round mode r 0
    { code := intCode c (max lo (min hi q)), flags := if flag && (q < lo || hi < q) then flagOverflow else 0 }
  | none => { code := 0, flags := 0 }

/-- Convert one exact value to a format of R89 other than an MX format or PARTIAL. -/
def scalarOut (c mode r : Nat) (inf flag : Bool) (y : Dy) : OutElem :=
  match formatKind c with
  | .fp f => let w := f.write mode r inf y; { code := w.1, flags := if w.2 then flagOverflow else 0 }
  | _ => intOut c mode r flag y

/-- Convert one row of exact values to a stored format: codes and, for an MX format, the scale of each block of 32 (R89, R90). -/
def rowOut (c mode : Nat) (inf flag : Bool) (r : Nat → Nat) (ys : List Dy) : List Nat × List Nat × BitVec 3 :=
  match formatKind c with
  | .mx k =>
    let bs := (List.range (ceilDiv ys.length 32)).map (fun b => mxBlock k mode (fun i => r (32 * b + i)) inf ((ys.drop (32 * b)).take 32))
    (bs.flatMap (·.2.1), bs.map (·.1), if bs.any (·.2.2) then flagOverflow else 0)
  | _ =>
    let os := ys.mapIdx (fun i y => scalarOut c mode (r i) inf flag y)
    (os.map (·.code), [], os.foldl (fun f o => f ||| o.flags) 0)

/-- Saturate at the limits of a slot: the value, and whether it was limited (R62). -/
def satSlot (v : Int) : Int × Bool :=
  if 2 ^ 63 - 1 < v then (2 ^ 63 - 1, true) else if v < -(2 ^ 63 - 1) then (-(2 ^ 63 - 1), true) else (v, false)

/-! ### FP32 arithmetic of the finishing unit (R92, R94, R200) -/

/-- The classes of an FP32 word, subnormals kept. -/
def f32Nan (x : BitVec 32) : Bool := 0x7F800000 < x.toNat % 2 ^ 31
/-- As `f32Nan`, for an infinity. -/
def f32Inf (x : BitVec 32) : Bool := x.toNat % 2 ^ 31 == 0x7F800000
/-- Sign of an FP32 word. -/
def f32Neg (x : BitVec 32) : Bool := x.getLsbD 31
/-- A quiet NaN. -/
def nan32 : BitVec 32 := 0x7FC00000
/-- An infinity of a sign. -/
def inf32 (neg : Bool) : BitVec 32 := if neg then 0xFF800000 else 0x7F800000

/-- The exact value of a finite FP32 word. -/
def f32Dy (x : BitVec 32) : Dy :=
  let body := x.toNat % 2 ^ 31
  let e := body / 2 ^ 23
  let m : Int := if e = 0 then (body % 2 ^ 23 : Nat) else (2 ^ 23 + body % 2 ^ 23 : Nat)
  { m := if f32Neg x then -m else m, e := (max e 1 : Nat) - 150 }

/-- Round the fraction n ÷ d with a sign to FP32 in mode 0, as IEEE 754 does. -/
def f32Round (neg : Bool) (n d : Nat) : BitVec 32 :=
  if n = 0 then 0
  else
    let e := max (-126) (floorLog2 n d)
    let k := 23 - e
    let q := if 0 ≤ k then roundNat 0 0 (n * 2 ^ k.toNat) d else roundNat 0 0 n (d * 2 ^ (-k).toNat)
    let code := (e + 126).toNat * 2 ^ 23 + q
    BitVec.ofNat 32 ((if neg then 2 ^ 31 else 0) + min code 0x7F800000)

/-- Round an exact value to FP32 in mode 0. -/
def f32Of (y : Dy) : BitVec 32 := let f := y.frac; f32Round (y.m < 0) f.1 f.2

/-- FP32 sum. -/
def f32Add (a b : BitVec 32) : BitVec 32 :=
  if f32Nan a || f32Nan b then nan32
  else if f32Inf a then (if f32Inf b && f32Neg a != f32Neg b then nan32 else a)
  else if f32Inf b then b
  else f32Of ((f32Dy a).add (f32Dy b))

/-- FP32 negation. -/
def f32Negate (a : BitVec 32) : BitVec 32 := a ^^^ 0x80000000
/-- FP32 difference. -/
def f32Sub (a b : BitVec 32) : BitVec 32 := f32Add a (f32Negate b)

/-- FP32 product. -/
def f32Mul (a b : BitVec 32) : BitVec 32 :=
  if f32Nan a || f32Nan b then nan32
  else if f32Inf a || f32Inf b then
    (if (f32Dy a).m == 0 && !f32Inf a || (f32Dy b).m == 0 && !f32Inf b then nan32 else inf32 (f32Neg a != f32Neg b))
  else f32Of ((f32Dy a).mul (f32Dy b))

/-- FP32 reciprocal. -/
def f32Recip (a : BitVec 32) : BitVec 32 :=
  if f32Nan a then nan32
  else if f32Inf a then 0
  else
    let f := (f32Dy a).frac
    if f.1 = 0 then inf32 (f32Neg a) else f32Round (f32Neg a) f.2 f.1

/-- FP32 quotient, rounded once. -/
def f32Div (a b : BitVec 32) : BitVec 32 :=
  if f32Nan a || f32Nan b || (f32Inf a && f32Inf b) then nan32
  else if f32Inf a then inf32 (f32Neg a != f32Neg b)
  else if f32Inf b then 0
  else
    let x := f32Dy a
    let y := f32Dy b
    if y.m == 0 then (if x.m == 0 then nan32 else inf32 (f32Neg a != f32Neg b))
    else
      let e := x.e - y.e
      f32Round (f32Neg a != f32Neg b) (x.m.natAbs * 2 ^ e.toNat) (y.m.natAbs * 2 ^ (-e).toNat)

/-- The integer square root, one bit at a time. -/
def isqrt : Nat → Nat → Nat
  | 0, _ => 0
  | k + 1, n =>
    let r := 2 * isqrt k (n / 4)
    if (r + 1) * (r + 1) ≤ n then r + 1 else r

/-- FP32 reciprocal square root: enough bits of the exact root, with a last bit that says whether it was cut. -/
def f32Rsqrt (a : BitVec 32) : BitVec 32 :=
  if f32Nan a then nan32
  else
    let f := (f32Dy a).frac
    if f.1 = 0 && !f32Inf a then inf32 (f32Neg a)
    else if f32Neg a then nan32
    else if f32Inf a then 0
    else
      let n := f.2 * 2 ^ 400 / f.1
      let exact := f.2 * 2 ^ 400 % f.1 == 0
      let r := isqrt 420 n
      f32Round false (2 * r + (if exact && r * r == n then 0 else 1)) (2 ^ 201)

/-- a is less than b, as numbers. -/
def f32Lt (a b : BitVec 32) : Bool :=
  if f32Nan a || f32Nan b then false
  else
    let key (x : BitVec 32) : Int := if f32Neg x then -(x.toNat % 2 ^ 31 : Nat) else (x.toNat % 2 ^ 31 : Nat)
    key a < key b

/-- 1.0. -/
def one32 : BitVec 32 := 0x3F800000

/-- A value entering the finishing unit: a subnormal becomes a zero of its sign (R92). -/
def f32In (x : BitVec 32) : BitVec 32 := if x.toNat % 2 ^ 31 < 2 ^ 23 then x &&& 0x80000000 else x

/-- An FP32 word as the finishing unit writes it: a subnormal becomes a zero of its sign, a NaN +0, an infinity the largest finite value
(R92, R94). -/
def f32Out (x : BitVec 32) : BitVec 32 :=
  if f32Nan x then 0 else if f32Inf x then (x &&& 0x80000000) ||| 0x7F7FFFFF else f32In x

/-- A stored element, with the scale byte of its block, as it enters the finishing unit (R92, R94). -/
def elemF32 (c code scale : Nat) : BitVec 32 :=
  match formatKind c with
  | .fp f => f.toF32 code
  | .mx k =>
    let e := mxRead k code scale
    let neg := match k with | 1 => 8 ≤ code % 16 | 0 => false | _ => 128 ≤ code % 256
    if e.special then (if k = 3 && scale != 255 && (e5m2.toF32 code).toNat % 2 ^ 31 == 0x7F800000 then inf32 neg else nan32)
    else if e.v.m == 0 then (if neg then 0x80000000 else 0)
    else f32In (f32Of e.v)
  | _ => f32Of (readElem c code scale).v

/-- A value leaving the finishing unit: a NaN is +0, an infinity the largest finite value unless the format may show it; and
whether it was special (R94). -/
def f32Leave (inf : Bool) (x : BitVec 32) : Elem :=
  if f32Nan x then { v := { m := 0, e := 0 }, special := true }
  else if f32Inf x then
    { v := { m := if f32Neg x then -(2 ^ 24 - 1) else 2 ^ 24 - 1, e := if inf then 200 else 104 }, special := true }
  else { v := f32Dy x, special := false }

/-- Convert a row of FP32 results to a stored format, with the flags (R92 to R94). -/
def finishRow (c mode : Nat) (inf : Bool) (r : Nat → Nat) (xs : List (BitVec 32)) : List Nat × List Nat × BitVec 3 :=
  let es := xs.map (f32Leave inf)
  let o := rowOut c mode inf true r (es.map (·.v))
  let plain := rowOut c mode inf true r (es.map (fun e => if e.special then { m := 0, e := 0 } else e.v))
  (o.1, o.2.1, plain.2.2 ||| (if es.any (·.special) then flagSpecialIn else 0))

/-! ### Stored tensors as bytes (R432) -/

/-- The elements of a tensor on their way to their stored form: codes in row-major order and, for an MX format, the scale byte of each
block of each row. -/
structure TensorVal where
  codes  : List Nat
  scales : List Nat
  deriving DecidableEq, Repr, Inhabited

/-- The bytes of a stored tensor of `cols` columns: elements packed from the low bits up; an MX block of a row is its codes
followed by its scale byte, a last partial block padded with zero codes. -/
def tensorBytes (c cols : Nat) (t : TensorVal) : List Byte :=
  let w := elementBits c
  let packed (codes : List Nat) : List Byte :=
    leBytes (ceilDiv (w * codes.length) 8) (codes.foldr (fun q acc => q % 2 ^ w + 2 ^ w * acc) 0)
  match formatKind c with
  | .mx _ =>
    let perRow := ceilDiv cols 32
    (List.range (if cols = 0 then 0 else ceilDiv t.codes.length cols)).flatMap (fun i =>
      (List.range perRow).flatMap (fun b =>
        let cs := (((t.codes.drop (i * cols)).take cols).drop (32 * b)).take 32
        packed (cs ++ List.replicate (32 - cs.length) 0) ++ [BitVec.ofNat 8 (t.scales.getD (i * perRow + b) 0)]))
  | _ => packed t.codes

/-- Bytes of a stored tensor (R432). -/
def storedBytes (fmt rows cols : Nat) : Nat :=
  match formatKind fmt with
  | .mx _ => rows * ceilDiv cols 32 * (4 * elementBits fmt + 1)
  | _ => ceilDiv (rows * cols * elementBits fmt) 8

/-- `w` bits of a byte string from a bit on, low bits first. -/
def streamBits (g : Nat → Byte) (off w : Nat) : Nat :=
  leNat ((List.range (ceilDiv (off % 8 + w) 8)).map (fun i => g (off / 8 + i))) / 2 ^ (off % 8) % 2 ^ w

/-- The byte at which the stored MX block of an element begins (R432). -/
def blockByte (c cols row col : Nat) : Nat := (row * ceilDiv cols 32 + col / 32) * (4 * elementBits c + 1)

/-- The first byte of an element of a stored tensor, and its last, with that of its block's scale (R432). -/
def elementByte (c cols row col : Nat) : Nat :=
  match formatKind c with
  | .mx _ => blockByte c cols row col + col % 32 * elementBits c / 8
  | _ => (row * cols + col) * elementBits c / 8
/-- As `elementByte`. -/
def elementEnd (c cols row col : Nat) : Nat :=
  match formatKind c with
  | .mx _ => blockByte c cols row col + 4 * elementBits c
  | _ => ((row * cols + col + 1) * elementBits c - 1) / 8

/-- The code of an element of a stored tensor. -/
def storedCode (c cols : Nat) (g : Nat → Byte) (row col : Nat) : Nat :=
  match formatKind c with
  | .mx _ => streamBits g (8 * blockByte c cols row col + col % 32 * elementBits c) (elementBits c)
  | _ => streamBits g ((row * cols + col) * elementBits c) (elementBits c)

/-- The scale byte of the stored block of an element; 127 stands for a format that has none. -/
def storedScale (c cols : Nat) (g : Nat → Byte) (row col : Nat) : Nat :=
  match formatKind c with
  | .mx _ => (g (blockByte c cols row col + 4 * elementBits c)).toNat
  | _ => 127

end Sys2Proof.Machine
end

