-- ==== Sys2Proof/Machine/Sheets.lean ====
section
/-! DEFINITION. Where the bytes of tensors, weights and leaves lie, and how a slug reads them: its own proofs and snapshots first, then
the home that the plan, the inker or the leaf tables name (R79, R120, R122, R157, R179, R180, R432). -/
namespace Sys2Proof.Machine

/-! ### What a slug sees -/

/-- The serial number of the copy a slug reads through a binding: the one it captured at its first issue, or the one in force while
it has not been issued (R231, R234). -/
def slugGen (x : Forme) (sl : Slug) (b : BindingId) : Nat :=
  match sl.images[b.val]? with
  | some g => g
  | none => (x.inker.bindings[b.val]).gen

/-- The copy a slug reads through a binding. -/
def slugImage (s : State) (f : FormeId) (sl : Slug) (b : BindingId) : Option ImageCopy :=
  let g := slugGen (s.forme f) sl b
  if g = 0 then none else s.copy g

/-- The proofs a slug reads of its own and of its antecedents, nearest first (R180, R187); `fuel` bounds the chain. -/
def visibleProofs (x : Forme) : Nat → Slug → List Proof
  | 0, sl => sl.proofs.reverse
  | n + 1, sl => sl.proofs.reverse ++ (match sl.antecedent.bind (findSlug x) with
      | some a => if a.state == .passed then [] else visibleProofs x n a
      | none => [])

/-- The tensor a proof carries under a handle. -/
def proofTensor (h : BitVec 32) (p : Proof) : Option (List Byte) :=
  match p with
  | .tensor k v => if k == h then some v else none
  | _ => none

/-- Rows of a tensor: those of its record, or the launch's SEQUENCES × NEW_POSITIONS (R259), of a prefill chunk its own length. -/
def tensorRows (x : Forme) (sl : Slug) (t : TensorRec) : Nat :=
  if t.rows != 0 then t.rows
  else match findLaunch x sl.ring sl.seq with
    | some l => entrySequences l.entry * (if isToken l.entry then entryNewPositions l.entry else l.chunkLen)
    | none => 0

/-! ### Bytes by home -/

/-- A byte of a forme's stack space. -/
def formeByte (s : State) (f : FormeId) (off : Nat) : Byte :=
  match (s.forme f).cfg, (s.forme f).kStack with
  | some c, some k => match slotAddr c.regions off with | some a => stackByte s.stack.mem k a | none => 0
  | _, _ => 0

/-- A byte of a page of the forme's spill range as the slug has it: a copy in galley, a staged sheet, or what the slug has read. -/
def spillByte (s : State) (f : FormeId) (sl : Slug) (off : Nat) : Byte :=
  let x := s.forme f
  let page := off / 65536
  let holds (a : Option Nat) (n : Nat) : Bool := match a with | some q => decide (q ≤ page) && decide (page < q + n) | none => false
  match x.makeup.plan.find? (fun p => holds p.spill p.pages && !x.makeup.stale.contains p.sheet) with
  | some p => match p.home, p.spill with
    | .galley c g, some q => galleyByte s.galley (c.val * 2 ^ 28 + g * 65536 + (off - q * 65536))
    | _, _ => 0
  | none => match x.makeup.staged.find? (fun t => holds t.spill (ceilDiv t.data.length 65536)) with
    | some t => t.data.getD (off - t.spill.getD 0 * 65536) 0
    | none => match sl.fetched.find? (fun g => g.1 == BitVec.ofNat 56 (3 * 2 ^ 52 + page * 65536)) with
      | some g => g.2.getD (off % 65536) 0
      | none => 0

/-- A byte of a sheet of class 2 or 3 at its home. -/
def homeByte (s : State) (f : FormeId) (sl : Slug) (h : Home) (off : Nat) : Byte :=
  match h with
  | .galley c g => galleyByte s.galley (c.val * 2 ^ 28 + g * 65536 + off)
  | .stackPage a => formeByte s f (a * 65536 + off)
  | .spillPage a => spillByte s f sl (a * 65536 + off)
  | .sharedPage _ => 0

/-- The plan's record of a sheet. -/
def planOf (x : Forme) (ctx : BitVec 16) (h : BitVec 32) (index : Nat) : Option PlanRec :=
  x.makeup.plan.find? (fun p => p.sheet.ctx == ctx && p.sheet.handle == h && p.sheet.index == index)

/-! ### Sheets of a context that is not in the key (R267, R278, R281, R282) -/

/-- Where a page of a context's image is: in galley, in a page of the forme's save-area share, or in a page of the stack pool or the spill
range. -/
inductive ImagePlace where
  | galley (core : CoreId) (page : Nat)
  | save (page : Nat)
  | pool (page : Nat)
  | spill (page : Nat)
  deriving DecidableEq, Repr

/-- The place of a page of the image: not yet copied out, in a swap slice, or where the image goes. -/
def imagePlace (x : Forme) (c : Context) (j : Nat) : ImagePlace :=
  let w := x.sched.swap
  let waiting := if w.victim == some c.num then (w.toCopy ++ w.slice).find? (·.1 == j) else none
  match waiting, c.imageAt with
  | some p, _ => .galley p.2.1 p.2.2
  | none, .save ps => .save (ps.getD j 0)
  | none, .pool p => .pool (p + j)
  | none, .spill p => .spill (p + j)

/-- The first byte of a page of a forme's share of the save area: 1.5 GiB for each octet it owns, by octet (R278; log 87). -/
def saveAddr (c : FormeCfg) (j : Nat) : Nat :=
  Config.usableGib * 2 ^ 30 + (bitsSet c.octets).getD (j / 24576) 0 * (3 * 2 ^ 29) + j % 24576 * 65536

/-- A byte of a forme's share of the save area, under its stack key (R278). -/
def saveByte (s : State) (f : FormeId) (j off : Nat) : Byte :=
  match (s.forme f).cfg, (s.forme f).kStack with
  | some c, some k => stackByte s.stack.mem k (saveAddr c j + off)
  | _, _ => 0

/-- Write bytes of a forme's share of the save area; whole lines lose their poison (R147, R278). -/
def saveWrite (s : State) (f : FormeId) (j : Nat) (data : List Byte) : State :=
  match (s.forme f).cfg with
  | some c =>
    let k := s.stack.clearPoison (saveAddr c j / 256) (data.length / 256)
    State.chargeStack { s with stack := { k with mem := memPutAll none s.stack.mem (saveAddr c j) data } } f data.length
  | none => s

/-- A byte of a page of a context's image. -/
def imageByte (s : State) (f : FormeId) (sl : Slug) (p : ImagePlace) (off : Nat) : Byte :=
  match p with
  | .galley c g => galleyByte s.galley (c.val * 2 ^ 28 + g * 65536 + off)
  | .save j => saveByte s f j off
  | .pool a => formeByte s f (a * 65536 + off)
  | .spill a => spillByte s f sl (a * 65536 + off)

/-- The first page of a sheet in an image that holds the sheets given, in order. -/
def imageStart : List PlanRec → BitVec 32 → Nat → Nat → Option Nat
  | [], _, _, _ => none
  | p :: r, h, i, n => if p.sheet.handle == h && p.sheet.index == i then some n else imageStart r h i (n + p.pages)

/-- Where a sheet of class 2 or 3 is: at a home, in the image of a context that is not in the key, or nowhere. -/
inductive SheetPlace where
  | home (h : Home)
  | image (c : Context) (page : Nat)
  | none
  deriving DecidableEq, Repr

/-- The place of a sheet: by the plan in force while its context is resident, by what the swap kept otherwise. -/
def sheetPlace (x : Forme) (ctx : BitVec 16) (h : BitVec 32) (index : Nat) : SheetPlace :=
  let planned : SheetPlace := match planOf x ctx h index with | some p => .home p.home | none => .none
  match findCtx x ctx with
  | some c =>
    if c.state == .resident then planned
    else match imageStart c.saved h index 0, c.outside.find? (fun p => p.sheet.handle == h && p.sheet.index == index) with
      | some n, _ => .image c n
      | none, some p => .home p.home
      | none, none => .none
  | none => planned

/-- The snapshot a slug holds of a sheet (R132). -/
def snapOf (sl : Slug) (h : BitVec 32) (index : Nat) : Option (List Byte) :=
  (sl.snaps.find? (fun p => p.1 == h && p.2.1 == index)).map (·.2.2)

/-- A byte of a tensor's stored stream: a snapshot's, that of its sheet's home, or one the manual leaves open while no plan gives the
sheet a home (R120, R122). -/
def tensorByte (s : State) (f : FormeId) (sl : Slug) (h : BitVec 32) (i : Nat) : Byte :=
  match snapOf sl h (i / 2 ^ 20) with
  | some d => d.getD (i % 2 ^ 20) 0
  | none => match sheetPlace (s.forme f) sl.ctx h (i / 2 ^ 20) with
    | .home p => homeByte s f sl p (i % 2 ^ 20)
    | .image c n => imageByte s f sl (imagePlace (s.forme f) c (n + i % 2 ^ 20 / 65536)) (i % 65536)
    | .none => Config.unwrittenByte f.val h.toNat i

/-- A tensor's stored stream as a slug reads it: its own slug-local value, its own and its antecedents' proofs, then its home (R179,
R180, R187). -/
def tensorStream (s : State) (f : FormeId) (sl : Slug) (h : BitVec 32) : Nat → Byte :=
  match sl.locals.find? (·.1 == h) with
  | some t => fun i => t.2.getD i 0
  | none => match (visibleProofs (s.forme f) 16 sl).findSome? (proofTensor h) with
    | some d => fun i => d.getD i 0
    | none => tensorByte s f sl h

/-! ### Inked weights in plane layout (R79, R80, R82, R120, R230) -/

/-- K tiles and N tiles of a weight tensor (R120). -/
def tileGrid (t : TensorRec) : Nat × Nat := (ceilDiv t.rows 512, ceilDiv t.cols 1024)

/-- Tiles of a tensor of an image's directory. -/
def dirTiles (t : ImageTensor) : Nat := ceilDiv t.rows 512 * ceilDiv t.cols 1024

/-- Tiles of the image before a tensor's. -/
def tilesBefore (i : ImageCopy) (h : Nat) : Nat := sumNat ((i.dir.tensors.takeWhile (·.handle != h)).map dirTiles)

/-- The first page of a tile of an inked image: tensors in directory order, tiles by index, each tile's planes together (log 42). -/
def tilePage (i : ImageCopy) (h : Nat) (tile : Nat) : Nat :=
  let before := i.dir.tensors.takeWhile (·.handle != h)
  i.base + sumNat (before.map (fun t => dirTiles t * weightPlanes t.format.toNat)) +
    tile * (match i.dir.tensors.find? (·.handle == h) with | some t => weightPlanes t.format.toNat | none => 0)

/-- Pages of the planes of an image's tiles. -/
def planePages (d : ImageDir) : Nat := sumNat (d.tensors.map (fun t => dirTiles t * weightPlanes t.format.toNat))

/-- Where a tile's side record begins: 8 KiB each, eight to a page, after the planes (R230). -/
def sideByte (i : ImageCopy) (h tile : Nat) : Nat := (i.base + planePages i.dir) * 65536 + (tilesBefore i h + tile) * 8192

/-- The first byte of the inker's shared area: after the save area, in the order in which R17 lists the parts of the held-back space
(log 87). -/
def sharedBase : Nat := (Config.usableGib + 24) * 2 ^ 30

/-- A byte of a copy's space: of the forme's stack space, or of the inker's shared area under the inker's key (R231). -/
def copyByte (s : State) (f : FormeId) (i : ImageCopy) (off : Nat) : Byte :=
  if i.shared then (match s.colo.kShared with | some k => stackByte s.stack.mem k (sharedBase + off) | none => 0) else formeByte s f off

/-- A byte of a weight sheet as a slug reads it, by its offset in the copy's space; a snapshot holds the tile's planes and then its side
record (R132). -/
def weightByte (s : State) (f : FormeId) (sl : Slug) (i : ImageCopy) (t : ImageTensor) (tile : Nat) (side : Bool) (off : Nat) : Byte :=
  match snapOf sl (BitVec.ofNat 32 t.handle) tile with
  | some d => d.getD ((if side then weightPlanes t.format.toNat * 65536 else 0) + off) 0
  | none => copyByte s f i ((if side then sideByte i t.handle tile else tilePage i t.handle tile * 65536) + off)

/-- The reference exponent of a column of an inked tensor. -/
def weightRef (i : ImageCopy) (h c : Nat) : Int := (((i.refs.find? (·.1 == h)).map (·.2)).getD []).getD c 0

/-- An element of an inked tensor: the mantissa its planes hold, and its block's group exponent by the offset table (R80, R81). -/
def weightElement (s : State) (f : FormeId) (sl : Slug) (i : ImageCopy) (t : ImageTensor) (r c : Nat) : Int × Option Int :=
  let tile := c / 1024 * ceilDiv t.rows 512 + r / 512
  let planes := weightPlanes t.format.toNat
  let bit (p : Nat) : Bool := (weightByte s f sl i t tile false (p * 65536 + r % 512 * 128 + c % 1024 / 8)).getLsbD (c % 8)
  let raw := sumNat ((List.range planes).map (fun p => (bit p).toNat * 2 ^ p))
  let off := streamBits (weightByte s f sl i t tile true) ((r % 512 / 32 * 1024 + c % 1024) * 3) 3
  (if !weightUnsigned t.format.toNat && bit (planes - 1) then (raw : Int) - 2 ^ planes else raw, some (weightRef i t.handle c - off))

/-- The directory entry of a weight tensor in a copy. -/
def dirTensor (i : ImageCopy) (h : BitVec 32) : Option ImageTensor := i.dir.tensors.find? (·.handle == h.toNat)

/-- The chunks that hold the stored elements of a tile: from that of its first element to that of its last (R237). -/
def sheetChunks (t : ImageTensor) (tile : Nat) : Nat × Nat :=
  let k := ceilDiv t.rows 512
  let r1 := min t.rows (tile % k * 512 + 512)
  let c1 := min t.cols (tile / k * 1024 + 1024)
  ((t.offset + elementByte t.format.toNat t.cols (tile % k * 512) (tile / k * 1024)) / 2 ^ 20,
   (t.offset + elementEnd t.format.toNat t.cols (r1 - 1) (c1 - 1)) / 2 ^ 20)

/-- The lines of a range of a copy's space. -/
def copyLines (s : State) (f : FormeId) (i : ImageCopy) (off n : Nat) : List Nat :=
  if i.shared then (List.range ((off + n - 1) / 256 + 1 - off / 256)).map (fun k => (sharedBase + off) / 256 + k)
  else match (s.forme f).cfg with | some c => stackLines c off n | none => []

/-- The lines of a tile's sheet: its planes and its side record. -/
def tileLines (s : State) (f : FormeId) (i : ImageCopy) (t : ImageTensor) (tile : Nat) : List Nat :=
  copyLines s f i (tilePage i t.handle tile * 65536) (weightPlanes t.format.toNat * 65536) ++ copyLines s f i (sideByte i t.handle tile) 8192

/-- Every chunk of the sheet that a line of a copy lies in (R237). -/
def lineChunks (s : State) (f : FormeId) (i : ImageCopy) (l : Nat) : List Nat :=
  i.dir.tensors.flatMap (fun t => (List.range (dirTiles t)).flatMap (fun k =>
    if (tileLines s f i t k).contains l then let c := sheetChunks t k; (List.range (c.2 + 1 - c.1)).map (· + c.1) else []))

/-! ### Working copies (R206, R209; log 37) -/

/-- The ops of a version that are updates. -/
def updateOps (v : Version) : List OpRec := v.ops.filter (fun o => opKind o == 0x06)

/-- The device address of a sheet's home in the forme's own space. -/
def homeAddr (p : PlanRec) : Option (BitVec 56) :=
  match p.home with
  | .galley c g => some (BitVec.ofNat 56 (2 ^ 52 + c.val * 2 ^ 28 + g * 65536))
  | .stackPage a => some (BitVec.ofNat 56 (a * 65536))
  | .spillPage _ | .sharedPage _ => none

/-- The update ops of every version the forme holds. -/
def allUpdates (x : Forme) : List OpRec := x.matters.flatMap (fun m => m.versions.flatMap updateOps)

/-- A class 3 tensor of a context whose home is where an update has its WORKING copy is in plane layout. -/
def isWorking (s : State) (f : FormeId) (ctx : BitVec 16) (t : TensorRec) : Bool :=
  t.cls == 3 && match (planOf (s.forme f) ctx t.handle 0).bind homeAddr with
    | some a => (allUpdates (s.forme f)).any (fun o => (ownWord s f (devAddr (opWord o 1) + 16)).any (fun w => devAddr w == a))
    | none => false

/-- An element of a working copy: eight planes of the whole matrix, row-major, then the scale of each block of 32 rows of each column. -/
def workingElement (g : Nat → Byte) (rows cols r c : Nat) : Int × Option Int :=
  let bit (p : Nat) : Bool := (g (p * (rows * cols / 8) + (r * cols + c) / 8)).getLsbD (c % 8)
  let raw := sumNat ((List.range 8).map (fun p => (bit p).toNat * 2 ^ p))
  let x := (g (rows * cols + r / 32 * cols + c)).toNat
  if x = 255 then (0, none) else ((BitVec.ofNat 8 raw).toInt, some ((x : Int) - 133))

/-! ### Leaves (R156, R157, R161) -/

/-- The byte of a leaf that holds element `e` of slot `t` in a half, 0 for K and 1 for V (R157). -/
def leafOffset (half t e : Nat) : Nat := 32768 * half + t * 128 + e / 2

/-- A byte of a leaf at its home, or in the copy of it. -/
def leafByte (s : State) (f : FormeId) (sl : Slug) (l : LeafEntry) (off : Nat) : Byte :=
  if l.spill then spillByte s f sl (l.page.toNat * 65536 + off) else formeByte s f (l.page.toNat * 65536 + off)

/-- The record of a context's run. -/
def runRecord (x : Forme) (c : Context) (run : Nat) : Option RunRec := (c.dir[run]?).bind (fun d => x.runs.find? (·.id == d.1))

/-- The 4-bit code of an element of a committed slot (R157). -/
def leafNibble (s : State) (f : FormeId) (sl : Slug) (l : LeafEntry) (half t e : Nat) : BitVec 4 :=
  let b := leafByte s f sl l (leafOffset half t e)
  if e % 2 = 0 then b.truncate 4 else (b >>> 4).truncate 4

/-- The codes of a leaf entry at a position: a visible append, or the committed slot of its run (R163, R180): 256 of K, 256 of V. -/
def leafSlot (s : State) (f : FormeId) (sl : Slug) (c : Context) (proofs : List Proof) (e pos : Nat) : List (BitVec 4) × List (BitVec 4) :=
  match proofs.findSome? (fun p => match p with
    | .append e' q k v => if e' == e && q == pos then some (k, v) else none
    | _ => none) with
  | some p => p
  | none => match (runRecord (s.forme f) c (pos / 256)).bind (fun r => r.leaves[e]?) with
    | some l => ((List.range 256).map (leafNibble s f sl l 0 (pos % 256)), (List.range 256).map (leafNibble s f sl l 1 (pos % 256)))
    | none => ([], [])

/-! ### Operands -/

/-- A tensor as an op meets it: its shape and the format it is read in; the code of an element with the scale byte of its stored
block; and, for a tensor in plane layout, an element's mantissa with its group exponent, and a column's reference exponent. -/
structure Operand where
  handle : BitVec 32
  rows   : Nat
  cols   : Nat
  fmt    : Nat
  code   : Nat → Nat → Nat
  scale  : Nat → Nat → Nat
  plane  : Option (Nat → Nat → Int × Option Int)
  ref    : Nat → Option Int

/-- The operand of a stored stream. -/
def streamOperand (h : BitVec 32) (rows cols fmt : Nat) (g : Nat → Byte) : Operand :=
  { handle := h, rows := rows, cols := cols, fmt := fmt, code := storedCode fmt cols g, scale := storedScale fmt cols g, plane := none,
    ref := fun _ => none }

/-- A class 1 operand: a row for each committed position, and for each leaf entry its 256 K codes and then its 256 V codes (log 88). -/
def leafOperand (s : State) (f : FormeId) (sl : Slug) (h : BitVec 32) (fmt : Nat) : Operand :=
  let x := s.forme f
  match findCtx x sl.ctx with
  | some c => { streamOperand h c.length (512 * c.lg) fmt (fun _ => 0) with
      code := fun r q =>
        let k := leafSlot s f sl c (visibleProofs x 16 sl) (q / 512) r
        ((if q % 512 < 256 then k.1 else k.2).getD (q % 256) 0).toNat }
  | none => streamOperand h 0 0 fmt (fun _ => 0)

/-- The operand of a tensor record, read in a format. -/
def tensorOperand (s : State) (f : FormeId) (sl : Slug) (t : TensorRec) (fmt : Nat) : Operand :=
  let rows := tensorRows (s.forme f) sl t
  match t.cls with
  | 0 => match (slugImage s f sl t.binding).bind (fun i => (dirTensor i t.handle).map (fun d => (i, d))) with
    | some (i, d) =>
      let g := weightElement s f sl i d
      { streamOperand t.handle rows t.cols fmt (fun _ => 0) with
        code := fun r c => ((g r c).1 % 2 ^ weightPlanes fmt).toNat, plane := some g, ref := fun c => some (weightRef i d.handle c) }
    | none => streamOperand t.handle rows t.cols fmt (tensorStream s f sl t.handle)
  | 1 => leafOperand s f sl t.handle fmt
  | _ =>
    let g := tensorStream s f sl t.handle
    if isWorking s f sl.ctx t then { streamOperand t.handle rows t.cols fmt g with
      code := fun r c => ((workingElement g rows t.cols r c).1 % 256).toNat
      scale := fun r c => (g (rows * t.cols + r / 32 * t.cols + c)).toNat
      plane := some (workingElement g rows t.cols) }
    else streamOperand t.handle rows t.cols fmt g

/-- The operand a handle names, read in a format. -/
def operandAs (s : State) (f : FormeId) (sl : Slug) (h : BitVec 32) (fmt : Nat) : Option Operand :=
  (slugVersion (s.forme f) sl).bind (fun v => (findTensor v h).map (fun t => tensorOperand s f sl t fmt))

/-- The operand in the format of its tensor record. -/
def operand (s : State) (f : FormeId) (sl : Slug) (h : BitVec 32) : Option Operand :=
  (slugVersion (s.forme f) sl).bind (fun v => (findTensor v h).map (fun t => tensorOperand s f sl t t.format.toNat))

/-- The codes of an operand, row by row. -/
def Operand.codes (o : Operand) : List Nat := (List.range o.rows).flatMap (fun r => (List.range o.cols).map (o.code r))

/-! ### Writing a tensor to its homes (R122, R181) -/

/-- The module's own write of a spill page: galley copies of it are refetched before their next read, staged ones and what reads of it
brought in are dropped (R131). -/
def invalidateSpill (x : Forme) (pages : List Nat) : Forme :=
  let hit := (x.makeup.plan.filter (fun p => pagesHit pages p.spill p.pages)).map (·.sheet)
  { x with makeup := { x.makeup with
      staged := x.makeup.staged.filter (fun t => !pagesHit pages t.spill (sheetPages x t.sheet)),
      arrived := x.makeup.arrived.filter (fun a => !pages.contains a.1),
      stale := x.makeup.stale ++ hit.filter (fun h => !x.makeup.stale.contains h) } }

/-- Pages of the spill range of which galley copies, staged sheets or reads that have come hold bytes. -/
def knownSpill (x : Forme) : List Nat :=
  let run (a : Option Nat) (n : Nat) : List Nat := match a with | some q => (List.range n).map (q + ·) | none => []
  (x.makeup.plan.flatMap (fun p => run p.spill p.pages) ++ x.makeup.staged.flatMap (fun t => run t.spill (ceilDiv t.data.length 65536)) ++
    x.makeup.arrived.map (·.1)).eraseDups

/-- Write bytes of one page of the forme's spill range to host memory through the map (R338). -/
def spillPageWrite (s : State) (f : FormeId) (use : EcpUse) (page off : Nat) (data : List Byte) : State :=
  match (s.forme f).ecp.spillMap.find? (·.1 == page) with
  | some e => if bitOf e.2 0 then
      (s.spillDwr f use page (BitVec.ofNat 64 (fld e.2 51 16 * 65536 + off)) data).modForme f (fun x => invalidateSpill x [page]) else s
  | none => s

/-- The parts of a range of `n` bytes that lie in one page of 64 KiB each: their offsets and lengths. -/
def pageParts (off n : Nat) : List (Nat × Nat) :=
  (List.range ((off + n + 65535) / 65536 - off / 65536)).map (fun i =>
    let lo := max off (65536 * (off / 65536 + i))
    (lo, min (off + n) (65536 * (off / 65536 + i + 1)) - lo))

/-- Write bytes of the forme's spill range, page by page. -/
def spillWrite (s : State) (f : FormeId) (use : EcpUse) (off : Nat) (data : List Byte) : State :=
  (pageParts off data.length).foldl (fun t p => spillPageWrite t f use (p.1 / 65536) (p.1 % 65536) ((data.drop (p.1 - off)).take p.2)) s

/-- The bytes of 4-bit codes, two to a byte, the lower element in the low half (R157). -/
def nibbleBytes : List (BitVec 4) → List Byte
  | a :: b :: rest => (b ++ a) :: nibbleBytes rest
  | [a] => [(0#4 ++ a)]
  | [] => []

/-- Write bytes of a leaf at its home (R157, R164): watched copies of its page go stale (R130, R131). -/
def leafWrite (s : State) (f : FormeId) (use : EcpUse) (l : LeafEntry) (off : Nat) (data : List Byte) : State :=
  if !l.valid then s
  else if l.spill then spillPageWrite s f use l.page.toNat off data
  else watchedWrite s f (l.page.toNat * 65536 + off) data

/-- Put one append at its leaf slot: K at slot × 128, V 32 KiB above it (R157, R164). -/
def putSlot (s : State) (f : FormeId) (use : EcpUse) (c : BitVec 16) (e pos : Nat) (k v : List (BitVec 4)) : State :=
  match ((findCtx (s.forme f) c).bind (fun ctx => runRecord (s.forme f) ctx (pos / 256))).bind (fun r => r.leaves[e]?) with
  | some l => leafWrite (leafWrite s f use l (leafOffset 0 (pos % 256) 0) (nibbleBytes k)) f use l (leafOffset 1 (pos % 256) 0) (nibbleBytes v)
  | none => s

/-- Commit a slug's appends at pass: those below n′ are written, the runs, the chain and LENGTH follow; the others are
dropped (R164). -/
def commitAppends (s : State) (f : FormeId) (use : EcpUse) (c : BitVec 16) (proofs : List Proof) (n' : Nat) (prompt : List Nat) : State :=
  match findCtx (s.forme f) c with
  | none => s
  | some ctx =>
    if n' ≤ ctx.length then s
    else
      let s1 := proofs.foldl (fun t p => match p with
          | .append e pos k v => if pos < n' then putSlot t f use c e pos k v else t
          | _ => t) (s.modForme f (fun x => growRuns (n' / 256 + 1) x c n'))
      let added := n' - ctx.length
      let s2 := (List.range added).foldl (fun t i => absorbToken t f c (tokenAt s prompt (ctx.length + i) i)) s1
      { s2 with free := s2.free + added }

/-- Write a sheet of class 2 or 3 at its home. -/
def homeWrite (s : State) (f : FormeId) (use : EcpUse) (h : Home) (data : List Byte) : State :=
  match h with
  | .galley c g => s.galleyWrite (c.val * 2 ^ 28 + g * 65536) data
  | .stackPage a => watchedWrite s f (a * 65536) data
  | .spillPage a => spillWrite s f use (a * 65536) data
  | .sharedPage _ => s

/-- Write a page of a context's image where it is. -/
def imageWrite (s : State) (f : FormeId) (use : EcpUse) (p : ImagePlace) (data : List Byte) : State :=
  match p with
  | .galley c g => s.galleyWrite (c.val * 2 ^ 28 + g * 65536) data
  | .save j => saveWrite s f j data
  | .pool a => watchedWrite s f (a * 65536) data
  | .spill a => spillPageWrite s f use a 0 data

/-- Write a sheet of class 2 or 3 where it is. -/
def sheetWrite (s : State) (f : FormeId) (use : EcpUse) (ctx : BitVec 16) (h : BitVec 32) (index : Nat) (data : List Byte) : State :=
  match sheetPlace (s.forme f) ctx h index with
  | .home p => homeWrite s f use p data
  | .image c n => (List.range (ceilDiv data.length 65536)).foldl (fun t i =>
      imageWrite t f use (imagePlace (t.forme f) c (n + i)) ((data.drop (65536 * i)).take 65536)) s
  | .none => s

/-- Write a tensor's stored stream to its sheets. -/
def tensorWrite (s : State) (f : FormeId) (use : EcpUse) (ctx : BitVec 16) (h : BitVec 32) (data : List Byte) : State :=
  (List.range (ceilDiv data.length (2 ^ 20))).foldl (fun t k => sheetWrite t f use ctx h k ((data.drop (2 ^ 20 * k)).take (2 ^ 20))) s

end Sys2Proof.Machine
end

