-- ==== Sys2Proof/Machine/Makeup.lean ====
section
/-! DEFINITION. The make-up engine's plan: the placement key, sheets, the placement procedure and the plan's records (R116 to R126,
R135). -/
namespace Sys2Proof.Machine

/-! ### The placement key (R123, R125, R126) -/

/-- Put a context at its place in ascending order of the numbers. -/
def insertCtx (c : Context) : List Context → List Context
  | [] => [c]
  | d :: r => if c.num.toNat ≤ d.num.toNat then c :: d :: r else d :: insertCtx c r

/-- The contexts of the key: the resident ones, and the one a swap brings in (R123, R281), ascending. -/
def planContexts (x : Forme) : List Context :=
  (x.ctxs.filter (fun c => ctxResident c || x.sched.swap.incoming == some c.num)).foldr insertCtx []

/-- A context's positions rounded up to SHAPE_LEAVES × 256 (R123, R125). -/
def roundedPositions (shapeLog : Nat) (c : Context) : Nat := ceilDiv c.shape.2 (2 ^ shapeLog * 256) * (2 ^ shapeLog * 256)

/-- RESERVE_PAGES, RUNAHEAD, SHAPE_LEAVES_LOG2 and EXPLICIT_ACTIVE in one word, as MAKEUP_TUNE places them (R134). -/
def tuneWord (m : Makeup) : Word := place 0 m.reserve ||| place 16 m.runahead ||| place 24 m.shapeLog ||| place 32 m.explicitActive

/-- Switches of the bindings a version reads: a switch counts as a change of the version in the key (R234). -/
def bindingSwitches (x : Forme) (v : Version) : Nat :=
  sumNat ((v.binding :: (v.tensors.filter (·.cls == 0)).map (·.binding)).eraseDups.map (fun b => (x.inker.bindings[b.val]).switches))

/-- The shared runs of a context's directory: their owner and number (R175). -/
def sharedRuns (x : Forme) (c : Context) : List (BitVec 16 × Nat) :=
  c.dir.filterMap (fun d => if d.2 then (x.runs.find? (·.id == d.1)).map (fun r => (r.owner, r.run)) else none)

/-- The placement key with a tuning word (R123, R175, R234). -/
def keyWith (s : State) (f : FormeId) (tune : Word) : PlanKey :=
  let x := s.forme f
  { octets := match x.cfg with | some c => c.octets | none => 0,
    fenced := (x.cores.filter (fun c => (s.core c).fenced)).foldl (fun m c => m ||| oneBit 128 c.val) 0,
    tune := tune,
    ctxs := (planContexts x).map (fun c => {
      ctx := c.num, matter := c.matter, version := c.version, sequences := c.shape.1, positions := roundedPositions (fld tune 28 24) c,
      switches := match findVersion x c.matter c.version with | some v => bindingSwitches x v | none => 0, sharing := sharedRuns x c }) }

/-- The key as it stands with the tuning the last plan took: RESERVE_PAGES, RUNAHEAD and SHAPE_LEAVES_LOG2 take effect at the next
plan (R134). -/
def keyInForce (s : State) (f : FormeId) : PlanKey :=
  let m := (s.forme f).makeup
  keyWith s f (match m.key with
    | some k => (k.tune &&& 0xFFFFFFFF) ||| place 32 m.explicitActive
    | none => tuneWord m)

/-- The key has changed since the last plan, so a plan is due (R126). -/
def planDue (s : State) (f : FormeId) : Bool :=
  match (s.forme f).makeup.key with
  | some k => keyInForce s f != k
  | none => !(planContexts (s.forme f)).isEmpty

/-! ### Sheets (R120, R121) -/

/-- A sheet as the walk of R123 orders it. -/
structure Sheet where
  pin   : Bool
  uses  : Nat
  cls   : Nat
  id    : SheetId
  pages : Nat
  core  : CoreId
  /-- the page the inker wrote a weight sheet at, and whether it lies in the shared area (R122, R231) -/
  inked : Option (Nat × Bool)
  /-- a leaf: its run, and its entry in the run record -/
  leaf  : Option (Nat × Nat)
  deriving DecidableEq, Repr, Inhabited

/-- Rows of a tensor as a plan sizes it. Where the record says SEQUENCES × NEW_POSITIONS, the key holds no NEW_POSITIONS: the most rows a
step of the context can carry are taken, which are no more than its positions, and no more than ROWS_MAX of R283 admits (R271; log 41). -/
def planRows (t : TensorRec) (seqs positions : Nat) : Nat :=
  if t.rows = 0 then min (seqs * positions) (max (256 * seqs) 16384) else t.rows

/-- Expected reads of each sheet of a tensor in a step, 16.16 (R121, R123). -/
def useRate (t : TensorRec) (seqs : Nat) : Nat :=
  let u := t.uses.toNat * (if t.scaleSeq then seqs else 1)
  if t.cls = 0 then min u 65536 else u

/-- Tiles of one product among the walk: the tensor's K range and the number b at which it starts (R123). -/
structure Span where
  slug   : Nat
  handle : BitVec 32
  kTiles : Nat
  (k0 k1 nTiles : Nat)
  start  : Nat
  deriving DecidableEq, Repr, Inhabited

/-- Tiles of a span. -/
def Span.tiles (p : Span) : Nat := p.nTiles * (p.k1 - p.k0)

/-- The products of a version in step order: its slug records by index, their ops in op order. -/
def versionProducts (v : Version) : List (Nat × OpRec) :=
  (List.range v.slugs.length).flatMap (fun i => ((slugOps v i).filter (fun o => opKind o == 1)).map (fun o => (i, o)))

/-- The spans of a version's products on its weight tensors, b carried on from `b` modulo the number of cores. -/
def versionSpans (v : Version) (n b : Nat) : List Span × Nat :=
  (versionProducts v).foldl (fun acc p =>
    match findTensor v (handleLo p.2 1) with
    | some t =>
      if t.cls = 0 then
        let g := tileGrid t
        let k0 := min g.1 (fld (opWord p.2 3) 23 0 / 512)
        let k1 := max k0 (min g.1 (ceilDiv (fld (opWord p.2 3) 23 0 + fld (opWord p.2 3) 47 24) 512))
        let sp : Span := { slug := p.1, handle := t.handle, kTiles := g.1, k0 := k0, k1 := k1, nTiles := g.2, start := acc.2 }
        (acc.1 ++ [sp], (acc.2 + sp.tiles) % n)
      else acc
    | none => acc) ([], b)

/-- The place of a tile in a span's order: n tile by n tile. -/
def spanRank (p : Span) (tile : Nat) : Option Nat :=
  let k := tile % p.kTiles
  if p.k0 ≤ k && k < p.k1 then some (tile / p.kTiles * (p.k1 - p.k0) + (k - p.k0)) else none

/-- The number whose remainder picks the core of the first slug that reads a tensor: its first product's first tile (log 43). -/
def readerStart (v : Version) (spans : List Span) (h : BitVec 32) : Nat :=
  match (List.range v.slugs.length).find? (fun i => (slugOps v i).any (fun o => (opReads o).contains h)) with
  | some i => match spans.find? (·.slug == i) with | some p => p.start | none => 0
  | none => 0

/-- The core number of a weight tile's home: its rank in the last product that reads it, whose assignment R123's loop leaves standing. -/
def tileStart (v : Version) (spans : List Span) (h : BitVec 32) (tile : Nat) : Nat :=
  match spans.reverse.findSome? (fun p => if p.handle == h then (spanRank p tile).map (p.start + ·) else none) with
  | some r => r
  | none => readerStart v spans h

/-- The class 1 record that speaks for the leaves of a layer: the layer's own where each has one, the first otherwise (log 44). -/
def leafRecord (v : Version) (layer : Nat) : Option TensorRec :=
  let ts := v.tensors.filter (·.cls == 1)
  if (layerAddrs v).length ≤ ts.length then ts[layer]? else ts.head?

/-- The sheets of one context; its weights only when no earlier context has the same version (log 45). A shared run is its owner's
(R175); the leaves of a run stand together, a set of LG for each sequence (log 36). -/
def contextSheets (s : State) (f : FormeId) (cores : List CoreId) (shapeLog : Nat) (c : Context) (v : Version) (spans : List Span)
    (weights : Bool) : List Sheet :=
  let at' (k : Nat) : CoreId := cores.getD (k % max 1 cores.length) 0
  let seqs := c.shape.1
  let positions := roundedPositions shapeLog c
  let groups := c.lg / max 1 (layerAddrs v).length
  let weightSheets := (v.tensors.filter (fun t => t.cls == 0 && weights)).flatMap (fun t =>
    match bindingImage s f t.binding with
    | some i => (List.range ((tileGrid t).1 * (tileGrid t).2)).map (fun k => {
        pin := t.pin, uses := useRate t seqs, cls := 0, id := { ctx := c.num, handle := t.handle, index := k },
        pages := weightPlanes t.format.toNat, core := at' (tileStart v spans t.handle k),
        inked := some (tilePage i t.handle.toNat k, i.shared), leaf := none : Sheet })
    | none => [])
  let leafSheets := (List.range (positions / 256)).flatMap (fun r =>
    if (c.dir[r]?).any (·.2) then []
    else (List.range c.leaves).map (fun e =>
      let t := leafRecord v (e % max 1 c.lg / max 1 groups)
      { pin := match t with | some t => t.pin | none => false,
        uses := match t with | some t => useRate t seqs | none => 65536, cls := 1,
        id := { ctx := c.num, handle := match t with | some t => t.handle | none => noHandle, index := r * c.leaves + e },
        pages := 1, core := at' (c.coreOrigin + r / 4), inked := none, leaf := some (r, e) : Sheet }))
  let dataSheets := (v.tensors.filter (fun t => 2 ≤ t.cls)).flatMap (fun t =>
    let bytes := storedBytes t.format.toNat (planRows t seqs positions) t.cols
    (List.range (ceilDiv bytes (2 ^ 20))).map (fun k => {
      pin := t.pin, uses := useRate t seqs, cls := t.cls, id := { ctx := c.num, handle := t.handle, index := k },
      pages := min 16 (ceilDiv (bytes - k * 2 ^ 20) 65536), core := at' (readerStart v spans t.handle), inked := none,
      leaf := none : Sheet }))
  weightSheets ++ leafSheets ++ dataSheets

/-- Every sheet of every context of the key, with the home core R123 gives it. -/
def allSheets (s : State) (f : FormeId) (cores : List CoreId) (shapeLog : Nat) : List Sheet :=
  ((planContexts (s.forme f)).foldl (fun acc c =>
    match findVersion (s.forme f) c.matter c.version with
    | some v =>
      let key := (c.matter, c.version)
      let old := acc.2.1.find? (·.1 == key)
      let sp := match old with | some o => (o.2, acc.2.2) | none => versionSpans v (max 1 cores.length) acc.2.2
      (acc.1 ++ contextSheets s f cores shapeLog c v sp.1 old.isNone, if old.isNone then acc.2.1 ++ [(key, sp.1)] else acc.2.1, sp.2)
    | none => acc) (([], [], 0) : List Sheet × List ((BitVec 32 × BitVec 32) × List Span) × Nat)).1

/-- The first of two key lists in lexicographic order. -/
def lexLe : List Nat → List Nat → Bool
  | a :: as, b :: bs => a < b || (a == b && lexLe as bs)
  | _, _ => true

/-- The sort of R123: pin descending, uses descending, class, context, handle and index ascending. -/
def sheetKey (t : Sheet) : List Nat := [(!t.pin).toNat, 2 ^ 64 - t.uses, t.cls, t.id.ctx.toNat, t.id.handle.toNat, t.id.index]

/-- Put a sheet at its place of the walk. -/
def insertSheet (t : Sheet) : List Sheet → List Sheet
  | [] => [t]
  | u :: r => if lexLe (sheetKey t) (sheetKey u) then t :: u :: r else u :: insertSheet t r

/-- The walk order. -/
def walkOrder (ts : List Sheet) : List Sheet := ts.foldr insertSheet []

/-! ### The two passes (R116, R117, R123) -/

/-- Pages of the proof slice, and of the swap slice, of each core (R117). -/
def slicePages (c : FormeCfg) (mib : Nat) : Nat := ceilDiv (mib * 16) (max 1 c.cores.length)

/-- Pages of a core's sheet area (R116). -/
def sheetArea (c : FormeCfg) (explicitMib : Nat) : Nat :=
  Config.galleyPagesPerCore - 16 * explicitMib - slicePages c c.proofMib - slicePages c c.swapMib

/-- What the galley pass has used of one core: pages from the bottom, and side records. -/
structure Fill where
  core  : CoreId
  pages : Nat
  sides : Nat
  deriving DecidableEq, Repr, Inhabited

/-- One sheet of the galley pass: its page in the sheet area where it fits its home core, side page included (R120, R123). -/
def galleyPlace (limit : Nat) (fs : List Fill) (t : Sheet) : List Fill × Option Nat :=
  match fs.find? (·.core == t.core) with
  | some u =>
    let side := if t.cls = 0 then 1 else 0
    if u.pages + t.pages + ceilDiv (u.sides + side) 8 ≤ limit then
      (updFirst (·.core == t.core) (fun g => { g with pages := g.pages + t.pages, sides := g.sides + side }) fs, some u.pages)
    else (fs, none)
  | none => (fs, none)

/-- Free spans of pages less a used one. -/
def cutSpan (gaps : List (Nat × Nat)) (u : Nat × Nat) : List (Nat × Nat) :=
  gaps.flatMap (fun g =>
    [(g.1, min (g.1 + g.2) u.1 - g.1), (max g.1 (u.1 + u.2), g.1 + g.2 - max g.1 (u.1 + u.2))].filter (fun h => 0 < h.2))

/-- Lowest fit: the page taken, and the gaps that stay (R123). -/
def lowestFit (n : Nat) : List (Nat × Nat) → Option (Nat × List (Nat × Nat))
  | [] => none
  | g :: r => if n ≤ g.2 then some (g.1, (if n = g.2 then r else (g.1 + n, g.2 - n) :: r))
    else (lowestFit n r).map (fun p => (p.1, g :: p.2))

/-- Page spans of the forme's stack space that hold weight images: in force, old, or being inked (R123, R234, R236). -/
def imageSpans (x : Forme) : List (Nat × Nat) :=
  let own (i : ImageCopy) : List (Nat × Nat) := if i.shared then [] else [(i.base, i.pages)]
  x.inker.bindings.toList.flatMap (fun b => (b.image.toList ++ b.old).flatMap own) ++
    (match x.inker.req with | some q => q.copy.toList.flatMap own | none => [])

/-- The run record's leaves are cut as sheets of the plan: its owner is in the key and names it as its own (R175). -/
def recordCut (x : Forme) (r : RunRec) : Bool := (planContexts x).any (fun c => c.num == r.owner && c.dir.contains (r.id, false))

/-- Page spans of the stack pool, or of the spill range, that a walk may not take: images of swapped contexts (R282), and what stays in
place of contexts that are not in the key, their leaves and their sheets outside galley (R267, R281; log 45). -/
def keptSpans (x : Forme) (pool : Bool) : List (Nat × Nat) :=
  let out := x.ctxs.filter (fun c => !(planContexts x).any (·.num == c.num))
  x.ctxs.filterMap (fun c => match c.imageAt, pool with
    | .pool p, true | .spill p, false => some (p, c.image)
    | _, _ => none) ++
  out.flatMap (fun c => c.outside.filterMap (fun p => match p.home, pool with
    | .stackPage a, true | .spillPage a, false => some (a, p.pages)
    | _, _ => none)) ++
  (x.runs.filter (fun r => !recordCut x r)).flatMap (fun r => r.leaves.filterMap (fun l =>
    if l.valid && l.spill != pool then some (l.page.toNat, 1) else none))

/-- The stack pool's free spans before the walk (R123). -/
def poolGaps (x : Forme) : List (Nat × Nat) :=
  match x.cfg with
  | some c => (imageSpans x ++ keptSpans x true).foldl cutSpan [(0, c.stackGib * 16384)]
  | none => []

/-- The spill range's free spans before the walk. -/
def spillGaps (x : Forme) : List (Nat × Nat) :=
  match x.cfg with
  | some c => (keptSpans x false).foldl cutSpan [(0, c.spillGib * 16384)]
  | none => []

/-- A sheet with its places: the page of its core's sheet area, and its home outside galley. -/
structure Placed where
  sheet  : Sheet
  galley : Option Nat
  home   : Option Home
  deriving DecidableEq, Repr, Inhabited

/-- The galley pass over the walk. -/
def galleyPass (limit : Nat) : List Fill → List Sheet → List Placed
  | _, [] => []
  | fs, t :: r =>
    let p := galleyPlace limit fs t
    { sheet := t, galley := p.2, home := none } :: galleyPass limit p.1 r

/-- The home pass over the walk; none where a sheet finds no home (R123). -/
def homePass : List (Nat × Nat) → List (Nat × Nat) → List Placed → Option (List Placed)
  | _, _, [] => some []
  | pool, spill, p :: r =>
    if p.sheet.cls = 0 then
      (homePass pool spill r).map (fun t => { p with home := p.sheet.inked.map (fun i => if i.2 then Home.sharedPage i.1 else Home.stackPage i.1) } :: t)
    else if p.sheet.cls ≠ 1 && p.galley.isSome then (homePass pool spill r).map (p :: ·)
    else match lowestFit p.sheet.pages pool with
      | some (a, g) => (homePass g spill r).map (fun t => { p with home := some (Home.stackPage a) } :: t)
      | none => match lowestFit p.sheet.pages spill with
        | some (a, g) => (homePass pool g r).map (fun t => { p with home := some (Home.spillPage a) } :: t)
        | none => none

/-- The plan record of a placed sheet: a weight or leaf in galley is a copy of its home (R122, R135). -/
def planRec (explicitMib : Nat) (p : Placed) : PlanRec :=
  let at' : Home := match p.galley with
    | some g => .galley p.sheet.core (16 * explicitMib + g)
    | none => p.home.getD default
  { sheet := p.sheet.id, cls := p.sheet.cls, pages := p.sheet.pages, core := p.sheet.core, home := at',
    src := match p.galley, p.home with | some _, some (.stackPage a) => some a | _, _ => none,
    spill := match p.galley, p.home with | some _, some (.spillPage a) => some a | _, _ => none,
    once := p.sheet.uses ≤ 65536 }

/-- The 16 bytes of a plan record (R135). -/
def planRecBytes (p : PlanRec) : List Byte :=
  leBytes 4 p.sheet.handle.toNat ++ leBytes 4 p.sheet.index ++
  (match p.home with
    | .galley c g => leBytes 1 0 ++ leBytes 1 c.val ++ leBytes 4 g
    | .stackPage a | .sharedPage a => leBytes 1 1 ++ leBytes 1 0xFF ++ leBytes 4 a
    | .spillPage a => leBytes 1 1 ++ leBytes 1 0xFF ++ leBytes 4 (0x80000000 + a)) ++ leBytes 2 0

/-- The digest of a plan (R135). -/
def planDigest (ps : List PlanRec) : Word := leWord ((shake256 (ps.flatMap planRecBytes) 8))

/-- The placement procedure (R123). -/
def makePlan (s : State) (f : FormeId) : Option (List Placed) :=
  let x := s.forme f
  match x.cfg with
  | none => none
  | some c =>
    let cores := s.liveCores f
    let order := walkOrder (allSheets s f cores x.makeup.shapeLog)
    let limit := sheetArea c x.makeup.explicitActive - x.makeup.reserve
    homePass (poolGaps x) (spillGaps x) (galleyPass limit (cores.map (fun k => Fill.mk k 0 0)) order)

end Sys2Proof.Machine
end

