-- ==== Sys2Proof/Machine/Tuning.lean ====
section
/-! DEFINITION. Tuning: update descriptors and the job record (R206 to R213), and the tests a tuning launch meets before it
runs (R208, R221). -/
namespace Sys2Proof.Machine

/-- An update descriptor (R209). -/
structure UpdateDesc where
  (master moments working mask : BitVec 56)
  (rows cols : Nat)
  (beta1 beta2 : Nat)
  stepEnd : Bool
  (lr wd eps clip p1 p2 : BitVec 32)
  deriving DecidableEq, Repr, Inhabited

/-- FP32 x is greater than 0 and finite, or (with `zero`) 0 or greater. -/
def fpPositive (zero : Bool) (x : BitVec 32) : Bool :=
  !x.getLsbD 31 && x.toNat < 0x7F800000 && (zero || x.toNat != 0) || (zero && x == 0x80000000)

/-- Read an update descriptor of eight words; none where a field lies outside R209. -/
def updateDesc? (ws : List Word) : Option UpdateDesc :=
  match ws with
  | [w0, w1, w2, w3, w4, w5, w6, w7] =>
    let d : UpdateDesc := {
      master := devAddr w0, moments := devAddr w1, working := devAddr w2, mask := devAddr w7,
      rows := fld w3 15 0, cols := fld w3 31 16, beta1 := fld w3 34 32, beta2 := fld w3 37 35, stepEnd := bitOf w3 38,
      lr := BitVec.ofNat 32 (fld w4 31 0), wd := BitVec.ofNat 32 (fld w4 63 32), eps := BitVec.ofNat 32 (fld w5 31 0),
      clip := BitVec.ofNat 32 (fld w5 63 32), p1 := BitVec.ofNat 32 (fld w6 31 0), p2 := BitVec.ofNat 32 (fld w6 63 32) }
    if 32 ≤ d.rows && 32 ≤ d.cols && d.cols % 32 == 0 && d.beta1 ≤ 3 && d.beta2 ≤ 3 && fpPositive false d.lr &&
       fpPositive true d.wd && fpPositive false d.eps && fpPositive true d.clip then some d else none
  | _ => none

/-- Bytes of a working copy: eight planes of the matrix and a scale byte for each block of 32 rows of each column (R206; log 37). -/
def workingBytes (d : UpdateDesc) : Nat := d.rows * d.cols + ceilDiv d.rows 32 * d.cols

/-- Bytes of a train mask: one bit for each block of 32 columns (R209). -/
def maskBytes (d : UpdateDesc) : Nat := ceilDiv (d.cols / 32) 8

/-- Every address a descriptor names lies inside the forme's own space (R209). -/
def updateOwn (s : State) (f : FormeId) (d : UpdateDesc) : Bool :=
  let n := d.rows * d.cols
  ownSpace s f d.master (4 * n) && ownSpace s f d.moments (8 * n) && ownSpace s f d.working (workingBytes d) &&
    (d.mask == 0 || ownSpace s f d.mask (maskBytes d))

/-- The descriptor at an address, with every address it names inside the forme's own space (R209). -/
def updateAt (s : State) (f : FormeId) (a : BitVec 56) : Option UpdateDesc :=
  ((ownWords s f a 8).bind updateDesc?).bind (fun d => if updateOwn s f d then some d else none)

/-- The tokens of a tuning launch's step: a job runs one launch for each step (R208, R211). -/
def stepTokens (e : RingEntry) : Nat := entrySequences e * entryNewPositions e

/-- One side of an adapter's matrix is its rank, a multiple of 32 from 32 to 1,024 (R206). -/
def adapterShape (rows cols : Nat) : Bool :=
  (32 ≤ cols && cols ≤ 1024 && cols % 32 == 0) || (32 ≤ rows && rows ≤ 1024 && rows % 32 == 0)

/-- What refuses a launch of a tuning job before it runs: 0x0B01 above 131,072 tokens, 0x0B02 for a descriptor outside R209 or for an
adapter, updated or only read forward, whose shape lies outside R206 (R208, R221). -/
def tuneStatus (s : State) (f : FormeId) (v : Version) (e : RingEntry) : Option Code :=
  if !(updateOps v).isEmpty && 131072 < stepTokens e then some 0x0B01
  else if (updateOps v).all (fun o => (updateAt s f (devAddr (opWord o 1))).any (fun d => adapterShape d.rows d.cols)) &&
    v.tensors.all (fun t => !isWorking s f (entryContext e) t || adapterShape t.rows t.cols) then none
  else some 0x0B02

end Sys2Proof.Machine
end

