-- ==== Sys2Proof/Machine/Feeder.lean ====
section
/-! DEFINITION. The feeder: rings, doorbells, entries, standing matter and completion (R241 to R264). -/
namespace Sys2Proof.Machine

/-! ### Register fields of a ring (R243, R244, R246) -/

/-- RINGS of a forme covers the ring number (R241). -/
def ringExists (x : Forme) (r : RingId) : Bool := match x.cfg with | some c => r.val < c.rings | none => false

/-- DEPTH_LOG2 as written: the nearer limit of 4 to 12 (R243). -/
def clampDepth (v : Word) : BitVec 4 := BitVec.ofNat 4 (clampTo 4 12 (fld v 3 0))

/-- A write of FEED_RING_CFG: INTR_EN always, DEPTH_LOG2 while disabled, and the two changes of ENABLE (R243, R244). -/
def writeRingCfg (x : Forme) (r : RingId) (v : Word) : Forme :=
  let g := x.ring r
  let g1 := { g with intrEn := bitOf v 9 }
  if bitOf v 8 then
    if g.enable then x.setRing r g1
    else x.setRing r { g1 with
      depth := clampDepth v, enable := true, tail := 0, head := 0, done := 0, fault := 0, state := if x.drained || x.stopped then 4 else 1,
      disableMemo := false, bells := [], held := [], heldResults := [], written := [], entryFault := false }
  else if g.enable then
    if g.state == 2 then x.setRing r { g1 with disableMemo := true }
    else settleRing (x.setRing r { g1 with state := 3 }) r
  else x.setRing r { g1 with depth := clampDepth v }

/-- R246 accepts a TAIL value: HEAD ≤ T and T − DONE.SEQ ≤ depth, on an enabled ring. -/
def tailOk (g : Ring) (t : Seq) : Bool :=
  g.state != 0 && decide (seqAhead g.done g.head ≤ seqAhead g.done t) && decide (seqAhead g.done t ≤ ringDepth g)

/-- A write of FEED_RING_TAIL: accepted, with the tick that starts the timers of the entries it newly covers, or ignored with
BELL_ERR (R246, R257). -/
def writeRingTail (x : Forme) (r : RingId) (now : Word) (v : Word) : Forme :=
  let g := x.ring r
  let t : Seq := v.truncate 48
  if tailOk g t then x.setRing r { g with tail := t, bells := g.bells ++ [(t, now)] }
  else x.setRing r { g with bellErr := true }

/-- The tick at which an accepted doorbell first covered an entry (R257). -/
def bellTick (g : Ring) (q : Seq) : Word :=
  match g.bells.find? (fun b => decide (seqAhead g.done q < seqAhead g.done b.1)) with
  | some b => b.2
  | none => 0

/-- LAUNCH_TIMEOUT in force, ticks (R30, R245). -/
def launchTimeout (s : State) : Nat := match s.colo.committed with | some i => fld i.strokeHead.1 63 32 | none => 0

/-- The timer that started at a tick has expired (R257). -/
def timerExpired (s : State) (since : Word) : Bool := launchTimeout s ≤ (s.time.ticks - since).toNat

/-! ### Doorbells, enabling and replay -/

/-- R246. -/
def execFeedRingTail (h : HostReq) (r : RingId) (value : Word) (s : State) : Res :=
  .next (formeWrite s h (fun f =>
    if ringExists (s.forme f) r then s.modForme f (fun x => writeRingTail x r s.time.ticks value) else s))

/-- R244: ENABLE written 1. -/
def execRingEnable (h : HostReq) (r : RingId) (value : Word) (s : State) : Res :=
  .next (formeWrite s h (fun f =>
    if ringExists (s.forme f) r then s.modForme f (fun x => writeRingCfg x r (value ||| placeBit 8 true)) else s))

/-- R244: ENABLE written 0. -/
def execRingDisable (h : HostReq) (r : RingId) (value : Word) (s : State) : Res :=
  .next (formeWrite s h (fun f =>
    if ringExists (s.forme f) r then s.modForme f (fun x => writeRingCfg x r (value &&& ~~~ placeBit 8 true)) else s))

/-- R8: writing 1 to BELL_ERR clears it. -/
def execBellErrClear (h : HostReq) (r : RingId) (s : State) : Res :=
  .next (formeWrite s h (fun f => if ringExists (s.forme f) r then s.modRing f r (fun g => { g with bellErr := false }) else s))

/-- The host data a launch's result lines still hold back: the writes its PASSING slugs wait for (R253). -/
def heldLines (x : Forme) (r : RingId) (q : Seq) : List (HostAddr × List Byte) :=
  (x.slugs.filter (fun sl => sl.ring == r && sl.seq == q && sl.state == .passing)).flatMap (fun sl =>
    sl.proofs.filterMap (fun p => match p with | .host a d => some (a, d) | _ => none))

/-- A write of the ring's hold is outstanding on the forme's port. -/
def holdWriteOut (s : State) (f : FormeId) (r : RingId) : Bool :=
  s.ports.toList.any (fun p => p.reqs.any (fun q => match q.use with
    | .record f' r' _ | .result f' r' _ => f' == f && r' == r
    | _ => false))

/-- The next write of a replay: the held result lines, then the held records in sequence order; with the hold empty the ring
leaves STATE 2 (R253). -/
def replayNext (s : State) (f : FormeId) (r : RingId) : State :=
  let x := s.forme f
  let g := x.ring r
  if holdWriteOut s f r then s
  else match g.heldResults, g.held with
    | q :: _, _ => (heldLines x r q).foldl (fun t p => t.formeDwr f (.result f r q) p.1 p.2) s
    | [], rec' :: _ => s.formeDwr f (.record f r rec'.seq) (recordAddr g rec'.seq) (recordBytes rec')
    | [], [] => s.modForme f (fun y => settleRing (y.setRing r { g with state := afterHold y g, entryFault := false }) r)

/-- A REPLAY write (R243, R253): ignored while STATE is not 2. -/
def ringReplay (s : State) (f : FormeId) (r : RingId) : State :=
  if ((s.forme f).ring r).state == 2 then replayNext s f r else s

/-- R253. -/
def execReplay (h : HostReq) (r : RingId) (s : State) : Res :=
  .next (formeWrite s h (fun f => if ringExists (s.forme f) r then ringReplay s f r else s))

/-! ### Fetching (R250, R255, R256) -/

/-- Entries in flight and reads outstanding, of a ring and of the forme. -/
def ringBusy (x : Forme) (r : RingId) : Nat := ringInflight x r + (x.ring r).fetching.toNat
/-- As `ringBusy`, for the forme. -/
def formeBusy (x : Forme) : Nat := formeInflight x + sumNat (x.rings.toList.map (fun g => g.fetching.toNat))

/-- A forme's guarantee (R256). -/
def guarantee (c : FormeCfg) : Nat := min Config.launchesPerForme (Config.launchesPerModule * c.cores.length / Config.pressCores)

/-- Slots of the common pool (R256). -/
def poolSize (s : State) : Nat :=
  Config.launchesPerModule - sumNat (s.formes.toList.map (fun x => match x.cfg with | some c => guarantee c | none => 0))
/-- Pool slots held (R256). -/
def poolUsed (s : State) : Nat :=
  sumNat (s.formes.toList.map (fun x => match x.cfg with | some c => formeBusy x - guarantee c | none => 0))

/-- What the bound on the module lets a forme's fetch do (R256). -/
inductive Slot where
  | granted
  | waits
  deriving DecidableEq, Repr

/-- An entry of the ring holds up the fetch of later ones: it is held (R250), or a STORE or PATCH waits at its bound (R255). -/
def ringBlocked (x : Forme) (r : RingId) : Bool := x.launches.any (fun l => l.ring == r && (l.phase == .held || l.phase == .waiting))

/-- A ring that can fetch, apart from the bound on the module (R246, R250, R255). -/
def ringCanFetch (x : Forme) (r : RingId) : Bool :=
  let g := x.ring r
  x.live && ringExists x r && g.state == 1 && g.head != g.tail && !g.fetching && !ringBlocked x r &&
  ringBusy x r < Config.launchesPerRing && formeBusy x < Config.launchesPerForme

/-- The rings in the order of the next visits: ascending from the one after the last visited (R250). -/
def visitOrder (x : Forme) : List RingId := (List.range 64).map (fun i => Fin.ofNat 64 (x.visit.val + 1 + i))

/-- The first forme in the order of the pool that still has an entry to fetch (R256). -/
def poolFirst (s : State) : Option FormeId := s.poolQueue.find? (fun g => (visitOrder (s.forme g)).any (ringCanFetch (s.forme g)))

/-- A guaranteed slot, or a pool slot in the order in which fetches first asked for one (R256). -/
def slotFor (s : State) (f : FormeId) : Slot :=
  match (s.forme f).cfg with
  | some c =>
    if formeBusy (s.forme f) < guarantee c then .granted
    else if poolUsed s < poolSize s && (poolFirst s).all (· == f) then .granted
    else .waits
  | none => .waits

/-- Issue the read of a ring's next entry (R248, R250). -/
def issueFetch (s : State) (f : FormeId) (r : RingId) : State :=
  let g := (s.forme f).ring r
  (s.modRing f r (fun g => { g with fetching := true })).formeDrd f (.ringEntry f r) false (entryAddr g g.head) 256

/-- A visit to a ring that can fetch: the read goes out once the bound on the module lets it, or the forme takes its place in the order of
the pool (R250, R256). -/
def visitRing (s : State) (f : FormeId) (r : RingId) : State :=
  match slotFor s f with
  | .granted => issueFetch ({ s with poolQueue := s.poolQueue.filter (· != f) }.modForme f (fun x => { x with visit := r })) f r
  | .waits => { s with poolQueue := if s.poolQueue.contains f then s.poolQueue else s.poolQueue ++ [f] }

/-- R250: the next ring that can fetch, within the bounds of R255 and R256. -/
def execFeedEntryFetch (f : FormeId) (s : State) : Res :=
  match (visitOrder (s.forme f)).find? (ringCanFetch (s.forme f)) with
  | some r => .next (visitRing s f r)
  | none => .next s

/-- The read of a ring entry faults: the entry is not fetched and the ring enters STATE 2 (R350). -/
def entryReadFault (s : State) (f : FormeId) (r : RingId) (st : EcpStatus) : State :=
  let g := (s.forme f).ring r
  if g.fetching then
    ((s.retireUse (.ringEntry f r)).noteFault f (entryAddr g g.head) st).modForme f (fun x =>
      settleRing (x.setRing r ({ g with fetching := false, entryFault := true }).enterFaulted) r)
  else s

/-- R350. -/
def execEntryReadFault (f : FormeId) (r : RingId) (st : EcpStatus) (s : State) : Res := .next (entryReadFault s f r st)

/-! ### Checks and admission (R247, R249, R265, R284) -/

/-- R249 check 2: the ranges of an entry, by its opcode. -/
def entryRangesOk (e : RingEntry) : Bool :=
  let op := entryOpcode e
  op ≤ 4 && entryConstLen e ≤ 192 &&
  (op != 1 || (1 ≤ entrySequences e && entrySequences e ≤ 4096 && entryPositions e ≤ Config.maxPositions && entryNewPositions e ≤ Config.maxPositions)) &&
  (!(op == 2 || op == 3) || (4096 ≤ entryLength e && entryLength e % 4096 == 0)) &&
  (op != 2 || entryMatter e != 0)

/-- The version a LAUNCH pins: the one it names, or the newest (R261). A version is visible from the stroke after its entry
completes (R260); until then the one before it is the newest there is. -/
def pinVersion (x : Forme) (now : Word) (e : RingEntry) : Option Version :=
  match findMatter x (entryMatter e) with
  | none => none
  | some m => match m.newest with
    | none => none
    | some n =>
      let seen := m.versions.filter (fun v => v.since != now)
      let newest := if seen.any (·.number == n) then n else n - 1
      seen.find? (fun v => v.number == (if entryVersion e == 0 then newest else entryVersion e))

/-- The first failing check of R249. -/
def entryStatus (x : Forme) (now : Word) (q : Seq) (e : RingEntry) : Option Code :=
  let op := entryOpcode e
  if entrySeq e != q then some 0x0D02
  else if !entryRangesOk e then some 0x0D01
  else if op == 3 && entryVersion e != 0 then some 0x0D08
  else if (op == 1 && (pinVersion x now e).isNone) ||
      ((op == 3 || op == 4) && !((findMatter x (entryMatter e)).any (fun m => m.newest.isSome))) then some 0x0D03
  else if op == 3 && !((findMatter x (entryMatter e)).any (fun m => m.newest == some (entryBaseVersion e))) then some 0x0D0C
  else none

/-- The context table record of a context: WEIGHT and PRIORITY (R266); the whole table lies in the forme's own space. -/
def contextRecord (s : State) (f : FormeId) (c : BitVec 16) : Option (Word × State) :=
  let base : BitVec 56 := (s.forme f).sched.ctxTable.zeroExtend 56 <<< 3
  if ownSpace s f base (8 * 65536) then (engineRead s f (base + BitVec.ofNat 56 (8 * c.toNat)) 8).map (fun r => (leWord r.1, r.2)) else none

/-- The checks of R284 for a LAUNCH, with its context record. -/
def contextStatus (s : State) (f : FormeId) (e : RingEntry) (rec' : Option Word) : Option Code :=
  let x := s.forme f
  let old := findCtx x (entryContext e)
  if entryNewCtx e && old.isSome then some 0x0E01
  else if !entryNewCtx e && (match old with | some c => c.releasing.isSome | none => true) then some 0x0E02
  else if !(rec'.any (fun w => fld w 15 0 != 0)) then some 0x0E03
  else if entryNewCtx e && (match x.cfg with | some c => 1024 * (bitsSet c.octets).length ≤ x.ctxs.length | none => true) then some 0x0E04
  else none

/-- A binding of the forme holds an image, its own or an attached one (R107, R231). -/
def bindingHolds (x : Forme) (b : BindingId) : Bool :=
  (x.inker.bindings[b.val]).image.isSome || (x.inker.bindings[b.val]).attached.isSome

/-- What completes an admitted LAUNCH without running, once its context stands (log 33 gives the order): every core fenced
(R67), a slug record outside R185, an empty binding (R107), a tuning step outside R206 to R209, too small an explicit region
(R126). -/
def launchRefusal (s : State) (f : FormeId) (v : Version) (e : RingEntry) : Option Code :=
  let x := s.forme f
  if (s.liveCores f).isEmpty then some 0x0401
  else if v.slugs.any (fun r => fld r.ctrl 23 0 == 0 || proofSpaceKib x < fld r.ctrl 23 0) then some 0x0A01
  else if !bindingHolds x v.binding || v.tensors.any (fun t => t.cls == 0 && !bindingHolds x t.binding) then some 0x0C08
  else match tuneStatus s f v e with
    | some c => some c
    | none => if x.makeup.explicitActive < v.explicitNeed then some 0x0702 else none

/-- The frame of a launch: the constant block padded to 192 bytes, then header words 0 to 5 (R262). -/
def makeFrame (e : RingEntry) : Memory :=
  memPutAll galleyDefault (memPutAll galleyDefault [] 0 (e.consts.take (entryConstLen e)))
    192 (((e.hdr.toList).take 6).flatMap (fun w => leBytes 8 w.toNat))

/-- The state after the engine's read of a context's record. -/
def afterRead (s : State) (read : Option (Word × State)) : State := match read with | some p => p.2 | none => s

/-- A LAUNCH runs from here, and its context is active with the weight and class of the record word (R265, R266). -/
def enterLaunch (s : State) (f : FormeId) (r : RingId) (q : Seq) (l : Launch) (v : Version) (w : Word) : State :=
  let e := l.entry
  let order := (s.forme f).admitted
  let launch := cutChunk (s.forme f).sched { l with phase := .running, version := v.number, order := order, frame := makeFrame e } (entryPositions e)
  let fresh := newContext s f l v (fld w 15 0) (bitOf w 16)
  s.modForme f (fun x =>
    let y := modLaunch { x with admitted := x.admitted + 1 } r q (fun _ => if isToken e then { launch with frame := makeFrame e } else launch)
    let z := if entryNewCtx e then { y with ctxs := y.ctxs ++ [fresh] } else y
    modCtx z (entryContext e) (fun c => { c with
      weight := fld w 15 0, batch := bitOf w 16, active := true, ring := r, matter := entryMatter e, version := v.number,
      shape := (entrySequences e, entryPositions e + entryNewPositions e),
      releasing := if entryReleaseCtx e then some order else c.releasing }))

/-- The launch that brings a new key is remembered as its maker, should no plan place its sheets (R123). -/
def noteKeyMaker (s s1 : State) (f : FormeId) (r : RingId) (q : Seq) : State :=
  if keyInForce s1 f == keyInForce s f then s1 else s1.modForme f (fun x => { x with makeup := { x.makeup with keyMaker := some (r, q) } })

/-- A launch whose context has entered stands, or completes with what refuses it. -/
def launchStands (s s1 : State) (f : FormeId) (r : RingId) (q : Seq) (v : Version) (e : RingEntry) : State :=
  let s2 := noteKeyMaker s s1 f r q
  match launchRefusal s2 f v e with
  | some c => s2.completeWith f r q c
  | none => s2

/-- Admit a LAUNCH whose checks of R249 have passed: its context is checked and created, its version pinned, its frame
filled, or it completes without running (R247, R250, R261, R262, R265, R284). -/
def admitLaunch (s : State) (f : FormeId) (r : RingId) (q : Seq) (l : Launch) (v : Version) : State :=
  let e := l.entry
  if Config.maxPositions < entryPositions e + entryNewPositions e then s.completeWith f r q 0x0901
  else
    let read := contextRecord s f (entryContext e)
    let s1 := afterRead s read
    match contextStatus s1 f e (read.map (·.1)) with
    | some c => s1.completeWith f r q c
    | none => launchStands s1 (enterLaunch s1 f r q l v ((read.map (·.1)).getD 0)) f r q v e

/-- The 16-live-version and 1,024-matter bounds and the allotment leave room now (R255, R260, R261). A STORE of a freed matter waits until
its last version is gone, for no operation writes a version that exists (log 24). -/
def matterRoom (x : Forme) (id : BitVec 32) (len : Nat) : Bool :=
  (match x.cfg with | some c => matterUsed x + len ≤ matterAllot c | none => false) &&
  (match findMatter x id with
    | some m => m.versions.length < 16 && m.newest.isSome
    | none => x.matters.length < 1024)

/-- Room could be met once every non-newest version is freed (R261). -/
def matterRoomEver (x : Forme) (id : BitVec 32) (len : Nat) : Bool :=
  (match x.cfg with | some c => matterNewest x + len ≤ matterAllot c | none => false) &&
  ((findMatter x id).isSome || (x.matters.filter (fun m => m.newest.isSome)).length < 1024)

/-- Start copying a STORE's or PATCH's image (R260). -/
def startImageRead (s : State) (f : FormeId) (r : RingId) (q : Seq) (e : RingEntry) : State :=
  (s.modForme f (fun x => modLaunch x r q (fun l => { l with phase := .reading }))).formeDrd f (.matterImage f r q) false (entrySource e) (entryLength e)

/-- Act on an entry at its fetch, or at its release: the timer, the checks of R249, then the opcode (R249, R250, R257, R260). -/
def processEntry (s : State) (f : FormeId) (r : RingId) (q : Seq) : State :=
  match findLaunch (s.forme f) r q with
  | none => s
  | some l =>
    if timerExpired s l.timer then s.completeWith f r q 0x0D04
    else match entryStatus (s.forme f) s.time.ticks q l.entry with
      | some c => s.completeWith f r q c
      | none =>
        match entryOpcode l.entry with
        | 1 => match pinVersion (s.forme f) s.time.ticks l.entry with
          | some v => admitLaunch s f r q l v
          | none => s.completeWith f r q 0x0D03
        | 2 => if (findMatter (s.forme f) (entryMatter l.entry)).any (fun m => m.newest.isSome) then s.completeWith f r q 0x0D01
               else startImageRead s f r q l.entry
        | 3 => startImageRead s f r q l.entry
        | 4 => (s.modForme f (fun x => Forme.freeVersions { x with
                  matters := x.matters.map (fun m => if m.id == entryMatter l.entry then { m with newest := none } else m) })).completeWith f r q 0
        | _ => s.completeWith f r q 0

/-- An entry must wait: FENCE behind any entry of its ring, a LAUNCH behind a STORE, PATCH or FREE (R250). -/
def mustHold (x : Forme) (l : Launch) : Bool :=
  x.launches.any (fun k => k.ring == l.ring && k.seq != l.seq && launchOpen k &&
    (entryFence l.entry || (entryOpcode l.entry == 1 && (2 ≤ entryOpcode k.entry && entryOpcode k.entry ≤ 4))))

/-- A LAUNCH waits out the stroke in which an image of its matter was stored: the version is visible from the next (R260). -/
def storedThisStroke (x : Forme) (now : Word) (l : Launch) : Bool :=
  entryOpcode l.entry == 1 && (findMatter x (entryMatter l.entry)).any (fun m => m.versions.any (·.since == now))

/-- A fetched entry arrives: HEAD advances, and the entry is held or acted on (R248, R250). -/
def arriveEntry (s : State) (f : FormeId) (r : RingId) (e : RingEntry) : State :=
  let g := (s.forme f).ring r
  if g.fetching then
    let q := g.head
    let l : Launch := {
      ring := r, seq := q, entry := e, phase := .held, fetched := s.time.ticks, timer := bellTick g q, version := 0, order := 0,
      frame := [], passed := 0, flags := 0, fault := none, imposedStatus := none, ended := none, result := [],
      chunkFirst := 0, chunkLen := 0, chunkLast := false, chunkSlugs := [], cutDone := false, matched := 0, norm2 := none, powers := [], image := none, record := none }
    let s1 := (s.retireUse (.ringEntry f r)).modForme f (fun x =>
      { x.setRing r { g with
          head := q + 1, fetching := false, bells := g.bells.filter (fun b => b.1 != q + 1) } with launches := x.launches ++ [l] })
    if mustHold (s1.forme f) l then s1 else processEntry s1 f r q
  else s

/-- R250: a NOP entry arrives. -/
def execNop (f : FormeId) (r : RingId) (e : RingEntry) (s : State) : Res :=
  .next (if entryOpcode e == 0 then arriveEntry s f r e else s)

/-- R247: a LAUNCH entry arrives, or one whose OPCODE is not defined (R249 check 2). -/
def execLaunch (f : FormeId) (r : RingId) (e : RingEntry) (s : State) : Res :=
  .next (if entryOpcode e == 1 || 4 < entryOpcode e then arriveEntry s f r e else s)

/-- R260: a STORE entry arrives. -/
def execStore (f : FormeId) (r : RingId) (e : RingEntry) (s : State) : Res :=
  .next (if entryOpcode e == 2 then arriveEntry s f r e else s)

/-- R260: a PATCH entry arrives. -/
def execPatch (f : FormeId) (r : RingId) (e : RingEntry) (s : State) : Res :=
  .next (if entryOpcode e == 3 then arriveEntry s f r e else s)

/-- R260: a FREE entry arrives. -/
def execFree (f : FormeId) (r : RingId) (e : RingEntry) (s : State) : Res :=
  .next (if entryOpcode e == 4 then arriveEntry s f r e else s)

/-- R250: a held entry is released once the entries it waits for have completed. -/
def execEntryRelease (f : FormeId) (r : RingId) (s : State) : Res :=
  match (s.forme f).launches.find? (fun l => l.ring == r && l.phase == .held) with
  | some l => .next (if mustHold (s.forme f) l || storedThisStroke (s.forme f) s.time.ticks l then s else processEntry s f r l.seq)
  | none => .next s

/-- Add a version to a matter, or make the matter (R260). -/
def addVersion (x : Forme) (id : BitVec 32) (v : Version) : Forme :=
  if (findMatter x id).isSome then
    { x with matters := x.matters.map (fun m => if m.id == id then { m with newest := some v.number, versions := m.versions ++ [v] } else m) }
  else { x with matters := x.matters ++ [{ id := id, newest := some v.number, versions := [v] }] }

/-- The image of a STORE or PATCH is in and passed R260: the version is stored, waits for room, or is refused (R260, R261). -/
def storeVersion (s : State) (f : FormeId) (r : RingId) (q : Seq) (e : RingEntry) (v : Version) : State :=
  let x := s.forme f
  let id := entryMatter e
  if entryOpcode e == 2 && (findMatter x id).any (fun m => m.newest.isSome) then s.completeWith f r q 0x0D01
  else if entryOpcode e == 3 && !((findMatter x id).any (fun m => m.newest == some (entryBaseVersion e))) then s.completeWith f r q 0x0D0C
  else if !matterRoomEver x id v.length then s.completeWith f r q 0x0D09
  else if !matterRoom x id v.length then s.modForme f (fun x => modLaunch x r q (fun l => { l with phase := .waiting, image := some v }))
  else
    let number : BitVec 32 := if entryOpcode e == 2 then 1 else entryBaseVersion e + 1
    (((s.chargeStack f v.length).modForme f (fun x => addVersion x id { v with number := number, since := s.time.ticks })).completeWith f r q 0).modForme f Forme.freeVersions

/-- The read of a STORE's or PATCH's image faults: the entry completes with 0x1102 and stores nothing (R260, R350). -/
def matterReadFault (s : State) (f : FormeId) (r : RingId) (q : Seq) (st : EcpStatus) (a : HostAddr) : State :=
  ((s.retireUse (.matterImage f r q)).noteFault f a st).completeWith f r q 0x1102

/-- R260, R261: the image read ends; for a STORE or PATCH that waits, room is tested again. -/
def execMatterImageReadDone (f : FormeId) (r : RingId) (seq : Seq) (image : Fetched Blob) (s : State) : Res :=
  match findLaunch (s.forme f) r seq with
  | some l =>
    match l.phase, image, l.image with
    | .reading, .fault st a, _ => .next (matterReadFault s f r seq st a)
    | .reading, .data b, _ =>
      let s1 := s.retireUse (.matterImage f r seq)
      match parseMatter b (entryLength l.entry) with
      | some v => .next (storeVersion s1 f r seq l.entry v)
      | none => .next (s1.completeWith f r seq 0x0D0A)
    | .waiting, _, some v => .next (storeVersion s f r seq l.entry v)
    | _, _, _ => .next s
  | none => .next s

/-! ### Completion (R251, R253, R257) -/

/-- R251: a launch whose slugs have ended and whose END, or imposed status, stands completes. -/
def execLaunchComplete (f : FormeId) (r : RingId) (seq : Seq) (s : State) : Res :=
  match findLaunch (s.forme f) r seq with
  | some l => .next (if launchReady (s.forme f) l then s.completeEntry f r seq else s)
  | none => .next s

/-- A record is written: DONE advances over it; in a replay the next write follows (R251, R253). -/
def recordWritten (s : State) (f : FormeId) (r : RingId) (q : Seq) : State :=
  let s1 := s.retireUse (.record f r q)
  let g := (s1.forme f).ring r
  if g.held.any (·.seq == q) then
    replayNext (s1.modForme f (fun x => settleRing (x.setRing r { g with
      held := g.held.filter (·.seq != q), written := g.written ++ [q] }) r)) f r
  else match findLaunch (s1.forme f) r q with
    | some l => if l.phase == .writing then
        s1.modForme f (fun x => dropLaunch (x.setRing r { g with written := g.written ++ [q] }) r q)
      else s1
    | none => s1

/-- A record write faults: the record is held and the ring is in STATE 2; a replay stops at it (R253, R349). -/
def recordFaulted (s : State) (f : FormeId) (r : RingId) (q : Seq) (st : EcpStatus) : State :=
  let s1 := s.retireUse (.record f r q)
  let g := (s1.forme f).ring r
  match findLaunch (s1.forme f) r q with
  | none => if g.held.any (·.seq == q) then s1.noteFault f (recordAddr g q) st else s1
  | some l => match l.phase, l.record with
    | .writing, some rec' =>
      (s1.noteFault f (recordAddr g q) st).modForme f (fun x => dropLaunch (x.setRing r ({ g with held := insertHeld g.done rec' g.held }).enterFaulted) r q)
    | _, _ => s1

/-- R251, R253: the outcome of a record's write. -/
def execRecordWriteDone (f : FormeId) (r : RingId) (seq : Seq) (st : EcpStatus) (s : State) : Res :=
  .next (if st == .ok then recordWritten s f r seq else recordFaulted s f r seq st)

/-- The launch's timer expires: an unfetched entry is fetched in ring order, within the bounds of R255, to complete unrun, a held or reading one completes,
a running one has its unpassed slugs failed (R257). -/
def launchExpire (s : State) (f : FormeId) (r : RingId) (q : Seq) : State :=
  match findLaunch (s.forme f) r q with
  | some l =>
    if timerExpired s l.timer then
      match l.phase with
      | .running =>
        if launchReady (s.forme f) l then s
        else if ((s.forme f).ring r).heldResults.contains q then s
        else (s.modForme f (fun x => x.imposeStatus r q 0x0D04)).settle f
      | .held | .reading | .waiting => s.completeWith f r q 0x0D04
      | .writing => s
    else s
  | none =>
    let g := (s.forme f).ring r
    if g.head == q && ringCanFetch (s.forme f) r && timerExpired s (bellTick g q) then visitRing s f r else s

/-- R257. -/
def execLaunchTimeout (f : FormeId) (r : RingId) (seq : Seq) (s : State) : Res := .next (launchExpire s f r seq)

end Sys2Proof.Machine
end

