-- ==== Sys2Proof/Machine/LinkOps.lean ====
section
/-! DEFINITION. Aczia operations the families share: module numbers, routing, the sender of a link, jobs and their members,
and the faults of collectives (R302, R307 to R327). -/
namespace Sys2Proof.Machine

/-! ### Module numbers and routing (R302, R313) -/

/-- x, y and pod of a module number. -/
def modX (m : BitVec 12) : Nat := m.toNat % 16
/-- As `modX`. -/
def modY (m : BitVec 12) : Nat := m.toNat / 16 % 16
/-- As `modX`. -/
def modPod (m : BitVec 12) : Nat := m.toNat / 256
/-- A module number from its parts. -/
def modNumber (pod y x : Nat) : BitVec 12 := BitVec.ofNat 12 (256 * pod + 16 * y + x)

/-- MODULE, NX and NY of ACZ_SELF (R328). -/
def State.selfModule (s : State) : BitVec 12 := s.selfReg.truncate 12
/-- As `selfModule`. -/
def State.nx (s : State) : Nat := fld s.selfReg 20 16
/-- As `selfModule`. -/
def State.ny (s : State) : Nat := fld s.selfReg 28 24

/-- The link carries packets: trained, or retraining narrower, and not disabled (R311 to R313, R328). -/
def linkUsable (s : State) (l : LinkId) : Bool :=
  let k := s.link l
  (k.state == .up || k.state == .retraining) && !k.disable

/-- The other link of an axis. -/
def otherLink (l : LinkId) : LinkId := Fin.ofNat 6 (l.val ^^^ 1)

/-- The route of R313 from this module: the link, and whether the packet travels reversed. `via` is the link it came in on. -/
def route (s : State) (dst : BitVec 12) (reversed : Bool) (via : Option LinkId) : Option (LinkId × Bool) :=
  let me := s.selfModule
  if modPod dst != modPod me then
    let z : LinkId := if (me.toNat + dst.toNat) % 2 = 0 then 4 else 5
    if linkUsable s z then some (z, reversed) else if linkUsable s (otherLink z) then some (otherLink z, reversed) else none
  else
    let xAxis := modX dst != modX me
    let n := if xAxis then s.nx else s.ny
    let up := if xAxis then (modX dst + n - modX me) % n else (modY dst + n - modY me) % n
    let plus : LinkId := if xAxis then 0 else 2
    let dir := if up ≤ n - up then plus else otherLink plus
    if reversed then
      -- it goes on the way it travels: out of the link opposite to the one it came in on, on this axis
      let on := match via with | some l => if l == plus || l == otherLink plus then otherLink l else dir | none => dir
      if linkUsable s on then some (on, true) else none
    else if linkUsable s dir then some (dir, false)
    else if linkUsable s (otherLink dir) then some (otherLink dir, true) else none

/-- The class a packet takes on a link: 1 once it crosses the ring's dateline (R309). -/
def classOn (s : State) (l : LinkId) (old : Bool) : Bool :=
  let me := s.selfModule
  match l.val with
  | 0 => old || modX me + 1 == s.nx
  | 1 => old || modX me == 0
  | 2 => old || modY me + 1 == s.ny
  | 3 => old || modY me == 0
  | _ => old

/-- Bytes of a packet on a link: header, payload and tag; a JOB packet counts its LEN in 4-byte units (R317, R367). -/
def packetBytes (p : Packet) : Nat := if p.ptype == 7 then 16 + 4 * p.len.toNat else 48 + p.len.toNat

/-- The credit counter of a packet's VC and class (R307, R309). -/
def creditIndex (p : Packet) : Fin 8 := Fin.ofNat 8 (2 * p.vc.val + p.cls.toNat)

/-- Credits, in 64-byte units, that a whole packet needs (R309). -/
def creditNeed (p : Packet) : Nat := ceilDiv (packetBytes p) 64

/-- Data flits a packet takes when it starts a flit of its own (R307; log 40). -/
def flitsOf (p : Packet) : Nat := max 1 (ceilDiv (packetBytes p) 232)

/-- The flits of one packet from a SEQ on: the packet ends in the last. -/
def packetFlits (p : Packet) (seq : BitVec 12) : List (BitVec 12 × List Packet) :=
  (List.range (flitsOf p)).map (fun i => (seq + BitVec.ofNat 12 i, if i + 1 = flitsOf p then [p] else []))

/-- Send what a link's queue may send now: credits for the whole packet, and room in the replay buffer (R308, R309). `fuel`
bounds the packets. -/
def drainQueue : Nat → State → LinkId → State
  | 0, s, _ => s
  | n + 1, s, l =>
    let k := s.link l
    match k.queue with
    | [] => s
    | p :: rest =>
      if k.state == .up && k.replay.length + flitsOf p ≤ 2048 && creditNeed p ≤ k.credits[(creditIndex p).val] then
        let fs := packetFlits p k.txSeq
        let s1 := s.modLink l (fun k => { k with
          queue := rest, replay := k.replay ++ fs, txSeq := k.txSeq + BitVec.ofNat 12 (flitsOf p),
          credits := k.credits.set (creditIndex p).val (k.credits[(creditIndex p).val] - creditNeed p) (creditIndex p).isLt })
        drainQueue n (fs.foldl (fun t f => t.emit (.flit l f.1 f.2)) s1) l
      else s

/-- Put a packet on a link (R309). -/
def enqueue (s : State) (l : LinkId) (p : Packet) : State :=
  let q := { p with cls := classOn s l p.cls }
  let s1 := s.modLink l (fun k => { k with queue := k.queue ++ [q] })
  drainQueue (s1.link l).queue.length s1 l

/-- The requester's tag in a packet. -/
def bodyTag : PacketBody → BitVec 16
  | .loadReq t _ _ | .loadResp t _ _ | .store t _ _ | .flagAdd t _ _ | .storeAck t | .nack _ t _ => t
  | .collData _ _ _ _ _ _ | .join _ _ _ | .reroute _ _ | .abort | .job _ _ _ _ => 0

/-- Forward a packet, or send it from here, on the route of R313; an unreachable hop answers NACK_REMOTE where a route back
exists, and drops it otherwise (R314). A packet that turns into another ring starts there in class 0 (R309; log 40). -/
def forward (s : State) (via : Option LinkId) (p : Packet) : State :=
  match route s p.dst p.reversed via with
  | some (l, rev) => enqueue s l { p with
      reversed := rev, hops := if via.isSome then satInc p.hops else p.hops, cls := p.cls && via.all (fun v => v.val / 2 == l.val / 2) }
  | none =>
    if p.ptype == 8 || p.ptype == 7 then s
    else
      let back : Packet := { p with
        ptype := 8, vc := 0, src := s.selfModule, dst := p.src, len := 0, cls := false, reversed := false, hops := 0, body := .nack p.ptype (bodyTag p.body) p.dst, tagOk := true }
      match route s p.src false none with
      | some (l, rev) => enqueue s l { back with reversed := rev }
      | none => s

/-! ### Jobs (R315, R316) -/

/-- A job slot of a forme. -/
def Forme.job (x : Forme) (k : JobSlot) : Option Job := x.jobs[k.val]
/-- Put a job slot. -/
def Forme.setJob (x : Forme) (k : JobSlot) (j : Option Job) : Forme := { x with jobs := x.jobs.set k.val j k.isLt }
/-- Change an open or opening job. -/
def State.modJob (s : State) (f : FormeId) (k : JobSlot) (g : Job → Job) : State :=
  s.modForme f (fun x => match x.job k with | some j => x.setJob k (some (g j)) | none => x)

/-- The members of a job's box, in ascending module number (R315). -/
def jobMembers (j : Job) : List (BitVec 12) :=
  (bitsSet j.podMask).flatMap (fun p => (List.range j.nyj).flatMap (fun y => (List.range j.nxj).map (fun x => modNumber p (j.y0 + y) (j.x0 + x))))

/-- Job slots, ascending. -/
def jobSlots : List JobSlot := List.finRange 64

/-- The forme's lowest-numbered open job that contains a module (R319). -/
def jobFor (s : State) (f : FormeId) (m : BitVec 12) : Option (JobSlot × Job) :=
  jobSlots.findSome? (fun k => match (s.forme f).job k with
    | some j => if j.isOpen && (jobMembers j).contains m then some (k, j) else none
    | none => none)

/-- The forme and slot of this module that hold an open job by its JOB_ID (R315). -/
def jobById (s : State) (id : Word) : Option (FormeId × JobSlot × Job) :=
  allFormes.findSome? (fun f => jobSlots.findSome? (fun k => match (s.forme f).job k with
    | some j => if j.jobId == id && j.isOpen then some (f, k, j) else none
    | none => none))

/-- This module's index among a job's members. -/
def myIndex (s : State) (j : Job) : Nat := (jobMembers j).findIdx (· == s.selfModule)

/-- The next DSEQ toward a destination (R317). -/
def dseqOf (j : Job) (d : BitVec 12) : BitVec 32 := match j.dseq.find? (·.1 == d) with | some p => p.2 | none => 0

/-- A packet of a job, numbered, and the state after its numbers are used (R317). -/
def jobPacket (s : State) (f : FormeId) (k : JobSlot) (dst : BitVec 12) (ptype : BitVec 4) (vc : Fin 4) (len : Nat) (arg : BitVec 32) (body : PacketBody) :
    Option (Packet × State) :=
  match (s.forme f).job k with
  | none => none
  | some j =>
    let p : Packet := {
      ptype := ptype, vc := vc, src := s.selfModule, dst := dst, len := BitVec.ofNat 9 len, cls := false, reversed := false,
      hops := 0, jobId := j.jobId, pktNum := j.pktNum, dseq := dseqOf j dst, arg := arg, body := body, tagOk := true }
    some (p, s.modJob f k (fun j => { j with
      pktNum := j.pktNum + 1, dseq := (j.dseq.filter (·.1 != dst)) ++ [(dst, dseqOf j dst + 1)] }))

/-- Send a packet of a job on the route of R313. -/
def sendJob (s : State) (f : FormeId) (k : JobSlot) (dst : BitVec 12) (ptype : BitVec 4) (vc : Fin 4) (len : Nat) (arg : BitVec 32) (body : PacketBody) : State :=
  match jobPacket s f k dst ptype vc len arg body with
  | some (p, s1) => forward s1 none p
  | none => s

/-- The first link toward a module lies in the forme's LINK_MASK and a route exists (R314). -/
def reachable (s : State) (f : FormeId) (m : BitVec 12) : Bool :=
  match route s m false none, (s.forme f).cfg with
  | some (l, _), some c => c.linkMask.getLsbD l.val
  | _, _ => false

/-- Send a collective control packet to every other member (R324, R327). -/
def sendAll (s : State) (f : FormeId) (k : JobSlot) (body : PacketBody) : State :=
  match (s.forme f).job k with
  | some j => ((jobMembers j).filter (· != s.selfModule)).foldl (fun t m =>
      if reachable t f m then sendJob t f k m 6 2 32 (match j.coll with | some c => BitVec.ofNat 32 c.k | none => 0) body else t) s
  | none => s

/-- A collective of this member faults: the slug is finally discarded with 0x1001, or 0x1002 after a peer's NACK_REMOTE; the
cause is kept, and with `abort` every reachable member is told (R326, R327). -/
def collFault (s : State) (f : FormeId) (k : JobSlot) (cause : BitVec 3) (code : Code) (abort : Bool) : State :=
  match (s.forme f).job k with
  | some j => match j.coll with
    | some c =>
      let s1 := if abort then sendAll s f k .abort else s
      let s2 := s1.modJob f k (fun j => { j with coll := none, early := j.early.filter (fun e => c.k < e.2.1 || e.2.2.1 != c.stroke) })
      let s3 := s2.modForme f (fun x => { x with collCause := if code = 0x1001 then cause else x.collCause, collSlot := BitVec.ofNat 6 k.val })
      s3.faultSlug f c.tag .discarded code
    | none => s
  | none => s

/-- Close a job slot: a collective in progress is aborted and its slug finally discarded, and the key is destroyed (R316). -/
def closeJob (s : State) (f : FormeId) (k : JobSlot) : State :=
  let s1 := collFault s f k 5 0x1001 true
  s1.modForme f (fun x => x.setJob k none)

/-- Close every job of a forme (R316, R407 phase 1). -/
def closeJobs (s : State) (f : FormeId) : State := jobSlots.foldl (fun t k => if ((t.forme f).job k).isSome then closeJob t f k else t) s

/-! ### Collective ops at issue (R322) -/

/-- Fields of a collective op. -/
def collOp (o : OpRec) : Nat := fld (opWord o 0) 15 8
/-- As `collOp`. -/
def collType (o : OpRec) : Nat := fld (opWord o 0) 23 16
/-- As `collOp`. -/
def collReduce (o : OpRec) : Nat := fld (opWord o 0) 25 24
/-- As `collOp`. -/
def collSlot (o : OpRec) : JobSlot := Fin.ofNat 64 (fld (opWord o 0) 31 26)
/-- As `collOp`. -/
def collRoot (o : OpRec) : Nat := fld (opWord o 0) 43 32
/-- As `collOp`. -/
def collElements (o : OpRec) : Nat := fld (opWord o 2) 39 0

/-- Collectives run only while the stroke is LOCKED or in HOLDOVER (R50, R322). -/
def strokeRefuses (s : State) : Bool := s.time.state == .unlocked || s.time.state == .lost || s.time.state == .rejoining

/-- What refuses a collective op at issue: 0x1005, then 0x0310 (R322). -/
def collIssueStatus (s : State) (f : FormeId) (o : OpRec) : Option Code :=
  match (s.forme f).job (collSlot o), (s.forme f).cfg with
  | some j, some c =>
    let m := (jobMembers j).length
    let op := collOp o
    if !j.isOpen || !c.collective then some 0x1005
    else if !(1 ≤ op && op ≤ 5) || !(collType o == 0x81 || collType o == 0x82 || collType o == 0x8A) || 3 ≤ collReduce o ||
      (op == 4 && m ≤ collRoot o) || ((op == 2 || op == 5) && collElements o % m != 0) then some 0x1005
    else if strokeRefuses s then some 0x0310 else none
  | _, _ => some 0x1005

/-! ### Remote space (R319 to R321) -/

/-- A remote access may leave: an open job contains the module, the right is held, and the destination is reachable (R320, R321). -/
def remoteJob (s : State) (f : FormeId) (m : BitVec 12) (store : Bool) : Option JobSlot :=
  match (s.forme f).cfg, jobFor s f m with
  | some c, some (k, _) => if (if store then c.remoteStore else c.remoteLoad) && reachable s f m then some k else none
  | _, _ => none

end Sys2Proof.Machine
end

