-- ==== Sys2Proof/Machine/Slugs.lean ====
section
/-! DEFINITION. Slugs: what a compositor program asks of the engines (R263), the pass of a slug and its proofs (R179 to R189),
detections (R190 to R195), and release and acquire (R285 to R301). -/
namespace Sys2Proof.Machine

/-! ### Proofs and commands of a compositor program -/

/-- The bytes of a proof, as PROOF_KIB counts them: a descriptor-set pointer as its address, an update's sum as the word it joins. -/
def proofBytes (p : Proof) : List Byte :=
  match p with
  | .tensor _ d | .stack _ d | .galley _ d | .host _ d | .spill _ d | .remote _ _ d => d
  | .append _ _ k w => nibbleBytes (k ++ w)
  | .pointer _ (.placed a _ _) => leBytes 8 a.toNat
  | .pointer _ _ => leBytes 8 0
  | .norm2 _ sum _ => leBytes 4 sum.toNat

/-- NORM2_PREV and NORM2_ACC of a job record (R211). -/
def normWords (s : State) (f : FormeId) (job : BitVec 56) : BitVec 32 × BitVec 32 :=
  match ownWord s f job with
  | some w => (BitVec.ofNat 32 (fld w 31 0), BitVec.ofNat 32 (fld w 63 32))
  | none => (0, 0)

/-- The two words of a job record after an update's sum joins it, and the step closes where the update is marked STEP_END (R211). -/
def normAfter (prev acc sum : BitVec 32) (stepEnd : Bool) : List Byte :=
  let a := f32Out (f32Add acc sum)
  if stepEnd then leBytes 4 a.toNat ++ leBytes 4 0 else leBytes 4 prev.toNat ++ leBytes 4 a.toNat

/-- The bytes a proof makes visible if its slug passes now (R189). -/
def passBytes (s : State) (f : FormeId) (p : Proof) : List Byte :=
  match p with
  | .norm2 job sum e => let w := normWords s f job; normAfter w.1 w.2 sum e
  | q => proofBytes q

/-- Proof space a slug's writes take: 256 bytes for every line (R183). -/
def proofLines (ps : List Proof) : Nat :=
  sumNat (ps.map (fun p => match p with
    | .append _ _ _ _ => 1
    | q => ceilDiv (proofBytes q).length 256))

/-- Add a proof; a later write of the same tensor replaces the earlier one. -/
def addProof (ps : List Proof) (p : Proof) : List Proof :=
  match p with
  | .tensor h _ => ps.filter (fun q => (proofTensor h q).isNone) ++ [p]
  | q => ps ++ [q]

/-! ### Commands of a compositor program (R263) -/

/-- The launch whose program may act: admitted, not ended, its compositor powered. -/
def programLaunch (s : State) (f : FormeId) (r : RingId) (q : Seq) : Option Launch :=
  match findLaunch (s.forme f) r q, (s.forme f).cfg with
  | some l, some c =>
    if l.phase == .running && l.ended.isNone && l.imposedStatus.isNone && (s.comp c.compositor).powered then some l else none
  | _, _ => none

/-- Slugs of a chain that ends in a slug, following ANTECEDENT back; `fuel` bounds it. -/
def chainLength (x : Forme) : Nat → Option SlugTag → Nat
  | 0, _ => 0
  | n + 1, t => match t.bind (findSlug x) with
    | some a => 1 + chainLength x n a.antecedent
    | none => 0

/-- The antecedent of an ISSUE is one R187 allows. -/
def antecedentOk (x : Forme) (ctx : BitVec 16) (t : SlugTag) : Bool :=
  match findSlug x t with
  | some a => !slugEnded a && a.speculative && a.ctx == ctx && chainLength x 17 (some t) < 16
  | none => false

/-- The flag address of a RELEASE or ACQUIRE_WAIT is one R293 allows (R301): `store` says which right a remote flag needs. -/
def flagOk (s : State) (f : FormeId) (a : BitVec 56) (store : Bool) : Bool :=
  a.toNat % 8 == 0 && match place? s f a 8 with
    | .stack _ | .host _ => true
    | .remote m _ => match (s.forme f).cfg with
      | some c => (if store then c.remoteStore else c.remoteLoad) && c.remoteBase ≤ m.toNat && m.toNat < c.remoteBase + c.remoteCount
      | none => false
    | _ => false

/-- MODE of a RELEASE writes a flag: SET or ADD (R288). -/
def releaseWrites (o : OpRec) : Bool := fld (opWord o 0) 9 8 < 2
/-- NO_FLAG of an ACQUIRE_WAIT (R289). -/
def acquireNoFlag (o : OpRec) : Bool := bitOf (opWord o 0) 8

/-- The ranges of a scope descriptor: base and pages (R290). -/
def scopeRanges (ws : List Word) : List (BitVec 56 × Nat) :=
  (List.range (fld (ws.getD 0 0) 2 0)).map (fun i => (devAddr (ws.getD (2 * i + 1) 0), fld (ws.getD (2 * i + 2) 0) 31 0))

/-- A scope range is aligned, not empty, and lies within one address space (R290). -/
def scopeRangeOk (r : BitVec 56 × Nat) : Bool :=
  r.1.toNat % 65536 == 0 && 1 ≤ r.2 && r.1.toNat / 2 ^ 52 == (r.1.toNat + 65536 * r.2 - 1) / 2 ^ 52

/-- The scope descriptor of an ACQUIRE_WAIT, every rule of R290 met; SCOPE 0 is the empty scope. -/
def scopeOf (s : State) (f : FormeId) (o : OpRec) : Option (List Word) :=
  let a := devAddr (opWord o 3)
  if a = 0 then some []
  else if a.toNat % 128 != 0 then none
  else match ownWords s f a 16 with
    | some ws => if (scopeRanges ws).all scopeRangeOk then some ws else none
    | none => none

/-- What refuses a release or acquire op at issue (R301). -/
def orderingStatus (s : State) (f : FormeId) (o : OpRec) : Option Code :=
  let a := devAddr (opWord o 1)
  match opKind o with
  | 0x09 =>
    if !releaseWrites o then none
    else if !flagOk s f a true then some 0x0F01
    else match place? s f a 8 with
      | .host _ => if fld (opWord o 0) 9 8 = 1 then some 0x0F03 else none
      | _ => none
  | 0x0A =>
    if !acquireNoFlag o && !flagOk s f a false then some 0x0F01
    else if (scopeOf s f o).isNone then some 0x0F02 else none
  | _ => none

/-- Positions of one sequence that a slug's step covers (R247, R271). -/
def launchPositions (l : Launch) : Nat := if isToken l.entry then entryNewPositions l.entry else l.chunkLen

/-- What refuses a slug whose appends cannot be held: LENGTH above 4,194,304, or the allotment exhausted (R165, R178). -/
def appendStatus (s : State) (f : FormeId) (l : Launch) (o : OpRec) : Option Code :=
  if opKind o != 3 then none
  else match findCtx (s.forme f) (entryContext l.entry), (s.forme f).cfg with
    | some c, some k =>
      let n := c.length + fld (opWord o 5) 23 0 + launchPositions l
      if Config.maxPositions < n then some 0x0901
      else if k.allot < allotUsed (s.forme f) + allotNeed c n then some 0x0903 else none
    | _, _ => none

/-- The first status that refuses a slug at its issue (R187, R199, R301, R322, R165). -/
def issueStatus (s : State) (f : FormeId) (l : Launch) (ops : List OpRec) (antecedent : SlugTag) : Option Code :=
  if antecedent != 0xFFFF && !antecedentOk (s.forme f) (entryContext l.entry) antecedent then some 0x0A04
  else match ops.findSome? (fun o => if opKind o = 7 then collIssueStatus s f o else none) with
    | some c => some c
    | none => match ops.findSome? (orderingStatus s f) with
      | some c => some c
      | none => ops.findSome? (appendStatus s f l)

/-- The next issue tag that no slug in flight holds; 0xFFFF means none and is skipped (R183); `fuel` bounds the search. -/
def freeTag (x : Forme) : Nat → SlugTag → SlugTag
  | 0, t => t
  | n + 1, t => if t == 0xFFFF || x.slugs.any (fun k => k.tag == t && !slugEnded k) then freeTag x n (t + 1) else t

/-- A program exception: the launch ends with 0x0D0B, and its slugs not at their pass point are finally discarded (R263). -/
def programEnds (s : State) (f : FormeId) (r : RingId) (q : Seq) : State :=
  (s.modForme f (fun x =>
    let y := (x.slugs.filter (fun sl => sl.ring == r && sl.seq == q)).foldl (fun y sl => y.endSlug sl.tag .discarded 0) x
    modLaunch y r q (fun l => { l with ended := some 0x0D0B }))).settle f

/-- A slug as ISSUE makes it (R183, R184). -/
def newSlug (l : Launch) (tag : SlugTag) (index : Nat) (rec' : SlugRec) (consts : List Byte) (antecedent : SlugTag) : Slug :=
  { tag := tag, ring := l.ring, seq := l.seq, ctx := entryContext l.entry, index := index, matter := entryMatter l.entry,
    version := l.version, proofKib := fld rec'.ctrl 23 0, speculative := bitOf rec'.ctrl 24,
    antecedent := if antecedent == 0xFFFF then none else some antecedent, state := .queued, resolved := none, runs := 0, replayed := false, seed := 0,
    set := .none, shown := none, images := [], consts := consts, op := 0, reserved := false, inStep := false, wait := .none, acquired := false,
    cores := [], worked := [], flags := 0, proofs := [], locals := [], snaps := [], drains := [], reads := noReads, sealed := none, heldDetect := none, sentColl := false,
    newLength := 0, appended := 0, tokens := [], matched := 0, hit := none, status := 0, written := false, remoteDue := [], remoteLost := false,
    released := 0, fetched := [], asked := [], askedAt := 0, storesAt := 0, runStart := 0, charge := 0 }

/-- The address of a tuning launch's job record, from its frame, where the update op's word 3 says (R211; log 39). -/
def jobAddr (l : Launch) (o : OpRec) : BitVec 56 := devAddr (leWord (galleyBytes l.frame (fld (opWord o 3) 7 0) 8))

/-- NORM2_PREV is read when a launch's first update slug is issued (R211); a poisoned line is left to the update that reads it. -/
def readNorm2 (s : State) (f : FormeId) (r : RingId) (seq : Seq) (ops : List OpRec) : State :=
  match ops.find? (fun o => opKind o == 6), findLaunch (s.forme f) r seq with
  | some o, some l =>
    if l.norm2.isSome || !ownSpace s f (jobAddr l o) 16 || ownPoisoned s f (jobAddr l o) 8 then s
    else s.modForme f (fun x => modLaunch x r seq (fun l => { l with norm2 := some (normWords s f (jobAddr l o)).1 }))
  | _, _ => s

/-- R263 ISSUE, R183, R185, R187, R255: the slug is queued under a new tag, in place of an ended one that held it, or refused with its status; at 64 slugs in flight the
program waits; an index outside SLUGS is a program exception. -/
def execIssue (f : FormeId) (r : RingId) (seq : Seq) (slug : BitVec 16) (consts : List Byte) (antecedent : SlugTag) (s : State) : Res :=
  match programLaunch s f r seq with
  | none => .next s
  | some l =>
    let x := s.forme f
    if Config.slugsPerCompositor ≤ slugsInFlight x then .next s
    else match (findVersion x (entryMatter l.entry) l.version).bind (fun v => v.slugs[slug.toNat]?.map (fun rec' => (v, rec'))) with
      | none => .next (programEnds s f r seq)
      | some (v, rec') =>
        let t := freeTag x 65536 x.nextTag
        let ops := slugOps v slug.toNat
        let sl := newSlug l t slug.toNat rec' (consts.take 192) antecedent
        let s1 := (s.modForme f (fun x =>
          let y := { x with slugs := x.slugs.filter (fun k => k.tag != t) ++ [sl], nextTag := t + 1 }
          modLaunch y r seq (fun l => { l with
            chunkSlugs := if ops.any (fun o => opKind o == 8) then l.chunkSlugs else l.chunkSlugs ++ [t] }))).emit (.issued f t)
        match issueStatus s f l ops antecedent with
        | some c => .next (s1.failSlug f t c)
        | none => .next ((readNorm2 s1 f r seq ops).settle f)

/-- The tags of the chain that starts at a slug: it, and every slug that names one of them, in issue order (R187, R188). -/
def chainFrom (x : Forme) (first : SlugTag) : List SlugTag :=
  x.slugs.foldl (fun acc sl =>
    if sl.tag == first then acc ++ [sl.tag]
    else match sl.antecedent with | some a => if acc.contains a then acc ++ [sl.tag] else acc | none => acc) []

/-- R188: the first `cut` slugs of the chain are resolved to pass, the rest to discard. -/
def execResolve (f : FormeId) (first : SlugTag) (cut : Nat) (s : State) : Res :=
  let chain := chainFrom (s.forme f) first
  let s1 := s.modForme f (fun x => (chain.take cut).foldl (fun y t =>
    modSlug y t (fun sl => if sl.speculative && sl.resolved.isNone then { sl with resolved := some true } else sl)) x)
  let s2 := s1.modForme f (fun x => (chain.drop cut).foldl (fun y t =>
    match findSlug y t with
    | some sl => if sl.resolved == some true then y
        else (modSlug y t (fun sl => { sl with resolved := some false })).endSlug t .discarded 0
    | none => y) x)
  .next (s2.settle f)

/-- R263 WAIT: the final state and status of a slug, once it has ended. -/
def execWait (f : FormeId) (tag : SlugTag) (s : State) : Res :=
  match findSlug (s.forme f) tag with
  | some sl => .next (if slugEnded sl then s.emit (.wait f tag sl.state sl.status) else s)
  | none => .next s

/-- R189: eight bytes of a PROVED slug's proofs, laid end to end. -/
def execProofRead (f : FormeId) (tag : SlugTag) (offset : Nat) (s : State) : Res :=
  match findSlug (s.forme f) tag with
  | some sl =>
    if sl.state == .proved then
      let bs := sl.proofs.flatMap (passBytes s f)
      .next (s.emit (.proof f tag ((List.range 8).map (fun i => bs.getD (offset + i) 0))))
    else .next s
  | none => .next s

/-- R263 END: a status of 0 or 0x8000 to 0xFFFF with its 32 RESULT bytes inside the frame; any other is a program exception. -/
def execEndLaunch (f : FormeId) (r : RingId) (seq : Seq) (status : Code) (resultAddr : Nat) (result : List Byte) (s : State) : Res :=
  match programLaunch s f r seq with
  | none => .next s
  | some l =>
    let frame := match findVersion (s.forme f) (entryMatter l.entry) l.version with
      | some v => ceilDiv v.frame 256 * 256
      | none => 0
    if (status == 0 || 0x8000 ≤ status.toNat) && resultAddr + 32 ≤ frame then
      .next (s.modForme f (fun x => modLaunch x r seq (fun l => { l with ended := some status, result := result.take 32 })))
    else .next (programEnds s f r seq)

/-- R263: a program exception. -/
def execProgramException (f : FormeId) (r : RingId) (seq : Seq) (s : State) : Res :=
  match programLaunch s f r seq with
  | some _ => .next (programEnds s f r seq)
  | none => .next s

/-! ### Chunks and bad chunks (R194, R195) -/

/-- The slug's read record holds a chunk of the image its binding reads: by a range, or, once the record is FULL, every chunk of every
image the slug has read (R194). -/
def recordHolds (r : ReadRecord) (b : BindingId) (chunk : Nat) : Bool :=
  (!r.full.isEmpty && (r.full.contains b || r.ranges.any (·.1 == b))) || r.ranges.any (fun g => g.1 == b && g.2.1 ≤ chunk && chunk ≤ g.2.2)

/-- Note a range of chunks as read: a range that meets the last one joins it; above 64 ranges of one image the record is FULL. -/
def noteRead (r : ReadRecord) (b : BindingId) (lo hi : Nat) : ReadRecord :=
  if r.full.contains b then r
  else
    let hit := r.ranges.filter (fun g => g.1 == b && lo ≤ g.2.2 + 1 && g.2.1 ≤ hi + 1)
    let lo' := (hit.map (·.2.1)).foldl min lo
    let hi' := (hit.map (·.2.2)).foldl max hi
    let rest := r.ranges.filter (fun g => !hit.contains g)
    let all := rest ++ [(b, lo', hi')]
    if 64 < (all.filter (fun g => g.1 == b)).length then { ranges := all.filter (fun g => g.1 != b), full := r.full ++ [b] }
    else { r with ranges := all }

/-- Some chunk the slug's record holds satisfies a test on its image (R195, R238). -/
def readsChunk (s : State) (f : FormeId) (sl : Slug) (p : ImageCopy → List Nat) : Bool :=
  (List.finRange 8).any (fun b => match slugImage s f sl b with
    | some i => (p i).any (fun c => recordHolds sl.reads b c)
    | none => false)

/-- Some chunk the slug's record holds is declared bad (R195). -/
def readsBad (s : State) (f : FormeId) (sl : Slug) : Bool := readsChunk s f sl (·.bad)

/-- The slug's record holds the chunk of a copy. -/
def readsCopy (x : Forme) (sl : Slug) (gen chunk : Nat) : Bool :=
  (List.finRange 8).any (fun k => slugGen x sl k == gen && recordHolds sl.reads k chunk)

/-- Discard, for replay and without counting, every slug of every forme whose record holds a chunk of a copy (R195). -/
def discardReaders (s : State) (gen chunk : Nat) : State :=
  allFormes.foldl (fun t f =>
    (t.modForme f (fun x => { x with slugs := x.slugs.map (fun sl =>
      if (sl.state == .running || sl.state == .proved) && readsCopy x sl gen chunk then slugReplay sl else sl) })).settle f) s

/-- The forme that inked a copy, and its binding; none once it was reset (R231, R240). -/
def copyOwner (s : State) (gen : Nat) : Option (FormeId × BindingId) :=
  allFormes.findSome? (fun f => ((List.finRange 8).find? (fun b =>
    let k := (s.forme f).inker.bindings[b.val]
    (k.image.toList ++ k.old).any (·.gen == gen))).map (fun b => (f, b)))

/-- Ask the source for a bad chunk (R237). -/
def askRefetch (s : State) (gen chunk : Nat) : State :=
  match copyOwner s gen, s.copy gen with
  | some (f, b), some i =>
    if i.dead.contains chunk then s
    else s.formeDrd f (.inkRefetch f b chunk) false (i.source + BitVec.ofNat 64 (4096 + chunk * 1048576)) 1048576
  | _, _ => s

/-- Declare a chunk of a copy bad (R195, R237) and refetch it; the source is bad if the chunk was rewritten and not read clean since,
and none is left once the inking forme was reset (R238, R240). -/
def declareBad (s : State) (gen chunk : Nat) : State :=
  let lost := (copyOwner s gen).isNone
  let again := (s.copy gen).any (fun i => i.bad.contains chunk)
  let s1 := s.modCopy gen (fun i => { i with
    bad := if i.bad.contains chunk then i.bad else i.bad ++ [chunk],
    dead := if (lost || i.fresh.contains chunk) && !i.dead.contains chunk then i.dead ++ [chunk] else i.dead,
    fresh := i.fresh.filter (· != chunk) })
  discardReaders (if again then s1 else askRefetch s1 gen chunk) gen chunk

/-! ### The end of a slug's ops -/

/-- Work of a slug's run reaches a core: the core counts the run as one it runs, after the one before (R67). -/
def enterCore (s : State) (f : FormeId) (t : SlugTag) (c : CoreId) : State :=
  if (findSlug (s.forme f) t).any (fun sl => sl.worked.contains c) then s
  else (s.modCore c (fun k => { k with streak := k.hit, hit := false, array := { k.array with owner := some (f, t), resident := [] } })).modForme f
    (fun x => modSlug x t (fun z => { z with worked := z.worked ++ [c] }))

/-- The chunks the slug's record holds have been read clean since they were rewritten (R238). -/
def readClean (s : State) (f : FormeId) (t : SlugTag) : State :=
  match findSlug (s.forme f) t with
  | some sl => (List.finRange 8).foldl (fun u b => match slugImage u f sl b with
      | some i => if i.fresh.isEmpty then u else u.modCopy i.gen (fun i => { i with fresh := i.fresh.filter (fun c => !recordHolds sl.reads b c) })
      | none => u) s
  | none => s

/-- Handles the slugs of the step still have to read, by matter and version. -/
def stepReads (x : Forme) (m v h : BitVec 32) : Bool :=
  x.slugs.any (fun sl => sl.inStep && !slugEnded sl && sl.matter == m && sl.version == v &&
    ((opsOf x sl).drop (if sl.state == .running then sl.op else if sl.state == .queued then 0 else (opsOf x sl).length)).any (fun o => (opReads o).contains h))

/-- Some slug of the step has still to read leaves of a context: an attention step, or work whose reads R259 does not list. -/
def stepAttends (x : Forme) (c : BitVec 16) : Bool :=
  x.slugs.any (fun sl => sl.inStep && !slugEnded sl && sl.ctx == c && (sl.state == .running || sl.state == .queued) &&
    ((opsOf x sl).drop (if sl.state == .running then sl.op else 0)).any (fun o => opKind o == 3 || opKind o == 5))

/-- Free the staged copies whose sheet no slug of the step reads any more (R127). -/
def trimStaged (x : Forme) : Forme :=
  { x with makeup := { x.makeup with staged := x.makeup.staged.filter (fun t =>
      match findCtx x t.sheet.ctx with
      | some c => x.sched.stepOn && (stepReads x c.matter c.version t.sheet.handle || (x.makeup.plan.any (fun p => p.sheet == t.sheet && p.cls == 1) && stepAttends x t.sheet.ctx))
      | none => false) } }

/-- One op of a RUNNING slug is done: what it changed is kept, PROOF_KIB is tested, and after the last op the slug is PROVED and
releases its cores (R184). -/
def opDone (s : State) (f : FormeId) (t : SlugTag) (g : Slug → Slug) : State :=
  let s0 := s.modForme f (fun x => modSlug x t (fun sl => { g sl with op := sl.op + 1, wait := .none, fetched := [], asked := [] }))
  let s1 := (readClean s0 f t).modForme f trimStaged
  match findSlug (s1.forme f) t with
  | none => s1
  | some sl =>
    if readsChunk s1 f sl (·.dead) then s1.failSlug f t 0x0C01
    else if sl.proofKib * 4 < proofLines sl.proofs then s1.failSlug f t 0x0A02
    else if (opsOf (s1.forme f) sl).length ≤ sl.op then
      (s1.modForme f (fun x => modSlug x t (fun sl => { sl with state := .proved, cores := [] }))).settle f
    else s1

/-- The op a RUNNING slug is at, when it waits for nothing. -/
def currentOp (s : State) (f : FormeId) (t : SlugTag) : Option (Slug × OpRec) :=
  match findSlug (s.forme f) t with
  | some sl =>
    if sl.state == .running && sl.wait == .none then ((opsOf (s.forme f) sl)[sl.op]?).map (fun o => (sl, o)) else none
  | none => none

/-! ### Detections (R65 to R67, R146, R184, R190 to R193) -/

/-- Distinct lines of a channel with detections within 1,048,576 strokes (R148). -/
def linesDetected (s : State) (ch : ChannelId) : Nat :=
  (((s.stack.detects.filter (fun d => d.1 == ch && (s.time.stroke - d.2.2).toNat < 1048576)).map (·.2.1)).foldl
    (fun acc l => if acc.contains l then acc else acc ++ [l]) []).length

/-- The fence of a core: its contents go, its forme's slugs of the step that have not passed replay as the next step, and the
placement key has changed (R67, R193). -/
def fenceCore (s : State) (f : FormeId) (c : CoreId) (t : SlugTag) : State :=
  let s1 := s.modCore c (fun k => { k with fenced := true, streak := false, hit := false, level := 0, age := 6, array := .clear })
  let s2 := s1.modForme f (fun x => { x with
    slugs := x.slugs.map (fun sl => if sl.inStep && sl.tag != t && (sl.state == .running || sl.state == .proved)
      then { slugReplay sl with inStep := false } else { sl with inStep := false }),
    sched := { x.sched with
      stepOn := false, stepEnd := some s.time.ticks,
      replay := (x.slugs.filter (fun sl => sl.tag == t || (sl.inStep && !slugEnded sl && !pastPoint sl))).map (·.tag) } })
  if (s2.liveCores f).isEmpty then
    (s2.modForme f (fun x => (x.launches.filter (fun l => l.phase == .running)).foldl (fun y l => y.failLaunch s.time.ticks l.ring l.seq 0x0401) x)).settle f
  else s2

/-- A check detection on a core: counted, and in the second of two consecutive slugs the core runs it fences the core (R66 to R68). -/
def checkDetect (s : State) (f : FormeId) (t : SlugTag) (c : CoreId) : State :=
  let s1 := (enterCore s f t c).modForme f (fun x => { x with checkCount := satInc x.checkCount })
  if (s1.core c).streak then fenceCore s1 f c t else s1.modCore c (fun k => { k with hit := true })

/-- The status with which a slug fails rather than replays, if it does (R146, R184, R238). -/
def detectFails (s : State) (f : FormeId) (sl : Slug) (kind : DetectKind) : Option Code :=
  if (s.liveCores f).isEmpty then some 0x0401
  else match kind with
    | .stackOther _ _ | .stackLeaf _ _ _ => if 1 ≤ sl.runs then some 0x0801 else if 3 ≤ sl.runs + 1 then some 0x0A03 else none
    | .stackHeld _ _ => some 0x0801
    | .stackWeight b chunk _ _ =>
      if (slugImage s f sl b).any (fun i => i.dead.contains chunk) then some 0x0C01 else if 3 ≤ sl.runs + 1 then some 0x0A03 else none
    | _ => if 3 ≤ sl.runs + 1 then some 0x0A03 else none

/-- A record whose leaf detects twice is BAD and leaves the index (R178). -/
def markBad (s : State) (f : FormeId) (run : Nat) : State :=
  (s.modForme f (fun x => { x with runs := updFirst (·.id == run) (fun r => { r with bad := true, indexed := false }) x.runs })).trimIndex f

/-- A line of the held-back area detects: the launches that run on the slug's context or its matter's version depend on it, and complete
with 0x0801 (R146; log 52). -/
def heldFails (s : State) (f : FormeId) (sl : Slug) : State :=
  (s.modForme f (fun x => (x.launches.filter (fun l => l.phase == .running && !(l.ring == sl.ring && l.seq == sl.seq) &&
      (entryContext l.entry == sl.ctx || (entryMatter l.entry == sl.matter && l.version == sl.version)))).foldl
    (fun y l => y.failLaunch s.time.ticks l.ring l.seq 0x0801) x)).settle f

/-- What a kind of detection changes apart from the slug. -/
def detectEffects (s : State) (f : FormeId) (sl : Slug) (kind : DetectKind) : State :=
  match kind with
  | .check c => if sl.cores.contains c then checkDetect s f sl.tag c else s
  | .stackWeight b chunk ch line =>
    let cs := match slugImage s f sl b with | some i => lineChunks s f i line | none => []
    (chunk :: cs.filter (· != chunk)).foldl (fun t c => declareBad t (slugGen (s.forme f) sl b) c) (countDetect s f ch line)
  | .stackOther ch line => countDetect s f ch line
  | .stackHeld ch line => heldFails (countDetect s f ch line) f sl
  | .stackLeaf run ch line =>
    let s1 := countDetect s f ch line
    if 1 ≤ sl.runs then markBad s1 f run else s1
  | .galley | .finishing | .packet => s

/-- The number in OPS of the op that a slug stands at. -/
def opNumber (x : Forme) (sl : Slug) : Option Nat :=
  ((slugVersion x sl).bind (fun v => v.slugs[sl.index]?)).map (fun r => r.firstOp + sl.op)

/-- The slugs of other contexts whose rows the running step's make-up fuses with a slug's in the product it stands at: they stand at the same
product of the same version (R124, R268). -/
def fusedWith (x : Forme) (sl : Slug) : List Slug :=
  if sl.inStep && ((opsOf x sl)[sl.op]?).any (fun o => opKind o == 1) then
    x.slugs.filter (fun d => d.ctx != sl.ctx && d.inStep && d.state == .running && d.wait == .none &&
      d.matter == sl.matter && d.version == sl.version && opNumber x d == opNumber x sl)
  else []

/-- A run that detected ends: the slug is discarded for replay from its start or its last seal, or fails (R184, R190, R193, R197). -/
def endRun (s : State) (f : FormeId) (kind : DetectKind) (sl : Slug) : State :=
  match detectFails s f sl kind with
  | some c => (s.modForme f (fun x => modSlug x sl.tag (fun z => { z with runs := sl.runs + 1 }))).failSlug f sl.tag c
  | none => (s.modForme f (fun x => { modSlug x sl.tag (fun z => { slugReplay { z with runs := sl.runs + 1 } with
        inStep := (match findSlug x sl.tag with | some y => y.inStep | none => false) }) with replays := satInc x.replays })).settle f

/-- As `endRun`, for a slug whose rows the product carried with those of the one that detected, unless its run has ended already (R268). -/
def endFused (f : FormeId) (kind : DetectKind) (s : State) (d : Slug) : State :=
  match findSlug (s.forme f) d.tag with
  | some e => if e.state == .running && e.runs == d.runs && e.op == d.op then endRun s f kind e else s
  | none => s

/-- A detection in a RUNNING slug: its run ends, and so do those whose rows were fused with its own in the product; while a collective moves
it is held (R184, R190, R268, R326). -/
def detect (s : State) (f : FormeId) (t : SlugTag) (kind : DetectKind) : State :=
  match findSlug (s.forme f) t with
  | none => s
  | some sl =>
    if sl.state != .running then s
    else if sl.wait == .collective then s.modForme f (fun x => modSlug x t (fun sl => { sl with heldDetect := some (sl.heldDetect.getD kind) }))
    else (fusedWith (s.forme f) sl).foldl (endFused f kind) (endRun (detectEffects s f sl kind) f kind sl)

/-- R190. -/
def execDetection (f : FormeId) (tag : SlugTag) (kind : DetectKind) (s : State) : Res := .next (detect s f tag kind)

/-! ### Entries of the spill map (R338, R339) -/

/-- A request of a use is outstanding. -/
def useOut (s : State) (u : EcpUse) : Bool := s.ports.toList.any (fun p => p.reqs.any (fun q => q.use == u))

/-- A spill page's entry as held (R338). -/
def spillEntry (x : Forme) (page : Nat) : Option Word := (x.ecp.spillMap.find? (·.1 == page)).map (·.2)

/-- The device address of a spill offset (R336). -/
def spillAt (off : Nat) : BitVec 56 := BitVec.ofNat 56 (3 * 2 ^ 52 + off)

/-- The host address behind a spill offset, by its entry. -/
def spillHost (e : Word) (off : Nat) : HostAddr := BitVec.ofNat 64 (fld e 51 16 * 65536 + off % 65536)

/-- Ask for the spill-map entry of a page (R338). -/
def askEntry (s : State) (f : FormeId) (page : Nat) : State :=
  s.formeDrd f (.spillMap f page) true (BitVec.ofNat 64 ((s.forme f).ecp.spillAddr.toNat * 4096 + 8 * page)) 8

/-- The host port of a forme is up. -/
def formePortUp (s : State) (f : FormeId) : Bool := match (s.forme f).cfg with | some c => s.portUp c.port | none => false

/-- A spill page is known to lie outside the forme's mapped set: ENABLE is 0, or its entry reads VALID = 0 (R128, R338). -/
def pageOutside (x : Forme) (page : Nat) : Bool := !x.ecp.spillEn || (spillEntry x page).any (fun e => !bitOf e 0)

/-- Ask for the entries of spill pages that are neither held nor asked for. -/
def askEntries (s : State) (f : FormeId) (pages : List Nat) : State :=
  (pages.filter (fun p => (spillEntry (s.forme f) p).isNone)).foldl (fun t p => if useOut t (.spillMap f p) then t else askEntry t f p) s

/-- A write of spill pages waits for entries that can be read and are not held (R338, R339). -/
def spillWaits (s : State) (f : FormeId) (pages : List Nat) : Bool :=
  (s.forme f).ecp.spillEn && formePortUp s f && pages.any (fun p => (spillEntry (s.forme f) p).isNone)

/-- The status of a write of spill pages some of which lie outside the mapped set, or behind a port that is down (R339, R350). -/
def spillLost (s : State) (f : FormeId) (pages : List Nat) : Option Code :=
  if pages.any (pageOutside (s.forme f)) then some 0x1101
  else if pages.any (fun p => (spillEntry (s.forme f) p).isNone) then some 0x1105
  else none

/-! ### The pass (R181, R182, R287, R288) -/

/-- The slug may reach its pass point (R181, R184, R187). -/
def mayPass (x : Forme) (sl : Slug) : Bool :=
  sl.state == .proved && (!sl.speculative || sl.resolved == some true) &&
  (match sl.antecedent with
    | some t => (match findSlug x t with | some a => a.state == .passed | none => true)
    | none => true) &&
  (issuedBefore x sl).all (fun w => w.ctx != sl.ctx || slugEnded w)

/-- The host writes among a slug's proofs. -/
def hostProofs (sl : Slug) : List (HostAddr × List Byte) :=
  sl.proofs.filterMap (fun p => match p with | .host a d => some (a, d) | _ => none)

/-- The tokens of a prompt: the codes of the tensor a match names (log 31). -/
def promptCodes (s : State) (f : FormeId) (sl : Slug) (h : BitVec 32) : List Nat := ((operand s f sl h).map Operand.codes).getD []

/-- The matched records of another forme that are to be copied (R174). -/
def foreignHit (f : FormeId) (sl : Slug) : Option (FormeId × List Nat) :=
  sl.hit.bind (fun h => if h.1 != f && 0 < sl.matched then some h else none)

/-- The records of a hit that still stand, up to the first that does not (R174, R178; log 89). -/
def hitRecords (s : State) (g : FormeId) (ids : List Nat) : List RunRec :=
  (((ids.map (fun i => (s.forme g).runs.find? (·.id == i))).takeWhile (fun r => r.any (fun q => !q.bad))).filterMap id)

/-- Take or release the hold on records of a forme: a record without reference or hold goes (R174, R175). -/
def holdRuns (s : State) (g : FormeId) (ids : List Nat) (take : Bool) : State :=
  (s.modForme g (fun x => { x with runs := x.runs.filterMap (fun r =>
    if ids.contains r.id then
      let q := { r with holds := if take then r.holds + 1 else r.holds - 1 }
      if q.refs = 0 && q.holds = 0 then none else some q
    else some r) })).trimIndex g

/-- The spill pages among the leaves of a record. -/
def runSpill (r : RunRec) : List Nat := (r.leaves.filter (fun l => l.valid && l.spill)).map (·.page.toNat)

/-- The pages of the owner's spill range among the leaves of a hit whose bytes have neither come nor been asked for. -/
def copyDue (s : State) (g : FormeId) (ids : List Nat) (sl : Slug) : List Nat :=
  ((hitRecords s g ids).flatMap runSpill).eraseDups.filter (fun p => !sl.fetched.any (·.1 == spillAt (65536 * p)) && !sl.asked.any (·.1 == spillAt (65536 * p)))

/-- Ask for what a copy of another forme's leaves still needs of the owner's spill range: the pages whose entries are held, and the other
entries. It reads them from host memory through the owner's port (R174; log 89). -/
def copyAsk (s : State) (f : FormeId) (t : SlugTag) (g : FormeId) (pages : List Nat) : State :=
  pages.foldl (fun u p => match spillEntry (u.forme g) p with
    | some e => (u.modForme f (fun x => modSlug x t (fun z => { z with asked := z.asked ++ [(spillAt (65536 * p), 65536)] }))).spillDrd g (.slugRead f t) false p
        (spillHost e 0) 65536
    | none => u) (askEntries s g pages)

/-- A cross-forme copy begins: the records are held, and the spilled leaves among them are asked for. -/
def beginCopy (s : State) (f : FormeId) (t : SlugTag) (g : FormeId) (ids : List Nat) : State :=
  let s1 := (holdRuns s g ids true).modForme f (fun x => modSlug x t (fun z => { z with wait := .matchCopy, fetched := [], asked := [] }))
  match findSlug (s1.forme f) t with
  | some z => if (s1.forme g).ecp.spillEn && formePortUp s1 g then copyAsk s1 f t g (copyDue s1 g ids z) else s1
  | none => s1

/-- R181: the pass is recorded, and the proofs of host space leave; a slug whose record holds a bad chunk replays instead (R184,
R195). -/
def passPoint (s : State) (f : FormeId) (t : SlugTag) : State :=
  match findSlug (s.forme f) t with
  | none => s
  | some sl =>
    if !mayPass (s.forme f) sl then s
    else if readsBad s f sl then s
    else
      let s0 := s.modForme f (fun x => modSlug x t (fun z => { z with state := .passing, wait := .none }))
      let s1 := match foreignHit f sl with | some h => beginCopy s0 f t h.1 h.2 | none => s0
      ((hostProofs sl).foldl (fun u p => u.formeDwr f (.result f sl.ring sl.seq) p.1 p.2) s1).settle f

/-- R181. -/
def execSlugPassPoint (f : FormeId) (tag : SlugTag) (s : State) : Res := .next (passPoint s f tag)

/-- The prompt of a slug's launch, where the version names one for a match (log 31). -/
def promptOf (s : State) (f : FormeId) (sl : Slug) : List Nat :=
  match slugVersion (s.forme f) sl with
  | some v => match v.ops.find? (fun o => opKind o == 8) with
    | some o => promptCodes s f sl (handleLo o 1)
    | none => []
  | none => []

/-- The binding's set is switched, and B is computed again (R107, R113, R171). -/
def putPointer (s : State) (f : FormeId) (b : BindingId) (q : SetBase) : State :=
  s.modForme f (fun x => { x with inker := { x.inker with
      bindings := x.inker.bindings.set b.val { x.inker.bindings[b.val] with set := q, bHash := shake256Hash (dsetBytes (setAt s f q)) } b.isLt } })

/-- An update's sum of squares joins its job record at its pass (R211). -/
def putNorm2 (s : State) (f : FormeId) (job : BitVec 56) (sum : BitVec 32) (stepEnd : Bool) : State :=
  let w := normWords s f job
  ownWrite s f job (normAfter w.1 w.2 sum stepEnd)

/-- Write one proof of the module's own memories (R181). -/
def putProof (sl : Slug) (f : FormeId) (s : State) (p : Proof) : State :=
  match p with
  | .tensor h v => tensorWrite s f (.slugWrite f sl.tag) sl.ctx h v
  | .stack off d => watchedWrite s f off d
  | .spill off d => spillWrite s f (.slugWrite f sl.tag) off d
  | .galley a d => s.galleyWrite a d
  | .pointer b q => putPointer s f b q
  | .norm2 job sum e => putNorm2 s f job sum e
  | .append _ _ _ _ | .host _ _ | .remote _ _ _ => s

/-- The parts of a range that lie in one line each: their offsets and their bytes (R320). -/
def lineParts (off : Nat) (d : List Byte) : List (Nat × List Byte) :=
  (List.range ((off + d.length + 255) / 256 - off / 256)).map (fun i =>
    let lo := max off (256 * (off / 256 + i))
    (lo, (d.drop (lo - off)).take (256 * (off / 256 + i + 1) - lo)))

/-- LEN of a STORE: 16 bytes ahead of its sectors, as in a LOAD_RESP (R317, R320; log 40). -/
def storeLen (off n : Nat) : Nat := 16 + 64 * ((off + n + 63) / 64 - off / 64)

/-- Send one STORE of a slug, within one line; where it may not or cannot leave it is lost (R320, R321). -/
def sendStore (s : State) (f : FormeId) (t : SlugTag) (m : BitVec 12) (body : PacketBody) (len : Nat) : State :=
  match remoteJob s f m true with
  | some k =>
    (sendJob s f k m 3 1 len 0 body).modForme f (fun x => modSlug x t (fun z => { z with remoteDue := z.remoteDue ++ [m], storesAt := s.time.ticks }))
  | none => (s.modForme f (fun x => modSlug x t (fun z => { z with remoteLost := true }))).modForme f (fun x => x.noteSlugFault t s.time.ticks 0x1003)

/-- The remote stores of one proof, a STORE for each line it meets. -/
def sendStores (s : State) (f : FormeId) (t : SlugTag) (m : BitVec 12) (off : BitVec 40) (d : List Byte) : State :=
  (lineParts off.toNat d).foldl (fun u p => sendStore u f t m (.store t (BitVec.ofNat 40 p.1) p.2) (storeLen p.1 p.2.length)) s

/-- Fill the directory with the runs of a same-forme match, as many whole quads of them as still stand (R174; log 89). -/
def takeMatch (s : State) (f : FormeId) (sl : Slug) : State :=
  match sl.hit with
  | some (g, ids) => if g = f then
      let all := hitRecords s f ids
      let rs := all.take (all.length / 4 * 4)
      s.modForme f (fun x => modSlug (shareRuns x sl.ctx rs) sl.tag (fun z => { z with matched := rs.length }))
    else s
  | none => s

/-- The home of the leaf of a position: its run's record, or the plan's where the run has none yet (R123, R161). -/
def leafHome (x : Forme) (c : Context) (entry pos : Nat) : LeafEntry :=
  match (c.dir[pos / 256]?).bind (fun d => x.runs.find? (·.id == d.1)) with
  | some r => r.leaves.getD entry { valid := false, spill := false, page := 0 }
  | none => plannedLeaf x c (pos / 256 * c.leaves + entry)

/-- The spill pages of a home of `n` pages. -/
def homeSpill : Home → Nat → List Nat
  | .spillPage a, n => (List.range n).map (a + ·)
  | _, _ => []

/-- The spill pages a write of a sheet of `n` pages goes to. -/
def sheetSpill (x : Forme) (ctx : BitVec 16) (h : BitVec 32) (index n : Nat) : List Nat :=
  match sheetPlace x ctx h index with
  | .home p => homeSpill p n
  | .image c k => (List.range n).flatMap (fun i => match imagePlace x c (k + i) with | .spill a => [a] | _ => [])
  | .none => []

/-- The spill pages that the writes of a passing slug go to (R181, R338). -/
def passPages (x : Forme) (sl : Slug) : List Nat :=
  (sl.proofs.flatMap (fun p => match p with
    | .tensor h d => (List.range (ceilDiv d.length (2 ^ 20))).flatMap (fun k =>
        sheetSpill x sl.ctx h k (ceilDiv (min (2 ^ 20) (d.length - 2 ^ 20 * k)) 65536))
    | .spill off d => (pageParts off d.length).map (·.1 / 65536)
    | .append e pos _ _ => if pos < sl.newLength then (match findCtx x sl.ctx with
        | some c => let l := leafHome x c e pos; if l.valid && l.spill then [l.page.toNat] else []
        | none => []) else []
    | .stack _ _ | .galley _ _ | .host _ _ | .remote _ _ _ | .pointer _ _ | .norm2 _ _ _ => [])).eraseDups

/-- The local proofs of a passing slug land, its match and appends are committed, and its remote stores leave (R164, R174, R181,
R287). -/
def landProofs (s : State) (f : FormeId) (sl : Slug) : State :=
  let prompt := promptOf s f sl
  let s1 := if 0 < sl.matched then takeMatch s f sl else s
  let s2 := sl.proofs.foldl (putProof sl f) s1
  let s3 := if 0 < sl.appended then commitAppends s2 f (.slugWrite f sl.tag) sl.ctx sl.proofs sl.newLength prompt else s2
  let s4 := sl.proofs.foldl (fun u p => match p with
    | .remote m off d => sendStores u f sl.tag m off d
    | _ => u) s3
  s4.modForme f (fun x => modSlug x sl.tag (fun z => { z with written := true }))

/-- A pass whose writes to spill pages are lost: its launch faults (R339, R350). -/
def passFaults (s : State) (f : FormeId) (t : SlugTag) (c : Option Code) : State :=
  match c with
  | some c => (s.modForme f (fun x => x.noteSlugFault t s.time.ticks c)).noteCode f c
  | none => s

/-- The proofs of a passing slug land; what of them goes to spill pages outside the mapped set is lost (R181, R339). -/
def landAll (s : State) (f : FormeId) (sl : Slug) : State := passFaults (landProofs s f sl) f sl.tag (spillLost s f (passPages (s.forme f) sl))

/-- RELEASE ops of a slug, in op order. -/
def releaseOps (x : Forme) (sl : Slug) : List OpRec := (opsOf x sl).filter (fun o => opKind o == 9)

/-- Every write a RELEASE waits for has been acknowledged: the slug's own, and those of earlier slugs of its context (R288). -/
def drained (s : State) (f : FormeId) (sl : Slug) : Bool :=
  sl.written && sl.remoteDue.isEmpty && !sl.remoteLost && !useOut s (.slugWrite f sl.tag) && !useOut s (.result f sl.ring sl.seq) &&
  ((s.forme f).slugs.filter (fun w => w.ctx == sl.ctx && pastPoint w && w.tag != sl.tag)).all (fun w => w.remoteDue.isEmpty)

/-- A launch's matched runs let its chunks be cut from position 256 × M (R174, R271). -/
def cutFromMatch (x : Forme) (sl : Slug) : Forme :=
  if sl.matched = 0 then x
  else modLaunch x sl.ring sl.seq (fun l =>
    let n := cutChunk x.sched { l with matched := sl.matched } (max l.chunkFirst (256 * sl.matched))
    { n with cutDone := n.chunkLen == 0, chunkSlugs := l.chunkSlugs })

/-- The slug is PASSED: its reservation goes, its flags and count join the launch's (R181, R182, R184). -/
def slugPassed (s : State) (f : FormeId) (sl : Slug) : State :=
  let s1 := s.modForme f (fun x =>
    let y := modSlug x sl.tag (fun z => { z with
      state := .passed, reserved := false, proofs := [], locals := [], sealed := none, inStep := false, cores := [] })
    cutFromMatch (modLaunch y sl.ring sl.seq (fun l => { l with passed := satInc l.passed, flags := l.flags ||| sl.flags })) sl)
  s1.settle f

/-- A PASSING slug whose proofs have landed is PASSED once every write and every RELEASE is acknowledged; a lost remote store leaves its
RELEASE undone (R181, R288, R321). -/
def writesEnd (s : State) (f : FormeId) (t : SlugTag) : State :=
  match findSlug (s.forme f) t with
  | none => s
  | some z =>
    let flags := (releaseOps (s.forme f) z).length ≤ z.released || z.remoteLost
    if z.remoteDue.isEmpty && flags && !useOut s (.slugWrite f t) then slugPassed s f z else s

/-- The writes of a PASSING slug: its proofs land, those of spill pages once their entries are held (R181, R338). -/
def writesDone (s : State) (f : FormeId) (t : SlugTag) : State :=
  match findSlug (s.forme f) t with
  | none => s
  | some sl =>
    if sl.state != .passing || sl.wait == .matchCopy || useOut s (.result f sl.ring sl.seq) ||
        ((s.forme f).ring sl.ring).heldResults.contains sl.seq then s
    else if sl.written then writesEnd s f t
    else if spillWaits s f (passPages (s.forme f) sl) then askEntries s f (passPages (s.forme f) sl)
    else writesEnd (landAll s f sl) f t

/-- R181. -/
def execProofWritesDone (f : FormeId) (tag : SlugTag) (s : State) : Res := .next (writesDone s f tag)

/-- The flag write of a RELEASE (R288, R293). -/
def writeFlag (s : State) (f : FormeId) (t : SlugTag) (o : OpRec) : State :=
  let a := devAddr (opWord o 1)
  let v := opWord o 2
  if !releaseWrites o then s
  else
    let add := fld (opWord o 0) 9 8 = 1
    match place? s f a 8 with
    | .stack off =>
      let old := (s.stackWord f off).getD 0
      watchedWrite (if add then countPoison s f off 8 else s) f off (leBytes 8 (if add then old + v else v).toNat)
    | .host h => s.formeDwr f (.slugWrite f t) h (leBytes 8 v.toNat)
    | .remote m off => sendStore s f t m (if add then .flagAdd t off v else .store t off (leBytes 8 v.toNat)) (storeLen off.toNat 8)
    | _ => s

/-- R288: the next RELEASE of a PASSING slug whose writes are acknowledged writes its flag. -/
def releaseNext (s : State) (f : FormeId) (t : SlugTag) : State :=
  match findSlug (s.forme f) t with
  | none => s
  | some sl =>
    if sl.state == .passing && drained s f sl then
      match (releaseOps (s.forme f) sl)[sl.released]? with
      | some o => writeFlag (s.modForme f (fun x => modSlug x t (fun z => { z with released := z.released + 1 }))) f t o
      | none => s
    else s

/-- R288. -/
def execReleaseDrainDone (f : FormeId) (tag : SlugTag) (s : State) : Res := .next (releaseNext s f tag)

/-- Copy one matched run of another forme: a record of one's own, and the bytes of every leaf from the owner's home to the planned one
(R174). -/
def copyRun (f g : FormeId) (sl : Slug) (s : State) (r : RunRec) : State :=
  match findCtx (s.forme f) sl.ctx with
  | none => s
  | some c =>
    let own := copiedRun (s.forme f) c r
    let s1 := s.modForme f (fun x => modCtx { x with runs := x.runs ++ [own], nextRun := x.nextRun + 1 } sl.ctx (fun k => { k with
      dir := k.dir ++ [(own.id, false)], length := k.length + 256, openTokens := [], chain := r.hash }))
    (own.leaves.zip r.leaves).foldl (fun u p =>
      leafWrite u f (.slugWrite f sl.tag) p.1 0 ((List.range 65536).map (leafByte s g sl p.2))) s1

/-- The copy of another forme's matched runs ends after `n` of them: M is the whole quads copied, and the hold is released (R174, R178). -/
def endCopy (s : State) (f : FormeId) (t : SlugTag) (n : Nat) : State :=
  match findSlug (s.forme f) t with
  | some sl =>
    match foreignHit f sl with
    | some h =>
      let all := (hitRecords s h.1 h.2).take n
      let rs := all.take (all.length / 4 * 4)
      let s1 := rs.foldl (copyRun f h.1 sl) (s.retireUse (.slugRead f t))
      (holdRuns s1 h.1 h.2 false).modForme f (fun x => modSlug x t (fun z => { z with wait := .none, matched := rs.length, fetched := [], asked := [] }))
    | none => s
  | none => s

/-- Runs of the owner's records whose spilled leaves have come: how far a copy can be (R174, R178). -/
def copyReach (s : State) (g : FormeId) (sl : Slug) : Nat :=
  match sl.hit with
  | some h => ((hitRecords s g h.2).takeWhile (fun r => (runSpill r).all (fun p => sl.fetched.any (·.1 == spillAt (65536 * p))))).length
  | none => 0

/-- The spill pages that copies of a hit's runs go to, run by run (R123, R174). -/
def copyHomes (s : State) (f g : FormeId) (sl : Slug) : List (List Nat) :=
  match sl.hit, findCtx (s.forme f) sl.ctx with
  | some h, some c => (hitRecords s g h.2).map (fun r => runSpill (copiedRun (s.forme f) c r))
  | _, _ => []

/-- A copy of another forme's leaves has pages of the owner to ask for that can be read. -/
def copyReads (s : State) (f : FormeId) (sl : Slug) : Bool :=
  (foreignHit f sl).any (fun h => !(copyDue s h.1 h.2 sl).isEmpty && (s.forme h.1).ecp.spillEn && formePortUp s h.1 &&
    !(copyDue s h.1 h.2 sl).any (pageOutside (s.forme h.1)))

/-- R174: a cross-forme copy is done, once what it reads of host memory has come; it stops short of a run that it cannot read or write
(R178; log 89). -/
def execLeafCopyDone (f : FormeId) (tag : SlugTag) (s : State) : Res :=
  .next (match findSlug (s.forme f) tag with
    | some sl =>
      if sl.state == .passing && sl.wait == .matchCopy && sl.asked.isEmpty then
        match foreignHit f sl with
        | some h =>
          if copyReads s f sl then copyAsk s f tag h.1 (copyDue s h.1 h.2 sl)
          else if spillWaits s f (copyHomes s f h.1 sl).flatten then askEntries s f (copyHomes s f h.1 sl).flatten
          else endCopy s f tag (min (copyReach s h.1 sl) ((copyHomes s f h.1 sl).takeWhile (fun ps => (spillLost s f ps).isNone)).length)
        | none => s
      else s
    | none => s)

/-! ### Acquire (R289 to R293) -/

/-- The LOAD_REQs of a range of remote space: aligned sectors, one to four within one line (R320). -/
def sendLoads (s : State) (f : FormeId) (k : JobSlot) (t : SlugTag) (m : BitVec 12) (off n : Nat) : State :=
  let first := off / 64
  let last := (off + n - 1) / 64
  (List.range (last / 4 + 1 - first / 4)).foldl (fun u i =>
    let lo := max first (4 * (first / 4 + i))
    let hi := min last (4 * (first / 4 + i) + 3)
    sendJob u f k m 1 1 16 0 (.loadReq t (BitVec.ofNat 40 (64 * lo)) (hi + 1 - lo))) s

/-- A scope names some of `n` bytes at an offset of a space: by a range, or whole (R290). -/
def inScope (ws : List Word) (whole : Bool) (space off n : Nat) : Bool :=
  whole || (scopeRanges ws).any (fun r =>
    r.1.toNat / 2 ^ 52 == space && r.1.toNat % 2 ^ 52 < off + n && off < r.1.toNat % 2 ^ 52 + 65536 * r.2)

/-- OWN_ALL and REMOTE_ALL of a scope descriptor (R290). -/
def scopeOwnAll (ws : List Word) : Bool := bitOf (ws.getD 0 0) 3
/-- As `scopeOwnAll`. -/
def scopeRemoteAll (ws : List Word) : Bool := bitOf (ws.getD 0 0) 4

/-- A scope names bytes of the host memory behind the forme's port. -/
def hostInScope (x : Forme) (ws : List Word) (off n : Nat) : Bool :=
  match x.cfg with
  | some c => inScope ws (scopeOwnAll ws) (4 + c.port.val) off n
  | none => false

/-- A scope names a page of the spill range: by its spill address, or by the host page behind it. -/
def spillInScope (x : Forme) (ws : List Word) (page : Nat) : Bool :=
  inScope ws (scopeOwnAll ws) 3 (page * 65536) 65536 ||
    (x.ecp.spillMap.find? (·.1 == page)).any (fun e => hostInScope x ws (fld e.2 51 16 * 65536) 65536)

/-- A galley copy of pages of the stack space or of the spill range lies in a scope. -/
def copyInScope (x : Forme) (ws : List Word) (src spill : Option Nat) (n : Nat) : Bool :=
  src.any (fun a => inScope ws (scopeOwnAll ws) 0 (a * 65536) (65536 * n)) ||
    spill.any (fun a => (List.range n).any (fun i => spillInScope x ws (a + i)))

/-- A line of remote space lies in a scope. -/
def remoteInScope (ws : List Word) : StoneTag → Bool
  | .remote m l => inScope ws (scopeRemoteAll ws) 8 (m.toNat * 2 ^ 40 + l * 256) 256
  | .own _ => false

/-- The galley copies of a scope go: staged sheets and pages that reads have brought in are dropped, and resident copies are fetched again
before their next read (R291). -/
def dropCopies (ws : List Word) (x : Forme) : Forme :=
  { x with makeup := { x.makeup with
      staged := x.makeup.staged.filter (fun t => !copyInScope x ws t.src t.spill (sheetPages x t.sheet)),
      arrived := x.makeup.arrived.filter (fun a => !spillInScope x ws a.1),
      stale := x.makeup.stale ++ ((x.makeup.plan.filter (fun p =>
        copyInScope x ws p.src p.spill p.pages && !x.makeup.stale.contains p.sheet)).map (·.sheet)) } }

/-- The remote lines of a scope leave the forme's set blocks (R291). -/
def dropRemote (s : State) (f : FormeId) (ws : List Word) : State :=
  ({ s with stack := { s.stack with stone := s.stack.stone.map (fun (e : StoneSet) =>
      if e.owner == f then { e with ways := e.ways.filter (fun w => !remoteInScope ws w.tag) } else e) } }).modForme f
    (fun x => { x with remoteLines := x.remoteLines.filter (fun l => !remoteInScope ws (.remote l.1 (l.2.1 / 4))) })

/-- At the port: coherent copies of the scope's host pages are held no longer, those of the spill map apart, and what a fetch of a page
in scope still brings is not kept, so that it is issued again (R291). -/
def dropHost (x : Forme) (f : FormeId) (ws : List Word) (k : Port) : Port :=
  let map (page : Nat) : Bool := x.ecp.spillMap.any (fun e => (x.ecp.spillAddr.toNat * 4096 + 8 * e.1) / 4096 == page)
  { k with
    copies := k.copies.filter (fun c => !(c.1 == f && hostInScope x ws (c.2.toNat * 4096) 4096 && !map c.2.toNat)),
    reqs := k.reqs.map (fun q => match q.use with
      | .sheetRead g page => if g = f && spillInScope x ws page then { q with keep := false } else q
      | _ => q) }

/-- Drop the copies a scope names: galley copies of own pages and host memory, and remote lines; SNAPSHOT operands stay (R291). -/
def dropScope (s : State) (f : FormeId) (ws : List Word) : State :=
  let s1 := dropRemote (s.modForme f (dropCopies ws)) f ws
  match (s.forme f).cfg with
  | some c => s1.modPort c.port (dropHost (s.forme f) f ws)
  | none => s1

/-- The condition of an ACQUIRE_WAIT on a flag of the forme's own stack space (R289, R291). -/
def flagHolds (s : State) (f : FormeId) (o : OpRec) (off : Nat) : Bool :=
  match s.stackWord f off with | some w => decide ((opWord o 2).toNat ≤ w.toNat) | none => false

/-- The acquire completes: its scope is applied, and the slug may start or go on (R291). -/
def acquireDone (s : State) (f : FormeId) (sl : Slug) (o : OpRec) : State :=
  let s1 := dropScope s f ((scopeOf s f o).getD [])
  if sl.state == .queued then
    (s1.modForme f (fun x => modSlug x sl.tag (fun z => { z with acquired := true, op := 1, asked := [], fetched := [] }))).settle f
  else opDone s1 f sl.tag id

/-- The ACQUIRE_WAIT a slug stands at: its first op while QUEUED, or its present one while RUNNING (R291). -/
def acquireOp (x : Forme) (sl : Slug) : Option OpRec :=
  if (sl.state == .queued && !sl.acquired && sl.sealed.isNone) || (sl.state == .running && sl.wait == .none) then
    match (opsOf x sl)[if sl.state == .queued then 0 else sl.op]? with
    | some o => if opKind o == 0x0A then some o else none
    | none => none
  else none

/-- Read a flag that lies outside the module's own memory: the read is sent, or, once sent, its value has come. -/
def pollOutside (s : State) (f : FormeId) (sl : Slug) (o : OpRec) (outside : Word) : State :=
  let a := devAddr (opWord o 1)
  if sl.asked.isEmpty then
    let mark (t : State) : State := t.modForme f (fun x => modSlug x sl.tag (fun z => { z with asked := [(a, 8)], askedAt := s.time.ticks }))
    match place? s f a 8 with
    | .host h => mark (s.formeDrd f (.slugRead f sl.tag) false h 8)
    | .remote m off => match remoteJob s f m false with
      | some k => mark (sendLoads s f k sl.tag m off.toNat 8)
      | none => s
    | _ => s
  else
    let s1 := (s.retireUse (.slugRead f sl.tag)).modForme f (fun x => modSlug x sl.tag (fun z => { z with asked := [] }))
    if decide ((opWord o 2).toNat ≤ outside.toNat) then acquireDone s1 f sl o else s1

/-- R289, R291: one reading of an acquire's flag at its coherence point; `outside` is what host or remote memory answers. -/
def pollFlag (s : State) (f : FormeId) (t : SlugTag) (outside : Word) : State :=
  match findSlug (s.forme f) t with
  | none => s
  | some sl => match acquireOp (s.forme f) sl with
    | none => s
    | some o =>
      if acquireNoFlag o then acquireDone s f sl o
      else match place? s f (devAddr (opWord o 1)) 8 with
        | .stack off =>
          match s.poisonedLine f off 8 with
          | some l => if sl.state == .running then detect s f t (.stackOther (channelOf (l * 256)) l) else countPoison s f off 8
          | none => if flagHolds s f o off then acquireDone s f sl o else s
        | _ => pollOutside s f sl o outside

/-- R291. -/
def execAcquireFlagPoll (f : FormeId) (tag : SlugTag) (outside : Word) (s : State) : Res := .next (pollFlag s f tag outside)

/-! ### Matching (R174) -/

/-- R174: a prefill's first slug matches its prompt; M is kept with the slug and takes effect at its pass. -/
def execMatchPrompt (f : FormeId) (tag : SlugTag) (s : State) : Res :=
  match currentOp s f tag with
  | some (sl, o) =>
    if opKind o == 8 then
      match (s.forme f).cfg, findCtx (s.forme f) sl.ctx with
      | some c, some ctx =>
        let hit := matchPromptRuns s c ctx (promptCodes s f sl (handleLo o 1)) (fld (opWord o 2) 23 0)
        let ids := match hit.2 with
          | some e => (((chainBack (s.forme e.forme) (hit.1 + 1) (some e.run)).reverse.take hit.1).map (·.id))
          | none => []
        .next (opDone s f tag (fun z => if ctx.length = 0 then { z with matched := hit.1, hit := hit.2.map (fun e => (e.forme, ids)) }
          else { z with matched := 0, hit := none }))
      | _, _ => .next s
    else .next s
  | none => .next s

end Sys2Proof.Machine
end

