-- ==== Sys2Proof/Machine/Reads.lean ====
section
/-! DEFINITION. Reads and writes by device address as a slug makes them (R118, R119, R179, R180, R319, R320, R336 to R339), the
descriptors it reads so (R104, R106, R115), and what stands in the way of an op's reads: poisoned lines, copies that await a refetch,
snapshots (R130 to R132, R147). -/
namespace Sys2Proof.Machine

/-! ### Bytes of the forme's own space as a slug sees them -/

/-- One proof laid over bytes that stand at an offset. -/
def overlayOne (base off : Nat) (d bs : List Byte) : List Byte :=
  if base + bs.length ≤ off || off + d.length ≤ base then bs
  else bs.mapIdx (fun i b => if off ≤ base + i && base + i < off + d.length then d.getD (base + i - off) 0 else b)

/-- One proof laid over bytes read at a place. -/
def overlayProof (at' : Place) (acc : List Byte) (p : Proof) : List Byte :=
  match at', p with
  | .stack base, .stack off d => overlayOne base off d acc
  | .galley base, .galley g d => overlayOne base g d acc
  | .spill base, .spill off d => overlayOne base off d acc
  | .host base, .host h d => overlayOne base.toNat h.toNat d acc
  | .remote m base, .remote n off d => if m == n then overlayOne base.toNat off.toNat d acc else acc
  | _, _ => acc

/-- A proof by the addresses it writes: a tensor's sheets at the homes that the plan in force gives them (R122, R181). -/
def proofParts (x : Forme) (ctx : BitVec 16) (p : Proof) : List Proof :=
  match p with
  | .tensor h d => x.makeup.plan.filterMap (fun r =>
      let part := (d.drop (2 ^ 20 * r.sheet.index)).take (2 ^ 20)
      if r.sheet.ctx == ctx && r.sheet.handle == h && r.cls != 1 then (match r.home with
        | .stackPage a => some (.stack (a * 65536) part)
        | .spillPage a => some (.spill (a * 65536) part)
        | .galley _ _ | .sharedPage _ => none) else none)
  | q => [q]

/-- Bytes that a slug reads at a place, its own and its antecedents' writes laid over (R180). -/
def overlayRead (x : Forme) (sl : Slug) (at' : Place) (bs : List Byte) : List Byte :=
  ((visibleProofs x 16 sl).reverse.flatMap (proofParts x sl.ctx)).foldl (overlayProof at') bs

/-- A proof that writes bytes of the forme's own space, at an address that a descriptor's rule keeps there. -/
def ownProof (s : State) (f : FormeId) (a : BitVec 56) (d : List Byte) : List Proof :=
  match place? s f a d.length with
  | .stack off => [.stack off d]
  | .galley g => [.galley g d]
  | _ => []

/-- The FP32 words of a byte string. -/
def f32Words (bs : List Byte) : List (BitVec 32) := (List.range (bs.length / 4)).map (fun i => BitVec.ofNat 32 (leNat ((bs.drop (4 * i)).take 4)))
/-- The bytes of FP32 words. -/
def f32Bytes (ws : List (BitVec 32)) : List Byte := ws.flatMap (fun w => leBytes 4 w.toNat)

/-! ### Reads by address (R320, R337 to R339, R350) -/

/-- What a read of an op gives: the value, a line that detects, a wait for what was asked, or the status that stops the slug. -/
inductive Got (α : Type) where
  | ok (x : α)
  | poisoned (line : Nat)
  | asked (s : State)
  | fails (c : Code)

/-- Go on with what was read. -/
def Got.bind {α β : Type} (g : Got α) (k : α → Got β) : Got β :=
  match g with
  | .ok x => k x
  | .poisoned l => .poisoned l
  | .asked s => .asked s
  | .fails c => .fails c

/-- The slug now waits for bytes it has asked for. -/
def askFor (s : State) (f : FormeId) (t : SlugTag) (a : BitVec 56) (n : Nat) : State :=
  s.modForme f (fun x => modSlug x t (fun z => { z with wait := .remote, asked := z.asked ++ [(a, n)], askedAt := s.time.ticks }))

/-- A read of bytes of one spill page through the spill map: the entry first, then the page (R338, R339). -/
def gatherSpill (s : State) (f : FormeId) (t : SlugTag) (off n : Nat) : Got (List Byte) :=
  let a : BitVec 56 := spillAt off
  if !(s.forme f).ecp.spillEn then .fails 0x1101
  else match spillEntry (s.forme f) (off / 65536) with
    | none => .asked (askEntry (askFor s f t a n) f (off / 65536))
    | some e =>
      if bitOf e 0 then .asked ((askFor s f t a n).spillDrd f (.slugRead f t) false (off / 65536) (spillHost e off) n) else .fails 0x1101

/-- What an earlier request of a slug has brought of an address. -/
def fetchedAt (sl : Slug) (a : BitVec 56) (n : Nat) : Option (List Byte) := (sl.fetched.find? (fun g => g.1 == a && g.2.length == n)).map (·.2)

/-- A read of a range of the spill range, page by page. -/
def gatherPages (s : State) (f : FormeId) (sl : Slug) (off n : Nat) : Got (List Byte) :=
  (pageParts off n).foldr (fun p rest => match fetchedAt sl (spillAt p.1) p.2 with
    | some bs => rest.bind (fun r => .ok (bs ++ r))
    | none => gatherSpill s f sl.tag p.1 p.2) (.ok [])

/-- Bytes of remote space, when every sector of them is held in the forme's stone-cache blocks (R319). -/
def cachedRemote (s : State) (f : FormeId) (m : BitVec 12) (off n : Nat) : Option (List Byte) :=
  if (List.range ((off + n - 1) / 256 + 1 - off / 256)).all (fun i => stoneHolds s.stack.stone f (.remote m (off / 256 + i))) then
    (List.range n).mapM (fun i => ((s.forme f).remoteLines.find? (fun l => l.1 == m && l.2.1 == (off + i) / 64)).bind (fun l => l.2.2[(off + i) % 64]?))
  else none

/-- Bytes at a place as memory holds them: the forme's own space at once; elsewhere what an earlier request brought, or a request. -/
def gatherAt (s : State) (f : FormeId) (sl : Slug) (at' : Place) (a : BitVec 56) (n : Nat) : Got (List Byte) :=
  match at' with
  | .bad c => .fails c
  | .stack off => match s.poisonedLine f off n with
    | some l => .poisoned l
    | none => .ok ((ownRead s f a n).getD [])
  | .galley _ => .ok ((ownRead s f a n).getD [])
  | .spill off => gatherPages s f sl off n
  | .host h => match fetchedAt sl a n with
    | some bs => .ok bs
    | none => .asked ((askFor s f sl.tag a n).formeDrd f (.slugRead f sl.tag) false h n)
  | .remote m off => match fetchedAt sl a n, remoteJob s f m false with
    | some bs, _ => .ok bs
    | none, some k => match cachedRemote s f m off.toNat n with
      | some bs => .ok bs
      | none => .asked (sendLoads (askFor s f sl.tag a n) f k sl.tag m off.toNat n)
    | none, none => .fails 0x1002

/-- Bytes at a device address for an op of a slug (R180). -/
def gather (s : State) (f : FormeId) (sl : Slug) (a : BitVec 56) (n : Nat) : Got (List Byte) :=
  (gatherAt s f sl (place? s f a n) a n).bind (fun bs => .ok (overlayRead (s.forme f) sl (place? s f a n) bs))

/-- As `gather`, in 64-bit words. -/
def gatherWords (s : State) (f : FormeId) (sl : Slug) (a : BitVec 56) (n : Nat) : Got (List Word) :=
  (gather s f sl a (8 * n)).bind (fun bs => .ok ((List.range n).map (fun i => leWord ((bs.drop (8 * i)).take 8))))

/-- As `gather`, for a descriptor whose rule keeps it in the forme's own space: elsewhere the op fails with the rule's status. -/
def gatherOwn (s : State) (f : FormeId) (sl : Slug) (c : Code) (a : BitVec 56) (n : Nat) : Got (List Byte) :=
  if ownSpace s f a n then gather s f sl a n else .fails c

/-- As `gatherOwn`, in 64-bit words. -/
def ownGather (s : State) (f : FormeId) (sl : Slug) (c : Code) (a : BitVec 56) (n : Nat) : Got (List Word) :=
  if ownSpace s f a (8 * n) then gatherWords s f sl a n else .fails c

/-- A read that gave nothing: the slug detects, waits or fails. -/
def Got.finish {α : Type} (s : State) (f : FormeId) (sl : Slug) (g : Got α) (k : α → State) : State :=
  match g with
  | .ok x => k x
  | .poisoned l => detect s f sl.tag (.stackOther (channelOf (l * 256)) l)
  | .asked t => t
  | .fails c => s.failSlug f sl.tag c

/-! ### Writes by address (R119, R179, R321, R337) -/

/-- A slug's write to the spill range needs the entries of its pages: what is still asked for, or the status that stops the slug (R339). -/
def spillReady (s : State) (f : FormeId) (sl : Slug) (off n : Nat) : Got Unit :=
  (pageParts off n).foldr (fun p rest =>
    if (s.forme f).ecp.spillEn && (spillEntry (s.forme f) (p.1 / 65536)).any (fun e => bitOf e 0) then rest
    else (gatherSpill s f sl.tag p.1 1).bind (fun _ => .ok ())) (.ok ())

/-- The proof of a slug's write at a device address, what it still asks for, or the status that stops the slug. -/
def writeProof (s : State) (f : FormeId) (sl : Slug) (a : BitVec 56) (d : List Byte) : Got (List Proof) :=
  match place? s f a d.length with
  | .stack off => .ok [.stack off d]
  | .galley g => .ok [.galley g d]
  | .host h => .ok [.host h d]
  | .remote m off => .ok [.remote m off d]
  | .spill off => (spillReady s f sl off d.length).bind (fun _ => .ok [.spill off d])
  | .bad c => .fails c

/-! ### Quantisation descriptors (R95 to R97, R104 to R107, R115) -/

/-- A descriptor as an op uses it: FORMAT, SHARED, and its scale and zero point, or those of each column. -/
structure QVals where
  fmt    : Nat
  shared : Bool
  column : Bool
  vals   : List (BitVec 32 × Int)
  deriving DecidableEq, Repr, Inhabited

/-- Scale for a column. -/
def qScale (q : QVals) (j : Nat) : BitVec 32 := (q.vals.getD (if q.column then j else 0) (0, 0)).1
/-- Zero point for a column. -/
def qZero (q : QVals) (j : Nat) : Int := (q.vals.getD (if q.column then j else 0) (0, 0)).2
/-- FORMAT of a descriptor. -/
def qFormat (q : QDesc) : Nat := fld q.w0 55 48
/-- SHARED of a descriptor. -/
def qShared (q : QDesc) : Bool := bitOf q.w0 58
/-- GRAIN 1 of a descriptor. -/
def qColumn (q : QDesc) : Bool := fld q.w0 57 56 = 1

/-- A scale greater than 0, finite and normal (R115). -/
def scaleOk (x : BitVec 32) : Bool := 0x00800000 ≤ x.toNat && x.toNat < 0x7F800000

/-- A zero point within qmin to qmax of UINT n, INT n or Octavo n; 0 for any other format (R96, R115). -/
def zeroOk (fmt : Nat) (z : Int) : Bool :=
  match formatKind fmt, codeRange fmt with
  | .uint _, some r | .int _, some r | .octavo _, some r => r.1 ≤ z && z ≤ r.2
  | _, _ => z == 0

/-- A descriptor's scales and zero points all keep R115. -/
def descStatus (q : QVals) : Option Code :=
  if !q.vals.all (fun e => scaleOk e.1) then some 0x0501
  else if !q.vals.all (fun e => zeroOk q.fmt e.2) then some 0x0502 else none

/-- The descriptor set a slug's ops use: the one it pinned, or the one a calibration's op has presented (R106, R112). -/
def slugSet (sl : Slug) : SetBase := sl.shown.getD sl.set

/-- The descriptor at an index of a slug's set, as it stands there; one beyond the set fails as a bad scale (log 35). -/
def descRecord (s : State) (f : FormeId) (sl : Slug) (i : Nat) : Got QDesc :=
  match slugSet sl with
  | .placed a n _ =>
    if i < n then (ownGather s f sl 0x0501 (a + BitVec.ofNat 56 (16 * i)) 2).bind (fun ws => .ok { w0 := ws.getD 0 0, w1 := ws.getD 1 0 })
    else .fails 0x0501
  | b => match (setAt s f b)[i]? with | some q => .ok q | none => .fails 0x0501

/-- Scales and zero points of a descriptor over `n` columns: its own, or its column vector's (R104). -/
def descVals (s : State) (f : FormeId) (sl : Slug) (n : Nat) (q : QDesc) : Got QVals :=
  if qColumn q then (gatherWords s f sl (devAddr q.w1) n).bind (fun ws => .ok { fmt := qFormat q, shared := qShared q, column := true, vals := ws.map vectorEntry })
  else .ok { fmt := qFormat q, shared := qShared q, column := false, vals := [vectorEntry (place 0 (fld q.w0 47 0))] }

/-- A descriptor an op names: index 0xFFFF is none. -/
def descAt (s : State) (f : FormeId) (sl : Slug) (i n : Nat) : Got (Option QVals) :=
  if i = 0xFFFF then .ok none else ((descRecord s f sl i).bind (descVals s f sl n)).bind (fun q => .ok (some q))

/-- Descriptors of a product: of its weights by column, of its activations, of its output. -/
structure ProdDescs where
  (qw qa qo : Option QVals)
  deriving DecidableEq, Repr, Inhabited

/-- The lowest code among the descriptors that break R115 (R413). -/
def descsStatus (q : ProdDescs) : Option Code :=
  let cs := [q.qw, q.qa, q.qo].filterMap (fun d => d.bind descStatus)
  if cs.contains 0x0501 then some 0x0501 else cs.head?

/-- The three descriptors a product names, from the set its slug pinned (R105, R106, R115); `n` is the weight operand's columns. -/
def prodDescs (s : State) (f : FormeId) (sl : Slug) (o : OpRec) (n : Nat) : Got ProdDescs :=
  let q0 := opWord o 6
  (descAt s f sl (fld q0 15 0) n).bind (fun w => (descAt s f sl (fld q0 31 16) 1).bind (fun a => (descAt s f sl (fld q0 47 32) 1).bind (fun o =>
    match descsStatus { qw := w, qa := a, qo := o } with
    | some c => .fails c
    | none => .ok { qw := w, qa := a, qo := o })))

/-- The descriptor a tensor's record names, for the finishing unit: an index outside the set, or a descriptor outside R115, is none. -/
def recordDesc (s : State) (f : FormeId) (sl : Slug) (t : TensorRec) : Got (Option QVals) :=
  if (codeRange t.format.toNat).isNone || t.qdesc = 0xFFFF then .ok none
  else match descAt s f sl t.qdesc t.cols with
    | .ok (some q) => .ok (if (descStatus q).isNone then some q else none)
    | .fails _ => .ok none
    | g => g

/-- The address of the correction vector that a slug reads for the one at CORR: that of its own set (R106, R113; log 58). -/
def corrAddr (sl : Slug) (a : BitVec 56) : BitVec 56 :=
  match slugSet sl with
  | .placed _ _ cs => match cs.find? (·.1 == a) with | some c => c.2 | none => a
  | _ => a

/-! ### What an op reads, by sheet -/

/-- A sheet an op reads, with where its bytes lie: the lines of an inked copy, of a leaf or of a stack home. -/
structure SheetUse where
  sheet : SheetId
  /-- what a detection on one of its lines is -/
  kind  : ChannelId → Nat → DetectKind
  lines : List Nat
  /-- the chunks of the image it was inked from (R195) -/
  chunks : List Nat

/-- Lines of pages of the forme's stack space. -/
def pageLines (s : State) (f : FormeId) (page n : Nat) : List Nat :=
  match (s.forme f).cfg with | some c => stackLines c (page * 65536) (n * 65536) | none => []

/-- The context under which the plan walks a weight tensor of the slug's version: a version is walked once (log 45). -/
def weightCtx (x : Forme) (sl : Slug) (h : BitVec 32) : BitVec 16 :=
  match x.makeup.plan.find? (fun p => p.cls == 0 && p.sheet.handle == h &&
      (findCtx x p.sheet.ctx).any (fun c => c.matter == sl.matter && c.version == sl.version)) with
  | some p => p.sheet.ctx
  | none => sl.ctx

/-- The sheets of a class 0 tensor. -/
def weightUses (s : State) (f : FormeId) (sl : Slug) (t : TensorRec) : List SheetUse :=
  match (slugImage s f sl t.binding).bind (fun i => (dirTensor i t.handle).map (fun d => (i, d))) with
  | some (i, d) => (List.range (dirTiles d)).map (fun k => {
      sheet := { ctx := weightCtx (s.forme f) sl t.handle, handle := t.handle, index := k }, kind := .stackWeight t.binding (sheetChunks d k).1,
      lines := tileLines s f i d k,
      chunks := let c := sheetChunks d k; (List.range (c.2 + 1 - c.1)).map (· + c.1) })
  | none => []

/-- The sheet of the plan that a leaf is, by its home. -/
def leafSheet (x : Forme) (l : LeafEntry) : Option SheetId :=
  (x.makeup.plan.find? (fun p => p.cls == 1 &&
    (if l.spill then p.spill == some l.page.toNat || p.home == .spillPage l.page.toNat
     else p.src == some l.page.toNat || p.home == .stackPage l.page.toNat))).map (·.sheet)

/-- The leaf sheets of a context's runs. -/
def leafUses (s : State) (f : FormeId) (c : Context) : List SheetUse :=
  c.dir.flatMap (fun d => match (s.forme f).runs.find? (·.id == d.1) with
    | some r => (r.leaves.filter (·.valid)).map (fun l => {
        sheet := (leafSheet (s.forme f) l).getD { ctx := r.owner, handle := noHandle, index := 0 }, kind := .stackLeaf r.id,
        lines := if l.spill then [] else pageLines s f l.page.toNat 1, chunks := [] })
    | none => [])

/-- The sheets of a class 2 or 3 tensor. -/
def tensorUses (s : State) (f : FormeId) (ctx : BitVec 16) (h : BitVec 32) : List SheetUse :=
  ((s.forme f).makeup.plan.filter (fun p => p.cls != 1 && p.sheet.ctx == ctx && p.sheet.handle == h)).map (fun p => {
    sheet := p.sheet, kind := .stackOther, lines := (match p.home with | .stackPage a => pageLines s f a p.pages | _ => []), chunks := [] })

/-- The handles of an op's work for which R259 prints no code. -/
def workReads : Option FinWork → List (BitVec 32)
  | some (.scaleGrads _ g _ _) => [g]
  | some (.attnBack w) => [w.q, w.dOut, w.out, w.retained]
  | _ => []

/-- What an op reads: handles, and whether it reads the leaves of its context. -/
structure OpInput where
  handles : List (BitVec 32)
  leaves  : Bool
  deriving DecidableEq, Repr, Inhabited

/-- What an op reads, by its kind and its work. -/
def opInput (o : OpRec) (work : Option FinWork) : OpInput :=
  { handles := opReads o ++ workReads work, leaves := opKind o == 3 || (match work with | some (.attnBack _) => true | _ => false) }

/-- The sheets an op reads: those of the tensors it names, but for what the slug's own and its antecedents' proofs stand for, and the leaves
of its context. -/
def sheetUses (s : State) (f : FormeId) (sl : Slug) (o : OpInput) : List SheetUse :=
  let x := s.forme f
  let named := o.handles.flatMap (fun h => match (slugVersion x sl).bind (fun v => findTensor v h) with
    | some t => if t.cls = 0 then weightUses s f sl t
        else if t.cls = 1 then (match findCtx x sl.ctx with | some c => leafUses s f c | none => [])
        else if (sl.locals.any (·.1 == h)) || (visibleProofs x 16 sl).any (fun p => (proofTensor h p).isSome) then []
        else tensorUses s f sl.ctx h
    | none => [])
  if o.leaves then named ++ (match findCtx x sl.ctx with | some c => leafUses s f c | none => []) else named

/-- The sheet's bytes come from a galley copy that stands, or from a snapshot: no line of its home is read (R122, R132). -/
def sheetHeld (x : Forme) (sl : Slug) (h : SheetId) : Bool :=
  (snapOf sl h.handle h.index).isSome || x.makeup.staged.any (·.sheet == h) ||
  x.makeup.plan.any (fun p => p.sheet == h && (match p.home with | .galley _ _ => true | _ => false) && !x.makeup.stale.contains h)

/-- A poisoned line among those an op reads, as a detection (R146, R147, R195). -/
def poisonHit (s : State) (f : FormeId) (sl : Slug) (o : OpInput) : Option DetectKind :=
  if s.stack.poisoned.isEmpty && s.stack.poisonSets.isEmpty then none
  else (sheetUses s f sl o).findSome? (fun u =>
    if sheetHeld (s.forme f) sl u.sheet then none else (u.lines.find? s.stack.isPoisoned).map (fun l => u.kind (channelOf (l * 256)) l))

/-- An op reads a galley copy that awaits its fetch: it waits (R126, R130). -/
def awaitsFetch (s : State) (f : FormeId) (sl : Slug) (o : OpInput) : Bool :=
  !(s.forme f).makeup.stale.isEmpty && (sheetUses s f sl o).any (fun u =>
    (s.forme f).makeup.stale.contains u.sheet && (snapOf sl u.sheet.handle u.sheet.index).isNone)

/-- A galley copy or a staged sheet stands for a page of the spill range. -/
def pageHeld (x : Forme) (page : Nat) : Bool :=
  let holds (a : Option Nat) (n : Nat) : Bool := match a with | some q => decide (q ≤ page) && decide (page < q + n) | none => false
  x.makeup.plan.any (fun p => holds p.spill p.pages && !x.makeup.stale.contains p.sheet) ||
    x.makeup.staged.any (fun t => holds t.spill (ceilDiv t.data.length 65536))

/-- The pages of the spill range that an op reads from host memory: homes of its tensors' sheets and of leaves, but for those a copy in
galley, a snapshot or a proof stands for (R123, R133). -/
def spillReads (s : State) (f : FormeId) (sl : Slug) (o : OpInput) : List Nat :=
  let x := s.forme f
  let tensors := (sheetUses s f sl o).flatMap (fun u =>
    if (snapOf sl u.sheet.handle u.sheet.index).isSome then []
    else x.makeup.plan.flatMap (fun p => if p.sheet == u.sheet && p.cls != 1 then
      (match p.home with | .spillPage a => (List.range p.pages).map (a + ·) | _ => []) else []))
  let leaves := if o.leaves then (match findCtx x sl.ctx with
    | some c => c.dir.flatMap (fun d => match x.runs.find? (·.id == d.1) with
        | some r => (r.leaves.filter (fun l => l.valid && l.spill)).map (·.page.toNat)
        | none => [])
    | none => []) else []
  (tensors ++ leaves).filter (fun p => !pageHeld x p)

/-- The pages of the spill range that an op's results have their homes in: their writes at pass need the map's entries (R339). -/
def spillWrites (x : Forme) (sl : Slug) (hs : List (BitVec 32)) : List Nat :=
  x.makeup.plan.flatMap (fun p => if p.sheet.ctx == sl.ctx && p.cls != 1 && hs.contains p.sheet.handle then
    (match p.home with | .spillPage a => (List.range p.pages).map (a + ·) | _ => []) else [])

/-- What an op still needs of the spill range before it can run: a page it reads, or the entry of a page it will write. -/
def spillNeeds (s : State) (f : FormeId) (sl : Slug) (o : OpInput) (writes : List (BitVec 32)) : Got Unit :=
  match (spillReads s f sl o).find? (fun p => !sl.fetched.any (·.1 == spillAt (65536 * p))) with
  | some p => (gather s f sl (spillAt (65536 * p)) 65536).bind (fun _ => .ok ())
  | none => match (spillWrites (s.forme f) sl writes).find? (fun p => !((s.forme f).ecp.spillEn && (spillEntry (s.forme f) p).any (fun e => bitOf e 0))) with
    | some p => (gatherSpill s f sl.tag (p * 65536) 1).bind (fun _ => .ok ())
    | none => .ok ()

/-! ### Snapshots (R132, R192) -/

/-- Handles that a product or element-wise op marks SNAPSHOT (R132, R259). -/
def snapHandles (o : OpRec) : List (BitVec 32) :=
  if opKind o = 1 || opKind o = 2 then
    (if bitOf (opWord o 0) 42 then [handleLo o 1] else []) ++ (if bitOf (opWord o 0) 43 then [handleHi o 1] else [])
  else []

/-- The bytes of a sheet as a snapshot holds them: a tile's planes and then its side record; a leaf's page; a run of a stored stream. -/
def sheetBytes (s : State) (f : FormeId) (sl : Slug) (t : TensorRec) (index : Nat) : List Byte :=
  match t.cls with
  | 0 => match (slugImage s f sl t.binding).bind (fun i => (dirTensor i t.handle).map (fun d => (i, d))) with
    | some (i, d) =>
      let g := weightByte s f { sl with snaps := [] } i d index
      (List.range (weightPlanes d.format.toNat * 65536)).map (g false) ++ (List.range 8192).map (g true)
    | none => []
  | 1 => match (findCtx (s.forme f) sl.ctx).bind (fun c => if c.leaves = 0 then none else
      (runRecord (s.forme f) c (index / c.leaves)).bind (fun r => r.leaves[index % c.leaves]?)) with
    | some l => (List.range 65536).map (leafByte s f sl l)
    | none => []
  | _ =>
    let n := storedBytes t.format.toNat (tensorRows (s.forme f) sl t) t.cols - index * 2 ^ 20
    (List.range (min (2 ^ 20) n)).map (fun i => tensorByte s f { sl with snaps := [] } t.handle (index * 2 ^ 20 + i))

/-- Sheets of a tensor, by number. -/
def sheetCount (s : State) (f : FormeId) (sl : Slug) (t : TensorRec) : Nat :=
  match t.cls with
  | 0 => ceilDiv t.rows 512 * ceilDiv t.cols 1024
  | 1 => match findCtx (s.forme f) sl.ctx with | some c => c.dir.length * c.leaves | none => 0
  | _ => ceilDiv (storedBytes t.format.toNat (tensorRows (s.forme f) sl t) t.cols) (2 ^ 20)

/-- Stage a sheet as a snapshot of a slug, unless the slug holds it already (R132). -/
def takeSnap (s : State) (f : FormeId) (sl : Slug) (t : TensorRec) (index : Nat) : Slug :=
  if (snapOf sl t.handle index).isSome then sl else { sl with snaps := sl.snaps ++ [(t.handle, index, sheetBytes s f sl t index)] }

/-- The slug as an op with SNAPSHOT operands leaves it once they are staged. -/
def snapOperands (s : State) (f : FormeId) (sl : Slug) (o : OpRec) : Slug :=
  (snapHandles o).foldl (fun z h => match (slugVersion (s.forme f) sl).bind (fun v => findTensor v h) with
    | some t => (List.range (sheetCount s f sl t)).foldl (fun y k => takeSnap s f y t k) z
    | none => z) sl

/-! ### The read record (R194) -/

/-- Note the chunks of a class 0 tensor as read. -/
def noteTensor (s : State) (f : FormeId) (v : Version) (sl : Slug) (h : BitVec 32) : Slug :=
  match findTensor v h with
  | some t =>
    if t.cls = 0 then
      match (slugImage s f sl t.binding).bind (fun i => dirTensor i t.handle) with
      | some d => { sl with reads := noteRead sl.reads t.binding (d.offset / 2 ^ 20) ((d.offset + storedBytes d.format.toNat d.rows d.cols - 1) / 2 ^ 20) }
      | none => sl
    else sl
  | none => sl

/-- Note what an op reads of inked images, whatever the role it reads it in. -/
def noteWeights (s : State) (f : FormeId) (v : Version) (o : OpInput) (sl : Slug) : Slug := o.handles.foldl (noteTensor s f v) sl

end Sys2Proof.Machine
end

