-- ==== Sys2Proof/Machine/RunAhead.lean ====
section
/-! DEFINITION. Plans take effect, run-ahead, and the explicit region: what the make-up engine moves (R122, R126 to R134, R339). -/
namespace Sys2Proof.Machine

/-! ### Pages of the spill range that an engine reads (R128, R131, R338, R350) -/

/-- What a read has brought in of a spill page. -/
def arrivedPage (x : Forme) (page : Nat) : Option (List Byte) := (x.makeup.arrived.find? (·.1 == page)).map (·.2)

/-- Ask for spill pages that are neither here nor asked for, as coherent copies (R131, R346). -/
def askPages (s : State) (f : FormeId) (pages : List Nat) : State :=
  if formePortUp s f then pages.foldl (fun t p => match arrivedPage (t.forme f) p, spillEntry (t.forme f) p with
    | none, some e => if useOut t (.sheetRead f p) then t else t.spillDrd f (.sheetRead f p) true p (spillHost e 0) 65536
    | _, _ => t) s
  else s

/-- What a read of spill pages by an engine of the forme gives: their bytes, a wait, or a page outside the mapped set. -/
inductive PageRead where
  | ready (data : List Byte)
  | waits (s : State)
  | outside

/-- Read spill pages: the entries first, then the pages. What the command itself brings stands for the pages that are asked for and have
not come by a DCPL. -/
def readPages (s : State) (f : FormeId) (pages : List Nat) (given : Option (List Byte)) : PageRead :=
  let x := s.forme f
  if pages.any (pageOutside x) then .outside
  else if pages.any (fun p => (spillEntry x p).isNone) then .waits (askEntries s f pages)
  else
    let here (i p : Nat) : Option (List Byte) := match arrivedPage x p with
      | some d => some d
      | none => if s.ports.toList.any (fun k => k.reqs.any (fun q => q.use == .sheetRead f p && q.keep)) then given.map (fun d => (d.drop (65536 * i)).take 65536) else none
    match pages.zipIdx.mapM (fun p => here p.2 p.1) with
    | some ds => .ready ds.flatten
    | none => .waits (askPages s f pages)

/-- The module holds coherent copies of the host pages behind a spill page (R131, R346). -/
def keepHost (s : State) (f : FormeId) (page : Nat) : State :=
  match (s.forme f).cfg, spillEntry (s.forme f) page with
  | some c, some e =>
    let ks := (List.range 16).map (fun i => (f, BitVec.ofNat 40 (fld e 51 16 * 16 + i)))
    s.modPort c.port (fun k => { k with copies := k.copies.filter (fun c => !ks.contains c) ++ ks })
  | _, _ => s

/-- The pages read are used: their requests are retired, and nothing of them waits any more. -/
def usePages (s : State) (f : FormeId) (pages : List Nat) : State :=
  (pages.foldl (fun t p => (keepHost t f p).retireUse (.sheetRead f p)) s).modForme f
    (fun x => { x with makeup := { x.makeup with arrived := x.makeup.arrived.filter (fun a => !pages.contains a.1) } })

/-! ### Plans take effect (R122, R126, R133, R161) -/

/-- The home that a leaf entry names. -/
def entryHome (l : LeafEntry) : Option Home :=
  if l.valid then some (if l.spill then .spillPage l.page.toNat else .stackPage l.page.toNat) else none

/-- The leaf entry of a home (R161). -/
def homeEntry : Home → LeafEntry
  | .stackPage a => { valid := true, spill := false, page := BitVec.ofNat 32 a }
  | .spillPage a => { valid := true, spill := true, page := BitVec.ofNat 32 a }
  | .galley _ _ | .sharedPage _ => { valid := false, spill := false, page := 0 }

/-- The run record and the leaf number of a placed leaf, where the context has the run already. -/
def placedLeaf (x : Forme) (p : Placed) : Option (RunRec × Nat) :=
  p.sheet.leaf.bind (fun l => (((findCtx x p.sheet.id.ctx).bind (fun c => c.dir[l.1]?)).bind (fun d => x.runs.find? (·.id == d.1))).map (fun r => (r, l.2)))

/-- Where the bytes of a placed sheet are now, with its pages there: a leaf by its run record, a sheet of class 2 or 3 by the plan in force
or, of a context that comes back, by what the swap kept. A weight lies where it was inked. -/
def presentHome (x : Forme) (p : Placed) : Option (Home × Nat) :=
  match p.sheet.cls with
  | 0 => none
  | 1 => (placedLeaf x p).bind (fun r => (r.1.leaves[r.2]?).bind (fun l => (entryHome l).map (fun h => (h, 1))))
  | _ => ((x.makeup.plan ++ (match findCtx x p.sheet.id.ctx with | some c => c.outside | none => [])).find? (·.sheet == p.sheet.id)).map
      (fun r => (r.home, r.pages))

/-- A sheet whose bytes a new plan moves. -/
structure Move where
  ctx   : BitVec 16
  src   : Home
  dst   : Home
  pages : Nat
  deriving DecidableEq, Repr

/-- The moves of a plan: leaves and sheets of class 2 and 3 whose home is another one. -/
def planMoves (x : Forme) (ps : List Placed) : List Move :=
  ps.filterMap (fun p =>
    let dst := if p.sheet.cls = 1 then p.home else some (planRec x.makeup.explicitActive p).home
    match presentHome x p, dst with
    | some a, some b => if a.1 == b then none else some { ctx := p.sheet.id.ctx, src := a.1, dst := b, pages := min a.2 p.sheet.pages }
    | _, _ => none)

/-- Spill pages of a home. -/
def spillPagesOf (h : Home) (n : Nat) : List Nat := match h with | .spillPage a => (List.range n).map (a + ·) | _ => []

/-- The bytes of a sheet at a home; those of spill pages have been read in. -/
def readHome (s : State) (f : FormeId) (h : Home) (n : Nat) : List Byte :=
  match h with
  | .galley c g => galleyBytes s.galley (c.val * 2 ^ 28 + g * 65536) (n * 65536)
  | .stackPage a => (List.range (n * 65536)).map (fun i => formeByte s f (a * 65536 + i))
  | .spillPage a => (List.range n).flatMap (fun i => (arrivedPage (s.forme f) (a + i)).getD [])
  | .sharedPage _ => []

/-- The running launches of a context complete with a status of their own: data of theirs is lost (R146). -/
def contextFails (s : State) (f : FormeId) (c : BitVec 16) (code : Code) : State :=
  (s.modForme f (fun x => (x.launches.filter (fun l => l.phase == .running && entryOpcode l.entry == 1 && entryContext l.entry == c)).foldl
    (fun y l => y.failLaunch s.time.ticks l.ring l.seq code) x)).settle f

/-- The poisoned lines a move reads: each is a detection; in stack memory the lines they go to are poisoned, elsewhere the launches of the
context fail (R146, R147). -/
def moveDetects (s : State) (f : FormeId) (m : Move) : State :=
  match m.src, (s.forme f).cfg with
  | .stackPage a, some c =>
    let bad := (List.range (m.pages * 256)).filter (fun i => s.stackPoisoned f (a * 65536 + 256 * i) 256)
    if bad.isEmpty then s
    else
      let s1 := bad.foldl (fun t i => countPoison t f (a * 65536 + 256 * i) 256) s
      match m.dst with
      | .stackPage b =>
        let ls := bad.filterMap (fun i => (slotAddr c.regions (b * 65536 + 256 * i)).map (· / 256))
        { s1 with stack := { s1.stack with poisoned := s1.stack.poisoned ++ ls.filter (fun l => !s1.stack.poisoned.contains l) } }
      | _ => contextFails s1 f m.ctx 0x0801
  | _, _ => s

/-- What a move reads and writes of stack memory and galley (R387); the write of stack memory is charged where it is made. -/
def moveCharge (s : State) (f : FormeId) (m : Move) : State :=
  let side (t : State) (h : Home) (stack : Nat) : State := match h with
    | .galley _ _ => t.charge f (m.pages * 65536 * galleyByteFj)
    | .stackPage _ => t.charge f (m.pages * 65536 * stack)
    | _ => t
  side (side s m.src stackByteFj) m.dst 0

/-- Give the leaf entries of the run records their homes (R161). -/
def placeLeaf (x : Forme) (p : Placed) : Forme :=
  match placedLeaf x p, p.home with
  | some (r, e), some h => { x with runs := updFirst (·.id == r.id) (fun r => { r with leaves := r.leaves.set e (homeEntry h) }) x.runs }
  | _, _ => x

/-- A galley copy of a weight or leaf. -/
def isCopy (p : PlanRec) : Bool := p.cls ≤ 1 && (match p.home with | .galley _ _ => true | _ => false)

/-- The plan comes into force: PLANS and DIGEST follow, copies the plan no longer holds are dropped, new ones await their fetch, and
sheets placed alike are not touched (R126, R134, R135). -/
def adoptRecs (x : Forme) (k : PlanKey) (recs : List PlanRec) : Forme :=
  let anew := (recs.filter (fun p => isCopy p && !x.makeup.plan.contains p)).map (·.sheet)
  let old := x.makeup.stale.filter (fun h => recs.any (fun p => isCopy p && p.sheet == h))
  { x with
    ctxs := x.ctxs.map (fun (c : Context) => if (planContexts x).any (·.num == c.num) then { c with outside := [] } else c)
    makeup := { x.makeup with
      key := some k, plan := recs, digest := planDigest recs, plans := x.makeup.plans + 1, keyMaker := none,
      staged := x.makeup.staged.filter (fun t => recs.any (fun p => p.sheet == t.sheet && !isCopy p)),
      stale := old ++ anew.filter (fun h => !old.contains h) } }

/-- What sheets leave behind in the explicit region is cleared with it (R134). -/
def clearLeft (s : State) (f : FormeId) (ms : List Move) : State :=
  let lim := 16 * (s.forme f).makeup.explicitActive
  ms.foldl (fun t m => match m.src with
    | .galley c g => if g < lim then { t with galley := memClear t.galley (c.val * 2 ^ 28 + g * 65536) (min m.pages (lim - g) * 65536) } else t
    | _ => t) s

/-- The first spill page of a home, for the requests made to it. -/
def homePage : Home → Nat
  | .spillPage a => a
  | _ => 0

/-- The plan takes effect: every byte that moves is read before any is written (R122, R126). -/
def takePlan (s : State) (f : FormeId) (k : PlanKey) (ps : List Placed) : State :=
  let x := s.forme f
  let ms := planMoves x ps
  let data := ms.map (fun m => readHome s f m.src m.pages)
  let s1 := s.modForme f (fun x => ps.foldl placeLeaf (adoptRecs x k (ps.map (planRec x.makeup.explicitActive))))
  let s2 := usePages (clearLeft s1 f ms) f (ms.flatMap (fun m => spillPagesOf m.src m.pages))
  let s3 := (ms.zip data).foldl (fun t m => homeWrite t f (.sheetWrite f (homePage m.1.dst)) m.1.dst m.2) s2
  ms.foldl (fun t m => moveDetects (moveCharge t f m) f m) s3

/-- The launch that made a key completes with a status of the plan, without running (R123, R339). -/
def failMaker (s : State) (f : FormeId) (maker : Option (RingId × Seq)) (c : Code) : State :=
  match maker with
  | some (r, q) =>
    match findLaunch (s.forme f) r q with
    | some l =>
      if l.phase == .running then
        let s2 := s.modForme f (fun x =>
          (x.slugs.filter (fun sl => sl.ring == r && sl.seq == q)).foldl (fun y sl => y.endSlug sl.tag .discarded c) x)
        s2.completeWith f r q c
      else s
    | none => s
  | none => s

/-- A plan that cannot take effect: the launch that made the key completes with its status, and the old plan stays in force: with 0x0701
where a sheet finds no home (R123, R136), with 0x1101 where a sheet would move over a spill page that is not valid, so that it keeps the
copy it has (R339; log 45). -/
def failPlan (s : State) (f : FormeId) (k : PlanKey) (c : Code) : State :=
  failMaker (s.modForme f (fun x => { x with makeup := { x.makeup with key := some k, keyMaker := none } })) f (s.forme f).makeup.keyMaker c

/-- A plan may be finished: the key has changed, no step runs, since a running step keeps its plan, and no page of a victim's image waits
to be copied out (R126, R136, R281). -/
def planMayEnd (s : State) (f : FormeId) : Bool :=
  planDue s f && !(s.liveCores f).isEmpty && !(s.forme f).sched.stepOn && (s.forme f).sched.swap.toCopy.isEmpty

/-- The plan of the present key is finished once what it moves has been read (R126, R339). -/
def finishPlan (s : State) (f : FormeId) : State :=
  let k := keyWith s f (tuneWord (s.forme f).makeup)
  match makePlan s f with
  | none => failPlan s f k 0x0701
  | some ps =>
    let x := s.forme f
    let ms := planMoves x ps
    let dsts := ms.flatMap (fun m => spillPagesOf m.dst m.pages)
    if dsts.any (pageOutside x) then failPlan s f k 0x1101
    else if dsts.any (fun p => (spillEntry x p).isNone) then askEntries s f dsts
    else match readPages s f (ms.flatMap (fun m => spillPagesOf m.src m.pages)) none with
      | .ready _ => takePlan s f k ps
      | .waits t => t
      | .outside => failPlan s f k 0x1101

/-- The read of a spill-map entry that a due plan waits for faults: as an entry that is not valid (R339, R350). -/
def planEntryFaults (s : State) (f : FormeId) (page : Nat) : State :=
  if planMayEnd s f then
    match makePlan s f with
    | some ps =>
      if (planMoves (s.forme f) ps).any (fun m => (spillPagesOf m.src m.pages ++ spillPagesOf m.dst m.pages).contains page) then
        failPlan s f (keyWith s f (tuneWord (s.forme f).makeup)) 0x1101
      else s
    | none => s
  else s

/-- R126: the plan for a new key is complete. -/
def execPlanComplete (f : FormeId) (s : State) : Res := .next (if planMayEnd s f then finishPlan s f else s)

/-! ### Run-ahead (R127 to R129) -/

/-- Pages of a core's sheet area that neither the plan nor staged sheets hold. -/
def freePages (x : Forme) (c : CoreId) : Nat :=
  match x.cfg with
  | some k =>
    let here := x.makeup.plan.filter (fun p => match p.home with | .galley d _ => d == c | _ => false)
    sheetArea k x.makeup.explicitActive - sumNat (here.map (·.pages)) - ceilDiv (here.filter (·.cls == 0)).length 8 -
      sumNat ((x.makeup.staged.filter (·.core == c)).map (fun t => sheetPages x t.sheet))
  | none => 0

/-- RUNAHEAD as the plan in force has it (R134). -/
def runaheadNow (x : Forme) : Nat := match x.makeup.key with | some k => fld k.tune 22 16 | none => x.makeup.runahead

/-- The slugs of the step that have still ops to run, with those ops, in issue order. -/
def stepWork (x : Forme) : List (Slug × List OpRec) :=
  (x.slugs.filter (fun sl => sl.inStep && (sl.state == .running || sl.state == .queued))).map
    (fun sl => (sl, (opsOf x sl).drop (if sl.state == .running then sl.op else 0)))

/-- The stream of a core: the sheets not in galley that the step's slugs will read for it, in the order in which they will (R127). -/
def streamOf (s : State) (f : FormeId) (c : CoreId) : List SheetId :=
  let x := s.forme f
  (((stepWork x).flatMap (fun w => w.2.flatMap (fun o => (sheetUses s f w.1 (opInput o none)).map (·.sheet)))).filter (fun h =>
    x.makeup.plan.any (fun p => p.sheet == h && p.core == c && (match p.home with | .galley _ _ => false | _ => true)))).eraseDups

/-- A sheet's home lies in the mapped set as far as the entries held tell (R128). -/
def sheetMapped (x : Forme) (h : SheetId) : Bool :=
  match x.makeup.plan.find? (·.sheet == h) with
  | some p => !(spillPagesOf p.home p.pages).any (pageOutside x)
  | none => true

/-- The sheets that run-ahead may fetch for a core now: up to RUNAHEAD of its stream, as far as the first page outside the mapped set
(R127, R128). -/
def aheadOf (s : State) (f : FormeId) (c : CoreId) : List SheetId :=
  ((streamOf s f c).take (runaheadNow (s.forme f))).takeWhile (sheetMapped (s.forme f))

/-- The lines a fetch of a sheet reads. -/
def fetchLines (s : State) (f : FormeId) (p : PlanRec) : List Nat :=
  match p.cls, p.src, p.home with
  | 0, _, _ => match (findCtx (s.forme f) p.sheet.ctx).bind (fun c => (findVersion (s.forme f) c.matter c.version).bind (fun v => findTensor v p.sheet.handle)) with
    | some t => match bindingImage s f t.binding with
      | some i => copyLines s f i (tilePage i t.handle.toNat p.sheet.index * 65536) (p.pages * 65536) ++ copyLines s f i (sideByte i t.handle.toNat p.sheet.index) 8192
      | none => []
    | none => []
  | _, some a, _ => pageLines s f a p.pages
  | _, none, .stackPage a => pageLines s f a p.pages
  | _, _, _ => []

/-- A sheet is read from stack memory: one read at most once a step with the discard hint, and then for the last time, any other with the keep
hint; an inked sheet with the stream hint (R127, R143, R230). -/
def fetchStack (s : State) (f : FormeId) (p : PlanRec) : State :=
  s.stackFetch f (if p.cls = 0 then .stream else if p.once then .discard else .keep) p.once (fetchLines s f p) (65536 * p.pages)

/-- A fetched sheet is what every slug of the step that marks it SNAPSHOT keeps (R132). -/
def snapStaged (s : State) (f : FormeId) (h : SheetId) : State :=
  s.modForme f (fun x => { x with slugs := x.slugs.map (fun sl =>
    match (stepWork x).find? (fun w => w.1.tag == sl.tag) with
    | some w =>
      if w.2.any (fun o => (snapHandles o).contains h.handle) && (h.ctx == sl.ctx || h.ctx == weightCtx x sl h.handle) then
        match (slugVersion x sl).bind (fun v => findTensor v h.handle) with
        | some t => takeSnap s f sl t h.index
        | none => sl
      else sl
    | none => sl) })

/-- A read of a poisoned line leaves nothing in galley: the copy is given up, and the op that reads the sheet reads its home, and
detects there (R147). -/
def dropCopy (x : Forme) (p : PlanRec) : Forme :=
  { x with makeup := { x.makeup with
      plan := x.makeup.plan.map (fun q => if q.sheet == p.sheet then { q with
        home := match p.src with | some a => .stackPage a | none => .sharedPage 0, src := none } else q)
      stale := x.makeup.stale.filter (· != p.sheet) } }

/-- The galley copy of a sheet has been fetched: it is fresh (R126, R130, R131). -/
def freshCopy (x : Forme) (h : SheetId) : Forme := { x with makeup := { x.makeup with stale := x.makeup.stale.filter (· != h) } }

/-- The fetch of a galley copy: from stack memory, or from spill pages (R130, R131). -/
def fetchCopy (s : State) (f : FormeId) (p : PlanRec) (given : Option (List Byte)) : State :=
  let moved := (s.charge f (65536 * p.pages * galleyByteFj))
  match p.spill, p.home with
  | some a, .galley c g =>
    let pages := (List.range p.pages).map (a + ·)
    match readPages s f pages given with
    | .ready d => snapStaged ((usePages (moved.galleyWrite (c.val * 2 ^ 28 + g * 65536) d) f pages).modForme f (fun x => freshCopy x p.sheet)) f p.sheet
    | .waits t => t
    | .outside => s
  | _, _ =>
    if (fetchLines s f p).any s.stack.isPoisoned then s.modForme f (fun x => dropCopy x p)
    else snapStaged ((fetchStack moved f p).modForme f (fun x => freshCopy x p.sheet)) f p.sheet

/-- Put a staged sheet on a core. -/
def putStaged (s : State) (f : FormeId) (c : CoreId) (p : PlanRec) (src spill : Option Nat) (data : List Byte) : State :=
  snapStaged ((s.charge f (65536 * p.pages * galleyByteFj)).modForme f (fun x => { x with makeup := { x.makeup with
    staged := x.makeup.staged ++ [{ core := c, sheet := p.sheet, src := src, spill := spill, data := data }] } })) f p.sheet

/-- The core's stream has met a page outside the mapped set: its run-ahead stops there for the step, without a request (R128). -/
def haltStream (s : State) (f : FormeId) (c : CoreId) : State :=
  s.modForme f (fun x => { x with makeup := { x.makeup with halted := if x.makeup.halted.contains c then x.makeup.halted else x.makeup.halted ++ [c] } })

/-- The fetch of a sheet ahead of its use into free pages of a core (R127, R128). -/
def stageSheet (s : State) (f : FormeId) (c : CoreId) (p : PlanRec) (given : Option (List Byte)) : State :=
  match p.home with
  | .galley _ _ => s
  | .spillPage a =>
    let pages := (List.range p.pages).map (a + ·)
    match readPages s f pages given with
    | .ready d => putStaged (usePages s f pages) f c p none (some a) d
    | .waits t => t
    | .outside => haltStream s f c
  | .stackPage a => if (fetchLines s f p).any s.stack.isPoisoned then s else putStaged (fetchStack s f p) f c p (some a) none []
  | .sharedPage _ => if (fetchLines s f p).any s.stack.isPoisoned then s else putStaged (fetchStack s f p) f c p none none []

/-- A fetch ahead of use is allowed now: in a step, for a sheet of the core's stream, into pages that are free (R127, R128). -/
def mayStage (s : State) (f : FormeId) (c : CoreId) (p : PlanRec) : Bool :=
  let x := s.forme f
  x.sched.stepOn && (s.liveCores f).contains c && !x.makeup.halted.contains c && !x.makeup.staged.any (fun t => t.core == c && t.sheet == p.sheet) &&
    p.pages ≤ freePages x c && (aheadOf s f c).contains p.sheet

/-- The host's answer to a fetch was a fault: the forme's fault registers keep it, and the fetch may be made again (R350). -/
def fetchFaults (s : State) (f : FormeId) (p : PlanRec) (st : EcpStatus) (addr : HostAddr) : State :=
  let pages := (match p.spill with | some a => (List.range p.pages).map (a + ·) | none => spillPagesOf p.home p.pages)
  if pages.any (fun q => useOut s (.sheetRead f q)) then
    pages.foldl (fun t q => t.retireUse (.sheetRead f q)) (s.noteFault f addr st)
  else s

/-- R127, R130: a fetch ahead of use completes: the sheet is staged on the core, or its invalidated galley copy is fresh again. What comes
from spill pages is asked for by the first such command that finds it allowed, and staged by the one that finds it here (log 94). -/
def execRunaheadFetchDone (f : FormeId) (c : CoreId) (sheet : SheetFetch) (s : State) : Res :=
  let x := s.forme f
  .next (match x.makeup.plan.find? (·.sheet == sheet.id) with
    | none => s
    | some p => match sheet.data with
      | .fault st a => fetchFaults s f p st a
      | .data d =>
        if x.makeup.stale.contains p.sheet && p.core == c then fetchCopy s f p (some d)
        else if mayStage s f c p then stageSheet s f c p (some d)
        else s)

/-! ### The explicit region (R134) -/

/-- Clear the explicit regions of a forme's cores, but for pages that are homes of sheets of the plan in force: those leave with the plan
that is now due, and are cleared then. -/
def clearExplicit (s : State) (f : FormeId) (mib : Nat) : State :=
  let x := s.forme f
  let isHome (c : CoreId) (g : Nat) : Bool := x.makeup.plan.any (fun p => 2 ≤ p.cls && (match p.home with
    | .galley d a => d == c && decide (a ≤ g) && decide (g < a + p.pages)
    | _ => false))
  { s with galley := x.cores.foldl (fun m c => (List.range (16 * mib)).foldl (fun m g =>
      if isHome c g then m else memClear m (c.val * 2 ^ 28 + g * 65536) 65536) m) s.galley }

/-- R134: with no launch in flight EXPLICIT_MIB becomes EXPLICIT_ACTIVE, and the explicit regions are cleared. -/
def execExplicitRegionApply (f : FormeId) (s : State) : Res :=
  let x := s.forme f
  if x.makeup.explicitDue && formeInflight x = 0 then
    .next ((clearExplicit s f x.makeup.explicitMib).modForme f (fun x => { x with makeup := { x.makeup with
      explicitActive := x.makeup.explicitMib, explicitDue := false } }))
  else .next s

end Sys2Proof.Machine
end

