-- ==== Sys2Proof/Machine/Registers.lean ====
section
/-! DEFINITION. Reads of a forme's register blocks (R8 to R11, R20, R55, R57, R68, R88, R134, R154, R177, R198, R239, R243, R245, R283,
R329, R349, R352, R407, R408) and the register reads that wait for withdrawn spill pages (R340). -/
namespace Sys2Proof.Machine

/-! ### The blocks -/

/-- FEED_GEO_MEM with so many channels mapped out (R20). -/
def geoMem (out : Nat) : Word :=
  place 0 192 ||| place 16 256 ||| place 32 (Config.usableGib - 4 * out) ||| place 48 (Config.stackChannels - out)

/-- FEED_GEO_ARRAY: the working press cores and the figures of the part (R20). -/
def geoArray (s : State) : Word :=
  place 0 (allCores.filter (fun c => (s.core c).working)).length ||| place 8 8 ||| place 16 16 ||| place 32 Config.arrayRows ||| place 48 Config.arrayColumns

/-- FEED_GEO_LINKS (R20). -/
def geoLinks (s : State) : Word := (List.finRange 6).foldl (fun w l => w ||| place (8 * l.val) (s.link l).lanes) 0

/-- MODULE_CAP_W and the number of formes of the committed imposition (R30). -/
def capW (s : State) : Nat := match s.colo.committed with | some i => fld i.powerHead.1 15 0 | none => 0
/-- As `capW`. -/
def formeCount' (s : State) : Nat := match s.colo.committed with | some i => i.formeCount | none => 0

/-- A mask of press cores, low or high half. -/
def coreMask (cs : List CoreId) (high : Bool) : Word :=
  cs.foldl (fun w c => if decide (64 ≤ c.val) == high then w ||| oneBit 64 (c.val % 64) else w) 0

/-- The geometry block (R20); `n` is an offset in it. -/
def geoReg (s : State) (f : FormeId) (c : FormeCfg) (n : Nat) : Option Word :=
  match n with
  | 0x000 => some (0x24100001 ||| place 32 s.fuses.stepping.toNat)
  | 0x008 => some (place 0 (s.forme f).geoGen.toNat)
  | 0x010 => some (geoArray s)
  | 0x018 => some (place 0 800 ||| place 16 Config.cyclesPerStroke ||| place 32 256)
  | 0x020 => some (geoMem s.mappedOut)
  | 0x028 => some (geoLinks s)
  | 0x030 => some (place 0 Config.maxPositions ||| place 32 Config.launchesPerForme ||| place 48 Config.launchesPerModule)
  | 0x038 => some (place 0 f.val ||| place 4 (formeCount' s) ||| place 12 c.compositor.val ||| place 16 c.port.val ||| place 32 c.stackGib ||| place 48 (capW s))
  | 0x040 => some (place 0 c.galleyMib ||| place 16 c.proofMib ||| place 32 c.swapMib ||| place 48 c.capShare)
  | 0x048 => some (coreMask c.cores false)
  | 0x050 => some (coreMask c.cores true)
  | _ => none

/-- FEED_RING_CFG as it reads (R243). -/
def ringCfgWord (g : Ring) : Word := place 0 g.depth.toNat ||| placeBit 8 g.enable ||| placeBit 9 g.intrEn

/-- A ring's registers (R243). -/
def ringReg (x : Forme) (r : RingId) (n : Nat) : Option Word :=
  let g := x.ring r
  match n with
  | 0x00 => some g.base
  | 0x08 => some g.cpl
  | 0x10 => some (ringCfgWord g)
  | 0x18 => some (g.tail.zeroExtend 64)
  | 0x20 => some (g.head.zeroExtend 64)
  | 0x28 => some (g.done.zeroExtend 64 ||| place 48 g.fault.toNat)
  | 0x30 => some (place 0 g.state.toNat ||| placeBit 8 g.bellErr ||| place 24 (ringInflight x r) ||| place 32 (g.held.length + g.heldResults.length))
  | 0x38 => some 0
  | _ => none

/-- The feeder block (R243, R245). -/
def feederReg (s : State) (f : FormeId) (c : FormeCfg) (n : Nat) : Option Word :=
  let x := s.forme f
  if 0x1000 ≤ n then
    let i := (n - 0x1000) / 0x40
    if h : i < 64 then (if i < c.rings then ringReg x ⟨i, h⟩ (n % 0x40) else none) else none
  else match n with
    | 0x080 => some (place 0 c.rings ||| place 16 (formeInflight x) ||| place 32 (guarantee c))
    | 0x088 => some (place 0 (launchTimeout s))
    | 0x090 => some (place 0 (48 * c.cores.length) ||| place 16 (ceilDiv (matterUsed x) (2 ^ 20)) ||| place 32 x.matters.length)
    | _ => geoReg s f c n

/-- The run scheduler's block, with the make-ready registers at 0x200 (R55, R283). -/
def schedReg (x : Forme) (n : Nat) : Option Word :=
  let d := x.sched
  match n with
  | 0x000 => some (d.ctxTable.zeroExtend 64 <<< 3)
  | 0x008 => some d.tuneReg
  | 0x010 => some d.mixReg
  | 0x018 => some (place 0 (residentCount x) ||| place 16 x.ctxs.length ||| place 32 d.swap.state.toNat ||| place 48 d.code.toNat)
  | 0x020 => some d.coreTicks
  | 0x028 => some (place 0 d.steps.toNat ||| place 32 d.missed.toNat)
  | 0x200 => some (x.mrt.addr.zeroExtend 64 <<< 5)
  | 0x208 => some x.mrt.activate
  | 0x210 => some (x.mrt.count.zeroExtend 64)
  | 0x218 => some (place 0 x.mrt.code.toNat ||| place 16 x.mrt.entry.toNat ||| place 24 x.mrt.state.toNat)
  | _ => none

/-- The make-up block (R134). -/
def makeupReg (m : Makeup) (n : Nat) : Option Word :=
  match n with
  | 0x000 => some (place 0 m.reserve ||| place 16 m.runahead ||| place 24 m.shapeLog ||| place 32 m.explicitMib)
  | 0x008 => some (place 0 m.code.toNat ||| place 16 m.explicitActive ||| place 32 m.plans.toNat)
  | 0x010 => some m.digest
  | _ => none

/-- The press block (R68). -/
def pressReg (s : State) (x : Forme) (n : Nat) : Option Word :=
  match n with
  | 0x000 => some (place 0 x.checkCount.toNat)
  | 0x008 => some (coreMask (x.cores.filter (fun c => (s.core c).fenced)) false)
  | 0x010 => some (coreMask (x.cores.filter (fun c => (s.core c).fenced)) true)
  | _ => none

/-- STACK_MAPOUT_STATE (R154). -/
def mapoutState (s : State) : Word :=
  let m := match s.stack.migrating with | some (c, failed) => place 16 c.val ||| placeBit 24 true ||| placeBit 25 failed | none => 0
  place 0 s.mappedOut ||| m ||| placeBit 26 s.stack.retired

/-- The stack block of a function window (R154). -/
def stackReg (s : State) (x : Forme) (n : Nat) : Option Word :=
  match n with
  | 0x000 => some (place 0 x.detects.toNat)
  | 0x008 => some (mapoutState s)
  | _ => none

/-- The leaf block (R177). -/
def leafReg (x : Forme) (c : FormeCfg) (n : Nat) : Option Word :=
  match n with
  | 0x000 => some (place 0 x.leafCode.toNat ||| place 16 c.domain.val)
  | 0x008 => some (place 0 (c.allot / 1024) ||| place 32 (ceilDiv (allotUsed x) 1024))
  | _ => none

/-- The slug block (R198). -/
def slugReg (x : Forme) (n : Nat) : Option Word :=
  match n with
  | 0x000 => some (place 0 x.replays.toNat ||| place 32 x.slugCode.toNat)
  | 0x008 => some (place 0 (heldKib x) ||| place 24 (specKib x))
  | _ => none

/-- A mask of the bindings that pass a test. -/
def bindingMask (p : BindingId → Bool) : Nat := sumNat ((List.finRange 8).map (fun b => if p b then 2 ^ b.val else 0))

/-- STATE of INK_STATUS: 4 while a bad chunk of the forme's own copies is refetched and no request is in progress (R239). -/
def inkState (x : Forme) : Nat :=
  if x.inker.state = 0 && x.inker.bindings.toList.any (fun b => (b.image.toList ++ b.old).any (fun i => i.bad.any (fun c => !i.dead.contains c)))
  then 4 else x.inker.state.toNat

/-- INKED, ATTACHED and BAD of INK_BINDINGS (R236, R238, R239). -/
def inkedMask (x : Forme) : Nat := bindingMask (fun b => (x.inker.bindings[b.val]).image.isSome || (x.inker.bindings[b.val]).attached.isSome)
/-- As `inkedMask`. -/
def attachedMask (x : Forme) : Nat := bindingMask (fun b => (x.inker.bindings[b.val]).attached.isSome)
/-- As `inkedMask`. -/
def badMask (s : State) (f : FormeId) : Nat := bindingMask (fun b => (bindingImage s f b).any (fun i => !i.dead.isEmpty))

/-- The ink block (R239). -/
def inkReg (s : State) (f : FormeId) (n : Nat) : Option Word :=
  let x := s.forme f
  match n with
  | 0x000 => some (place 0 x.inker.code.toNat ||| place 16 (inkState x) ||| place 19 x.inker.binding.toNat)
  | 0x008 => some (place 0 x.inker.done.toNat ||| place 32 x.inker.total.toNat)
  | 0x010 => some (place 0 (inkedMask x) ||| place 8 (attachedMask x) ||| place 16 (badMask s f))
  | _ => none

/-- The job block (R329). -/
def jobReg (x : Forme) (n : Nat) : Option Word :=
  match n with
  | 0x000 => some (jobSlots.foldl (fun w k => if (x.job k).any (·.isOpen) then w ||| oneBit 64 k.val else w) 0)
  | 0x008 => some (place 0 x.collCode.toNat ||| place 16 x.collCause.toNat ||| place 24 x.collSlot.toNat)
  | 0x010 => some (place 0 x.authFail.toNat)
  | _ => none

/-- STATE of PLATEN_STROKE_STATUS (R57). -/
def strokeStateNo : StrokeState → Nat
  | .unlocked => 0
  | .locked => 1
  | .holdover => 2
  | .lost => 3
  | .rejoining => 4

/-- The stroke registers (R57). -/
def strokeReg (t : TimeBase) (n : Nat) : Option Word :=
  match n with
  | 0x000 => some t.stroke
  | 0x008 => some t.ticks
  | 0x010 => some t.localCount
  | 0x018 => some (place 0 (strokeStateNo t.state) ||| place 8 t.active.toNat ||| place 12 t.hops.toNat ||| place 16 t.holdover.toNat ||| place 36 t.losses.toNat)
  | _ => none

/-- ECP_EVT_ADDR as it reads (R349). -/
def evtAddrWord (en : Bool) (a : BitVec 50) : Word := placeBit 0 en ||| (a.zeroExtend 64 <<< 2)

/-- ECP_FUNC_RESET (R408). How much of a running scrub is done is a free value within what it scrubs. -/
def funcReset (s : State) (e : EcpFn) : Word :=
  place 0 e.phase.toNat ||| place 8 (if e.phase.toNat < 3 then 0 else (Config.freeValue s.free).toNat % (e.totalMib.toNat + 1) % 2 ^ 24) ||| place 32 e.totalMib.toNat

/-- The ECP function block (R349, R408). -/
def ecpReg (s : State) (e : EcpFn) (c : FormeCfg) (n : Nat) : Option Word :=
  match n with
  | 0x000 => some (place 0 c.port.val ||| place 2 c.fn.val ||| place 8 (s.port c.port).link.toNat ||| place 16 e.code.toNat)
  | 0x008 => some 0
  | 0x010 => some (place 0 e.aperture.toNat)
  | 0x018 => some (placeBit 0 e.spillEn ||| (e.spillAddr.zeroExtend 64 <<< 12))
  | 0x020 => some 0
  | 0x028 => some (evtAddrWord e.evtEnable e.evtAddr)
  | 0x030 => some (place 0 e.evtData.toNat)
  | 0x038 => some (e.faultAddr.zeroExtend 64 ||| place 52 e.faultStat.toNat)
  | 0x040 => some (funcReset s e)
  | _ => none

/-- A mailbox channel's registers; `n` counts the data registers of each direction, and those above read zero (R352). -/
def mboxReg (m : Mbox) (regs n : Nat) : Option Word :=
  if n < 0x80 then some (if n / 8 < regs then m.inData.toList.getD (n / 8) 0 else 0)
  else if n = 0x80 then some (placeBit 1 m.full)
  else if 0x100 ≤ n && n < 0x180 then some (if (n - 0x100) / 8 < regs then m.outData.toList.getD ((n - 0x100) / 8) 0 else 0)
  else if n = 0x180 then some (placeBit 0 m.valid ||| placeBit 2 m.evtEn)
  else none

/-- Data registers of a direction of a forme's channel, and of a secure one (R352). -/
def plainRegs : Nat := 8
/-- As `plainRegs`. -/
def secureRegs : Nat := 16

/-- The register at an aligned offset of a forme's BAR0, none for an uncovered offset (R9, R334). -/
def formeReg (s : State) (f : FormeId) (off : Nat) : Option Word :=
  let x := s.forme f
  match x.cfg with
  | none => none
  | some c =>
    let n := off % 0x1000
    match off / 0x1000 with
    | 0 | 1 => feederReg s f c off
    | 2 => schedReg x n
    | 3 => makeupReg x.makeup n
    | 4 => pressReg s x n
    | 5 => if n = 0x080 then some x.seed else none
    | 6 => stackReg s x n
    | 7 => leafReg x c n
    | 8 => slugReg x n
    | 9 => inkReg s f n
    | 0xA => jobReg x n
    | 0xB => strokeReg s.time n
    | 0xC => ecpReg s x.ecp c n
    | 0xD => mboxReg x.mbox plainRegs n
    | _ => none

/-- The state in which a forme's registers read their reset values; its records, ECP_FUNC_RESET and the fences stay (R10, R407). -/
def resetView (s : State) (f : FormeId) : State :=
  let x := s.forme f
  let e := { EcpFn.reset with phase := x.ecp.phase, totalMib := x.ecp.totalMib }
  { s.setForme f { Forme.reset with cfg := x.cfg, ecp := e } with
    time := TimeBase.reset
    links := Vector.replicate 6 Link.reset
    ports := s.ports.map (fun p => { p with link := 0 })
    flash := { s.flash with mapOut := s.flash.mapOut.take s.stack.bootOut }
    stack := { s.stack with migrating := none, retired := false } }

/-! ### Access (R9, R11) -/

/-- An access of a size at an offset finds a register, an uncovered offset, or the bus error of R11. -/
inductive Access where
  | reg (w : Word)
  | uncovered
  | error
  deriving DecidableEq, Repr

/-- R9, R11: registers are 64 bits wide, and an uncovered offset takes natural 4-byte and 8-byte accesses. -/
def accessOf (reg : Nat → Option Word) (off size : Nat) : Access :=
  if !(size == 4 || size == 8) || off % size != 0 then .error
  else match reg (off / 8 * 8) with
    | some w => if size = 8 then .reg w else .error
    | none => .uncovered

/-- The answer to a register read: its data, or BUS_ERROR (R8, R9, R11). -/
def answerRead (s : State) (h : HostReq) (a : Access) (size : Nat) : State :=
  match a with
  | .reg w => s.ecpOut h.port 2 2 (.hcpl h.port h.fn h.tag .ok (leBytes 8 w.toNat))
  | .uncovered => s.ecpOut h.port 2 2 (.hcpl h.port h.fn h.tag .ok (leBytes size 0))
  | .error => s.busError h

/-- A register read by a forme's function, answered now (R332, R407). -/
def formeRead (s : State) (h : HostReq) (off size : Nat) : State :=
  match hostTarget s h with
  | .forme f => answerRead { s with free := s.free + 1 } h (accessOf (formeReg s f) off size) size
  | .resetting f => answerRead { s with free := s.free + 1 } h (accessOf (formeReg (resetView s f) f) off size) size
  | .denied | .management => s.busError h
  | .absent => s

/-- Requests to withdrawn pages of a forme are outstanding (R340). -/
def invalOut (k : Port) (f : FormeId) : Bool := k.reqs.any (fun r => r.withdrawn && r.page.any (·.1 == f))

/-- Answer the held register reads of a port whose wait is over (R340). -/
def releaseHeld (s : State) (p : PortId) : State :=
  let k := s.port p
  let due := k.heldReads.filter (fun r => !invalOut k r.1)
  if due.isEmpty then s
  else due.foldl (fun t r => formeRead t r.2.1 r.2.2.1.toNat r.2.2.2)
    (s.modPort p (fun k => { k with heldReads := k.heldReads.filter (fun r => invalOut k r.1) }))

/-- As `releaseHeld`, for every port. -/
def releaseAll (s : State) : State := (List.finRange 4).foldl releaseHeld s

end Sys2Proof.Machine
end

