-- ==== Sys2Proof/Machine/Strokes.lean ====
section
/-! DEFINITION. The stroke time base (R40 to R50, R433), the make-ready table (R51 to R56), and what a stroke edge charges
(R274, R276, R387). -/
namespace Sys2Proof.Machine

/-! ### Counts and occurrences (R41, R53, R433) -/

/-- The forme's table runs on the local count (R30, R41). -/
def localTime (s : State) (f : FormeId) : Bool := match (s.forme f).cfg with | some c => c.localTime | none => false

/-- The count a forme's table runs on (R41). -/
def formeCount (s : State) (f : FormeId) : Word := if localTime s f then s.time.localCount else s.time.stroke

/-- Fields of a make-ready entry (R52). -/
def mrtPeriod (e : MrtEntry) : Nat := fld e.w1 31 0
/-- As `mrtPeriod`. -/
def mrtOffset (e : MrtEntry) : Nat := fld e.w1 41 32
/-- As `mrtPeriod`. -/
def mrtKind (e : MrtEntry) : Nat := fld e.w1 55 48
/-- As `mrtPeriod`. -/
def mrtLength (e : MrtEntry) : Nat := fld e.w2 31 0

/-- The entry occurs at a count (R53). -/
def occursAt (e : MrtEntry) (c : Word) : Bool :=
  e.w0.toNat ≤ c.toNat && (if mrtPeriod e = 0 then e.w0 == c else (c.toNat - e.w0.toNat) % mrtPeriod e == 0)

/-- The entry takes effect at the forme's present count: it occurs there, or is a one-shot whose stroke the count has just skipped
(R53, R433). -/
def fires (s : State) (f : FormeId) (e : MrtEntry) : Bool :=
  occursAt e (formeCount s f) ||
  (!localTime s f && mrtPeriod e == 0 && (match s.time.jumpFrom with
    | some c => c.toNat < e.w0.toNat && e.w0.toNat < s.time.stroke.toNat
    | none => false))

/-- The table whose entries take effect now: the armed one from its activation stroke on, else the forme's own (R51). -/
def tableNow (s : State) (f : FormeId) : List MrtEntry :=
  match (s.forme f).mrt.armed with
  | some (es, st) => if st.toNat ≤ (formeCount s f).toNat then es else (s.forme f).mrt.table
  | none => (s.forme f).mrt.table

/-! ### The time base (R44 to R50, R433) -/

/-- SOURCE or FALLBACK of the committed imposition names the source (R30, R42). -/
def sourceNamed (s : State) (src : Fin 7) : Bool :=
  match s.colo.committed with
  | some i => fld i.strokeHead.1 2 0 == src.val || fld i.strokeHead.1 6 4 == src.val
  | none => false

/-- A source's monitor. -/
def State.source (s : State) (i : Fin 7) : SourceMon := s.time.mon[i.val]
/-- Change a source's monitor. -/
def State.modSource (s : State) (i : Fin 7) (g : SourceMon → SourceMon) : State :=
  { s with time := { s.time with mon := s.time.mon.set i.val (g (s.source i)) i.isLt } }

/-- End every open window of a forme, and let its table be evaluated afresh: the cores leave filler work, no job has a window, and a
step boundary may fall again at a count where one fell before (R433). -/
def endWindows (s : State) (f : FormeId) : State :=
  let s1 := s.modForme f (fun x => { x with
    mrt := { x.mrt with windows := [] }, sched := { x.sched with lastBoundary := none }, jobs := x.jobs.map (fun j => j.map (fun j => { j with window := none })) })
  (s.forme f).cores.foldl (fun t c => t.modCore c (fun k => { k with filler := false, holdGalley := false })) s1

/-- The stroke number is set other than by an increment (R433). -/
def setNumber (s : State) (n : Word) : State :=
  let c := s.time.stroke
  let s1 := { s with time := { s.time with stroke := n, jumpFrom := some c } }
  if n.toNat < c.toNat then allFormes.foldl (fun t f => if localTime t f then t else endWindows t f) { s1 with time := { s1.time with jumpFrom := none } }
  else s1

/-- A collective op that waits for its window is refused with 0x0310 when the stroke stops allowing collectives (R50, R322). -/
def refuseWaiting (s : State) : State :=
  allFormes.foldl (fun t f => ((t.forme f).slugs.filter (fun sl => sl.state == .running && sl.wait == .window)).foldl
    (fun u sl => u.faultSlug f sl.tag .discarded 0x0310) t) s

/-- The module follows a source (R44, R47, R50). -/
def followSource (s : State) (i : Fin 7) : State :=
  { s with time := { s.time with
      state := .locked, active := BitVec.ofNat 3 i.val, hops := if i.val = 0 then 0 else (s.source i).hops, holdover := 0,
      lastLocked := s.time.stroke } }

/-- The edge offset a source's return or a switch may have (R50). -/
def phaseOk (p : Int) : Bool := decide (p.natAbs ≤ 505)

/-- A named source is locked: what each state does with it (R50). -/
def sourceLocks (s : State) (i : Fin 7) : State :=
  if !sourceNamed s i then s
  else
    let n := (s.source i).number
    match s.time.state with
    | .unlocked => followSource (setNumber s n) i
    | .holdover =>
      if n == s.time.stroke && phaseOk (s.source i).phaseNs then
        followSource { s with time := { s.time with slewNs := (s.source i).phaseNs } } i
      else s
    | .lost =>
      if s.time.stroke.toNat ≤ n.toNat then followSource (if n == s.time.stroke then s else setNumber s n) i
      else refuseWaiting { s with time := { s.time with
              state := .rejoining, active := BitVec.ofNat 3 i.val, hops := if i.val = 0 then 0 else (s.source i).hops, holdover := 0,
              rejoin := n } }
    | .locked | .rejoining => s

/-- The source that can take over: another named one, ready, on the count, within ±505 ns (R48, R50). -/
def takeover (s : State) : Option (Fin 7) :=
  (List.finRange 7).find? (fun i => sourceNamed s i && i.val != s.time.active.toNat && (s.source i).locked &&
    (s.source i).number == s.time.stroke && phaseOk (s.source i).phaseNs)

/-- What the module does when its active source is lost (R49, R50). While REJOINING it is LOST again (log 46). -/
def sourceLost (s : State) : State :=
  match s.time.state with
  | .locked =>
    let s1 := { s with time := { s.time with losses := satInc s.time.losses } }
    match takeover s1 with
    | some i => followSource { s1 with time := { s1.time with slewNs := (s1.source i).phaseNs } } i
    | none => { s1 with time := { s1.time with state := .holdover, active := 7, holdover := 0 } }
  | .rejoining => refuseWaiting { s with time := { s.time with state := .lost, active := 7 } }
  | _ => s

/-- A source is lost, the active one or the fallback that the module monitors: it has to lock anew, and the module leaves it
(R48 to R50). -/
def sourceGone (s : State) (i : Fin 7) : State :=
  let s1 := s.modSource i (fun m => { m with run := 0, locked := false, bad := 0 })
  if s.time.active.toNat = i.val then sourceLost s1 else s1

/-- R49: the active source is lost: no edge of the pair within 1,010 ns, or a mark of the link that does not come. -/
def execStrokeSourceLost (s : State) : Res :=
  .next (match (List.finRange 7).find? (fun i => i.val == s.time.active.toNat) with
    | some i => sourceGone s i
    | none => s)

/-- R50: a million strokes after the last locked one. -/
def execHoldoverExpiry (s : State) : Res :=
  .next (if s.time.state == .holdover && s.time.lastLocked.toNat + 1000000 ≤ s.time.stroke.toNat then
      refuseWaiting { s with time := { s.time with state := .lost, active := 7 } }
    else s)

/-! ### The stroke input pair (R42 to R44) -/

/-- What a high time spells (R42). -/
inductive Symbol where
  | bit (b : Bool)
  | marker
  | invalid
  deriving DecidableEq, Repr

/-- R42. -/
def symbolOf (highNs : Nat) : Symbol :=
  if 150 ≤ highNs && highNs ≤ 250 then .bit false
  else if 450 ≤ highNs && highNs ≤ 550 then .bit true
  else if 750 ≤ highNs && highNs ≤ 850 then .marker
  else .invalid

/-- An edge period within 1,000 ns ± 100 ppm. -/
def periodOk (ps : Nat) : Bool := 999900 ≤ ps && ps ≤ 1000100

/-- The bit a symbol carries. -/
def symbolBit (y : Symbol) : Bool := match y with | .bit b => b | _ => false

/-- The number a valid frame announces (R43, R44). -/
def frameNumber (edges : List PairEdge) : Option Word :=
  let ys := edges.map (fun e => symbolOf e.highNs)
  let bits := ys.map symbolBit
  let body := (bits.drop 1).take 64
  let check := (bits.drop 65).take 16
  let number (bs : List Bool) : Nat := bs.foldl (fun n b => 2 * n + b.toNat) 0
  if edges.all (fun e => periodOk e.periodPs) && ys.head? == some .marker && (ys.drop 1).all (fun y => y != .marker && y != .invalid) &&
      number check == (crc16 body).toNat then some (BitVec.ofNat 64 (number body))
  else none

/-- A frame of the pair has ended at the marker edge of the next (R44, R49). -/
def frameSeen (s : State) (n : Option Word) (phaseNs : Int) : State :=
  let m := s.source 0
  let run := match n with | some a => if a == m.last + 128 && 1 ≤ m.run then m.run + 1 else 1 | none => 0
  let active := s.time.active.toNat == 0
  let due := if s.time.state == .rejoining then s.time.rejoin else s.time.stroke
  let bad := if active && n != some due then m.bad + 1 else 0
  let s1 := s.modSource 0 (fun m => { m with
    run := run, last := n.getD m.last, bad := bad, quiet := 0, phaseNs := phaseNs,
    locked := if active then m.locked else decide (2 ≤ run),
    number := if active then due else n.getD m.number })
  if active then (if 2 ≤ bad then sourceGone s1 0 else s1)
  else if 2 ≤ run then sourceLocks s1 0 else s1

/-- R44: a 128-stroke frame of the stroke input pair. -/
def execStrokeFrame (edges : Vector PairEdge 128) (phaseNs : Int) (s : State) : Res :=
  .next (frameSeen s (frameNumber edges.toList) phaseNs)

/-! ### Stroke marks (R46 to R49, R310) -/

/-- The source number of a link's marks. -/
def markSource (l : LinkId) : Fin 7 := ⟨l.val + 1, by omega⟩

/-- A mark R47 accepts. -/
def markOk (s : State) (l : LinkId) (m : MarkFlit) : Bool := m.crcOk && m.locked && m.hops.toNat ≤ 14 && (s.link l).state == .up && !(s.link l).disable

/-- A mark arrives on a link (R47, R49). A mark of the active link that R47 would not accept ends the lock; so does one with hop count 15,
which R49's list leaves out (log 85). -/
def markSeen (s : State) (l : LinkId) (m : MarkFlit) (phaseNs : Int) : State :=
  let i := markSource l
  let old := s.source i
  let ok := markOk s l m
  let run := if ok then (if m.stroke == old.last + 1 && 1 ≤ old.run then old.run + 1 else 1) else 0
  let active := s.time.active.toNat == i.val
  let due := if s.time.state == .rejoining then s.time.rejoin else s.time.stroke
  let s1 := s.modSource i (fun k => { k with
    run := run, quiet := 0, last := if ok then m.stroke else k.last, hops := if ok then m.hops else k.hops, phaseNs := phaseNs,
    locked := if active then k.locked else decide (16 ≤ run), number := if ok then m.stroke else k.number })
  if active then (if ok && m.stroke == due then { s1 with time := { s1.time with hops := m.hops } } else sourceGone s1 i)
  else if 16 ≤ run then sourceLocks s1 i else s1

/-- R47: a stroke mark flit. -/
def execStrokeMark (l : LinkId) (m : MarkFlit) (phaseNs : Int) (s : State) : Res := .next (markSeen s l m phaseNs)

/-! ### Charges of a tick (R75 to R77, R274, R387, R390, R392) -/

/-- The die of a press core is in thermal HOLD (R393). -/
def dieHot (s : State) (c : CoreId) : Bool := s.platen.hot.getLsbD (c.val / 16)

/-- The runs that hold a core, and whether one does real work. -/
def coreHeld (x : Forme) (c : CoreId) : Bool := x.slugs.any (fun sl => sl.state == .running && sl.cores.contains c)
/-- As `coreHeld`. -/
def coreWorks (x : Forme) (c : CoreId) : Bool := x.slugs.any (fun sl => sl.state == .running && sl.wait == .none && sl.cores.contains c)

/-- Filler work keeps the core at level 8 (R77, R390, R392). -/
def fillerRuns (s : State) (c : CoreId) : Bool := (s.core c).filler && !s.platen.limit && !dieHot s c

/-- A press cycle of the part at which a core may work: under LIMIT the first 192 of each frame of 384 and the 48 of the start ramp that ends
it; frames are counted from tick 0 (R390; log 95). -/
def frameWants (limit : Bool) (cycle : Nat) : Bool := !limit || cycle % 384 < 192 || 336 ≤ cycle % 384

/-- What a core does in the press cycles of a tick that no ramp has counted: it is wanted at level 8 where real work ran in the tick, or is under
way, or filler runs; gaps within that work are filled (R75 to R77). -/
def tickWants (s : State) (x : Forme) (c : CoreId) : List Bool :=
  let k := s.core c
  let busy := k.ran || coreWorks x c || fillerRuns s c
  (List.range (Config.cyclesPerStroke - k.used)).map (fun i => busy && frameWants s.platen.limit (s.time.ticks.toNat * Config.cyclesPerStroke + k.used + i))

/-- What a core is charged for one tick, femtojoules, and the core after it (R75, R387). -/
def coreTick (s : State) (x : Forme) (c : CoreId) : Nat × Core :=
  let k := s.core c
  let floor := 3000000000
  if k.fenced then (floor, { k with level := 0, age := 6, used := 0, ran := false })
  else
    let ws := tickWants s x c
    let r := k.cycles ws
    let filled := if fillerRuns s c && k.holdGalley && !k.ran && !coreWorks x c then ws.length else 0
    (floor + r.2 * levelFj + (if coreHeld x c || k.ran then 2030000000 else 0) + 20000 * filled * galleyByteFj, { r.1 with used := 0, ran := false })

/-- Charge one forme's cores for a tick, and set their levels. -/
def chargeForme (s : State) (f : FormeId) : State :=
  (s.forme f).cores.foldl (fun t c =>
    let r := coreTick s (s.forme f) c
    (t.charge f r.1).modCore c (fun _ => r.2)) s

/-- Rows of a slug's step (R271). -/
def slugRows (x : Forme) (sl : Slug) : Nat :=
  match findLaunch x sl.ring sl.seq with
  | some l => entrySequences l.entry * launchPositions l
  | none => 0

/-- Core-ticks of one tick split among the contexts that run, in proportion to their rows, rounded down, the remainder to the lowest
context number (R274). -/
def splitTicks (x : Forme) : List (BitVec 16 × Nat) :=
  let runs := x.slugs.filter (fun sl => sl.state == .running)
  let held := (x.cores.filter (coreHeld x)).length
  let ctxs := (runs.map (·.ctx)).eraseDups
  let rowsOf (c : BitVec 16) : Nat := max 1 (sumNat ((runs.filter (·.ctx == c)).map (slugRows x)))
  let total := sumNat (ctxs.map rowsOf)
  let part (c : BitVec 16) : Nat := held * rowsOf c / max 1 total
  let rest := held - sumNat (ctxs.map part)
  let low := (ctxs.map (·.toNat)).min?
  ctxs.map (fun c => (c, part c + (if low == some c.toNat then rest else 0)))

/-- Charge a tick to the contexts that run (R274). -/
def chargeContexts (x : Forme) : Forme :=
  let ps := splitTicks x
  let of (c : BitVec 16) : Nat := match ps.find? (·.1 == c) with | some p => p.2 | none => 0
  let n (c : BitVec 16) : Nat := max 1 (x.slugs.filter (fun sl => sl.state == .running && sl.ctx == c)).length
  { x with
    ctxs := x.ctxs.map (fun (c : Context) => { c with charges := c.charges + of c.num }),
    slugs := x.slugs.map (fun (sl : Slug) => if sl.state == .running then { sl with charge := sl.charge + of sl.ctx / n sl.ctx } else sl),
    sched := { x.sched with coreTicks := x.sched.coreTicks + BitVec.ofNat 64 (x.cores.filter (coreHeld x)).length } }

/-- WEIGHT of a forme's SHARE record. -/
def shareWeight (x : Forme) : Nat := match x.cfg with | some c => c.weight | none => 0

/-- Work pending on the engine: 0 planning, 1 matching, 2 inking (R276). -/
def enginePending (s : State) (e : Nat) (f : FormeId) : Bool :=
  let x := s.forme f
  match e with
  | 0 => planDue s f
  | 1 => x.slugs.any (fun sl => (sl.state == .passing && sl.wait == .matchCopy) ||
      (sl.state == .running && sl.wait == .none && ((opsOf x sl)[sl.op]?).any (fun o => opKind o == 8)))
  | _ => x.inker.req.isSome

/-- One stroke of one engine's deficits: every pending forme gains its share of 2^16, and the forme served is charged one stroke
(R276). -/
def engineStroke (s : State) (e : Nat) (ds : Vector Int 16) : Vector Int 16 :=
  let pend := allFormes.filter (enginePending s e)
  let total := sumNat (pend.map (fun f => shareWeight (s.forme f)))
  let gained := ds.mapFinIdx (fun i d h => if pend.contains ⟨i, h⟩ then d + (65536 * shareWeight (s.forme ⟨i, h⟩) / max 1 total : Nat) else d)
  let best := pend.foldl (fun (b : Option FormeId) f => match b with
    | some g => if gained[g.val] < gained[f.val] then some f else some g
    | none => some f) none
  match best with
  | some f => gained.set f.val (gained[f.val] - 65536) f.isLt
  | none => gained

/-! ### A stroke edge (R40, R46, R254, R310) -/

/-- A monitored source at an edge: its number counts on while it is locked, and a fallback from which no frame (the pair) or mark
came in time is ready no longer (R48, log 85). -/
def SourceMon.edge (m : SourceMon) (active pair : Bool) : SourceMon :=
  if !m.locked then m
  else if !active && (if pair then 129 else 2) < m.quiet + 1 then { m with run := 0, locked := false, bad := 0, quiet := 0 }
  else { m with number := m.number + 1, quiet := m.quiet + 1 }

/-- The time base at an edge (R40, R50). -/
def TimeBase.edge (t : TimeBase) : TimeBase :=
  let mon := t.mon.mapFinIdx (fun i m _ => m.edge (t.active.toNat == i) (i == 0))
  let slew := if t.slewNs = 0 then 0 else if 0 < t.slewNs then t.slewNs - 1 else t.slewNs + 1
  let u := { t with ticks := t.ticks + 1, mon := mon, slewNs := slew, jumpFrom := none }
  match t.state with
  | .unlocked => { u with stroke := t.stroke + 1 }
  | .locked => { u with stroke := t.stroke + 1, lastLocked := t.stroke + 1 }
  | .holdover | .lost => { u with stroke := t.stroke + 1, holdover := satInc t.holdover }
  | .rejoining =>
    if t.rejoin + 1 = t.stroke then { u with rejoin := t.stroke, state := .locked, lastLocked := t.stroke }
    else { u with rejoin := t.rejoin + 1 }

/-- The hop count the module's own marks carry (R46). Without an active source it is one more than HOPS last was, so 1 after the pair
(log 85). -/
def markHops (t : TimeBase) : BitVec 4 := if t.active = 0 then 0 else satInc t.hops

/-- Send a mark on every trained link; DELAY is the part's own (R46, R310). -/
def sendMarks (s : State) : State :=
  (List.finRange 6).foldl (fun t l =>
    if (s.link l).state == .up then
      let d := t.freshValue
      d.2.emit (.mark l { stroke := s.time.stroke, hops := markHops s.time, locked := s.time.state == .locked, delayPs := d.1.truncate 16, crcOk := true })
    else t) s

/-- The completion events of the stroke that ends (R254). -/
def ringEvents (s : State) : State :=
  allFormes.foldl (fun t f => (List.finRange 64).foldl (fun u (r : RingId) =>
    let g := (u.forme f).ring r
    if g.evtDue then
      let u1 := u.modRing f r (fun g => { g with evtDue := false })
      if g.intrEn then u1.formeEvent f (BitVec.ofNat 8 r.val) else u1
    else u) t) s

/-- A compositor core with no launch in flight and no message pending grows idle (R354). -/
def idleCompositors (s : State) : State :=
  { s with comps := s.comps.mapFinIdx (fun i k _ =>
      let busy := allFormes.any (fun f => match (s.forme f).cfg with
        | some c => c.compositor.val == i && (0 < formeInflight (s.forme f) || (s.forme f).mbox.full)
        | none => false)
      if k.powered && !busy then { k with idle := k.idle + 1 } else { k with idle := 0 }) }

/-- R40: a stroke edge. The stroke that ends sends its ring events and is charged; then the counters advance, and the marks leave. -/
def strokeEdge (s : State) : State :=
  let s1 := ringEvents s
  let s2 := allFormes.foldl chargeForme s1
  let s3 := { s2.mapFormes (fun _ x => chargeContexts x) with
    engines := s2.engines.mapFinIdx (fun e ds _ => engineStroke s2 e ds) }
  let s4 := idleCompositors s3
  releaseAll (sendMarks { s4 with time := s4.time.edge })

/-- R40. -/
def execStrokeEdge (s : State) : Res := .next (if s.boot.platenUp then strokeEdge s else s)

/-- R40: the local count. -/
def execLocalCountIncrement (s : State) : Res :=
  .next (if s.boot.platenUp then { s with time := { s.time with localCount := s.time.localCount + 1 } } else s)

/-! ### The make-ready table (R51 to R56) -/

/-- A write of SCHED_MRT_CTRL: COUNT, and GO where it is 1 (R55, R56). -/
def writeMrtCtrl (x : Forme) (v : Word) : Forme :=
  let m := { x.mrt with count := v.truncate 9 }
  if !bitOf v 16 then { x with mrt := m }
  else if m.sampled.isSome then { x with mrt := { m with code := 0x0306, entry := 0 } }
  else { x with mrt := { m with state := 1, sampled := some (m.addr, m.count, m.activate) } }

/-- R56: GO. -/
def execMrtGo (h : HostReq) (value : Word) (s : State) : Res :=
  .next (formeWrite s h (fun f => s.modForme f (fun x => writeMrtCtrl x (value ||| placeBit 16 true))))

/-- Four words of the table as an entry. -/
def mrtEntry (ws : List Word) (i : Nat) : MrtEntry :=
  { w0 := ws.getD (4 * i) 0, w1 := ws.getD (4 * i + 1) 0, w2 := ws.getD (4 * i + 2) 0, w3 := ws.getD (4 * i + 3) 0 }

/-- LINK record MAX_JOBS (R30). -/
def maxJobs (x : Forme) : Nat := match x.cfg with | some c => c.maxJobs | none => 0

/-- ARG within the ranges of its kind (R269, R323, R391). -/
def mrtArgOk (x : Forme) (e : MrtEntry) : Bool :=
  match mrtKind e with
  | 1 => (fld e.w3 15 0 == 0 || (64 ≤ fld e.w3 15 0 && fld e.w3 15 0 ≤ 16384)) && fld e.w3 23 16 ≤ 64
  | 2 => fld e.w3 5 0 < maxJobs x && 1 ≤ fld e.w3 23 8 && fld e.w3 23 8 ≤ mrtLength e && 1 ≤ fld e.w3 31 24
  | 3 => match x.cfg with
    | some c => (e.w3.truncate 16 : BitVec 16) &&& ~~~ c.octets == 0
    | none => false
  | _ => false

/-- Checks 3 to 6 of R56 on one entry, by code. -/
def mrtCheck (x : Forme) (n : Nat) (e : MrtEntry) : Bool :=
  match n with
  | 3 => mrtArgOk x e
  | 4 => mrtOffset e ≤ 767
  | 5 => mrtKind e == 1 || (1 ≤ mrtLength e && (mrtPeriod e == 0 || mrtLength e ≤ mrtPeriod e))
  | _ => mrtKind e != 2 || (match x.cfg with | some c => c.collective && !c.localTime | none => false)

/-- The entries that a GO copies, where COUNT and the table's place pass check 2 of R56. -/
def mrtRead (s : State) (f : FormeId) (addr : BitVec 56) (count : Nat) : Option (List MrtEntry × State) :=
  if 1 ≤ count && count ≤ 256 && ownSpace s f addr (32 * count) then
    (engineRead s f addr (32 * count)).map (fun r => ((List.range count).map (mrtEntry ((List.range (4 * count)).map (fun i => leWord ((r.1.drop (8 * i)).take 8)))), r.2))
  else none

/-- The checks of R56 from the second on: the first that fails, with its entry. -/
def mrtStatus (s : State) (f : FormeId) (read : Option (List MrtEntry)) (stroke : Word) : Except (Code × Nat) (List MrtEntry) :=
  let x := s.forme f
  match read with
  | none => .error (0x0307, 0)
  | some es =>
    match [(3, 0x0302), (4, 0x0303), (5, 0x0304), (6, 0x0305)].findSome? (fun (c : Nat × Code) =>
        (firstBad (mrtCheck x c.1) 0 es).map (fun b => (c.2, b.1))) with
    | some e => .error e
    | none => if (formeCount s f).toNat + 64 ≤ stroke.toNat then .ok es else .error (0x0301, 0)

/-- R56: the copy of the table is complete, and is checked. CODE is its result; it replaces the 0x0306 of a GO refused meanwhile, and
until it comes CODE keeps the result before (log 86). -/
def execMrtCopyDone (f : FormeId) (s : State) : Res :=
  match (s.forme f).mrt.sampled with
  | none => .next s
  | some (a, n, st) =>
    let read := mrtRead s f (a.zeroExtend 56 <<< 5) n.toNat
    let t := match read with | some r => r.2 | none => s
    .next (t.modForme f (fun x =>
      let m := { x.mrt with sampled := none }
      match mrtStatus s f (read.map (·.1)) st with
      | .ok es => { x with mrt := { m with code := 0, entry := 0, state := 2, armed := some (es, st) } }
      | .error e => { x with mrt := { m with code := e.1, entry := BitVec.ofNat 8 e.2, state := if m.armed.isSome then 2 else 0 } }))

/-- R51, R433: the armed table replaces the forme's table at its activation stroke, or after a jump over it. -/
def execMrtActivate (f : FormeId) (s : State) : Res :=
  match (s.forme f).mrt.armed with
  | some (es, st) =>
    if st.toNat ≤ (formeCount s f).toNat then
      .next (s.modForme f (fun x => { x with mrt := { x.mrt with
        table := es, armed := none, state := if x.mrt.sampled.isSome then 1 else 0 } }))
    else .next s
  | none => .next s

/-! ### Windows (R51, R53, R391, R433) -/

/-- The table's entry of an index, when it is of a kind, takes effect now, and is not open already. -/
def windowDue (s : State) (f : FormeId) (kind : Nat) (i : BitVec 8) : Option MrtEntry :=
  match (tableNow s f)[i.toNat]? with
  | some e =>
    if mrtKind e == kind && fires s f e &&
        !(s.forme f).mrt.windows.any (fun w => w.entry == i.toNat && w.words == e && w.opened == formeCount s f) then some e else none
  | none => none

/-- The last stroke of a window that opens now: LENGTH strokes from its occurrence; a skipped one-shot's ends no earlier than the
present stroke (R53, R433). -/
def windowLast (s : State) (f : FormeId) (e : MrtEntry) : Word :=
  let c := formeCount s f
  let start := if occursAt e c then c else e.w0
  let last := start + BitVec.ofNat 64 (mrtLength e) - 1
  if last.toNat < c.toNat then c else last

/-- Note a window as open. -/
def openWindow (s : State) (f : FormeId) (i : BitVec 8) (e : MrtEntry) : State :=
  s.modForme f (fun x => { x with mrt := { x.mrt with
    windows := x.mrt.windows ++ [{ entry := i.toNat, words := e, opened := formeCount s f, last := windowLast s f e }] } })

/-- A window of the kind and index whose last stroke has passed. -/
def windowOver (s : State) (f : FormeId) (kind : Nat) (i : BitVec 8) : Option OpenWindow :=
  (s.forme f).mrt.windows.find? (fun w => w.entry == i.toNat && mrtKind w.words == kind && w.last.toNat < (formeCount s f).toNat)

/-- Take a window off the list. -/
def dropWindow (s : State) (f : FormeId) (w : OpenWindow) : State :=
  s.modForme f (fun x => { x with mrt := { x.mrt with windows := x.mrt.windows.filter (· != w) } })

/-- The cores a filler window names: octets of the forme, or all of them (R391). -/
def fillerCores (x : Forme) (e : MrtEntry) : List CoreId :=
  if fld e.w3 15 0 = 0 then x.cores else x.cores.filter (fun c => bitOf e.w3 (c.val / 8))

/-- R391: a filler window opens. -/
def execFillerWindowOpen (f : FormeId) (entry : BitVec 8) (s : State) : Res :=
  match windowDue s f 3 entry with
  | some e =>
    .next ((fillerCores (s.forme f) e).foldl (fun t c => t.modCore c (fun k => { k with
      filler := true, holdGalley := k.holdGalley || bitOf e.w3 16 })) (openWindow s f entry e))
  | none => .next s

/-- R77, R391: a filler window ends; cores no other open window names leave filler work. -/
def execFillerWindowEnd (f : FormeId) (entry : BitVec 8) (s : State) : Res :=
  match windowOver s f 3 entry with
  | some w =>
    let s1 := dropWindow s f w
    let rest := (s1.forme f).mrt.windows.filter (fun v => mrtKind v.words == 3)
    let named (c : CoreId) : List OpenWindow := rest.filter (fun v => (fillerCores (s.forme f) v.words).contains c)
    .next ((fillerCores (s.forme f) w.words).foldl (fun t c => t.modCore c (fun k => { k with
      filler := !(named c).isEmpty, holdGalley := (named c).any (fun v => bitOf v.words.w3 16) })) s1)
  | none => .next s

/-- Collective windows open while the stroke is not LOST and not halted at a number already passed (R50). -/
def windowsAllowed (s : State) : Bool := s.time.state != .lost && s.time.state != .rejoining

/-- R51, R323: a collective window opens; its job, when open, has a window. -/
def execCollectiveWindowOpen (f : FormeId) (entry : BitVec 8) (s : State) : Res :=
  match windowDue s f 2 entry with
  | some e =>
    if windowsAllowed s then
      .next ((openWindow s f entry e).modJob f (Fin.ofNat 64 (fld e.w3 5 0)) (fun j =>
        if j.isOpen then { j with window := some (formeCount s f, windowLast s f e, fld e.w3 23 8, fld e.w3 31 24, 0) } else j))
    else .next s
  | none => .next s

end Sys2Proof.Machine
end

