-- ==== Sys2Proof/Machine/Bindings.lean ====
section
/-! DEFINITION. Image bindings at a step boundary: switches, emptied bindings, and the release of old copies (R231, R234 to R236). -/
namespace Sys2Proof.Machine

/-- A binding of a forme. -/
def Forme.binding (x : Forme) (b : BindingId) : Binding := x.inker.bindings[b.val]

/-- Change a binding of a forme. -/
def State.modBinding (s : State) (f : FormeId) (b : BindingId) (g : Binding → Binding) : State :=
  s.modForme f (fun x => { x with inker := { x.inker with bindings := x.inker.bindings.set b.val (g (x.binding b)) b.isLt } })

/-- Every binding number. -/
def allBindings : List BindingId := List.finRange 8

/-- A slug of the forme that has not ended captured a copy through a binding (R234, R236). -/
def copyRead (x : Forme) (b : BindingId) (gen : Nat) : Bool :=
  x.slugs.any (fun sl => !slugEnded sl && sl.images[b.val]? == some gen)

/-- Some forme is attached to a copy, or has an attachment to it that has not ended (R231, R236). -/
def copyAttached (s : State) (gen : Nat) : Bool :=
  s.formes.toList.any (fun x => x.inker.bindings.toList.any (fun b => b.attachedGen == gen || b.ending.contains gen))

/-- Service that a re-ink stopped goes on: the rings fetch again (R235). -/
def resumeService (x : Forme) : Forme :=
  if x.stopped then
    { x with stopped := false, rings := x.rings.map (fun r => if r.state == 4 && !x.drained then { r with state := 1 } else r) }
  else x

/-- The binding takes its new copy; the old one awaits release (R234, R235). -/
def switchBinding (s : State) (f : FormeId) : State :=
  match (s.forme f).inker.req with
  | some q =>
    match q.copy with
    | some c =>
      if (s.forme f).inker.state == 2 then
        (s.modBinding f q.binding (fun b => { b with
          old := b.old ++ b.image.toList, image := some c, set := .image c.gen,
          bHash := shake256Hash (dsetBytes (imageSet c)), switches := b.switches + 1 })).modForme f (fun x =>
            resumeService { x with inker := { x.inker with req := none, state := 0 } })
      else s
    | none => s
  | none => s

/-- A binding that a DETACH names is empty from this boundary on, and the DETACH is answered (R236). -/
def emptyBinding (s : State) (f : FormeId) (b : BindingId) : State :=
  match ((s.forme f).binding b).detaching with
  | some tag =>
    (s.modBinding f b (fun k => { k with
      old := k.old ++ k.image.toList, image := none, ending := if k.attachedGen = 0 then k.ending else k.ending ++ [k.attachedGen],
      attached := none, attachedGen := 0, detaching := none, set := .none, bHash := 0 })).respond (.plain f) (mkResponse 5 tag 0 [])
  | none => s

/-- Old copies and ended attachments that no slug reads any more are released; a shared copy stays while a forme is attached
(R234, R236). -/
def releaseCopies (s : State) (f : FormeId) (b : BindingId) : State :=
  let x := s.forme f
  let s1 := s.modBinding f b (fun k => { k with ending := k.ending.filter (copyRead x b) })
  s1.modBinding f b (fun k => { k with old := k.old.filter (fun i => copyRead x b i.gen || (i.shared && copyAttached s1 i.gen)) })

/-- Shared copies out of force go once no slug reads them and no forme is attached to them (R231, R236, R240). -/
def trimShared (s : State) : State :=
  { (allFormes.foldl (fun t o => allBindings.foldl (fun u b => u.modBinding o b (fun k => { k with
      old := k.old.filter (fun i => !i.shared || copyRead (u.forme o) b i.gen || copyAttached u i.gen) })) t) s) with
    orphans := s.orphans.filter (fun i => copyAttached s i.gen) }

/-- The shared copies that `before` held and the state holds no more have left the inker's shared area: their pages are scrubbed (R153, R236). -/
def leaveShared (before s : State) : State :=
  (before.copies.filter (fun i => i.shared && !s.copies.any (·.gen == i.gen))).foldl
    (fun t i => t.scrubBytes (sharedBase + i.base * 65536) (i.pages * 65536)) s

/-- What a step boundary does to the forme's bindings. -/
def bindingBoundary (s : State) (f : FormeId) : State :=
  let s1 := allBindings.foldl (fun t b => emptyBinding t f b) (switchBinding s f)
  leaveShared s (trimShared (allBindings.foldl (fun t b => releaseCopies t f b) s1))

end Sys2Proof.Machine
end

