-- ==== Sys2Proof/Machine/Scheduler.lean ====
section
/-! DEFINITION. The run scheduler: step boundaries, the forming of steps, pre-emption, shares and swaps (R268 to R282, R388). -/
namespace Sys2Proof.Machine

/-! ### Registers (R283) -/

/-- SCHED_TUNE as written: each field takes the nearer limit. -/
def clampTune (v : Word) : Word :=
  place 0 (clampTo 1 1024 (fld v 10 0)) ||| place 16 (clampTo 100 65535 (fld v 31 16)) ||| placeBit 32 (bitOf v 32) |||
  place 40 (clampTo 1 16777215 (fld v 63 40))

/-- SCHED_MIX as written: each field takes the nearer limit. -/
def clampMix (v : Word) : Word :=
  place 0 (clampTo 8 13 (fld v 3 0)) ||| place 8 (clampTo 0 8 (fld v 11 8)) ||| place 16 (clampTo 64 16384 (fld v 31 16)) |||
  place 32 (clampTo 1 64 (fld v 38 32))

/-- What was written takes effect at a step boundary; SHARE_PERIOD at a period (R283). -/
def latchSched (sc : Sched) : Sched :=
  { sc with
    residentMax := fld sc.tuneReg 10 0, preempt := bitOf sc.tuneReg 32, swapHorizon := fld sc.tuneReg 63 40,
    chunkLog := fld sc.mixReg 3 0, prefillEighths := fld sc.mixReg 11 8, rowsMax := fld sc.mixReg 31 16, chunksMax := fld sc.mixReg 38 32 }

/-! ### The energy account's threshold (R388 to R390, R393) -/

/-- A forme's account: the open bucket and the newest 3,999 closed ones, femtojoules (R388). -/
def accountOf (s : State) (f : FormeId) : Nat :=
  let a := s.platen.account[f.val]
  a.current + sumNat (a.buckets.take 3999)

/-- MODULE_CAP_W of the committed imposition (R30). -/
def moduleCap (s : State) : Nat := match s.colo.committed with | some i => fld i.powerHead.1 15 0 | none => 0

/-- The measured power of the last 4,000 intervals, summed; the average is this ÷ 4,000 (R389). -/
def measuredSum (s : State) : Nat := sumNat (s.platen.measured.take 4000)

/-- The account lies above its threshold: CAP_SHARE_W × 3.9 J, scaled by MODULE_CAP_W ÷ the measured average while OVER is set. -/
def accountOver (s : State) (f : FormeId) : Bool :=
  let t := (match (s.forme f).cfg with | some c => c.capShare | none => 0) * 3900000000000000
  if s.platen.overCap then decide (t * moduleCap s * 4000 < accountOf s f * measuredSum s) else decide (t < accountOf s f)

/-- LIMIT, or a die in thermal HOLD that bears on the forme: no step starts (R390, R393). -/
def startBarred (s : State) (f : FormeId) : Bool :=
  s.platen.limit || s.platen.hot.getLsbD 8 || s.platen.hot.getLsbD 9 || (s.forme f).cores.any (dieHot s)

/-! ### Candidates (R267, R271, R273) -/

/-- A QUEUED slug can be placed in a step now. -/
def placeable (x : Forme) (sl : Slug) : Bool :=
  sl.state == .queued && !sl.inStep && canReserve x sl && antecedentReady x sl && inputsReady x sl

/-- The running launches of a context that no status has ended. -/
def contextLaunches (x : Forme) (c : BitVec 16) : List Launch :=
  x.launches.filter (fun l => l.phase == .running && entryOpcode l.entry == 1 && entryContext l.entry == c && l.imposedStatus.isNone)

/-- The launch of a context whose part a step takes: the first admitted with a slug that can be placed. -/
def currentLaunch (x : Forme) (c : BitVec 16) : Option Launch :=
  (contextLaunches x c).foldl (fun (b : Option Launch) l =>
    if x.slugs.any (fun sl => sl.ring == l.ring && sl.seq == l.seq && placeable x sl) then
      match b with
      | some k => if l.order < k.order then some l else b
      | none => some l
    else b) none

/-- A part a context offers a step: its launch, whether it is a token launch, and its rows (R271). -/
structure Cand where
  ctx    : Context
  launch : Launch
  token  : Bool
  rows   : Nat
  deriving DecidableEq, Repr

/-- The first of two candidates: deficit descending, then context ascending (R273). -/
def candBefore (a b : Cand) : Bool := b.ctx.deficit < a.ctx.deficit || (a.ctx.deficit == b.ctx.deficit && a.ctx.num.toNat ≤ b.ctx.num.toNat)

/-- Put a candidate at its place. -/
def insertCand (c : Cand) : List Cand → List Cand
  | [] => [c]
  | d :: r => if candBefore c d then c :: d :: r else d :: insertCand c r

/-- The resident runnable contexts with their parts (R267, R273). -/
def candidates (x : Forme) : List Cand :=
  (x.ctxs.filterMap (fun c => if ctxResident c then
      (currentLaunch x c.num).map (fun l => Cand.mk c l (isToken l.entry) (entrySequences l.entry * launchPositions l))
    else none)).foldr insertCand []

/-- Token launches that fit, in order. -/
def admitTokens (limit8 : Nat) : List Cand → Nat → List Cand × Nat
  | [], rows => ([], rows)
  | c :: r, rows =>
    if c.token && 8 * (rows + c.rows) ≤ limit8 then let p := admitTokens limit8 r (rows + c.rows); (c :: p.1, p.2)
    else admitTokens limit8 r rows

/-- Chunks that fit, in order. -/
def admitChunks (rowsMax chunksMax : Nat) : List Cand → Nat → Nat → List Cand
  | [], _, _ => []
  | c :: r, rows, chunks =>
    if !c.token && chunks < chunksMax && rows + c.rows ≤ rowsMax then c :: admitChunks rowsMax chunksMax r (rows + c.rows) (chunks + 1)
    else admitChunks rowsMax chunksMax r rows chunks

/-- The procedure of R273. The reserve is kept in eighths of a row, since R273 rounds nothing. -/
def formStep (cands : List Cand) (rowsMax chunksMax eighths : Nat) (tokensOnly : Bool) : List Cand :=
  let due := (cands.filter (fun c => !c.token)).take chunksMax
  let reserve8 := if tokensOnly then 0 else min (rowsMax * eighths) (8 * sumNat (due.map (·.rows)))
  let t := admitTokens (8 * rowsMax - reserve8) cands 0
  let all := t.1 ++ (if tokensOnly then [] else admitChunks rowsMax chunksMax cands t.2 0)
  if all.isEmpty then (cands.find? (fun c => c.token || !tokensOnly)).toList else all

/-! ### The boundary (R269, R270, R54) -/

/-- Step-boundary entries of the table in effect (R51). -/
def stepEntries (s : State) (f : FormeId) : List MrtEntry := (tableNow s f).filter (fun e => mrtKind e == 1)

/-- The entry with the lowest OFFSET; the first of those with equal ones (R270). -/
def firstByOffset (es : List MrtEntry) : Option MrtEntry :=
  es.foldl (fun (b : Option MrtEntry) e => match b with
    | some d => if mrtOffset e < mrtOffset d then some e else b
    | none => some e) none

/-- A step boundary falls now: the ARG that governs it. With a step-boundary entry in the table, at its occurrences, once for a
stroke; without one, at each stroke edge after the previous step has ended (R54, R270). -/
def boundaryArg (s : State) (f : FormeId) : Option Word :=
  let x := s.forme f
  if (stepEntries s f).isEmpty then
    if !x.sched.stepOn && x.sched.stepEnd != some s.time.ticks && (x.sched.lastBoundary.map (·.1)) != some s.time.ticks then some 0 else none
  else if (x.sched.lastBoundary.map (·.2)) == some (formeCount s f) then none
  else (firstByOffset ((stepEntries s f).filter (fires s f))).map (·.w3)

/-- Start a step with the slugs given: every core's run-ahead may go on again (R128, R184, R268). -/
def startStep (s : State) (f : FormeId) (tags : List SlugTag) : State :=
  (s.modForme f (fun x => { x with
    slugs := x.slugs.map (fun (sl : Slug) => if sl.state == .queued && tags.contains sl.tag then { sl with inStep := true } else sl),
    sched := { x.sched with stepOn := true, steps := x.sched.steps + 1, replay := [] }
    makeup := { x.makeup with halted := [] } })).settle f

/-- The QUEUED slugs of a launch part. -/
def partTags (x : Forme) (c : Cand) : List SlugTag :=
  (x.slugs.filter (fun sl => sl.ring == c.launch.ring && sl.seq == c.launch.seq && sl.state == .queued)).map (·.tag)

/-- Contexts with a token part that this boundary left waiting count it; the others start again (R277). -/
def countReady (x : Forme) (cands admitted : List Cand) : Forme :=
  { x with ctxs := x.ctxs.map (fun (c : Context) =>
      if cands.any (fun d => d.ctx.num == c.num && d.token) && !admitted.any (fun d => d.ctx.num == c.num) then { c with ready := c.ready + 1 }
      else { c with ready := 0 }) }

/-- R277 applies to a slug: of a batch context, RUNNING, without a seal, having sent no collective traffic. -/
def preemptable (x : Forme) (sl : Slug) : Bool :=
  sl.inStep && (findCtx x sl.ctx).any (·.batch) && sl.sealed.isNone && !sl.sentColl

/-- Take a batch slug out of the step: a RUNNING one is discarded without counting the run and what it was charged in this period
is returned; a QUEUED one is withdrawn (R274, R277). -/
def preemptSlug (x : Forme) (sl : Slug) : Forme :=
  if sl.state == .running then
    modCtx (modSlug x sl.tag (fun z => { slugReplay z with inStep := false, charge := 0 })) sl.ctx (fun c => { c with charges := c.charges - sl.charge })
  else if sl.state == .queued then modSlug x sl.tag (fun z => { z with inStep := false })
  else x

/-- Pre-emption at a boundary that finds a step running (R277). -/
def preempt (s : State) (f : FormeId) : State :=
  let x := s.forme f
  if x.sched.preempt && x.sched.stepOn &&
      x.ctxs.any (fun c => ctxResident c && !c.batch && 1 ≤ c.ready && (candidates x).any (fun d => d.ctx.num == c.num && d.token)) then
    (s.modForme f (fun x => (x.slugs.filter (preemptable x)).foldl preemptSlug x)).settle f
  else s

/-- Form and start the next step: the slugs a fence discarded, or those R273 admits (R193, R269, R273). -/
def nextStep (s : State) (f : FormeId) (arg : Word) : State :=
  let x := s.forme f
  let again := (x.slugs.filter (fun sl => x.sched.replay.contains sl.tag && sl.state == .queued)).map (·.tag)
  if !again.isEmpty then startStep s f again
  else
    let rowsMax := if fld arg 15 0 = 0 then x.sched.rowsMax else fld arg 15 0
    let chunksMax := if fld arg 23 16 = 0 then x.sched.chunksMax else fld arg 23 16
    let cands := candidates x
    let admitted := formStep cands rowsMax chunksMax x.sched.prefillEighths (bitOf arg 24)
    let s1 := s.modForme f (fun x => countReady x cands admitted)
    if admitted.isEmpty then s1 else startStep s1 f (admitted.flatMap (partTags x))

/-- Add to HELD (R388). -/
def countHeld (s : State) (f : FormeId) : State :=
  let a := s.platen.account[f.val]
  { s with platen := { s.platen with account := s.platen.account.set f.val { a with held := satInc a.held } f.isLt } }

/-- What a boundary leads to (R269, R388, R390, R393): the account is tested first (log 47). -/
def boundaryOutcome (s : State) (f : FormeId) (running : Bool) (arg : Word) : State :=
  if accountOver s f then countHeld s f
  else if running then s.modForme f (fun x => { x with sched := { x.sched with missed := satInc x.sched.missed } })
  else if startBarred s f || planDue s f || (s.liveCores f).isEmpty then s
  else nextStep s f arg

/-- A step boundary of a forme (R269). -/
def stepBoundary (s : State) (f : FormeId) : State :=
  let x := s.forme f
  if x.cfg.isNone || !x.live || x.domainsOff then s
  else match boundaryArg s f with
    | none => s
    | some arg =>
      let s1 := s.modForme f (fun x => { x with sched := { latchSched x.sched with lastBoundary := some (s.time.ticks, formeCount s f) } })
      let s2 := bindingBoundary s1 f
      let running := x.sched.stepOn
      let s3 := if running then (preempt s2 f).modForme f (fun x => countReady x (candidates x) []) else s2
      boundaryOutcome s3 f running arg

/-- R269. -/
def execStepBoundary (f : FormeId) (s : State) : Res := .next (stepBoundary s f)

/-! ### Shares (R274, R275) -/

/-- Limit a deficit to 32 bits. -/
def limitDeficit (d : Int) : Int := max (-2147483648) (min 2147483647 d)

/-- The end of a period for one context (R275): U is the sum of the charges, W that of the weights. -/
def periodContext (u w : Nat) (busy : Bool) (c : Context) : Context :=
  let d := if c.active then limitDeficit (c.deficit + ((u * c.weight / max 1 w : Nat) : Int) - (c.charges : Int))
    else if 0 < c.deficit then 0 else c.deficit
  { c with deficit := d, charges := 0, active := busy }

/-- The end of a share period (R275). -/
def sharePeriodEnd (now : Word) (x : Forme) : Forme :=
  let act := x.ctxs.filter (·.active)
  let u := sumNat (act.map (·.charges))
  let w := sumNat (act.map (·.weight))
  { x with
    ctxs := x.ctxs.map (fun (c : Context) => periodContext u w (x.launches.any (fun l => launchOpen l && entryContext l.entry == c.num)) c),
    slugs := x.slugs.map (fun sl => { sl with charge := 0 }),
    sched := { x.sched with periodStart := now, periodInForce := fld x.sched.tuneReg 31 16 } }

/-- R275: at the end of every SHARE_PERIOD ticks. -/
def execSharePeriodEnd (f : FormeId) (s : State) : Res :=
  let x := s.forme f
  if x.cfg.isSome && x.sched.periodInForce ≤ (s.time.ticks - x.sched.periodStart).toNat then
    .next (s.modForme f (sharePeriodEnd s.time.ticks))
  else .next s

/-! ### Swaps (R278 to R282) -/

/-- The forme's share of the save area, pages: 1.5 GiB for each octet (R278). -/
def saveShare (c : FormeCfg) : Nat := 24576 * (bitsSet c.octets).length

/-- Strokes until a collective window of a slot next opens (R279). -/
def nextOpening (s : State) (f : FormeId) (slot : JobSlot) : Option Nat :=
  let c := (formeCount s f).toNat
  (((tableNow s f).filter (fun e => mrtKind e == 2 && fld e.w3 5 0 == slot.val)).filterMap (fun e =>
    if c < e.w0.toNat then some (e.w0.toNat - c)
    else if mrtPeriod e = 0 then (if e.w0.toNat = c then some 0 else none)
    else some ((mrtPeriod e - (c - e.w0.toNat) % mrtPeriod e) % mrtPeriod e))).min?

/-- A context is blocked: it has nothing to place and no run (R267, R279). -/
def ctxBlocked (x : Forme) (c : Context) : Bool :=
  (currentLaunch x c.num).isNone && !x.slugs.any (fun sl => sl.ctx == c.num && sl.state == .running && sl.wait == .none)

/-- The distance of a blocked context in strokes (R279). -/
def distance (s : State) (f : FormeId) (c : Context) : Nat :=
  let x := s.forme f
  if !x.launches.any (fun l => launchOpen l && entryOpcode l.entry == 1 && entryContext l.entry == c.num) then
    (if (x.ring c.ring).state == 2 || (x.ring c.ring).state == 4 then 2 ^ 64 - 2 else 2 ^ 64 - 1)
  else
    let waits := x.slugs.filter (fun sl => sl.ctx == c.num && sl.state == .running && sl.wait == .window)
    let ds := waits.filterMap (fun sl => ((opsOf x sl)[sl.op]?).bind (fun o => nextOpening s f (collSlot o)))
    if waits.length = (x.slugs.filter (fun sl => sl.ctx == c.num && !slugEnded sl)).length then (ds.min?).getD 0 else 0

/-- A context of two that a swap takes first: the greater distance, then the smaller deficit, then the lower number (R280). -/
def victimBefore (a b : Nat × Context) : Bool :=
  b.1 < a.1 || (a.1 == b.1 && (a.2.deficit < b.2.deficit || (a.2.deficit == b.2.deficit && a.2.num.toNat < b.2.num.toNat)))

/-- The victim, when every resident context is blocked or some blocked one is at least SWAP_HORIZON away (R280). -/
def swapVictim (s : State) (f : FormeId) : Option Context :=
  let x := s.forme f
  let res := x.ctxs.filter ctxResident
  let blocked := (res.filter (ctxBlocked x)).map (fun c => (distance s f c, c))
  if blocked.length = res.length || blocked.any (fun b => x.sched.swapHorizon ≤ b.1) then
    (blocked.foldl (fun (b : Option (Nat × Context)) d => match b with
      | some e => if victimBefore d e then some d else b
      | none => some d) none).map (·.2)
  else none

/-- A context has work that a step could take, or a slug of the running step that could go on (R267). -/
def ctxRunnable (x : Forme) (c : Context) : Bool :=
  (currentLaunch x c.num).isSome || x.slugs.any (fun sl => sl.ctx == c.num && sl.state == .running && sl.wait == .none)

/-- The swapped context that is swapped in first: runnable, with the largest deficit, then the lowest number (R280). -/
def swapIncoming (x : Forme) : Option Context :=
  (x.ctxs.filter (fun c => c.state == .swapped && ctxRunnable x c)).foldl (fun (b : Option Context) c => match b with
    | some d => if d.deficit < c.deficit || (d.deficit == c.deficit && c.num.toNat < d.num.toNat) then some c else b
    | none => some c) none

/-! #### Images (R278, R281, R282) -/

/-- The sheets of a context's image: its class 2 and 3 sheets with galley homes, slug-local tensors apart (R281). -/
def imageSheets (x : Forme) (c : Context) : List PlanRec :=
  x.makeup.plan.filter (fun p => p.sheet.ctx == c.num && 2 ≤ p.cls && (match p.home with | .galley _ _ => true | _ => false) &&
    !((findVersion x c.matter c.version).bind (fun v => findTensor v p.sheet.handle)).any (·.isLocal))

/-- The class 2 and 3 sheets of a context that stay at their homes outside galley. -/
def outsideSheets (x : Forme) (c : Context) : List PlanRec :=
  x.makeup.plan.filter (fun p => p.sheet.ctx == c.num && 2 ≤ p.cls && (match p.home with | .galley _ _ => false | _ => true))

/-- Pages of an image of the sheets given. -/
def imageSize (ps : List PlanRec) : Nat := sumNat (ps.map (·.pages))

/-- The galley pages of an image in its order: page of the image, core, core-local page. -/
def imagePages (ps : List PlanRec) : List (Nat × CoreId × Nat) :=
  (ps.flatMap (fun p => match p.home with
    | .galley c g => (List.range p.pages).map (fun i => (c, g + i))
    | _ => [])).zipIdx.map (fun q => (q.2, q.1))

/-- The pages of the save-area share that hold images (R278, R282). -/
def saveTaken (x : Forme) : List Nat := x.ctxs.flatMap (fun c => match c.imageAt with | .save ps => ps | _ => [])

/-- The free pages of the share, lowest first. -/
def saveFree (x : Forme) : List Nat :=
  let taken := saveTaken x
  match x.cfg with | some c => (List.range (saveShare c)).filter (fun p => !taken.contains p) | none => []

/-- Homes of the plan in force as page spans of the stack pool, or of the spill range. -/
def planSpans (x : Forme) (pool : Bool) : List (Nat × Nat) :=
  x.makeup.plan.filterMap (fun p => match p.home, p.src, p.spill, pool with
    | .stackPage a, _, _, true => some (a, p.pages)
    | .galley _ _, some a, _, true => some (a, p.pages)
    | .spillPage a, _, _, false => some (a, p.pages)
    | .galley _ _, none, some a, false => some (a, p.pages)
    | _, _, _, _ => none)

/-- Images in the save area, longest swapped first. -/
def oldestImages (x : Forme) : List Context :=
  (x.ctxs.filter (fun c => c.state == .swapped && 0 < c.image && (match c.imageAt with | .save _ => true | _ => false))).foldr (fun c r =>
    (r.takeWhile (fun d => d.swapNo < c.swapNo)) ++ [c] ++ (r.dropWhile (fun d => d.swapNo < c.swapNo))) []

/-- The images to move to pool or spill pages, longest swapped first, until a need fits the free pages; none when it would not (R282). -/
def roomMoves (need : Nat) : List Context → Nat → List (Nat × Nat) → List (Nat × Nat) → Option (List (BitVec 16 × ImageAt))
  | cs, free, pool, spill =>
    if need ≤ free then some []
    else match cs with
      | [] => none
      | c :: r => match lowestFit c.image pool with
        | some (a, g) => (roomMoves need r (free + c.image) g spill).map ((c.num, .pool a) :: ·)
        | none => match lowestFit c.image spill with
          | some (a, g) => (roomMoves need r (free + c.image) pool g).map ((c.num, .spill a) :: ·)
          | none => roomMoves need r free pool spill

/-- The moves that make room in the save area for an image (R282). -/
def saveRoom (x : Forme) (need : Nat) : Option (List (BitVec 16 × ImageAt)) :=
  roomMoves need (oldestImages x) (saveFree x).length ((planSpans x true).foldl cutSpan (poolGaps x)) ((planSpans x false).foldl cutSpan (spillGaps x))

/-- The spill pages that moved images go to. -/
def moveSpill (x : Forme) (ms : List (BitVec 16 × ImageAt)) : List Nat :=
  ms.flatMap (fun m => match m.2, findCtx x m.1 with
    | .spill a, some c => (List.range c.image).map (a + ·)
    | _, _ => [])

/-- The bytes of a page of the save-area share. -/
def savePage (s : State) (f : FormeId) (j : Nat) : List Byte := (List.range 65536).map (saveByte s f j)

/-- Move an image out of the save area, in class 3 (R282). -/
def moveImage (s : State) (f : FormeId) (c : BitVec 16) (dest : ImageAt) : State :=
  match findCtx (s.forme f) c with
  | some k => match k.imageAt with
    | .save ps =>
      let s1 := s.modForme f (fun x => modCtx x c (fun k => { k with imageAt := dest }))
      (ps.zipIdx).foldl (fun t p => match dest with
        | .pool a => watchedWrite (t.chargeStack f 65536) f ((a + p.2) * 65536) (savePage s f p.1)
        | .spill a => spillPageWrite (t.chargeStack f 65536) f (.sheetWrite f (a + p.2)) (a + p.2) 0 (savePage s f p.1)
        | .save _ => t) s1
    | _ => s
  | none => s

/-! #### The swap (R280 to R282) -/

/-- The launch that makes the key when a context comes in: its first. -/
def firstLaunch (x : Forme) (c : BitVec 16) : Option (RingId × Seq) := (currentLaunch x c).map (fun l => (l.ring, l.seq))

/-- A victim leaves the key: its image and what stays outside galley are noted, and its image gets pages of the save area (R281 step 1). -/
def victimLeaves (x : Forme) (v : Context) : Forme :=
  let sheets := imageSheets x v
  modCtx x v.num (fun k => { k with
    state := .swappingOut, saved := sheets, outside := outsideSheets x v, image := imageSize sheets,
    imageAt := .save ((saveFree x).take (imageSize sheets)), swapNo := x.sched.swaps })

/-- Begin the swap of a victim for an incoming context (R281 step 1). -/
def beginSwap (x : Forme) (inc : Context) (v : Option Context) : Forme :=
  let y := match v with | some c => victimLeaves x c | none => modCtx x inc.num (fun k => { k with state := .swappingIn })
  { y with
    sched := { y.sched with swap := {
      state := if v.isSome then 1 else 2, incoming := some inc.num, victim := v.map (·.num),
      toCopy := match v with | some c => imagePages (imageSheets x c) | none => [], slice := [], incomingIn := false } },
    makeup := { y.makeup with keyMaker := firstLaunch x inc.num } }

/-- The contexts that hold, or are getting, a resident place. -/
def residentPlaces (x : Forme) : Nat := (x.ctxs.filter (fun c => ctxResident c || c.state == .swappingIn)).length

/-- SWAP_STATE. -/
def setSwapState (v : BitVec 3) (x : Forme) : Forme := { x with sched := { x.sched with swap := { x.sched.swap with state := v } } }

/-- Start a swap where R280 lets one start; without save room it waits in SWAP_STATE 3 (R280 to R282). Images that go to the spill range
wait for the entries of their pages; one that names a page outside the mapped set is no room (R338). -/
def trySwap (s : State) (f : FormeId) : State :=
  let x := s.forme f
  match swapIncoming x with
  | none => s.modForme f (fun x => { x with sched := { x.sched with swap := if x.sched.swap.state == 3 then Swap.reset else x.sched.swap } })
  | some inc =>
    if residentPlaces x < x.sched.residentMax then s.modForme f (fun x => beginSwap x inc none)
    else match swapVictim s f with
      | none => s
      | some v => match saveRoom x (imageSize (imageSheets x v)) with
        | none => s.modForme f (setSwapState 3)
        | some ms =>
          if (moveSpill x ms).any (pageOutside x) then s.modForme f (setSwapState 3)
          else if (moveSpill x ms).any (fun p => (spillEntry x p).isNone) then (askEntries s f (moveSpill x ms)).modForme f (setSwapState 3)
          else (ms.foldl (fun t m => moveImage t f m.1 m.2) s).modForme f (fun y => beginSwap y inc (some v))

/-- R280: a swapped context has become runnable. One swap runs at a time. -/
def execSwapStart (f : FormeId) (s : State) : Res :=
  .next (if (s.forme f).sched.swap.state == 0 then trySwap s f else s)

/-- R282: the test is made again. -/
def execSaveSpaceRetest (f : FormeId) (s : State) : Res :=
  .next (if (s.forme f).sched.swap.state == 3 then trySwap s f else s)

/-- Pages of the swap slice of each core, at least one (R117, R281). -/
def swapSlice (x : Forme) : Nat := match x.cfg with | some c => max 1 (slicePages c c.swapMib) | none => 1

/-- The first page of a core's swap slice: below its proof slice (R116). -/
def sliceBase (x : Forme) : Nat :=
  match x.cfg with | some c => Config.galleyPagesPerCore - slicePages c c.proofMib - slicePages c c.swapMib | none => 0

/-- The victim's image is out of galley: it is SWAPPED, and the incoming image starts to move (R267, R281). -/
def victimOut (x : Forme) : Forme :=
  let w := x.sched.swap
  let y := match w.victim with | some v => modCtx x v (fun k => { k with state := .swapped }) | none => x
  let z := match w.incoming with | some i => modCtx y i (fun k => { k with state := .swappingIn }) | none => y
  { z with sched := { z.sched with swaps := z.sched.swaps + 1, swap := { w with state := 2 } } }

/-- One page is copied within a core's galley. -/
def copyPage (s : State) (f : FormeId) (c : CoreId) (src dst : Nat) : State :=
  (s.galleyWrite (c.val * 2 ^ 28 + dst * 65536) (galleyBytes s.galley (c.val * 2 ^ 28 + src * 65536) 65536)).charge f (2 * 65536 * galleyByteFj)

/-- One round of a core's copy into its empty slice: as many pages as the slice has (R281 step 2). -/
def copyRound (s : State) (f : FormeId) (c : CoreId) : State :=
  let x := s.forme f
  let w := x.sched.swap
  if w.slice.any (·.2.1 == c) then s
  else
    let round := (w.toCopy.filter (·.2.1 == c)).take (swapSlice x)
    let base := sliceBase x
    let s1 := round.zipIdx.foldl (fun t p => copyPage t f c p.1.2.2 (base + p.2)) s
    let rest := w.toCopy.filter (fun p => !round.contains p)
    s1.modForme f (fun x =>
      let y := { x with sched := { x.sched with swap := { w with
        toCopy := rest, slice := w.slice ++ round.zipIdx.map (fun p => (p.1.1, c, base + p.2)) } } }
      if rest.isEmpty then victimOut y else y)

/-- R281 step 2: a core's pages, or a round of them, are in its swap slice; an image of no page is out at once. -/
def execSwapOutCopyDone (f : FormeId) (c : CoreId) (s : State) : Res :=
  let w := (s.forme f).sched.swap
  .next (if w.state == 1 && !w.incomingIn && w.victim.isSome && (w.victim.bind (findCtx (s.forme f))).all (fun k => k.state == .swappingOut) then
      (if w.toCopy.isEmpty then s.modForme f victimOut else copyRound s f c)
    else s)

/-- The whole swap is done when the incoming image is in and every slice is empty (R281). -/
def settleSwap (x : Forme) : Forme :=
  let w := x.sched.swap
  if w.incomingIn then
    { x with sched := { x.sched with swap := if w.slice.isEmpty && w.toCopy.isEmpty then Swap.reset else { w with state := 1 } } }
  else x

/-- The bytes of a page of a context's image that is in memory, or that a read of the spill range has brought in. -/
def imagePage (s : State) (f : FormeId) (p : ImagePlace) : List Byte :=
  match p with
  | .galley c g => galleyBytes s.galley (c.val * 2 ^ 28 + g * 65536) 65536
  | .save j => savePage s f j
  | .pool a => (List.range 65536).map (fun i => formeByte s f (a * 65536 + i))
  | .spill a => (arrivedPage (s.forme f) a).getD []

/-- The spill pages of a context's image. -/
def imageSpill (c : Context) : List Nat := match c.imageAt with | .spill a => (List.range c.image).map (a + ·) | _ => []

/-- Put a context's image back: each sheet at the home the plan in force gives it. -/
def restoreImage (s : State) (f : FormeId) (c : Context) : State :=
  let x := s.forme f
  (c.saved.foldl (fun (acc : State × Nat) p =>
    let data := (List.range p.pages).flatMap (fun i => imagePage s f (imagePlace x c (acc.2 + i)))
    (match planOf x c.num p.sheet.handle p.sheet.index with
      | some q => homeWrite (acc.1.chargeStack f (match c.imageAt with | .spill _ => 0 | _ => 65536 * p.pages)) f (.sheetWrite f (homePage q.home)) q.home
          (data.take (65536 * q.pages))
      | none => acc.1, acc.2 + p.pages)) (s, 0)).1

/-- A tensor of the version the context runs now still has the sheet. -/
def sheetStands (x : Forme) (c : Context) (p : PlanRec) : Bool :=
  ((findVersion x c.matter c.version).bind (fun v => findTensor v p.sheet.handle)).isSome

/-- The plan in force gives a home to every sheet of a context's image that its version still has. -/
def imageHomed (x : Forme) (c : Context) : Bool :=
  c.saved.all (fun p => !sheetStands x c p || (planOf x c.num p.sheet.handle p.sheet.index).isSome)

/-- The spill pages that the sheets of a context's image go back to. -/
def restoreSpill (x : Forme) (c : Context) : List Nat :=
  c.saved.flatMap (fun p => match planOf x c.num p.sheet.handle p.sheet.index with | some q => homeSpill q.home q.pages | none => [])

/-- A poisoned line of a context's image detects as it is read: the context's launches fail (R146, R147). -/
def imageDetects (s : State) (f : FormeId) (c : Context) : State :=
  match (s.forme f).cfg with
  | some k =>
    let bad := match c.imageAt with
      | .save ps => ps.flatMap (fun j => ((List.range 256).map (saveAddr k j / 256 + ·)).filter s.stack.isPoisoned)
      | .pool a => (pageLines s f a c.image).filter s.stack.isPoisoned
      | .spill _ => []
    if bad.isEmpty then s else contextFails (bad.foldl (fun t l => countDetect t f (channelOf (256 * l)) l) s) f c.num 0x0801
  | none => s

/-- The incoming image is in: its sheets are at their new homes, and its context is resident (R281). -/
def swapIn (s : State) (f : FormeId) (c : Context) : State :=
  let s1 := imageDetects (usePages (restoreImage s f c) f (imageSpill c)) f c
  s1.modForme f (fun x =>
    let y := modCtx x c.num (fun k => { k with state := .resident, image := 0, imageAt := .save [], saved := [] })
    settleSwap { y with sched := { y.sched with swap := { y.sched.swap with incomingIn := true, incoming := none } } })

/-- No plan gives the incoming context its homes: it stays SWAPPED with its image, and the swap ends without it (R136, R281; log 94). -/
def swapBack (s : State) (f : FormeId) (c : Context) : State :=
  s.modForme f (fun x =>
    let y := modCtx x c.num (fun k => { k with state := .swapped })
    settleSwap { y with sched := { y.sched with swap := { y.sched.swap with incomingIn := true, incoming := none } } })

/-- R281: the incoming image is in. Its sheets need their homes, so a plan for the new key comes first; an image in the spill range is read
in by its pages. A context that was released meanwhile has no image. -/
def execSwapInDone (f : FormeId) (s : State) : Res :=
  let x := s.forme f
  .next (match x.sched.swap.incoming.bind (findCtx x) with
    | some c =>
      if x.sched.swap.state != 2 || planDue s f then s
      else if !imageHomed x c || (restoreSpill x c).any (pageOutside x) then swapBack s f c
      else if (restoreSpill x c).any (fun p => (spillEntry x p).isNone) then askEntries s f (restoreSpill x c)
      else match readPages s f (imageSpill c) none with
        | .ready _ => swapIn s f c
        | .waits t => t
        | .outside => swapBack s f c
    | none => if x.sched.swap.state == 2 && x.sched.swap.incoming.isSome then
        s.modForme f (fun x => settleSwap { x with sched := { x.sched with swap := { x.sched.swap with incomingIn := true, incoming := none } } })
      else s)

/-- A core's slice goes to the pages of the save-area share that the image has (R281 step 4). -/
def drainSlice (s : State) (f : FormeId) (c : CoreId) : State :=
  let w := (s.forme f).sched.swap
  let mine := w.slice.filter (·.2.1 == c)
  let ps := match (w.victim.bind (findCtx (s.forme f))).map (·.imageAt) with | some (.save ps) => ps | _ => []
  mine.foldl (fun t p => match ps[p.1]? with
    | some j => (saveWrite t f j (galleyBytes s.galley (c.val * 2 ^ 28 + p.2.2 * 65536) 65536)).charge f (65536 * galleyByteFj)
    | none => t) s

/-- R281 step 4: a core's slice has been written to the save-area share. -/
def execSwapSliceDrained (f : FormeId) (c : CoreId) (s : State) : Res :=
  .next (if (s.forme f).sched.swap.slice.any (·.2.1 == c) then
      (drainSlice s f c).modForme f (fun x => settleSwap { x with sched := { x.sched with swap := { x.sched.swap with slice := x.sched.swap.slice.filter (·.2.1 != c) } } })
    else s)

end Sys2Proof.Machine
end

