-- ==== Sys2Proof/Machine/Inker.lean ====
section
/-! DEFINITION. The inker: INK, ATTACH and DETACH, the checks of a weight image, its copy, and the refetch of bad chunks
(R222 to R240). -/
namespace Sys2Proof.Machine

/-! ### Exchanges (R353, R355) -/

/-- Act on a waiting message of an OPCODE; an undefined one that waits is answered with 0x1201 (R355). -/
def exchange (s : State) (c : Chan) (opcode : Nat) (k : Vector Word 16 → State → State) : State :=
  match s.take c opcode with
  | some (m, s1) => k m s1
  | none => s.rejectUndefined c

/-- Answer an exchange of a forme's channel with a status, and keep its code (R353, R412). -/
def State.answer (s : State) (f : FormeId) (opcode : Nat) (tag : BitVec 16) (c : Code) : State :=
  (if c = 0 then s else s.noteCode f c).respond (.plain f) (mkResponse opcode tag c [])

/-! ### INK: the request (R228, R229, R240) -/

/-- A change of the inker of a forme. -/
def State.modInker (s : State) (f : FormeId) (g : Inker → Inker) : State := s.modForme f (fun x => { x with inker := g x.inker })

/-- The binding holds an image, inked or attached. -/
def bindingFull (k : Binding) : Bool := k.image.isSome || k.attached.isSome

/-- MODE fits the binding's state (R229). -/
def modeFits (k : Binding) (mode : Nat) : Bool := if mode = 0 then !bindingFull k else k.image.isSome

/-- The request of an INK message. -/
def inkReq (m : Vector Word 16) : InkReq :=
  { binding := Fin.ofNat 8 (fld m[2] 2 0), mode := BitVec.ofNat 2 (fld m[2] 5 4), base := m[3].toNat, source := m[1],
    shareMask := BitVec.ofNat 16 (fld m[2] 31 16), tag := msgTag m, copy := none, dropped := false }

/-- Start a request: its header is read (R230, R239). -/
def inkStart (s : State) (f : FormeId) (q : InkReq) : State :=
  (s.modInker f (fun k => { k with
    req := some q, state := 1, binding := BitVec.ofNat 3 q.binding.val, done := 0, total := 0 })).formeDrd f (.inkHeader f) false q.source 4096

/-- R228: an INK exchange. While another binding is being inked the message waits (log 48). -/
def execInk (f : FormeId) (s : State) : Res :=
  let x := s.forme f
  .next (match x.inker.req with
    | some p =>
      if msgOpcode x.mbox.inData == 1 && (inkReq x.mbox.inData).binding != p.binding then s
      else exchange s (.plain f) 1 (fun m t => t.answer f 1 (msgTag m) 0x0C06)
    | none => exchange s (.plain f) 1 (fun m t =>
        let q := inkReq m
        if modeFits (x.binding q.binding) q.mode.toNat then inkStart t f q else t.answer f 1 q.tag 0x0C08))

/-! ### The checks of R230 -/

/-- The header fields of R222; reserved fields are ignored (R9). -/
def inkHeaderOk (b : Blob) : Bool :=
  b.length == 4096 && blobLe b 0 4 == 0x4B4E494B && blobLe b 4 2 == 1 && blobLe b 6 2 == 0x2410 &&
  1 ≤ blobLe b 8 4 && blobLe b 8 4 ≤ 262144

/-- SHAREABLE of the header. -/
def shareable (b : Blob) : Bool := blobLe b 0xC 4 % 2 == 1

/-- A chunk decrypted with an image key and NONCE (R224). -/
def chunkPlain (key : List Byte) (nonce : Word) (n : Nat) (b : Blob) : List Byte :=
  (List.range 1048576).map (fun k => blobByte b k ^^^ streamByte key nonce n k)

/-- An entry of the tensor table, in the layout of a tensor record (R223, R259). -/
def readImageTensor (p : List Byte) (off : Nat) : ImageTensor :=
  let w (i : Nat) : Word := leWord ((p.drop (off + 8 * i)).take 8)
  { handle := fld (w 0) 31 0, format := BitVec.ofNat 8 (fld (w 0) 39 32), qdesc := fld (w 0) 63 48, rows := fld (w 1) 31 0,
    cols := fld (w 1) 63 32, offset := (w 3).toNat }

/-- The content directory of a plaintext: its four parts, the entries of its tensor table, and its descriptors (R104, R223). -/
def readDir (p : List Byte) : ImageDir :=
  let part := Config.directoryPart p
  { tensors := (List.range ((part 0).2 / 32)).map (fun i => readImageTensor p ((part 0).1 + 32 * i)),
    descriptors := (List.range ((part 1).2 / 16)).map (fun i =>
      { w0 := leWord ((p.drop ((part 1).1 + 16 * i)).take 8), w1 := leWord ((p.drop ((part 1).1 + 16 * i + 8)).take 8) }),
    parts := (List.finRange 4).map part }

/-- Every part lies within the image (R230 step 3). -/
def inkPartsOk (chunks : Nat) (d : ImageDir) : Bool := d.parts.all (fun p => p.1 + p.2 ≤ chunks * 2 ^ 20)

/-- The leading chunks at hand hold the tensor table and the descriptor set. -/
def leadHolds (n : Nat) (d : ImageDir) : Bool := (d.parts.take 2).all (fun p => p.1 + p.2 ≤ n * 2 ^ 20)

/-- The tensors of the content directory of an image of so many chunks (R230 step 3). -/
def inkDirOk (chunks : Nat) (d : ImageDir) : Bool :=
  d.tensors.all (fun t => weightFormat t.format.toNat && 1 ≤ weightPlanes t.format.toNat && weightPlanes t.format.toNat ≤ 16 &&
    1 ≤ t.rows && 1 ≤ t.cols && t.offset + storedBytes t.format.toNat t.rows t.cols ≤ chunks * 2 ^ 20 && t.qdesc < d.descriptors.length)

/-- Tiles of an image. -/
def imageTiles (d : ImageDir) : Nat := sumNat (d.tensors.map dirTiles)

/-- Pages of an image's footprint: planes of its tiles, and side records eight to a page (R230). -/
def footprintPages (d : ImageDir) : Nat :=
  sumNat (d.tensors.map (fun t => dirTiles t * weightPlanes t.format.toNat)) + ceilDiv (imageTiles d) 8

/-- Two page spans meet. -/
def spansMeet (a b : Nat × Nat) : Bool := decide (a.1 < b.1 + b.2) && decide (b.1 < a.1 + a.2)

/-- The page spans a footprint may not meet, the old copy of its own binding apart: homes of the plan in force, images of swapped
contexts in the pool, other bindings, and pages awaiting release (R230, R233, R235). -/
def takenSpans (x : Forme) (b : BindingId) : List (Nat × Nat) :=
  let own (i : ImageCopy) : List (Nat × Nat) := if i.shared then [] else [(i.base, i.pages)]
  let old := (x.binding b).image.toList.flatMap own
  (planSpans x true).filter (fun p => !old.any (fun o => o.1 ≤ p.1 && p.1 + p.2 ≤ o.1 + o.2)) ++ keptSpans x true ++
    allBindings.flatMap (fun k => ((if k == b then [] else (x.binding k).image.toList) ++ (x.binding k).old).flatMap own)

/-- What a footprint leads to. -/
inductive Room where
  | live
  | stop
  | refused (c : Code)
  deriving DecidableEq, Repr

/-- R230, R233, R235 for a private image. -/
def privateRoom (x : Forme) (q : InkReq) (pages : Nat) : Room :=
  let span := (q.base, pages)
  let inside := match x.cfg with | some c => decide (q.base + pages ≤ c.stackGib * 16384) | none => false
  let free := !(takenSpans x q.binding).any (spansMeet span)
  let beside := free && !((x.binding q.binding).image.any (fun i => !i.shared && spansMeet span (i.base, i.pages)))
  if !inside then .refused 0x0C02
  else match q.mode.toNat with
    | 0 => if free then .live else .refused 0x0C02
    | 1 => if beside then .live else .refused 0x0C04
    | 2 => if beside then .live else if free then .stop else .refused 0x0C04
    | _ => if free then .stop else .refused 0x0C04

/-- Pages of the inker's shared area: 36 GiB (R231). -/
def sharedPages : Nat := 589824

/-- The free spans of the shared area, apart from one copy. -/
def sharedGaps (s : State) (but : Nat) : List (Nat × Nat) :=
  ((s.copies.filter (fun i => i.shared && i.gen != but)).map (fun i => (i.base, i.pages))).foldl cutSpan [(0, sharedPages)]

/-- R231 for a shared image: the page where it fits, and whether service must stop for it. A copy other formes are attached to
cannot be dropped. -/
def sharedRoom (s : State) (x : Forme) (q : InkReq) (pages : Nat) : Room × Nat :=
  let old := match (x.binding q.binding).image with | some i => if i.shared && !copyAttached s i.gen then i.gen else 0 | none => 0
  match (lowestFit pages (sharedGaps s 0)).map (·.1), (lowestFit pages (sharedGaps s old)).map (·.1), q.mode.toNat with
  | some p, some o, m => if m = 3 then (.stop, o) else (.live, p)
  | none, some o, 2 | none, some o, 3 => (.stop, o)
  | _, _, _ => (.refused 0x0C07, 0)

/-- The request ends without an image: its status is answered and kept (R230, R240). -/
def inkRefuse (s : State) (f : FormeId) (tag : BitVec 16) (c : Code) : State :=
  (s.answer f 1 tag c).modInker f (fun k => { k with req := none, state := 0 })

/-- Ask for the next chunk of the request. -/
def readChunk (s : State) (f : FormeId) (q : InkReq) (n : Nat) : State :=
  s.formeDrd f (.inkChunk f) false (q.source + BitVec.ofNat 64 (4096 + n * 1048576)) 1048576

/-- A stopped forme's rings fetch no more; doorbells are still accepted (R235 step 1). -/
def stopService (x : Forme) : Forme :=
  { x with stopped := true, rings := x.rings.map (fun r => if r.state == 1 then { r with state := 4 } else r) }

/-- The image key that the header's WRAPPED_KEY unwraps to under the forme's ink key; none where the integrity check fails (R226). -/
def imageKey (ink : Nat) (b : Blob) : Option (List Byte) :=
  let kek := shake256 (ascii "KTINK1" ++ Config.kemSecret ink (blobBytes b 0x40 1568) ++ blobBytes b 0x20 32 ++ blobBytes b 0x10 8) 32
  kwUnwrap kek (blobBytes b 0x660 40)

/-! ### Chunks, and the decode of tensors into plane layout (R79 to R82, R120, R224, R230, R237) -/

/-- A byte of the image's plaintext, of a chunk at hand. -/
def plainByte (i : ImageCopy) (off : Nat) : Byte := ((i.plain.find? (·.1 == off / 2 ^ 20)).map (fun c => c.2.getD (off % 2 ^ 20) 0)).getD 0

/-- Chunk `n` is at hand. -/
def ImageCopy.hasChunk (i : ImageCopy) (n : Nat) : Bool := i.plain.any (·.1 == n)

/-- The chunks of a range of the plaintext. -/
def rangeChunks (off n : Nat) : List Nat := if n = 0 then [] else (List.range ((off + n - 1) / 2 ^ 20 + 1 - off / 2 ^ 20)).map (· + off / 2 ^ 20)

/-- The chunks of a tensor's stored elements. -/
def tensorChunks (t : ImageTensor) : List Nat := rangeChunks t.offset (storedBytes t.format.toNat t.rows t.cols)

/-- The chunks that hold a stored element are at hand. -/
def elementHere (i : ImageCopy) (t : ImageTensor) (r c : Nat) : Bool :=
  let a := elementByte t.format.toNat t.cols r c
  (rangeChunks (t.offset + a) (elementEnd t.format.toNat t.cols r c + 1 - a)).all i.hasChunk

/-- The zero point of a column by the tensor's descriptor in the image's set, where it can be read (R104, R120). -/
def imageZero (s : State) (f : FormeId) (i : ImageCopy) (t : ImageTensor) (c : Nat) : Option Int :=
  match (imageSet i)[t.qdesc]? with
  | some q =>
    if qColumn q then (ownWord s f (devAddr q.w1 + BitVec.ofNat 56 (8 * c))).map (fun w => (vectorEntry w).2)
    else some (vectorEntry (place 0 (fld q.w0 47 0))).2
  | none => none

/-- A block of 32 rows of a column, decoded: its mantissas and its group exponent; the inker rounds in mode 0, and no product has named a
mode yet (R79, R80; log 49). -/
def inkBlock (s : State) (f : FormeId) (i : ImageCopy) (t : ImageTensor) (b c : Nat) : Block :=
  let g (k : Nat) : Byte := plainByte i (t.offset + k)
  let rows := (List.range (min t.rows (32 * (b + 1)) - 32 * b)).map (· + 32 * b)
  decodeWeight t.format.toNat 0 (fun _ => 0) (fun _ => (imageZero s f i t c).getD 0)
    (rows.map (fun r => (storedCode t.format.toNat t.cols g r c, storedScale t.format.toNat t.cols g r c)))

/-- The reference exponent of each column of a tensor (R80). -/
def inkRefs (s : State) (f : FormeId) (i : ImageCopy) (t : ImageTensor) : List Int :=
  (List.range t.cols).map (fun c => refExponent ((List.range (ceilDiv t.rows 32)).map (fun b => (inkBlock s f i t b c).e)))

/-- A block of 32 rows of a column of a tile as its sheet holds it: mantissas and offset. Rows beyond the tensor are padding (R102). -/
structure TileBlock where
  ms  : List Int
  off : Nat

/-- The block decoded from the chunks at hand, or, where one of its chunks is not, as the sheet has it (R237). -/
def tileBlock (s : State) (f : FormeId) (i : ImageCopy) (t : ImageTensor) (tile b c : Nat) : TileBlock :=
  let kt := tile % ceilDiv t.rows 512
  let row := 512 * kt + 32 * b
  let col := 1024 * (tile / ceilDiv t.rows 512) + c
  if t.rows ≤ row || t.cols ≤ col then { ms := [], off := 0 }
  else if (List.range (min t.rows (row + 32) - row)).all (fun r => elementHere i t (row + r) col) then
    let k := inkBlock s f i t (row / 32) col
    let l := limitOffset 7 0 (fun _ => 0) (weightRef i t.handle col) k.ms k.e
    { ms := l.1, off := l.2 }
  else
    let bit (p r : Nat) : Bool := (copyByte s f i (tilePage i t.handle tile * 65536 + p * 65536 + (32 * b + r) * 128 + c / 8)).getLsbD (c % 8)
    { ms := (List.range 32).map (fun r => ((sumNat ((List.range (weightPlanes t.format.toNat)).map (fun p => (bit p r).toNat * 2 ^ p)) : Nat) : Int)),
      off := streamBits (fun k => copyByte s f i (sideByte i t.handle tile + k)) ((b * 1024 + c) * 3) 3 }

/-- Eight bits as a byte, the first lowest. -/
def bitsByte (bs : List Bool) : Byte := BitVec.ofNat 8 (sumNat (bs.zipIdx.map (fun b => b.1.toNat * 2 ^ b.2)))

/-- A tile's planes: plane by plane, row by row, bit j of a row that of column j (R120). -/
def planeBytes (planes : Nat) (g : Nat → Nat → TileBlock) : List Byte :=
  let bit (p r c : Nat) : Bool := ((((g (r / 32) c).ms.getD (r % 32) 0) % 2 ^ planes).toNat).testBit p
  (List.range planes).flatMap (fun p => (List.range 512).flatMap (fun r => (List.range 128).map (fun k =>
    bitsByte ((List.range 8).map (fun j => bit p r (8 * k + j))))))

/-- A tile's offset table: 3 bits for each column of each block (R81). -/
def offsetBytes (g : Nat → Nat → TileBlock) : List Byte :=
  let bit (n : Nat) : Bool := (g (n / 3 / 1024) (n / 3 % 1024)).off.testBit (n % 3)
  (List.range 6144).map (fun k => bitsByte ((List.range 8).map (fun j => bit (8 * k + j))))

/-- A tile's zero points, 2 bytes a column; none where the descriptor's vector cannot be read (R101, R120). -/
def zeroBytes (s : State) (f : FormeId) (i : ImageCopy) (t : ImageTensor) (tile : Nat) : Option (List Byte) :=
  ((List.range 1024).mapM (fun c =>
    let col := 1024 * (tile / ceilDiv t.rows 512) + c
    if col < t.cols then imageZero s f i t col else some 0)).map (fun zs => zs.flatMap (fun z => leBytes 2 (z % 65536).toNat))

/-- Write bytes of a copy's space: the forme's stack space, whose watched copies go stale, or the shared area (R130, R231). -/
def copyWrite (s : State) (f : FormeId) (i : ImageCopy) (off : Nat) (data : List Byte) : State :=
  if i.shared then
    let k := s.stack.clearPoison ((sharedBase + off) / 256) (data.length / 256)
    State.chargeStack { s with stack := { k with mem := memPutAll none s.stack.mem (sharedBase + off) data } } f data.length
  else watchedStore s f .stream off data

/-- Write a tile's sheet: its planes and its side record (R79, R120, R230). -/
def writeTile (f : FormeId) (i : ImageCopy) (t : ImageTensor) (s : State) (tile : Nat) : State :=
  let g := tileBlock s f i t tile
  let s1 := copyWrite s f i (tilePage i t.handle tile * 65536) (planeBytes (weightPlanes t.format.toNat) g)
  let s2 := copyWrite s1 f i (sideByte i t.handle tile) (offsetBytes g)
  match zeroBytes s f i t tile with
  | some zs => copyWrite s2 f i (sideByte i t.handle tile + 6144) zs
  | none => s2

/-- The tensors of which every chunk is at hand and no sheet is written yet. -/
def tensorsDue (i : ImageCopy) : List ImageTensor :=
  i.dir.tensors.filter (fun t => !i.refs.any (·.1 == t.handle) && (tensorChunks t).all i.hasChunk)

/-- Chunks that are still drawn on: by a tensor not yet written, or by the calibration section, which R112 reads (log 87). -/
def chunkNeeded (i : ImageCopy) (n : Nat) : Bool :=
  i.dir.tensors.any (fun t => !i.refs.any (·.1 == t.handle) && (tensorChunks t).contains n) ||
  (match i.dir.parts[2]? with | some p => (rangeChunks p.1 p.2).contains n | none => false)

/-- A chunk is at hand: the tensors it completes are written to their sheets, and what nothing draws on any more goes. -/
def takeChunk (s : State) (f : FormeId) (i : ImageCopy) (n : Nat) (plain : List Byte) : State × ImageCopy :=
  let j := { i with plain := i.plain.filter (·.1 != n) ++ [(n, plain)] }
  let due := tensorsDue j
  let k := { j with refs := j.refs ++ due.map (fun t => (t.handle, inkRefs s f j t)) }
  let s1 := due.foldl (fun u t => (List.range (dirTiles t)).foldl (writeTile f k t) u) s
  (s1, { k with plain := k.plain.filter (fun c => chunkNeeded k c.1) })

/-- The copy begins with the leading chunks, which are at hand, and the next chunk is read (R230). -/
def inkLead (s : State) (f : FormeId) (q : InkReq) (c : ImageCopy) : State :=
  let p := c.plain.foldl (fun (a : State × ImageCopy) ch => takeChunk a.1 f a.2 ch.1 ch.2) (s, { c with plain := [] })
  let s1 := p.1.modInker f (fun k => { k with done := BitVec.ofNat 32 c.plain.length, req := some { q with copy := some p.2 } })
  if c.plain.length < c.chunks then readChunk s1 f q c.plain.length else s1

/-- The request is accepted: the copy takes its place, and its chunks are written, or the forme's service stops first (R230, R235). -/
def inkAccept (s : State) (f : FormeId) (q : InkReq) (b : Blob) (d : ImageDir) (key : List Byte) (plain : List (Nat × List Byte)) (base : Nat) (stop : Bool) :
    State :=
  let n := s.draw
  let shared := q.shareMask != 0
  let copy : ImageCopy := {
    gen := n.1 + 1, imageId := BitVec.ofNat 256 (blobLe b 0x20 32), chunks := blobLe b 8 4, tiles := imageTiles d, base := base,
    pages := footprintPages d, source := q.source, key := key, nonce := BitVec.ofNat 64 (blobLe b 0x10 8), dir := d, refs := [], plain := plain,
    shareMask := q.shareMask, shared := shared, bad := [], dead := [], fresh := [] }
  let s1 := (n.2.answer f 1 q.tag 0).modInker f (fun k => { k with req := some { q with copy := some copy }, state := if stop then 3 else 1 })
  if stop then s1.modForme f stopService else inkLead s1 f q copy

/-- The leading chunks are read behind the header, once the image key is unwrapped (R226, R230). -/
def readLead (s : State) (f : FormeId) (q : InkReq) (n : Nat) : State := ((List.range n).foldl (fun t k => readChunk t f q k) s).retireUse (.inkChunk f)

/-- The header and the leading chunks are in: the four checks of R230 in their order, then the room of R231, R233 or R235. Chunks that are too
few for the directory's tables leave the request as it is (log 87). -/
def inkChecks (s : State) (f : FormeId) (q : InkReq) (h : InkHeader) : State :=
  let x := s.forme f
  if !inkHeaderOk h.blob || (q.shareMask != 0 && !shareable h.blob) then inkRefuse s f q.tag 0x0C02
  else
    let chunks := blobLe h.blob 8 4
    let s1 := s.modInker f (fun k => { k with total := BitVec.ofNat 32 chunks })
    match x.inkKey.bind (fun n => imageKey n h.blob) with
    | none => inkRefuse s1 f q.tag 0x0C03
    | some key =>
      match h.lead with
      | .fault st a => inkRefuse ((readLead s1 f q 1).noteFault f a st) f q.tag 0x0C05
      | .data bs =>
        let nonce : Word := BitVec.ofNat 64 (blobLe h.blob 0x10 8)
        let plain := (bs.take chunks).zipIdx.map (fun b => (b.2, chunkPlain key nonce b.2 b.1))
        let d := readDir (plain.flatMap (·.2))
        let s1 := readLead s1 f q plain.length
        if !inkPartsOk chunks d then inkRefuse s1 f q.tag 0x0C02
        else if !leadHolds plain.length d then s
        else if !inkDirOk chunks d then inkRefuse s1 f q.tag 0x0C02
        else
          let r := if q.shareMask = 0 then (privateRoom x q (footprintPages d), q.base) else sharedRoom s x q (footprintPages d)
          match r.1 with
          | .refused c => inkRefuse s1 f q.tag c
          | .live => inkAccept s1 f q h.blob d key plain r.2 false
          | .stop => inkAccept s1 f q h.blob d key plain r.2 true

/-- The header read of a request ends (R226, R230, R240). -/
def inkHeaderDone (s : State) (f : FormeId) (r : Fetched InkHeader) : State :=
  match (s.forme f).inker.req with
  | some q =>
    if q.copy.isSome then s
    else
      let s1 := s.retireUse (.inkHeader f)
      match r with
      | .fault st a => inkRefuse (s1.noteFault f a st) f q.tag 0x0C05
      | .data h => inkChecks s1 f q h
  | none => s

/-- R226, R230. -/
def execInkHeaderReadDone (f : FormeId) (r : Fetched InkHeader) (s : State) : Res := .next (inkHeaderDone s f r)

/-- The copy stops at a faulting read: a first ink leaves its binding empty, a live re-ink the old copy; a forme whose service
stopped fetches again (R240). -/
def inkFails (s : State) (f : FormeId) : State :=
  (s.noteCode f 0x0C05).modForme f (fun x => resumeService { x with inker := { x.inker with req := none, state := 0 } })

/-- A chunk of the image in progress is in (R230, R240). -/
def inkChunkDone (s : State) (f : FormeId) (r : Fetched Blob) : State :=
  let k := (s.forme f).inker
  match k.req with
  | some q => match q.copy with
    | some c =>
      if (k.state == 1 || (k.state == 3 && q.dropped)) && k.done.toNat < c.chunks then
        let s1 := s.retireUse (.inkChunk f)
        match r with
        | .fault st a => inkFails (s1.noteFault f a st) f
        | .data b =>
          let p := takeChunk s1 f c k.done.toNat (chunkPlain c.key c.nonce k.done.toNat b)
          let s2 := p.1.modInker f (fun k => { k with done := k.done + 1, req := some { q with copy := some p.2 } })
          if k.done.toNat + 1 < c.chunks then readChunk s2 f q (k.done.toNat + 1) else s2
      else s
    | none => s
  | none => s

/-- R230. -/
def execInkChunkDone (f : FormeId) (r : Fetched Blob) (s : State) : Res := .next (inkChunkDone s f r)

/-- R234: the last sheet of the new copy is written; the binding switches at the next step boundary. -/
def execInkCopyComplete (f : FormeId) (s : State) : Res :=
  let k := (s.forme f).inker
  match k.req.bind (·.copy) with
  | some c =>
    .next (if k.done.toNat = c.chunks && (k.state == 1 || k.state == 3) then s.modInker f (fun k => { k with state := 2 }) else s)
  | none => .next s

/-- The old copy of a stop-service re-ink goes once the forme's launches have completed, and the new copy is inked (R235 steps 2
to 4); a shared copy other formes are attached to stays for them. -/
def dropOld (s : State) (f : FormeId) (q : InkReq) : State :=
  let keep (i : ImageCopy) : Bool := i.shared && copyAttached s i.gen
  let s1 := leaveShared s (s.modBinding f q.binding (fun b => { b with
    image := none, old := b.old ++ b.image.toList.filter keep, set := .none, bHash := 0 }))
  match q.copy with
  | some c => inkLead s1 f { q with dropped := true } c
  | none => s1

/-- R235. -/
def execStopServiceDrained (f : FormeId) (s : State) : Res :=
  let x := s.forme f
  match x.inker.req with
  | some q => .next (if x.inker.state == 3 && !q.dropped && q.copy.isSome && formeInflight x = 0 then dropOld s f q else s)
  | none => .next s

/-! ### ATTACH and DETACH (R231, R236) -/

/-- What an ATTACH of a binding asks for: the shared copy of another forme's binding, if the forme may attach it (R231). -/
def attachCopy (s : State) (f g : FormeId) (gb b : BindingId) : Option ImageCopy :=
  let k := (s.forme f).binding b
  if bindingFull k || (match (s.forme f).inker.req with | some q => q.binding == b | none => false) then none
  else match ((s.forme g).binding gb).image with
    | some i => if i.shared && i.shareMask.getLsbD f.val then some i else none
    | none => none

/-- R231: an ATTACH exchange. -/
def execAttach (f : FormeId) (s : State) : Res :=
  .next (exchange s (.plain f) 2 (fun m t =>
    let g : FormeId := Fin.ofNat 16 (fld m[1] 3 0)
    let gb : BindingId := Fin.ofNat 8 (fld m[1] 6 4)
    let b : BindingId := Fin.ofNat 8 (fld m[2] 2 0)
    match attachCopy t f g gb b with
    | none => t.answer f 2 (msgTag m) 0x0C02
    | some i => (t.modBinding f b (fun k => { k with
        attached := some (g, gb), attachedGen := i.gen, set := .image i.gen,
        bHash := shake256Hash (dsetBytes (imageSet i)), switches := k.switches + 1 })).answer f 2 (msgTag m) 0))

/-- R236: a DETACH exchange; the binding is emptied at the next step boundary, and the response is sent then. -/
def execDetach (f : FormeId) (s : State) : Res :=
  .next (exchange s (.plain f) 5 (fun m t =>
    let b : BindingId := Fin.ofNat 8 (fld m[1] 2 0)
    let k := (t.forme f).binding b
    if !bindingFull k || k.detaching.isSome || (match (t.forme f).inker.req with | some q => q.binding == b | none => false) then
      t.answer f 5 (msgTag m) 0x0C08
    else t.modBinding f b (fun k => { k with detaching := some (msgTag m) })))

/-! ### Damaged blocks (R237, R238) -/

/-- The copy a refetch concerns, one the forme inked through the binding (R237). -/
def refetchCopy (s : State) (f : FormeId) (b : BindingId) (chunk : Nat) : Option ImageCopy :=
  let k := (s.forme f).binding b
  (k.image.toList ++ k.old).find? (fun i => i.bad.contains chunk && !i.dead.contains chunk)

/-- Slugs of every forme whose record holds a chunk of a copy, by forme and tag. -/
def chunkReaders (s : State) (gen chunk : Nat) : List (FormeId × SlugTag) :=
  allFormes.flatMap (fun f => ((s.forme f).slugs.filter (fun sl =>
    (sl.state == .running || sl.state == .proved || sl.state == .queued) && readsCopy (s.forme f) sl gen chunk)).map (fun sl => (f, sl.tag)))

/-- The source of a chunk is bad: the chunk stays declared bad, and the slugs that hold it fail (R238). -/
def deadChunk (s : State) (gen chunk : Nat) : State :=
  let s1 := s.modCopy gen (fun i => { i with dead := i.dead ++ [chunk] })
  (chunkReaders s1 gen chunk).foldl (fun t r => t.failSlug r.1 r.2 0x0C01) s1

/-- The tiles of a tensor that draw on a chunk and on no other chunk that is still bad. -/
def tilesToRewrite (i : ImageCopy) (t : ImageTensor) (n : Nat) : List Nat :=
  (List.range (dirTiles t)).filter (fun k =>
    let c := sheetChunks t k
    decide (c.1 ≤ n) && decide (n ≤ c.2) && !i.bad.any (fun b => b != n && decide (c.1 ≤ b) && decide (b ≤ c.2)))

/-- A refetched chunk is decrypted and decoded, and every sheet that draws on it is rewritten; one that draws on another bad chunk is
rewritten with that one. The reference exponents stay those the image was inked with (R80, R237). -/
def rewriteSheets (s : State) (f : FormeId) (i : ImageCopy) (n : Nat) (plain : List Byte) : State × ImageCopy :=
  let j : ImageCopy := { i with plain := i.plain.filter (·.1 != n) ++ [(n, plain)] }
  let s1 := j.dir.tensors.foldl (fun u t => (tilesToRewrite j t n).foldl (writeTile f j t) u) s
  let bad := j.bad.filter (· != n)
  (s1, { j with bad := bad, fresh := j.fresh ++ [n], plain := if bad.isEmpty then j.plain.filter (fun (c : Nat × List Byte) => chunkNeeded j c.1) else j.plain })

/-- A refetch ends: the sheets that draw on the chunk are rewritten, or its source is bad (R237, R238). -/
def refetchDone (s : State) (f : FormeId) (b : BindingId) (chunk : Nat) (r : Fetched Blob) : State :=
  match refetchCopy s f b chunk with
  | none => s
  | some i =>
    let s1 := s.retireUse (.inkRefetch f b chunk)
    match r with
      | .fault st a => (deadChunk (s1.noteFault f a st) i.gen chunk).noteCode f 0x0C01
      | .data d =>
        let p := rewriteSheets s1 f i chunk (chunkPlain i.key i.nonce chunk d)
        p.1.modCopy i.gen (fun _ => p.2)

/-- R237, R238. -/
def execChunkRefetchDone (f : FormeId) (b : BindingId) (chunk : Nat) (r : Fetched Blob) (s : State) : Res :=
  .next (refetchDone s f b chunk r)

end Sys2Proof.Machine
end

