-- ==== Sys2Proof/Machine/Resets.lean ====
section
/-! DEFINITION. Stopping, clearing and keying a forme: the per-function reset and the events that take its outcome (R264, R365,
R366, R381, R382, R406 to R409), and the power of compositor domains (R354). -/
namespace Sys2Proof.Machine

/-! ### Stopping a forme (R184, R264, R413) -/

/-- The pass of a PASSING slug completes at once, its flags with it (R184, R288). -/
def finishPass (s : State) (f : FormeId) (t : SlugTag) : State :=
  match findSlug (s.forme f) t with
  | none => s
  | some sl =>
    if sl.state != .passing then s
    else
      let s0 := if sl.wait == .matchCopy then endCopy s f t 0 else s
      let s1 := if sl.written then s0 else landAll s0 f { sl with matched := if sl.wait == .matchCopy then 0 else sl.matched }
      let lost := match findSlug (s1.forme f) t with | some z => z.remoteLost | none => false
      let s2 := if lost then s1 else ((releaseOps (s1.forme f) sl).drop sl.released).foldl (fun u o => writeFlag u f t o) s1
      match findSlug (s2.forme f) t with
      | some z => slugPassed s2 f z
      | none => s2

/-- The launch is at or past its last pass point: it carries the status it had reached (R413). -/
def launchAtEnd (x : Forme) (l : Launch) : Bool :=
  l.ended.isSome && (x.slugs.filter (fun sl => sl.ring == l.ring && sl.seq == l.seq)).all (fun sl => slugEnded sl || sl.state == .passing)

/-- Impose a status on every fetched, uncompleted launch of a forme: its slugs that have not reached their pass point fail. -/
def imposeAll (code : Code) (x : Forme) : Forme :=
  (x.launches.filter launchOpen).foldl (fun y l => if launchAtEnd y l then y else y.imposeStatus l.ring l.seq code) x

/-- The result lines a ring holds are written once (R264). -/
def flushResults (f : FormeId) (s : State) (r : RingId) : State :=
  (((s.forme f).ring r).heldResults).foldl (fun t q =>
    (heldLines (s.forme f) r q).foldl (fun u p => u.formeDwr f (.result f r q) p.1 p.2) t) s

/-- The held records of a ring and those of its uncompleted launches are written in sequence order (R264). -/
def flushRecords (f : FormeId) (s : State) (r : RingId) : State :=
  let x := s.forme f
  let g := x.ring r
  let recs := (x.launches.filter (fun l => l.ring == r && launchOpen l)).foldl (fun acc l =>
    insertHeld g.done (makeRecord s.time.ticks l) acc) g.held
  recs.foldl (fun t k => t.formeDwr f (.record f r k.seq) (recordAddr g k.seq) (recordBytes k)) s

/-- Every ring number. -/
def allRings : List RingId := List.finRange 64

/-- Stop a forme with a status: launches end, PASSING slugs pass, records are written, and its jobs close with ABORT (R264, R407
phase 1). -/
def stopForme (s : State) (f : FormeId) (code : Code) : State :=
  let s1 := allRings.foldl (flushResults f) s
  let s2 := s1.modForme f (imposeAll code)
  let s3 := (((s2.forme f).slugs.filter (fun sl => sl.state == .passing)).map (·.tag)).foldl (fun t k => finishPass t f k) s2
  closeJobs (allRings.foldl (flushRecords f) s3) f

/-! ### Clearing a forme (R381, R382, R406) -/

/-- The forme an outstanding host access is for. -/
def useForme : EcpUse → Option FormeId
  | .ringEntry f _ | .matterImage f _ _ | .slugRead f _ | .slugWrite f _ | .spillMap f _ | .sheetRead f _ | .sheetWrite f _ | .inkHeader f
  | .inkChunk f | .inkRefetch f _ _ | .record f _ _ | .result f _ _ => some f
  | .imposition | .colophon => none

/-- What a forme asked of host memory, and what it kept of it, is gone (R264, R346). -/
def purgeForme (s : State) (f : FormeId) : State :=
  { s with ports := s.ports.map (fun p => { p with
      reqs := p.reqs.filter (fun r => useForme r.use != some f), copies := p.copies.filter (fun c => c.1 != f) }) }

/-- Shared copies a reset forme inked stay for the formes attached to them, without a source (R240). -/
def orphanCopies (s : State) (f : FormeId) : List ImageCopy :=
  (((s.forme f).inker.bindings.toList.flatMap (fun b => b.image.toList ++ b.old)).filter (·.shared)).map (fun i => { i with dead := i.bad })

/-- The secret of a sharing domain goes when no other keyed forme holds the domain (R171, R381). -/
def dropDomain (s : State) (f : FormeId) : State :=
  match (s.forme f).cfg with
  | some c =>
    if allFormes.any (fun g => g != f && (s.forme g).kStack.isSome && (match (s.forme g).cfg with | some k => k.domain == c.domain | none => false))
    then s else { s with colo := { s.colo with kDom := s.colo.kDom.set c.domain.val none c.domain.isLt } }
  | none => s

/-- The forme's cores abandon their work, run a stop ramp, and hold nothing any more: planes, counts, accumulators, residues, row buffer and
galley are clear; a fence stays (R78, R382, R406). -/
def clearCores (s : State) (f : FormeId) (cs : List CoreId) : State :=
  cs.foldl (fun t c => (t.rampDown f c).modCore c (fun k => { k with filler := false, holdGalley := false, array := .clear })) (s.clearGalley cs)

/-- Copies that other formes make of the forme's leaves stop at the first run not yet copied; how far a copy has come is a value the manual leaves
open, within the runs whose spilled leaves have come (R174, R178; log 89). -/
def endCopies (s : State) (f : FormeId) : State :=
  allFormes.foldl (fun t g => if g = f then t else
    ((t.forme g).slugs.filter (fun sl => sl.state == .passing && sl.wait == .matchCopy && sl.hit.any (·.1 == f))).foldl (fun u sl =>
      let v := u.freshValue
      endCopy v.2 g sl.tag (v.1.toNat % (copyReach t f sl + 1))) t) s

/-- Everything of a forme goes but what a per-function reset keeps; `y` is what replaces it (R406). Its keys are destroyed and its
domains powered off. -/
def clearForme (s : State) (f : FormeId) (y : Forme) : State :=
  let x := s.forme f
  let lost := orphanCopies s f
  let s1 := clearCores (dropDomain (purgeForme (endCopies s f) f) f) f x.cores
  let s2 := s1.setForme f { y with
    cfg := x.cfg, live := false, kStack := none, inkKey := none, epoch := x.epoch, geoGen := x.geoGen, ringsHeld := x.ringsHeld,
    domainsOff := true, offSince := s.time.ticks }
  leaveShared s (trimShared { s2 with
    stack := { s2.stack with stone := s2.stack.stone.filter (fun e => e.owner != f) }
    index := s2.index.filter (fun e => e.forme != f), poolQueue := s2.poolQueue.filter (· != f),
    orphans := s2.orphans ++ lost })

/-- Scrub what a forme holds in stack memory: its regions and its share of the save area (R153, R278, R381). -/
def scrubForme (s : State) (f : FormeId) : State :=
  match (s.forme f).cfg with
  | some c => (List.range c.blocks).foldl (fun t i => t.scrubBytes (saveAddr c (24576 * i)) (24576 * 65536)) (s.scrubRegions c.regions)
  | none => s

/-- Bytes a per-function reset scrubs: regions, save-area share, standing-matter and run-record allotments (R381). -/
def scrubBytes (c : FormeCfg) : Nat :=
  c.stackGib * 2 ^ 30 + (bitsSet c.octets).length * 3 * 2 ^ 29 + 48 * 2 ^ 20 * c.cores.length + c.allot

/-- The forme loses its records: its resources are scrubbed and unassigned (R34, R39, R149). -/
def unassignForme (s : State) (f : FormeId) : State :=
  (scrubForme (clearForme s f Forme.reset) f).modForme f (fun x => { x with cfg := none })

/-! ### Keys (R171, R364 to R366) -/

/-- A secret for a sharing domain that has none (R171). -/
def keyDomain (s : State) (d : Fin 16) : State :=
  if (s.colo.kDom[d.val]).isSome then s
  else let n := s.draw; { n.2 with colo := { n.2.colo with kDom := n.2.colo.kDom.set d.val (some n.1) d.isLt } }

/-- K_STACK, the ink key and K_dom of a forme are generated (R365). -/
def keyForme (s : State) (f : FormeId) (d : Fin 16) : State :=
  let a := s.draw
  let b := a.2.draw
  keyDomain (b.2.modForme f (fun x => { x with kStack := some a.1, inkKey := some b.1 })) d

/-! ### The journal (R403) -/

/-- Write a journal record: the ring keeps the newest 256. -/
def writeJournal (s : State) (r : JournalRec) : State :=
  let n := match s.flash.journal.getLast? with | some l => l.number + 1 | none => 1
  let js := s.flash.journal ++ [{ r with number := n, intact := true }]
  { s with flash := { s.flash with journal := js.drop (js.length - 256) } }

/-- The newest intact record (R403). -/
def standingRecord (s : State) : Option JournalRec := s.flash.journal.reverse.find? (·.intact)

/-- The record that stands, changed. -/
def rewriteJournal (s : State) (g : JournalRec → JournalRec) : State :=
  match standingRecord s with
  | some r => writeJournal s (g r)
  | none => s

/-- Formes are withheld: the mask is set, and kept in the journal (R33, R39, R149). -/
def setWithheld (s : State) (mask : BitVec 16) : State :=
  rewriteJournal { s with colo := { s.colo with withheld := mask } } (fun r => { r with withheld := mask })

/-- A forme is stopped with a status and withheld (R149). -/
def withholdForme (s : State) (f : FormeId) (code : Code) : State :=
  setWithheld (unassignForme (stopForme s f code) f) (s.colo.withheld ||| oneBit 16 f.val)

/-! ### COLO_SCRUB (R382) -/

/-- A scrub starts. -/
def scrubStarts (s : State) (cause : BitVec 3) (f : Nat) (gib : Nat) : State :=
  { s with colo := { s.colo with scrub := {
      active := true, cause := cause, forme := BitVec.ofNat 4 f, gibDone := 0, gibTotal := BitVec.ofNat 16 gib } } }

/-- A scrub ends; COLO_SCRUB goes on with that of another forme in a per-function reset. -/
def scrubEnds (s : State) : State :=
  match allFormes.find? (fun f => 3 ≤ (s.forme f).ecp.phase.toNat) with
  | some f => scrubStarts s 1 f.val (ceilDiv ((s.forme f).ecp.totalMib.toNat) 1024)
  | none => { s with colo := { s.colo with scrub := {
      active := false, cause := 0, forme := 0, gibDone := s.colo.scrub.gibTotal, gibTotal := s.colo.scrub.gibTotal } } }

/-! ### The per-function reset (R39, R383, R407, R409) -/

/-- Phases 1 to 3 of a per-function reset. -/
def functionReset (s : State) (f : FormeId) : State :=
  match (s.forme f).cfg with
  | none => s
  | some c =>
    let s1 := clearForme (stopForme s f 0x0D05) f Forme.reset
    let s2 := s1.modForme f (fun x => { x with ecp := { x.ecp with phase := 3, totalMib := BitVec.ofNat 32 (ceilDiv (scrubBytes c) (2 ^ 20)) } })
    scrubStarts s2 1 f.val (ceilDiv (scrubBytes c) (2 ^ 30))

/-- A per-function reset of a forme a re-imposition names, before its phase 6: the forme is abandoned (R39). -/
def abandonForme (s : State) (f : FormeId) : State :=
  let s1 := unassignForme (stopForme s f 0x0D05) f
  let bit := oneBit 16 f.val
  { s1 with colo := { s1.colo with
      abandoned := s1.colo.abandoned ||| bit, done := s1.colo.done &&& ~~~ bit,
      reimp := s1.colo.reimp.map (fun r => { r with abandoned := r.abandoned ||| bit, done := r.done &&& ~~~ bit }) } }

/-- The forme's scrub is done: new keys, KEY_EPOCH plus 1, and the forme is imposed but idle; without entropy no key is issued
(R364, R366, R407 phases 4 and 5). -/
def resetScrubDone (s : State) (f : FormeId) (entropyOk : Bool) : State :=
  match (s.forme f).cfg with
  | some c =>
    if (s.forme f).ecp.phase = 4 then
      let s1 := scrubForme s f
      if entropyOk && !s.colo.mgmtOnly then
        scrubEnds ((keyForme s1 f c.domain).modForme f (fun x => { x with
          live := true, epoch := x.epoch + 1, ecp := { x.ecp with phase := 0, totalMib := 0 } }))
      else entropyFails (scrubEnds (s1.modForme f (fun x => { x with ecp := { x.ecp with phase := 5 } })))
    else s
  | none => s

/-- R407. -/
def execFunctionResetScrubDone (f : FormeId) (entropyOk : Bool) (s : State) : Res := .next (resetScrubDone s f entropyOk)

/-- Domains held discharged for at least 100 strokes since a tick (R382). -/
def discharged (s : State) (since : Word) : Bool := decide (100 ≤ (s.time.ticks - since).toNat)

/-- R382: platen confirms the discharge, and the domains are powered again with galley and scratch zero. -/
def execDomainDischargeDone (scope : ClearScope) (s : State) : Res :=
  match scope with
  | .forme f =>
    let x := s.forme f
    if x.domainsOff && discharged s x.offSince then
      .next (s.modForme f (fun x => { x with
        domainsOff := false, ecp := { x.ecp with phase := if x.ecp.phase = 3 then 4 else x.ecp.phase } }))
    else .next s
  | .quoin =>
    match s.colo.opening with
    | some o =>
      if o.domainsOff && discharged s o.offSince then
        .next { s.mapFormes (fun _ x => { x with domainsOff := false }) with
          colo := { s.colo with opening := some { o with domainsOff := false } } }
      else .next s
    | none => .next s

/-! ### Compositor domains (R354) -/

/-- A compositor core has a wake event: a message waits, or a doorbell has been accepted, or a launch is in flight. -/
def wakeDue (s : State) (c : CompId) : Bool :=
  allFormes.any (fun f => match (s.forme f).cfg with
    | some k => k.compositor == c && !(s.forme f).domainsOff &&
        ((s.forme f).mbox.full || 0 < formeInflight (s.forme f) || (s.forme f).rings.toList.any (fun g => !g.bells.isEmpty))
    | none => false)

/-- R354: the wake event restores the domain, and a waiting message is taken after that. -/
def execCompositorWake (c : CompId) (s : State) : Res :=
  if wakeDue s c then
    .next (allFormes.foldl (fun t f => match (t.forme f).cfg with
      | some k => if k.compositor == c then t.rejectUndefined (.plain f) else t
      | none => t) (s.modComp c (fun k => { k with powered := true, idle := 0 })))
  else .next s

/-- R354: platen gates a bound compositor's domain after 10,000 idle ticks. -/
def execCompositorPowerGate (c : CompId) (s : State) : Res :=
  let bound := allFormes.any (fun f => match (s.forme f).cfg with | some k => k.compositor == c | none => false)
  .next (if bound && (s.comp c).powered && 10000 ≤ (s.comp c).idle && !wakeDue s c then
      s.modComp c (fun k => { k with powered := false })
    else s)

end Sys2Proof.Machine
end

