-- ==== Sys2Proof/Machine/Imposition.lean ====
section
/-! DEFINITION. Impositions: the image, its 23 checks, and live re-imposition (R24 to R39, R241, R403 to R405). -/
namespace Sys2Proof.Machine

/-! ### Fuses (R358) -/

/-- The active slot of a hash field: its lowest slot programmed and not revoked (R358). -/
def activeSlot (v : Vector HashSlot 4) : Option (BitVec 256) := (v.toList.find? (fun k => k.programmed && !k.revoked)).map (·.hash)

/-- A frisket rule is blown, in the order of COLO_FUSE_RULES (R361). -/
def ruleBlown (s : State) (n : Nat) : Bool := s.fuses.rules.getLsbD n

/-! ### Identity (R362, R363) -/

/-- A byte string at its full length. -/
def fitBytes (n : Nat) (bs : List Byte) : List Byte := (bs ++ List.replicate n 0).take n

/-- The seed of the identity key pair (R362). -/
def identityXi (s : State) : List Byte := shake256 (ascii "KTID1" ++ leBytes 32 s.fuses.identitySeed.toNat) 32

/-- The identity public key: the module identity (R362). -/
def identityKey (s : State) : List Byte := fitBytes 1952 (Config.dsaPublicKey (identityXi s))

/-- The identity hash (R362). -/
def identityHash (s : State) : BitVec 256 := shake256Hash (identityKey s)

/-- A signature by the identity key, in pure mode with a context (R368, R373). -/
def identitySign (s : State) (context : String) (msg : List Byte) : List Byte := fitBytes 3309 (Config.dsaSignature (identityXi s) (ascii context) msg)

/-- The identity certificate: MAGIC, PART, STEPPING and nine zero bytes, then the key and its signature (R363). -/
def identityBytes (s : State) : List Byte :=
  leBytes 4 0x54524543 ++ leBytes 2 0x2410 ++ leBytes 1 s.fuses.stepping.toNat ++ leBytes 9 0 ++ identityKey s ++ fitBytes 3309 Config.certificateSignature

/-! ### The image (R28 to R30) -/

/-- RECORD_SIZE of an imposition section (R30). -/
def impRecordSize : Nat → Nat
  | 1 => 16
  | 2 => 8
  | 3 => 8
  | 4 => 16
  | 5 => 8
  | 6 => 8
  | 7 => 8
  | _ => 0

/-- The entries in use of the section table (R30). -/
def impSections (b : Blob) : List SectionEntry :=
  ((List.range 12).map (fun i => sectionAt b (0x40 + 16 * i))).filter (·.type != 0)

/-- The section of a type. -/
def impSection (b : Blob) (t : Nat) : SectionEntry := ((impSections b).find? (·.type == t)).getD default

/-- One-word records of a section. -/
def impWords (b : Blob) (t : Nat) : List Word :=
  let e := impSection b t
  (List.range e.count).map (fun i => blobWord b (e.offset + 16 + e.size * i))

/-- Two-word records of a section. -/
def impPairs (b : Blob) (t : Nat) : List (Word × Word) :=
  let e := impSection b t
  (List.range e.count).map (fun i => (blobWord b (e.offset + 16 + e.size * i), blobWord b (e.offset + 24 + e.size * i)))

/-- The section head. -/
def impHead (b : Blob) (t : Nat) : Word × Word :=
  let e := impSection b t
  (blobWord b e.offset, blobWord b (e.offset + 8))

/-- The image's fields and records. -/
def impParse (b : Blob) : Imposition :=
  { sequence := blobWord b 0x10, svnMin := BitVec.ofNat 32 (blobLe b 0x18 4), formeCount := blobLe b 0x1C 1,
    debugScopes := BitVec.ofNat 8 (blobLe b 0x1D 1), flags := BitVec.ofNat 16 (blobLe b 0x0E 2), named := BitVec.ofNat 16 (blobLe b 0x1E 2),
    formes := impPairs b 1, memory := impWords b 2, port := impWords b 3, link := impPairs b 4, share := impWords b 5,
    power := impWords b 6, stroke := impWords b 7, powerHead := impHead b 6, strokeHead := impHead b 7 }

/-- The FORME field of a record. -/
def recForme (w : Word) : Nat := fld w 3 0

/-- PARTIAL and DEBUG_SCRUB_ALL (R29). -/
def Imposition.partial' (i : Imposition) : Bool := i.flags.getLsbD 0
/-- As `partial'`. -/
def Imposition.scrubAll (i : Imposition) : Bool := i.flags.getLsbD 1

/-- The forme numbers of an image. -/
def impFormes (i : Imposition) : List Nat := i.formes.map (fun p => recForme p.1)

/-- The FORME, PORT, LINK, SHARE, POWER and STROKE records of a forme, and its regions. -/
structure FormeRecs where
  (w0 w1 port link0 link1 share power stroke : Word)
  memory : List Word
  deriving DecidableEq, Repr, Inhabited

/-- A forme's records in an image. -/
def formeRecs (i : Imposition) (f : Nat) : Option FormeRecs :=
  let one (ws : List Word) : Option Word := ws.find? (fun w => recForme w == f)
  match i.formes.find? (fun p => recForme p.1 == f), one i.port, i.link.find? (fun p => recForme p.1 == f), one i.share, one i.power, one i.stroke with
  | some a, some p, some l, some h, some w, some t =>
    some { w0 := a.1, w1 := a.2, port := p, link0 := l.1, link1 := l.2, share := h, power := w, stroke := t,
           memory := i.memory.filter (fun m => recForme m == f) }
  | _, _, _, _, _, _ => none

/-- Cores of the octets of a FORME record. -/
def recCores (r : FormeRecs) : Nat := 8 * (bitsSet (BitVec.ofNat 16 (fld r.w0 23 8))).length
/-- Regions of a forme, base and length (R30). -/
def recRegions (r : FormeRecs) : List Region := r.memory.map (fun m => { base := fld m 31 16, len := fld m 47 32 })
/-- STACK_GIB + SPILL_GIB (R159). -/
def recGib (r : FormeRecs) : Nat := sumNat ((recRegions r).map (·.len)) + fld r.port 31 16

/-! ### Rings (R241) -/

/-- The largest power of two at most a number; 0 for 0. -/
def powerBelow (n : Nat) : Nat := if n = 0 then 0 else 2 ^ Nat.log2 n
/-- A number rounded up to a power of two. -/
def powerAbove (n : Nat) : Nat := if n ≤ 1 then 1 else 2 ^ (Nat.log2 (n - 1) + 1)

/-- RINGS of the formes an image assigns, by forme: ascending on each port, after the rings of formes that keep theirs (R241). -/
def assignRings (s : State) (i : Imposition) (named : BitVec 16) : List (Nat × Nat) :=
  let portOf (f : Nat) : Nat := match formeRecs i f with | some r => fld r.port 5 4 | none => 0
  (impFormes i).foldl (fun acc f =>
    if !named.getLsbD f then acc
    else
      let p := portOf f
      let here := (impFormes i).filter (fun g => portOf g == p)
      let kept := sumNat ((here.filter (fun g => !named.getLsbD g)).map (fun g => ((s.formes[g]?).map (·.ringsHeld)).getD 0))
      let given := sumNat ((acc.filter (fun a => portOf a.1 == p)).map (·.2))
      acc ++ [(f, powerBelow (min (64 / powerAbove here.length) (64 - kept - given)))]) []

/-! ### The checks (R32) -/

/-- A refusal: code, section type and forme (R33). -/
abbrev ImpRefusal := Code × Nat × Nat

/-- A check of one forme's records over all of them, ascending: the first forme that fails. -/
def eachForme (i : Imposition) (code : Code) (sec : Nat) (p : Nat → FormeRecs → Bool) : Option ImpRefusal :=
  ((impFormes i).find? (fun f => match formeRecs i f with | some r => !p f r | none => true)).map (fun f => (code, sec, f))

/-- Check 2: the signer's key hashes to the active slot; only a module with no programmed slot skips it (R32, R358). -/
def signerAccepted (s : State) (b : Blob) : Bool :=
  match activeSlot s.fuses.signer with
  | some h => signerKeyHash b == h
  | none => s.fuses.signer.toList.all (fun k => !k.programmed)

/-- Checks 1 to 6: what needs no section. Check 4 compares the running firmware with FW_SVN_MIN whatever is fused: while
FR_SVN_MIN is unblown the fused minimum is 0 (log 83). -/
def impHeaderCheck (s : State) (img : SignedImage) : Option ImpRefusal :=
  let b := img.blob
  let i := impParse b
  let target : BitVec 256 := BitVec.ofNat 256 (blobLe b 0x20 32)
  if !(b.length == 65536 && blobLe b 0 4 == 0x4F504D49 && blobLe b 4 2 == 1 && blobLe b 6 2 == 0x2410 && blobLe b 8 4 == 65536) then some (0x0001, 0, 0)
  else if !signerAccepted s b then some (0x0004, 0, 0)
  else if !(blobLe b 0xE000 4 == 0x47495349 && blobLe b 0xE004 2 == 0x0041 && img.sigOk) then some (0x0005, 0, 0)
  else if i.svnMin.toNat < s.fuses.svnMin || s.colo.fwSvn.toNat < i.svnMin.toNat then some (0x0006, 0, 0)
  else if !(s.colo.seq.toNat < i.sequence.toNat || (i.sequence == s.colo.seq && impositionHash b == s.colo.hash)) then some (0x0007, 0, 0)
  else if (target != 0 && target != identityHash s) || (target == 0 && ruleBlown s 0) then some (0x0008, 0, 0)
  else none

/-- Check 7: the section table (R30). Two sections that overlap are reported with SECTION 0, since both are involved, and R32 names no
one of them (log 83). -/
def impSectionCheck (b : Blob) : Option ImpRefusal :=
  let es := impSections b
  let count := blobLe b 0x0C 2
  let known := es.filter (·.type ≤ 7)
  let right (e : SectionEntry) : Bool :=
    e.version == 1 && e.size == impRecordSize e.type &&
    (if e.type = 2 then 1 ≤ e.count && e.count ≤ 256 else e.count == blobLe b 0x1C 1)
  let bad (e : SectionEntry) : Option ImpRefusal := some (0x0003, e.type % 256, 0)
  if !(7 ≤ count && count ≤ 12 && es.length == count) then some (0x0003, 0, 0)
  else match es.find? (fun e => !sectionBounds 0xE000 e) with
    | some e => bad e
    | none => match known.find? (fun e => !right e || 1 < (known.filter (·.type == e.type)).length) with
      | some e => bad e
      | none => match (List.range 7).find? (fun t => !known.any (·.type == t + 1)) with
        | some t => some (0x0003, t + 1, 0)
        | none =>
          if !sectionsApart es then some (0x0003, 0, 0)
          else ([1, 2, 3, 4, 5, 6, 7].find? (fun t =>
              !ascending ((if t = 1 || t = 4 then (impPairs b t).map (·.1) else impWords b t).map recForme))).map (fun t => (0x0003, t, 0))

/-- Check 8: forme numbers. -/
def impFormeCheck (i : Imposition) : Option ImpRefusal :=
  let ns := impFormes i
  let same (sec : Nat) (xs : List Nat) : Option ImpRefusal :=
    ((List.range ns.length).find? (fun k => xs[k]? != ns[k]?)).map (fun k => (0x0010, sec, xs.getD k 0))
  if !(1 ≤ i.formeCount && i.formeCount ≤ 16) then some (0x0010, 1, 0)
  else match ns.find? (fun n => 1 < (ns.filter (· == n)).length) with
    | some n => some (0x0010, 1, n)
    | none =>
      match same 3 (i.port.map recForme) with
      | some e => some e
      | none => match same 4 (i.link.map (fun p => recForme p.1)) with
        | some e => some e
        | none => match same 5 (i.share.map recForme) with
          | some e => some e
          | none => match same 6 (i.power.map recForme) with
            | some e => some e
            | none => match same 7 (i.stroke.map recForme) with
              | some e => some e
              | none => (i.memory.find? (fun m => !ns.contains (recForme m))).map (fun m => (0x0010, 2, recForme m))

/-- Some region of some forme meets a given one, the region itself (the k-th of forme f) apart. -/
def regionMeets (i : Imposition) (f : Nat) (k : Nat) (r : Region) : Bool :=
  (impFormes i).any (fun g => match formeRecs i g with
    | some q => !allIdx (recRegions q) (fun j t => (g == f && j == k) || r.base + r.len ≤ t.base || t.base + t.len ≤ r.base)
    | none => false)

/-- No two of a list of formes agree on a property; the later forme of the first pair. -/
def clash (i : Imposition) (key : FormeRecs → Nat) : Option Nat :=
  (impFormes i).find? (fun f => match formeRecs i f with
    | some r => ((impFormes i).takeWhile (· != f)).any (fun g => match formeRecs i g with | some q => key q == key r | none => false)
    | none => false)

/-- Every core of a forme's octets works (R32 check 9). -/
def octetsWork (s : State) (r : FormeRecs) : Bool := allCores.all (fun c => !bitOf r.w0 (8 + c.val / 8) || (s.core c).working)

/-- The other formes hold none of a forme's octets. -/
def octetsApart (i : Imposition) (f : Nat) (r : FormeRecs) : Bool :=
  ((impFormes i).takeWhile (· != f)).all (fun g => match formeRecs i g with
    | some q => (BitVec.ofNat 16 (fld q.w0 23 8) &&& BitVec.ofNat 16 (fld r.w0 23 8)) == 0
    | none => true)

/-- Checks 9 to 22 in their order. -/
def impRecordCheck (s : State) (i : Imposition) : Option ImpRefusal :=
  let cap := fld i.powerHead.1 15 0
  let source := fld i.strokeHead.1 2 0
  let fallback := fld i.strokeHead.1 6 4
  let timeout := fld i.strokeHead.1 63 32
  let shares := sumNat (i.power.map (fun w => fld w 31 16))
  [ eachForme i 0x0011 1 (fun f r => fld r.w0 23 8 != 0 && octetsApart i f r && octetsWork s r),
    eachForme i 0x0012 1 (fun _ r => fld r.w1 15 0 == 192 * recCores r),
    eachForme i 0x0013 1 (fun _ r => fld r.w1 47 32 != 0 &&
      (!ruleBlown s 1 || (16 ≤ fld r.w1 31 16 && 32 ≤ fld r.w1 47 32 && 2 * (fld r.w1 31 16 + fld r.w1 47 32) ≤ fld r.w1 15 0))),
    eachForme i 0x0014 2 (fun f r => 1 ≤ r.memory.length && r.memory.length ≤ 16 &&
      allIdx (recRegions r) (fun k t => 1 ≤ t.len && t.base + t.len ≤ s.usableGib && !regionMeets i f k t)),
    if ruleBlown s 2 then (clash i (fun r => 16 * fld r.port 5 4 + fld r.port 11 8)).map (fun f => (0x0015, 3, f)) else none,
    match clash i (fun r => fld r.w0 27 24) with
    | some f => some (0x0016, 1, f)
    | none => eachForme i 0x0016 1 (fun _ r => fld r.w0 (9 + 2 * (fld r.w0 27 24 / 2)) (8 + 2 * (fld r.w0 27 24 / 2)) != 0),
    eachForme i 0x0017 4 (fun _ r => fld r.link0 44 32 ≤ 4096 && fld r.link0 27 16 + fld r.link0 44 32 ≤ 4096 && fld r.link1 7 0 ≤ 64 &&
      (!bitOf r.stroke 4 || (fld r.link0 9 4 == 0 && !bitOf r.link0 12 && fld r.link0 44 32 == 0))),
    eachForme i 0x0018 5 (fun _ r => 1 ≤ fld r.share 31 16),
    if !(1200 ≤ cap && cap ≤ 2400) then some (0x0019, 6, 0)
    else match eachForme i 0x0019 6 (fun _ r => 40 * recCores r ≤ 8 * fld r.power 31 16) with
      | some e => some e
      | none => if cap < shares then some (0x0019, 6, 0) else none,
    if !(source ≤ 6 && source != fallback) then some (0x001A, 7, 0) else none,
    if !(1000 ≤ timeout && timeout ≤ 4000000000) then some (0x001B, 7, 0) else none,
    if ruleBlown s 3 then eachForme i 0x001C 1 (fun f r => (impFormes i).all (fun g => f ≤ g || (match formeRecs i g with
      | some q => fld q.w0 51 48 != fld r.w0 51 48 || fld q.w0 47 32 == fld r.w0 47 32
      | none => true))) else none,
    if ruleBlown s 4 then (clash i (fun r => fld r.w0 51 48)).map (fun f => (0x001C, 1, f)) else none,
    if ruleBlown s 5 && i.debugScopes &&& 7 != 0 && !i.scrubAll then some (0x001D, 0, 0) else none
  ].findSome? id

/-- The section in which a forme's records differ between two images: the lowest TYPE, and FORME where the forme has records in one
image only (R36; the order is the model's choice, log 83). -/
def differingSection (a b : Option FormeRecs) : Nat :=
  match a, b with
  | some x, some y =>
    if (x.w0, x.w1) != (y.w0, y.w1) then 1 else if x.memory != y.memory then 2 else if x.port != y.port then 3
    else if (x.link0, x.link1) != (y.link0, y.link1) then 4 else if x.share != y.share then 5 else if x.power != y.power then 6 else 7
  | _, _ => 1

/-- Check 23: with PARTIAL = 1 the records of unnamed formes and both heads are those of the committed image, and every named forme
gets a ring (R35, R36, R241). What a named forme is given then belonged to named formes or to none: checks 9, 12, 13, 14 and 17 keep
it apart from the records of unnamed formes, which are those of the committed image. With no committed image there are no heads to
compare, and an image that names every forme it describes is accepted (log 83). -/
def impPartialCheck (s : State) (old : Option Imposition) (i : Imposition) : Option ImpRefusal :=
  if !i.partial' then none
  else
    let unnamed := (List.range 16).filter (fun f => !i.named.getLsbD f)
    match unnamed.find? (fun f => formeRecs i f != old.bind (fun o => formeRecs o f)) with
    | some f => some (0x0020, differingSection (formeRecs i f) (old.bind (fun o => formeRecs o f)), f)
    | none =>
      if (old.any (fun o => o.powerHead != i.powerHead)) then some (0x0020, 6, 0)
      else if (old.any (fun o => o.strokeHead != i.strokeHead)) then some (0x0020, 7, 0)
      else ((assignRings s i i.named).find? (·.2 == 0)).map (fun a => (0x0020, 3, a.1))

/-- All the checks of R32 on an image, against a committed one. -/
def impCheck (s : State) (old : Option Imposition) (img : SignedImage) : Option ImpRefusal :=
  let i := impParse img.blob
  match impHeaderCheck s img with
  | some e => some e
  | none => match impSectionCheck img.blob with
    | some e => some e
    | none => match impFormeCheck i with
      | some e => some e
      | none => match impRecordCheck s i with
        | some e => some e
        | none => impPartialCheck s old i

/-! ### A forme's records in force -/

/-- Run-record allotment of a forme: its share of 1,984 MiB, in 64-byte units rounded down (R159). -/
def runAllot (i : Imposition) (r : FormeRecs) : Nat :=
  let total := sumNat ((impFormes i).map (fun f => match formeRecs i f with | some q => recGib q | none => 0))
  2080374784 * recGib r / max 1 total / 64 * 64

/-- A forme's records, resolved. -/
def resolveForme (i : Imposition) (rings : Nat) (r : FormeRecs) : FormeCfg :=
  { octets := BitVec.ofNat 16 (fld r.w0 23 8), compositor := Fin.ofNat 16 (fld r.w0 27 24), clientTag := BitVec.ofNat 16 (fld r.w0 47 32),
    domain := Fin.ofNat 16 (fld r.w0 51 48), galleyMib := fld r.w1 15 0, proofMib := fld r.w1 31 16, swapMib := fld r.w1 47 32,
    regions := recRegions r, port := Fin.ofNat 4 (fld r.port 5 4), fn := Fin.ofNat 16 (fld r.port 11 8), spillGib := fld r.port 31 16,
    linkMask := BitVec.ofNat 6 (fld r.link0 9 4), remoteLoad := bitOf r.link0 10, remoteStore := bitOf r.link0 11,
    collective := bitOf r.link0 12, remoteBase := fld r.link0 27 16, remoteCount := fld r.link0 44 32, maxJobs := fld r.link1 7 0,
    weight := fld r.share 31 16, capShare := fld r.power 31 16, localTime := bitOf r.stroke 4, rings := rings, allot := runAllot i r }

/-- Some region of a forme of the image reaches past usable stack memory. -/
def pastUsable (s : State) (i : Imposition) (f : Nat) : Bool :=
  match formeRecs i f with
  | some r => (recRegions r).any (fun t => s.usableGib < t.base + t.len)
  | none => false

/-! ### IMPOSE (R24 to R27, R403) -/

/-- End an IMPOSE exchange: CODE, SECTION and FORME are kept, PHASE is 0, and the requester is answered (R33, R355). -/
def impEnd (s : State) (e : ImpRefusal) : State :=
  let s1 := { s with colo := { s.colo with
    code := e.1, secType := BitVec.ofNat 8 e.2.1, formeNo := BitVec.ofNat 4 e.2.2, phase := 0, requester := none, reimp := none,
    named := 0, done := 0, abandoned := 0 } }
  match s.colo.requester with
  | some (p, tag) => s1.respond (.secure p) (mkResponse 0x0101 tag e.1 [])
  | none => s1

/-- An imposition is being checked or a re-imposition or opening runs, or bring-up is not complete (R26, R383, R403). -/
def impBusy (s : State) : Bool := s.colo.phase != 0 || s.colo.opening.isSome || !s.boot.ready

/-- A refusal that leaves the operation in progress as it is. -/
def impRefuse (s : State) (p : PortId) (tag : BitVec 16) (c : Code) : State :=
  ({ s with colo := { s.colo with code := c, secType := 0, formeNo := 0 } }).respond (.secure p) (mkResponse 0x0101 tag c [])

/-- R24: an IMPOSE exchange: refused, or the image is fetched through the channel's port. -/
def execImpose (p : PortId) (s : State) : Res :=
  .next (exchange s (.secure p) 0x0101 (fun m t =>
    let tag := msgTag m
    if impBusy t then impRefuse t p tag 0x0021
    else if t.stack.retired then impRefuse t p tag 0x0803
    else if m[2] != 65536 then impRefuse t p tag 0x0001
    else ({ t with colo := { t.colo with phase := 1, requester := some (p, tag) } }).sendDrd p 16 .imposition false m[1] 65536))

/-- The inking of a forme is abandoned at draining; its block reads as after a per-function reset (R240). -/
def abandonInk (x : Forme) : Forme :=
  resumeService { x with inker := { x.inker with req := none, state := 0, code := 0, binding := 0, done := 0, total := 0 } }

/-- A named forme drains: its rings fetch no more (R37 phase 2). -/
def drainForme (x : Forme) : Forme :=
  let y := abandonInk x
  { y with drained := true, rings := y.rings.map (fun r => if r.state == 1 then { r with state := 4 } else r) }

/-- The formes a re-imposition names: as the image says, or every forme of the old and of the new image (R34, R405). -/
def namedBy (s : State) (i : Imposition) : BitVec 16 :=
  if i.partial' then i.named
  else
    let mask (ns : List Nat) : BitVec 16 := ns.foldl (fun m f => m ||| oneBit 16 f) 0
    mask (impFormes i) ||| (match s.colo.committed with | some o => mask (impFormes o) | none => s.colo.withheld)

/-- The journal record of a re-imposition (R37, R403). -/
def journalPhase (s : State) (phase : BitVec 3) (r : Reimp) : State :=
  let base : JournalRec := match standingRecord s with
    | some j => j
    | none => { number := 0, hash := 0, newHash := none, seq := 0, newSeq := none, named := 0, phase := 0, withheld := s.colo.withheld, slot := none, intact := true }
  writeJournal s { base with newHash := some r.hash, newSeq := some r.imp.sequence, named := r.named, phase := phase }

/-- The checks passed: the journal record opens and the named formes drain (R37). -/
def reimpose (s : State) (img : SignedImage) (i : Imposition) : State :=
  let named := namedBy s i
  let r : Reimp := { image := img, imp := i, hash := impositionHash img.blob, full := !i.partial', named := named, done := 0, abandoned := 0 }
  let s1 := journalPhase { s with colo := { s.colo with phase := 2, reimp := some r, named := named, done := 0, abandoned := 0 } } 2 r
  s1.mapFormes (fun f x => if named.getLsbD f.val && x.cfg.isSome then drainForme x else x)

/-- The bytes of an image that its signature covers, and the signature: 0x0000 to 0xF49C (R31). -/
def signedCells (b : Blob) : List (Nat × Byte) := b.cells.filter (fun c => decide (c.1 < 0xF49D) && c.2 != 0)

/-- The verdict of FIPS 204 on an image: what it was when these bytes were first presented (R31; log 7). -/
def signatureVerdict (s : State) (img : SignedImage) : Bool :=
  match s.verdicts.find? (fun v => v.1 == signedCells img.blob) with
  | some v => v.2
  | none => img.sigOk

/-- The image with its verdict, which is kept for every later presentation of the same bytes. -/
def judgeImage (s : State) (img : SignedImage) : SignedImage × State :=
  let ok := signatureVerdict s img
  ({ img with sigOk := ok },
   { s with verdicts := if s.verdicts.any (fun v => v.1 == signedCells img.blob) then s.verdicts else s.verdicts ++ [(signedCells img.blob, ok)] })

/-- The image is in: it is refused whole, accepted as the committed one, or its re-imposition starts (R24 to R37). -/
def impositionFetched (s : State) (r : Fetched SignedImage) : State :=
  if s.colo.phase = 1 then
    let s1 := match s.colo.requester with | some (p, _) => s.retire p (fun q => q.use == .imposition) | none => s
    match r with
      | .fault _ _ => impEnd s1 (0x1102, 0, 0)
      | .data given =>
        let j := judgeImage s1 given
        let img := j.1
        let s2 := j.2
        match impCheck s2 s2.colo.committed img with
        | some e => impEnd s2 e
        | none =>
          if (impParse img.blob).sequence == s2.colo.seq && impositionHash img.blob == s2.colo.hash then impEnd s2 (0, 0, 0)
          else reimpose s2 img (impParse img.blob)
  else s

/-- R24 to R37. -/
def execImpositionFetched (r : Fetched SignedImage) (s : State) : Res := .next (impositionFetched s r)

/-! ### Phases of a re-imposition (R37 to R39) -/

/-- The named formes that have not been abandoned. -/
def stillNamed (r : Reimp) : List FormeId := allFormes.filter (fun f => r.named.getLsbD f.val && !r.abandoned.getLsbD f.val)

/-- A re-imposition whose new regions reach past usable memory is abandoned: the named formes are withheld (R39). -/
def abandonReimp (s : State) (r : Reimp) (e : ImpRefusal) : State :=
  let s1 := (stillNamed r).foldl (fun t f => if ((t.forme f).cfg).isSome then unassignForme (stopForme t f 0x0802) f else t) s
  let mask := match s.colo.committed with
    | some o => s.colo.withheld ||| ((impFormes o).foldl (fun m f => if r.named.getLsbD f then m ||| oneBit 16 f else m) 0)
    | none => s.colo.withheld
  impEnd (rewriteJournal (setWithheld s1 mask) (fun j => { j with newHash := none, newSeq := none, named := 0, phase := 0 })) e

/-- The first forme of a re-imposition that no longer fits usable memory. -/
def reimpPast (s : State) (r : Reimp) : Option FormeId := (stillNamed r).find? (fun f => pastUsable s r.imp f.val)

/-- A named forme is scrubbed: its work is over, its jobs close, its keys and galley go, its registers return to reset values (R37
phase 3). -/
def scrubNamed (s : State) (f : FormeId) : State :=
  if ((s.forme f).cfg).isSome then
    (clearForme (closeJobs s f) f Forme.reset).modForme f (fun x => { x with drained := true })
  else s

/-- R37: the named formes have no launch in flight: phase 3 starts. -/
def execReimposeDrainDone (s : State) : Res :=
  match s.colo.reimp with
  | some r =>
    if s.colo.phase = 2 && (stillNamed r).all (fun f => (s.forme f).launches.all (fun l => !launchOpen l) && !(s.forme f).rings.toList.any (·.fetching)) then
      let s1 := (stillNamed r).foldl scrubNamed s
      let bytes := sumNat ((stillNamed r).map (fun f => match (s.forme f).cfg with | some c => scrubBytes c | none => 0))
      let s2 := match (stillNamed r).find? (fun f => ((s.forme f).cfg).isSome) with
        | some f => scrubStarts s1 2 f.val (ceilDiv bytes (2 ^ 30))
        | none => s1
      .next (journalPhase { s2 with colo := { s2.colo with phase := 3 } } 3 r)
    else .next s
  | none => .next s

/-- Phase 4 for one named forme: its cores, galley, compositor, regions, port function, link rights, share and cap share are those of
the new image, or it holds nothing where the image has no records for it. Its RINGS are set at the commit (R37, R241). -/
def partitionForme (i : Imposition) (s : State) (f : FormeId) : State :=
  s.modForme f (fun x => { x with cfg := (formeRecs i f.val).map (resolveForme i 0) })

/-- A change of source is treated as loss of the old source (R405). -/
def sourceChange (s : State) (old : Option Imposition) (i : Imposition) : State :=
  match old with
  | some o =>
    let active := s.time.active.toNat
    if o.strokeHead != i.strokeHead && active < 7 && (fld i.strokeHead.1 2 0 != active) &&
        (fld o.strokeHead.1 2 0 != fld i.strokeHead.1 2 0 || fld i.strokeHead.1 6 4 != active) then sourceLost s else s
  | none => s

/-- Phase 4 of a full re-imposition applies the module's own figures as well: MODULE_CAP_W, LAUNCH_TIMEOUT, SOURCE and FALLBACK, the two heads; where
nothing is committed yet they come with the commit (R405; log 83). -/
def applyHeads (s : State) (r : Reimp) : State :=
  if r.full then
    let t := { s with colo := { s.colo with committed := s.colo.committed.map (fun o => { o with powerHead := r.imp.powerHead, strokeHead := r.imp.strokeHead }) } }
    sourceChange t s.colo.committed r.imp
  else s

/-- The new keys of a named forme (R37 phase 5); KEY_EPOCH counts those after the first (R366). -/
def keyNamed (r : Reimp) (s : State) (f : FormeId) : State :=
  match formeRecs r.imp f.val with
  | some q =>
    let old := s.colo.committed.any (fun o => (formeRecs o f.val).isSome) && !s.colo.withheld.getLsbD f.val
    (keyForme s f (Fin.ofNat 16 (fld q.w0 51 48))).modForme f (fun x => { x with epoch := if old then x.epoch + 1 else x.epoch })
  | none => s

/-- The formes a re-imposition keys: those it names that have records in the new image. A named forme that is removed is never keyed, so
its DONE bit stays 0 (log 83). -/
def keyedMask (r : Reimp) : BitVec 16 :=
  (stillNamed r).foldl (fun m f => if (formeRecs r.imp f.val).isSome then m ||| oneBit 16 f.val else m) 0

/-- Phases 4 and 5: the regions are tested once more, the named formes take their records, and new keys are generated (R37, R39,
R364). -/
def reimpKey (s : State) (r : Reimp) (entropyOk : Bool) : State :=
  match reimpPast s r with
  | some f => abandonReimp s r (0x0014, 2, f.val)
  | none =>
    let s1 := scrubEnds ((stillNamed r).foldl scrubForme s)
    let s2 := journalPhase (applyHeads ((stillNamed r).foldl (partitionForme r.imp) (journalPhase s1 4 r)) r) 5 r
    if entropyOk && !s.colo.mgmtOnly then
      let done := keyedMask r
      let s3 := (stillNamed r).foldl (keyNamed r) s2
      journalPhase { s3 with colo := { s3.colo with phase := 6, done := done, reimp := some { r with done := done } } } 6 r
    else entropyFails (abandonReimp s2 r (0x130A, 0, 0))

/-- R37: the scrub of the named formes is done and their domains are powered again. -/
def execReimposeScrubDone (entropyOk : Bool) (s : State) : Res :=
  match s.colo.reimp with
  | some r =>
    .next (if s.colo.phase = 3 && (stillNamed r).all (fun f => !(s.forme f).domainsOff) then reimpKey s r entropyOk else s)
  | none => .next s

/-- A forme at the commit: a named one has its RINGS, goes live and counts GEN, at a first imposition too; another takes its run-record
allotment, and counts GEN where FORMES changes (R20, R21, R159, R241; log 84). -/
def assignForme (i : Imposition) (rings : List (Nat × Nat)) (live : BitVec 16) (count : Bool) (f : FormeId) (x : Forme) : Forme :=
  match formeRecs i f.val with
  | some r =>
    if live.getLsbD f.val then
      let n := match rings.find? (·.1 == f.val) with | some p => p.2 | none => 0
      { x with
        cfg := some (resolveForme i n r), ringsHeld := n, live := true, drained := false, rings := Forme.reset.rings, geoGen := nextGen x.geoGen }
    else { x with
      cfg := x.cfg.map (fun c => { c with allot := runAllot i r })
      geoGen := if count && x.cfg.isSome then nextGen x.geoGen else x.geoGen }
  | none => x

/-- The new WITHHELD mask: unnamed formes keep their bits, abandoned ones set theirs, and the others are clear (R39). -/
def commitMask (s : State) (r : Reimp) : BitVec 16 :=
  (impFormes r.imp).foldl (fun m f =>
    let held := if r.named.getLsbD f then r.abandoned.getLsbD f else s.colo.withheld.getLsbD f
    if held then m ||| oneBit 16 f else m) 0

/-- The commit leaves a forme that is removed, or was abandoned, with nothing; a removed one gives its rings back (R34, R39, R241). -/
def dropNamed (r : Reimp) (s : State) (f : FormeId) : State :=
  let removed := (formeRecs r.imp f.val).isNone
  if r.named.getLsbD f.val && (r.abandoned.getLsbD f.val || removed) then
    (if ((s.forme f).cfg).isSome then unassignForme s f else s).modForme f (fun x => { x with ringsHeld := if removed then 0 else x.ringsHeld })
  else s

/-- Without compositor firmware every forme stays withheld; the journal keeps the mask of the commit (R402). -/
def withholdBoot (s : State) : State :=
  if s.boot.code = 0x1504 then
    let t := allFormes.foldl (fun t f => if ((t.forme f).cfg).isSome then unassignForme t f else t) s
    { t with colo := { t.colo with withheld := 0xFFFF } }
  else s

/-- The commit: the image goes into the spare slot and its hash into the journal, the named formes are assigned, and a map-out since
phase 4 is met (R37 phase 6, R38, R39). -/
def reimpCommit (s : State) (r : Reimp) : State :=
  let old := s.colo.committed
  let slot : Fin 2 := match (standingRecord s).bind (·.slot) with | some k => Fin.ofNat 2 (1 - k.val) | none => 0
  let s1 := { s with flash := { s.flash with slots := s.flash.slots.set slot.val (some r.image) slot.isLt } }
  let mask := commitMask s r
  let s2 := writeJournal s1 {
    number := 0, hash := r.hash, newHash := none, seq := r.imp.sequence, newSeq := none, named := 0, phase := 0, withheld := mask,
    slot := some slot, intact := true }
  let s3 := allFormes.foldl (dropNamed r) s2
  let rings := assignRings s3 r.imp r.named
  let live := (stillNamed r).foldl (fun m f => m ||| oneBit 16 f.val) (0 : BitVec 16)
  let s4 := { s3 with colo := { s3.colo with committed := some r.imp, seq := r.imp.sequence, hash := r.hash, withheld := mask } }
  let s5 := s4.mapFormes (fun f x =>
    let y := assignForme r.imp rings live (old.any (fun o => o.formeCount != r.imp.formeCount)) f x
    if r.abandoned.getLsbD f.val then { y with ringsHeld := match rings.find? (·.1 == f.val) with | some p => p.2 | none => y.ringsHeld } else y)
  let s6 := impEnd s5 (0, 0, 0)
  withholdBoot (allFormes.foldl (fun t f => if ((t.forme f).cfg).isSome && pastUsable t r.imp f.val then withholdForme t f 0x0802 else t) s6)

/-- R38. -/
def execReimposeCommit (s : State) : Res :=
  match s.colo.reimp with
  | some r => .next (if s.colo.phase = 6 then reimpCommit s r else s)
  | none => .next s

/-! ### FRESET (R39, R383, R407, R409) -/

/-- FRESET of a forme, whatever else runs. -/
def fresetForme (s : State) (f : FormeId) : State :=
  if s.colo.opening.isSome then s
  else match s.colo.reimp with
    | some r =>
      if r.named.getLsbD f.val && !r.abandoned.getLsbD f.val then
        (if s.colo.phase = 6 then functionReset (reimpCommit s r) f else abandonForme s f)
      else functionReset s f
    | none => functionReset s f

/-- R407: a write of FRESET. -/
def execFreset (h : HostReq) (s : State) : Res := .next (formeWrite s h (fresetForme s))

end Sys2Proof.Machine
end

