-- ==== Sys2Proof/Machine/Mapout.lean ====
section
/-! DEFINITION. Map-out of stack channels: withdrawal, migration, retirement (R148 to R152, R155). -/
namespace Sys2Proof.Machine

/-- A forme's records reach past usable stack memory. -/
def holdsPast (s : State) (x : Forme) : Bool :=
  match x.cfg with
  | some c => c.regions.any (fun r => s.usableGib < r.base + r.len)
  | none => false

/-- A re-imposition in progress concerns a forme: R39, not R149, says what a map-out does to it. -/
def namedNow (s : State) (f : FormeId) : Bool :=
  match s.colo.reimp with
  | some r => r.named.getLsbD f.val && !r.abandoned.getLsbD f.val
  | none => false

/-- The GiB of R149 are withdrawn: every geometry block shows it, and the formes that hold any of it are stopped and withheld; a
re-imposition whose new regions hold some is abandoned before its phase 4 (R39). -/
def withdraw (s : State) : State :=
  let s1 := allFormes.foldl (fun t f => if holdsPast t (t.forme f) && !namedNow t f then withholdForme t f 0x0802 else t) s.bumpGen
  match s1.colo.reimp with
  | some r =>
    if s1.colo.phase = 2 || s1.colo.phase = 3 then
      match reimpPast s1 r with
      | some f => abandonReimp s1 r (0x0014, 2, f.val)
      | none => s1
    else s1
  | none => s1

/-- What the colophon was doing with an imposition ends with 0x0803 (R152). -/
def endRetired (s : State) : State :=
  if s.colo.phase = 0 then s
  else rewriteJournal (impEnd (s.retireUse .imposition) (0x0803, 0, 0))
    (fun j => { j with newHash := none, newSeq := none, named := 0, phase := 0 })

/-- Every forme is stopped with 0x0803 and holds nothing (R152). -/
def stopRetired (s : State) : State :=
  allFormes.foldl (fun t f => if ((t.forme f).cfg).isSome then unassignForme (stopForme t f 0x0803) f else t) s

/-- The 33rd channel: every forme is stopped and withheld, and the module serves no imposition again (R152). -/
def retireModule (s : State) : State :=
  setWithheld (endRetired (stopRetired { s with stack := { s.stack with retired := true, migrating := none, pendingMig := [] } })) 0xFFFF

/-- Every chunk of every inked image has lines on every channel (R138), so a failed channel makes all of them bad: the inker
rewrites them from their sources (R151, R237). -/
def badImages (s : State) : State :=
  s.copies.foldl (fun t i => (List.range i.chunks).foldl (fun u c => declareBad u i.gen c) t) s

/-- Displaced lines of a channel, from one line on, are poisoned (R151). -/
def poisonChannel (s : State) (ch : ChannelId) (low : Nat) : State :=
  badImages { s with stack := { s.stack with
    poisonSets := s.stack.poisonSets ++ [{ channel := ch, low := low, limit := s.usableGib * 2 ^ 22, cleared := [] }] } }

/-- A migration starts, or waits for the present one (R151, R155). -/
def startMigration (s : State) (ch : ChannelId) (failed : Bool) : State :=
  match s.stack.migrating with
  | none => { s with stack := { s.stack with migrating := some (ch, failed) } }
  | some _ => { s with stack := { s.stack with pendingMig := s.stack.pendingMig ++ [(ch, failed)] } }

/-- A channel that is still in service is mapped out (R148, R149, R151, R152). -/
def mapOut (s : State) (ch : ChannelId) (failed : Bool) : State :=
  let s1 := { s with flash := { s.flash with mapOut := s.flash.mapOut ++ [ch] } }
  if 33 ≤ s1.mappedOut then retireModule s1
  else
    let s2 := startMigration (withdraw s1) ch failed
    if failed then poisonChannel s2 ch 0 else s2

/-- A draining channel becomes unreadable: the lines of it not yet moved are written poisoned. How many had moved, in rising order,
is a free value (R155). -/
def drainFails (s : State) (ch : ChannelId) : State :=
  match s.stack.migrating with
  | some (c, false) =>
    if c = ch then
      let v := s.freshValue
      poisonChannel { v.2 with stack := { v.2.stack with migrating := some (ch, true) } } ch (v.1.toNat % 2 ^ 32)
    else if s.stack.pendingMig.contains (ch, false) then
      poisonChannel { s with stack := { s.stack with pendingMig := s.stack.pendingMig.map (fun m => if m == (ch, false) then (ch, true) else m) } } ch 0
    else s
  | some (_, true) =>
    if s.stack.pendingMig.contains (ch, false) then
      poisonChannel { s with stack := { s.stack with pendingMig := s.stack.pendingMig.map (fun m => if m == (ch, false) then (ch, true) else m) } } ch 0
    else s
  | none => s

/-- R148, R149: the draining kind once 16 distinct lines have detected in the time of R148, the failed kind when the channel is lost. -/
def execChannelMapOut (ch : ChannelId) (kind : MapOutKind) (s : State) : Res :=
  if !s.isOn || s.stack.retired || s.flash.mapOut.contains ch then .next s
  else match kind with
    | .draining => .next (if 16 ≤ linesDetected s ch then mapOut s ch false else s)
    | .failed => .next (mapOut s ch true)

/-- R148, R155: the fourth consecutive command timeout, or the loss of training, of a channel. -/
def execChannelCommandTimeout (ch : ChannelId) (consecutive : Nat) (trained : Bool) (s : State) : Res :=
  if !s.isOn || s.stack.retired || (consecutive < 4 && trained) then .next s
  else if s.flash.mapOut.contains ch then .next (drainFails s ch)
  else .next (mapOut s ch true)

/-- R151: every line is at its place; lines that were read from a draining channel and detected are counted and written poisoned, those moved
before the channel turned unreadable among them, and the next migration starts. -/
def execMigrationComplete (detected : List Nat) (s : State) : Res :=
  match s.stack.migrating with
  | none => .next s
  | some (ch, failed) =>
    let moved (l : Nat) : Bool := !failed || s.stack.poisonSets.any (fun p => p.channel == ch && l < p.low)
    let lines := detected.filter (fun l => moved l && channelOf (256 * l) == ch && outsideRelocation s.flash.mapOut l && !s.stack.poisoned.contains l)
    .next { s with stack := { s.stack with
      detects := s.stack.detects ++ lines.map (fun l => (ch, l, s.time.stroke))
      poisoned := s.stack.poisoned ++ lines, migrating := s.stack.pendingMig.head?, pendingMig := s.stack.pendingMig.tail } }

end Sys2Proof.Machine
end

