-- ==== Sys2Proof/Machine/Platen.lean ====
section
/-! DEFINITION. Resets of the module, bring-up, supply, heat and the energy intervals (R384 to R405). -/
namespace Sys2Proof.Machine

/-! ### What a reset leaves (R397, R406) -/

/-- What every reset of the module keeps: fuses, boot flash, and the model's own counters and queues. -/
def keepAcross (s : State) (t : State) : State :=
  { t with pending := s.pending, fuses := s.fuses, flash := s.flash, verdicts := s.verdicts, draws := s.draws, free := s.free, out := s.out }

/-- PLATEN_PWRGD falls (R399). -/
def pwrgdFalls (s : State) : State :=
  s.setPwrgd false

/-- Power is removed from every domain except always-on: keys, galley and every register outside platen go with it (R386, R400). -/
def removePower (s : State) (p : PowerState) : State :=
  let s1 := pwrgdFalls s
  { keepAcross s1 State.reset with
    boot := { s1.boot with power := p, phase := 2, code := 0, ready := false, measLoader := 0, measColophon := 0, measCompositor := 0 }
    platen := { Platen.reset with
      junctions := s1.platen.junctions, inlet := s1.platen.inlet, outlet := s1.platen.outlet, input10mV := s1.platen.input10mV,
      thermal := s1.platen.thermal, hot := s1.platen.hot, trip := s1.platen.trip }
    tap := s1.tap
    i3c := s1.i3c }

/-- The module-reset steps may start: PHASE 2, the CAUSE, and RESETS plus 1 unless the cold steps led here (R406, R410). -/
def startReset (s : State) (cause : BitVec 3) : State :=
  let s1 := removePower s .on
  { s1 with
    boot := { s1.boot with cause := cause, resets := if cause = 0 then s.boot.resets else satInc s.boot.resets }
    platen := { s1.platen with thermal := .normal, hot := 0 } }

/-- The input voltage as measured, in PLATEN_SUPPLY (R396). -/
def measureInput (s : State) (v : BitVec 16) : State :=
  { s with platen := { s.platen with input10mV := v, low := s.platen.low || v.toNat < 4800 } }

/-- The input is within 48.0 V to 58.0 V (R384). -/
def inputOk (v : BitVec 16) : Bool := 4800 ≤ v.toNat && v.toNat ≤ 5800

/-! ### Firmware (R401) -/

/-- A copy's signature holds and its version is at least SVN_MIN. -/
def copyOk (s : State) (c : FwCopy) : Bool := c.sigOk && s.fuses.svnMin ≤ c.svn.toNat

/-- The copy accepted, and whether it is copy B. -/
def acceptFw (s : State) (i : FwImage) : Option (FwCopy × Bool) :=
  if copyOk s i.a then some (i.a, false) else if copyOk s i.b then some (i.b, true) else none

/-- The boot stops: PHASE 8 with its code (R402). -/
def haltBoot (s : State) (c : Code) : State := { s with boot := { s.boot with phase := 8, code := c } }

/-- COPIES with one bit set as the copy booted. -/
def setCopy (b : BitVec 4) (n : Nat) (copyB : Bool) : BitVec 4 := (b &&& ~~~ oneBit 4 n) ||| (if copyB then oneBit 4 n else 0)

/-! ### Cold reset (R397, R398) -/

/-- The cold steps: platen firmware is measured and run, and the module-reset steps follow when the input is in range and the reset
input is high. -/
def coldSteps (s : State) (rstHigh : Bool) (v : BitVec 16) : State :=
  let t := keepAcross s State.reset
  let t1 := { t with boot := { Boot.reset with rstHigh := rstHigh } }
  match acceptFw t1 t1.flash.platen with
  | none => haltBoot t1 0x1501
  | some (c, b) =>
    let t2 := measureInput { t1 with boot := { t1.boot with platenUp := true, copies := setCopy 0 0 b, measPlaten := c.measure } } v
    if inputOk v && rstHigh then startReset t2 0 else t2

/-- R397: the always-on rail rises into regulation. It does so once: again only after the input has been lost. -/
def execColdReset (rstHigh : Bool) (input10mV : BitVec 16) (s : State) : Res :=
  .next (if (s.boot.power == .standby || s.boot.power == .absent) && !s.boot.platenUp && s.boot.code == 0 && 2000 < input10mV.toNat then coldSteps s rstHigh input10mV else s)

/-- R386, R397: an input at or below 20.0 V takes the always-on rail with it. -/
def execInputPowerLoss (input10mV : BitVec 16) (s : State) : Res :=
  .next (if input10mV.toNat ≤ 2000 then
      let t := keepAcross (pwrgdFalls s) State.reset
      { t with boot := { Boot.reset with power := .absent, rstHigh := s.boot.rstHigh } }
    else s)

/-! ### Supply faults and the reset input (R386, R393, R399) -/

/-- The input has left its range (R386). -/
def supplyFaulted (v : BitVec 16) (us : Nat) : Bool := (v.toNat < 4600 && 10 ≤ us) || 6000 < v.toNat

/-- R386: a supply fault removes power; a shorter or smaller dip is only measured. -/
def execSupplyFault (input10mV : BitVec 16) (durationUs : Nat) (s : State) : Res :=
  .next (if !s.boot.platenUp || input10mV.toNat ≤ 2000 then s
    else
      let s1 := measureInput s input10mV
      if !supplyFaulted input10mV durationUs then s1
      else match s.boot.power with
        | .on | .resetHeld | .standby =>
          let t := removePower s1 .supplyFault
          { t with platen := { t.platen with trip := 0x1402, low := s1.platen.low } }
        | .supplyFault | .tripped | .releaseWaits | .absent => s1)

/-- The input has been in range for 100 ms and, after a trip, every junction is below 60 °C (R393, R399). -/
def mayRestart (v : BitVec 16) (heldMs hottest : Nat) : Bool := inputOk v && 100 ≤ heldMs && hottest < 60

/-- R397, R399: the return from a supply fault, and the start that a release had to wait for. -/
def execSupplyFaultRestart (input10mV : BitVec 16) (heldMs : Nat) (hottest : Nat) (s : State) : Res :=
  .next (
    let s1 := measureInput s input10mV
    match s.boot.power with
    | .supplyFault => if s.boot.rstHigh && inputOk input10mV && 100 ≤ heldMs then startReset s1 3 else s1
    | .releaseWaits => if s.boot.rstHigh && mayRestart input10mV heldMs hottest then startReset s1 3 else s1
    | .standby => if s.boot.platenUp && s.boot.rstHigh && inputOk input10mV then startReset s1 0 else s1
    | .absent | .resetHeld | .tripped | .on => s)

/-- R399: an assertion of at least 100 µs. -/
def execPlatenRstNAssert (heldUs : Nat) (s : State) : Res :=
  .next (if !s.boot.platenUp || heldUs < 100 then s
    else
      let s1 := { s with boot := { s.boot with rstHigh := false } }
      match s.boot.power with
      | .on => removePower s1 .resetHeld
      | .releaseWaits => { s1 with boot := { s1.boot with power := .tripped } }
      | .absent | .standby | .resetHeld | .supplyFault | .tripped => s1)

/-- R399: a release. While a trip or supply fault persists it is ignored until the conditions hold. -/
def execPlatenRstNRelease (input10mV : BitVec 16) (heldMs : Nat) (hottest : Nat) (s : State) : Res :=
  .next (if !s.boot.platenUp || s.boot.rstHigh then s
    else
      let s1 := measureInput { s with boot := { s.boot with rstHigh := true } } input10mV
      match s.boot.power with
      | .resetHeld => startReset s1 1
      | .standby => if inputOk input10mV then startReset s1 0 else s1
      | .supplyFault => if mayRestart input10mV heldMs hottest then startReset s1 3 else s1
      | .tripped => if mayRestart input10mV heldMs hottest then startReset s1 3 else { s1 with boot := { s1.boot with power := .releaseWaits } }
      | .absent | .releaseWaits | .on => s1)

/-! ### Module-reset steps (R398, R401, R402) -/

/-- Channels that fail training or self-test are mapped out at boot, up to the one that retires the module (R148, R152). -/
def bootMapOut (old : List ChannelId) (failing : List ChannelId) : List ChannelId :=
  failing.foldl (fun acc c => if acc.contains c || 33 ≤ acc.length then acc else acc ++ [c]) old

/-- Training, self-test and the start of the bring-up scrub (R67, R148, R153). -/
def trainAndTest (s : State) (env : BootEnv) : State :=
  let out := bootMapOut s.flash.mapOut env.failingChannels
  { s with
    flash := { s.flash with mapOut := out }
    stack := { s.stack with retired := decide (33 ≤ out.length), bootOut := out.length }
    cores := s.cores.mapFinIdx (fun i c h => { c with working := !env.failingCores.contains ⟨i, h⟩ })
    comps := s.comps.map (fun c => { c with powered := true })
    ports := s.ports.map (fun p => { p with link := 1, since := s.time.ticks })
    boot := { s.boot with phase := 6 }
    colo := { s.colo with mgmtOnly := s.colo.mgmtOnly || !env.entropyOk } }

/-- The rails rise and PLATEN_PWRGD asserts; compositor firmware is loaded, or the module comes up for management only (R398, R402). -/
def raiseRails (s : State) (env : BootEnv) : State :=
  let s1 := s.setPwrgd true
  match acceptFw s1 s1.flash.compositor with
  | some (c, b) => trainAndTest { s1 with boot := { s1.boot with measCompositor := c.measure, copies := setCopy s1.boot.copies 3 b } } env
  | none => trainAndTest { s1 with boot := { s1.boot with code := 0x1504 } } env

/-- The steps to the start of the bring-up scrub. -/
def moduleSteps (s : State) (env : BootEnv) : State :=
  match acceptFw s s.flash.loader with
  | none => haltBoot s 0x1502
  | some (l, lb) =>
    let s1 := { s with boot := { s.boot with measLoader := l.measure, copies := setCopy s.boot.copies 1 lb } }
    match acceptFw s1 s1.flash.colophon with
    | none => haltBoot s1 0x1503
    | some (c, cb) =>
      raiseRails { s1 with
        boot := { s1.boot with measColophon := c.measure, copies := setCopy s1.boot.copies 2 cb }
        colo := { s1.colo with fwSvn := c.svn, identityUp := s1.flash.certKeyOk && s1.flash.certSigOk } } env

/-- R398. -/
def execModuleResetSteps (env : BootEnv) (s : State) : Res :=
  .next (if s.isOn && s.boot.phase = 2 then moduleSteps s env else s)

/-! ### The end of bring-up (R364, R402 to R404) -/

/-- Bring-up is complete (R398); undefined exchanges that waited for it are answered (R403). -/
def bootReady (s : State) : State :=
  (List.finRange 4).foldl (fun t p => t.rejectUndefined (.secure p)) { s with boot := { s.boot with phase := 0, ready := true } }

/-- No forme of the committed image comes up: all sixteen WITHHELD bits read 1, and the journal stays as it is (R152, R402). -/
def bootWithheld (s : State) (image : Option Imposition) (e : ImpRefusal) (boot : Code) : State :=
  bootReady { s with
    colo := { s.colo with committed := image, withheld := 0xFFFF, code := e.1, secType := BitVec.ofNat 8 e.2.1, formeNo := BitVec.ofNat 4 e.2.2 }
    boot := { s.boot with code := boot } }

/-- The image that the standing record names, when it can be read and has the committed hash. -/
def bootImage (s : State) (r : JournalRec) : Option SignedImage :=
  match r.slot.bind (fun k => s.flash.slots[k.val]) with
  | some img => if impositionHash img.blob == r.hash then some img else none
  | none => none

/-- A forme of the committed image that is not withheld is keyed and becomes imposed but idle (R365, R403). -/
def bootForme (i : Imposition) (rings : List (Nat × Nat)) (withheld : BitVec 16) (keys : Bool) (s : State) (f : FormeId) : State :=
  let n := match rings.find? (·.1 == f.val) with | some p => p.2 | none => 0
  match formeRecs i f.val with
  | none => s
  | some r =>
    if withheld.getLsbD f.val then s.modForme f (fun x => { x with ringsHeld := n })
    else
      let s1 := s.modForme f (fun x => { x with cfg := some (resolveForme i n r), ringsHeld := n, live := keys })
      if keys then keyForme s1 f (Fin.ofNat 16 (fld r.w0 51 48)) else s1

/-- A re-imposition that had not reached its commit point is closed as abandoned (R39). -/
def closeJournal (s : State) (r : JournalRec) : State :=
  if r.newHash.isSome then rewriteJournal s (fun j => { j with newHash := none, newSeq := none, named := 0, phase := 0 }) else s

/-- A module without a committed imposition comes up: no forme is keyed (R402, R404). -/
def bootEmpty (s : State) : State :=
  if s.stack.retired then bootWithheld s none (0x0803, 0, 0) 0
  else if s.boot.code = 0x1504 then bootWithheld s none (0, 0, 0) 0x1504
  else bootReady s

/-- The standing record is read, and its image checked against the fuses as they stand (R403). -/
def bootCommitted (s : State) (r : JournalRec) : State :=
  let s1 := closeJournal s r
  let s2 := { s1 with colo := { s1.colo with hash := r.hash, seq := r.seq, withheld := r.withheld } }
  let img := bootImage s2 r
  if s2.stack.retired then bootWithheld s2 (img.map (fun i => impParse i.blob)) (0x0803, 0, 0) 0
  else match img with
    | none =>
      let v := s2.freshValue
      bootWithheld v.2 none (v.1.truncate 16, 0, 0) 0x1505
    | some image =>
      let i := impParse image.blob
      if s2.boot.code = 0x1504 then bootWithheld s2 (some i) (0, 0, 0) 0x1504
      else match impCheck s2 (some i) image with
        | some e => bootWithheld s2 (some i) e 0x1505
        | none =>
          bootReady (allFormes.foldl (bootForme i (assignRings s2 i 0xFFFF) r.withheld (!s2.colo.mgmtOnly))
            { s2 with colo := { s2.colo with committed := some i } })

/-- K_HELD and K_SHARED (R365). -/
def keyModule (s : State) : State :=
  let a := s.draw
  let b := a.2.draw
  { b.2 with colo := { b.2.colo with kHeld := some a.1, kShared := some b.1 } }

/-- The scrub of all stack memory is done (R153, R382). -/
def bringupScrubbed (s : State) (entropyOk : Bool) : State :=
  { s with
    stack := { s.stack with mem := [], poisoned := [], poisonSets := [] }
    colo := { s.colo with
      mgmtOnly := s.colo.mgmtOnly || !entropyOk,
      scrub := { active := false, cause := 0, forme := 0, gibDone := 1024, gibTotal := 1024 } } }

/-- After the scrub the module's keys are generated, and the committed imposition is imposed again (R365, R402, R403). -/
def bringup (s : State) (entropyOk : Bool) : State :=
  let s1 := bringupScrubbed s entropyOk
  let s2 := if s1.colo.mgmtOnly then s1 else keyModule s1
  match standingRecord s2 with
  | some r => if r.slot.isSome then bootCommitted s2 r else bootEmpty (closeJournal s2 r)
  | none => bootEmpty s2

/-- R398, R403. -/
def execBringupScrubDone (entropyOk : Bool) (s : State) : Res :=
  .next (if s.isOn && s.boot.phase = 6 then bringup s entropyOk else s)

/-! ### Heat (R393) -/

/-- The hottest junction. -/
def hottestC (js : Vector (BitVec 8) 10) : Nat := (js.toList.map (·.toNat)).foldl max 0

/-- Dies in HOLD: entered at 95 °C, left at 92 °C. -/
def hotDies (old : BitVec 10) (js : Vector (BitVec 8) 10) : BitVec 10 :=
  (List.finRange 10).foldl (fun m i =>
    let t := js[i.val].toNat
    if 95 ≤ t || (old.getLsbD i.val && 92 < t) then m ||| oneBit 10 i.val else m) 0

/-- The thermal state after a sample: WARM is entered at 90 °C and left at 88 °C. -/
def thermalNext (old : Thermal) (hot : BitVec 10) (t : Nat) : Thermal :=
  if old == .trip || 105 ≤ t then .trip
  else if hot != 0 then .hold
  else if 90 ≤ t || (old != .normal && 88 < t) then .warm else .normal

/-- R393: a sample, every 1,000 ticks; a junction at 105 °C trips. -/
def execThermalSample (junctions : Vector (BitVec 8) 10) (inlet outlet : BitVec 8) (s : State) : Res :=
  .next (if !s.boot.platenUp || s.time.ticks.toNat % 1000 != 0 then s
    else
      let t := hottestC junctions
      let hot := hotDies s.platen.hot junctions
      let s1 := { s with platen := { s.platen with
        junctions := junctions, inlet := inlet, outlet := outlet, hot := hot, thermal := thermalNext s.platen.thermal hot t } }
      if 105 ≤ t then match s.boot.power with
        | .on | .standby | .resetHeld | .supplyFault =>
          let u := removePower s1 .tripped
          { u with platen := { u.platen with trip := 0x1401 } }
        | .absent | .tripped | .releaseWaits => s1
      else s1)

/-! ### Energy intervals (R388 to R390) -/

/-- Close the buckets of every account. -/
def closeBuckets (p : Platen) : Platen :=
  { p with account := p.account.map (fun a => { a with buckets := (a.current :: a.buckets).take 4000, current := 0 }) }

/-- LIMIT is set; entries are counted (R390). -/
def setLimit (p : Platen) : Platen := if p.limit then p else { p with limit := true, limits := satInc p.limits }

/-- OVER after an interval, by the sum of 4,000 intervals' watts (R389). -/
def overNext (old : Bool) (cap sum : Nat) : Bool := if cap * 4000 < sum then true else if 100 * sum ≤ 98 * cap * 4000 then false else old

/-- The measured limits after an interval (R389, R390). -/
def measureInterval (cap : Option Nat) (w : Nat) (p : Platen) : Platen :=
  let ms := (w :: p.measured).take 4000
  let above := if 2400 < w then satInc p.above else 0
  let q := { p with measured := ms, lastMs := BitVec.ofNat 16 w, above := above,
                    overCap := match cap with | some c => overNext p.overCap c (sumNat ms) | none => false }
  if 16 ≤ above.toNat then setLimit q else if w ≤ 2200 then { q with limit := false } else q

/-- R388 to R390: an interval of 1,000 ticks ends with its measured average input power. -/
def execPowerIntervalEnd (watts : BitVec 16) (s : State) : Res :=
  .next (if s.isOn && s.time.ticks.toNat % 1000 = 0 && s.time.ticks != s.platen.lastClose then
      let cap := s.colo.committed.map (fun i => fld i.powerHead.1 15 0)
      { s with platen := { measureInterval cap watts.toNat (closeBuckets s.platen) with lastClose := s.time.ticks } }
    else s)

/-- R390: the input current limit engages. -/
def execCurrentLimitEngage (s : State) : Res := .next (if s.isOn then { s with platen := setLimit s.platen } else s)

end Sys2Proof.Machine
end

