-- ==== Sys2Proof/Machine/Links.lean ====
section
/-! DEFINITION. Aczia links: training, lanes, loss, and the commands of the link registers (R303, R306, R311, R312, R328). -/
namespace Sys2Proof.Machine

/-- Every link. -/
def allLinks : List LinkId := List.finRange 6

/-- ACZ_SELF lets links train: NX and NY set, and the module inside them (R303, R328). -/
def selfValid (w : Word) : Bool :=
  let nx := fld w 20 16
  let ny := fld w 28 24
  1 ≤ nx && nx ≤ 16 && 1 ≤ ny && ny ≤ 16 && fld w 3 0 < nx && fld w 7 4 < ny

/-- The neighbour that R302 names at the other end of an X or Y link. -/
def neighbour (s : State) (l : LinkId) : Option (BitVec 12) :=
  let me := s.selfModule
  let at' (y x : Nat) : BitVec 12 := modNumber (modPod me) y x
  match l.val with
  | 0 => some (at' (modY me) ((modX me + 1) % s.nx))
  | 1 => some (at' (modY me) ((modX me + s.nx - 1) % s.nx))
  | 2 => some (at' ((modY me + 1) % s.ny) (modX me))
  | 3 => some (at' ((modY me + s.ny - 1) % s.ny) (modX me))
  | _ => none

/-- The buffers of R309 at the peer, in units of 64 bytes. -/
def fullCredits : Vector Nat 8 := #v[1024, 1024, 1024, 1024, 2048, 2048, 32, 32]

/-- The header of a packet, four words (R7, R317). -/
def packetHeader (p : Packet) : List Word :=
  [place 0 p.ptype.toNat ||| place 4 p.vc.val ||| place 6 p.src.toNat ||| place 18 p.dst.toNat ||| place 30 p.len.toNat ||| placeBit 40 p.cls |||
     placeBit 41 p.reversed ||| place 42 p.hops.toNat,
   p.jobId, p.pktNum, place 0 p.dseq.toNat ||| place 32 p.arg.toNat]

/-- Its bytes on the link; a JOB packet has the first two words alone (R367). -/
def headerOf (p : Packet) : List Byte := ((packetHeader p).take (if p.ptype == 7 then 2 else 4)).flatMap (fun w => leBytes 8 w.toNat)

/-- What authenticates it besides its payload: the header with CLASS, REVERSED and HOPS read as zero (R317). -/
def packetAad (p : Packet) : List Byte := headerOf { p with cls := false, reversed := false, hops := 0 }

/-- The GCM nonce: SRC in 12 bits, 4 zero bits, PKT_NUM in 64 bits, 16 zero bits (R317). -/
def packetNonce (p : Packet) : BitVec 96 := p.src ++ 0#4 ++ p.pktNum ++ 0#16

/-- A link starts training at 16 lanes, if ACZ_SELF and DISABLE allow it; one that carries traffic keeps what it has not had
acknowledged (R306). Its LANES read as before until the training is done, when they change with GEN (R21; log 84). -/
def startTraining (s : State) (l : LinkId) : State :=
  if selfValid s.selfReg && !(s.link l).disable then
    s.modLink l (fun k =>
      if k.state == .up || k.state == .retraining then { k with state := .retraining, wider := true, since := s.time.ticks }
      else { k with
        state := .training, groups := 0, since := s.time.ticks, txSeq := 0, rxExpect := 0, nakSent := false, resends := 0,
        replay := [], credits := fullCredits })
  else s

/-- Send the replay buffer again, in order (R308, R311). -/
def resend (s : State) (l : LinkId) : State :=
  (s.link l).replay.foldl (fun t e => t.emit (.flit l e.1 e.2)) s

/-- GEN counts a change of a link's LANES from one state to the next (R20, R21). -/
def countLanes (s t : State) (l : LinkId) : State := if (s.link l).lanes == (t.link l).lanes then t else t.bumpGen

/-- R306: the next try, 1,000,000 ticks after a failure. -/
def execLinkTrainRetry (l : LinkId) (s : State) : Res :=
  .next (if (s.link l).state == .down && 1000000 ≤ (s.time.ticks - (s.link l).since).toNat then startTraining s l else s)

/-- R306: a cable is connected; a link that is up has had one. -/
def execCableConnected (l : LinkId) (s : State) : Res :=
  .next (if s.isOn && !((s.link l).state == .up || (s.link l).state == .retraining) then startTraining s l else s)

/-! ### Collectives that use a lost link (R327) -/

/-- Members along an axis of a job's box: X, Y, pods. -/
def axisSize (j : Job) (ax : Nat) : Nat := match ax with | 0 => j.nxj | 1 => j.nyj | _ => (bitsSet j.podMask).length

/-- The link of an axis and direction. -/
def axisLink (ax : Nat) (up : Bool) : LinkId := Fin.ofNat 6 (2 * ax + if up then 0 else 1)

/-- The direction of a half on an axis: the first half in +, the second in −, each turned round once it has been rerouted
(R325, R327). -/
def halfUp (c : Coll) (ax half : Nat) : Bool := (half == 0) != c.flips.contains (ax, half)

/-! ### ACZ_SELF (R303, R328) -/

/-- R306, R328: a write of ACZ_SELF; ignored while any link is trained. -/
def writeSelf (s : State) (v : Word) : State :=
  if allLinks.any (fun l => (s.link l).state == .up || (s.link l).state == .retraining) then s
  else
    let s1 := { s with selfReg := v &&& 0x1F1F0FFF }
    allLinks.foldl (fun t l => if (t.link l).state == .down then startTraining t l else t) s1

/-- R303, R328: a host write of ACZ_SELF. -/
def execAczSelf (h : HostReq) (value : Word) (s : State) : Res := .next (managementWrite s h (fun _ => writeSelf s value))

end Sys2Proof.Machine
end

