-- ==== Sys2Proof/Machine/Elementary.lean ====
section
/-! DEFINITION. exp, sin, cos and powers as the finishing unit gives them: correctly rounded FP32 (R112, R162, R200). Each is a
series summed in fixed point with hundreds of bits to spare, rounded once; no FP32 argument brings a result of these functions so
near a rounding boundary that the cut series could fall on its other side (log 17). -/
namespace Sys2Proof.Machine

/-- Bits behind the point in which the series are summed. -/
def fxBits : Nat := 640
/-- Bits behind the point for π and the angles it reduces: an FP32 angle takes up to 128 before the point. -/
def fxAngle : Nat := 800

/-- Σ tₙ with t₀ given and tₙ₊₁ = tₙ × a ÷ 2^b ÷ (n + 1): the exponential's series at a ÷ 2^b, times t₀. -/
def expSum : Nat → Nat → Nat → Nat → Nat → Nat
  | 0, _, _, _, _ => 0
  | k + 1, n, a, b, t => t + expSum k (n + 1) a b (t * a / 2 ^ b / (n + 1))

/-- exp(a ÷ 2^b), times 2^fxBits, for a ÷ 2^b up to 104. -/
def expFix (a b : Nat) : Nat := expSum 700 0 a b (2 ^ fxBits)

/-- FP32 exponential (R200). -/
def f32Exp (x : BitVec 32) : BitVec 32 :=
  if f32Nan x then nan32
  else if f32Inf x then (if f32Neg x then 0 else x)
  else
    let d := f32Dy x
    let a := d.m.natAbs * 2 ^ d.e.toNat
    let b := (-d.e).toNat
    if 104 * 2 ^ b < a then (if f32Neg x then 0 else inf32 false)
    else if f32Neg x then f32Round false (2 ^ fxBits) (expFix a b)
    else f32Round false (expFix a b) (2 ^ fxBits)

/-- Σ ± 1 ÷ ((2k + 1) × m^(2k + 1)) from a first power given: arctan(1 ÷ m), or with `plus` artanh(1 ÷ m). -/
def oddSum (plus : Bool) (m : Nat) : Nat → Nat → Int → Int
  | 0, _, _ => 0
  | f + 1, k, p => p / (2 * k + 1) + (if plus then 1 else -1) * oddSum plus m f (k + 1) (p / (m * m))

/-- π ÷ 2, times 2^fxAngle, by Machin's formula. -/
def halfPi : Int :=
  8 * oddSum false 5 400 0 (2 ^ fxAngle / 5) - 2 * oddSum false 239 400 0 (2 ^ fxAngle / 239)

/-- ln 2, times 2^fxAngle: twice artanh(1 ÷ 3). -/
def ln2 : Int := 2 * oddSum true 3 600 0 (2 ^ fxAngle / 3)

/-- Σ tₙ with tₙ₊₂ = −tₙ × r² ÷ ((n + 1)(n + 2)): the cosine's series from n = 0, the sine's from n = 1. -/
def trigSum : Nat → Nat → Int → Int → Int
  | 0, _, _, _ => 0
  | k + 1, n, r2, t => t + trigSum k (n + 2) r2 (-(t * r2 / 2 ^ fxAngle / ((n + 1) * (n + 2))))

/-- Sine and cosine of the magnitude of a finite FP32 angle, times 2^fxAngle. -/
def sinCosFix (x : BitVec 32) : Int × Int :=
  let d := f32Dy x
  let w : Int := (d.m.natAbs * 2 ^ (fxAngle + d.e).toNat : Nat)
  let k := w / halfPi
  let r := w % halfPi
  let r2 := r * r / 2 ^ fxAngle
  let s := trigSum 200 1 r2 r
  let c := trigSum 200 0 r2 (2 ^ fxAngle)
  match (k % 4).toNat with
  | 0 => (s, c)
  | 1 => (c, -s)
  | 2 => (-s, -c)
  | _ => (-c, s)

/-- FP32 sine (R200). -/
def f32Sin (x : BitVec 32) : BitVec 32 :=
  if f32Nan x || f32Inf x then nan32
  else if (f32Dy x).m == 0 then x
  else
    let v := (sinCosFix x).1
    f32Round (decide (v < 0) != f32Neg x) v.natAbs (2 ^ fxAngle)

/-- FP32 cosine (R200). -/
def f32Cos (x : BitVec 32) : BitVec 32 :=
  if f32Nan x || f32Inf x then nan32
  else
    let v := (sinCosFix x).2
    f32Round (decide (v < 0)) v.natAbs (2 ^ fxAngle)

/-- 2^t in FP32 (R112 step 6). -/
def f32Exp2 (t : BitVec 32) : BitVec 32 :=
  if f32Nan t then nan32
  else if f32Inf t then (if f32Neg t then 0 else t)
  else
    let d := f32Dy t
    let n := d.m * 2 ^ d.e.toNat / 2 ^ (-d.e).toNat
    let f := (d.m * 2 ^ d.e.toNat % 2 ^ (-d.e).toNat).toNat
    if 200 < n then inf32 false
    else if n < -200 then 0
    else f32Round false (expFix (f * ln2.toNat) ((-d.e).toNat + fxAngle) * 2 ^ n.toNat) (2 ^ fxBits * 2 ^ (-n).toNat)

/-- The 64th root of an integer, rounded down. -/
def root64 (n : Nat) : Nat := isqrt 600 (isqrt 1200 (isqrt 2400 (isqrt 4800 (isqrt 9600 (isqrt 19200 n)))))

/-- ROPE_BASE^(−j ÷ 64) in FP32, rounded once (R162, log 17); the manual states no power of a negative base. -/
def ropePower (base : BitVec 32) (j : Nat) : BitVec 32 :=
  if j = 0 then one32
  else if f32Nan base then nan32
  else if f32Neg base then Config.ropeNegative base j
  else if f32Inf base then 0
  else
    let q := (f32Dy base).frac
    let n := q.2 ^ j * 2 ^ 16384
    let r := root64 (n / q.1 ^ j)
    f32Round false (2 * r + (if r ^ 64 * q.1 ^ j == n then 0 else 1)) (2 ^ 257)

end Sys2Proof.Machine
end

