-- ==== Sys2Proof/Machine/Array.lean ====
section
/-! DEFINITION. The array of a press core: plane slots, check columns, the row buffer and the accumulator file, and how a tile is
loaded and accumulated (R58 to R65, R70 to R73). -/
namespace Sys2Proof.Machine

/-! ### The cell and the column (R58 to R61) -/

/-- Bit `plane` of a mantissa held in two's complement or unsigned planes (R58). -/
def planeBit (m : Int) (plane : Nat) : Bool := m / 2 ^ plane % 2 == 1

/-- The lane of a pass: the whole lane, or the low byte unsigned and the high byte signed (R61). -/
def laneOf (passes pass : Nat) (a : Int) : Int := if passes = 1 then a else if pass = 0 then a % 256 else a / 256

/-- The bit of a cell in a plane slot. -/
def PlaneSlot.cell (p : PlaneSlot) (row col : Nat) : Bool := (p.bits.getD row 0).getLsbD col

/-- Columns of a check group: group g guards columns 128g to 128g + 127. -/
def groupColumns (g : Nat) : List Nat := (List.range 128).map (· + 128 * g)

/-- The ones among the low bits of a number; `fuel` is how many bits it looks at. -/
def countOnes : Nat → Nat → Nat
  | 0, _ => 0
  | k + 1, n => if n = 0 then 0 else n % 2 + countOnes k (n / 2)

/-- What the loader writes for one plane of a tile: the bits, and the counts it forms from them as it writes (R64, R70). -/
def loadPlane (rows : List (List Bool)) : PlaneSlot :=
  let bits : List (BitVec 1024) := rows.map (fun r => BitVec.ofNat 1024 (r.foldr (fun b n => b.toNat + 2 * n) 0))
  { bits := bits,
    counts := bits.map (fun w => (List.range 8).map (fun g => BitVec.ofNat 8 (countOnes 128 (w.toNat / 2 ^ (128 * g))))) }

/-- The plane slot of a number; a slot nothing was loaded into holds zeros. -/
def PressArray.slot (a : PressArray) (n : Nat) : PlaneSlot :=
  match a.planes.find? (·.1 == n) with | some p => p.2 | none => { bits := [], counts := [] }

/-- Overwrite a plane slot. -/
def PressArray.setSlot (a : PressArray) (n : Nat) (p : PlaneSlot) : PressArray :=
  { a with planes := a.planes.filter (·.1 != n) ++ [(n, p)] }

/-- A block tree's sum for one column: cells whose bit is 1 give their row's lane (R58, R59). -/
def blockSum (p : PlaneSlot) (col b : Nat) (lanes : List Int) : Int :=
  (((lanes.drop (32 * b)).take 32).mapIdx (fun i a => if p.cell (32 * b + i) col then a else 0)).foldl (· + ·) 0

/-- The block sum of a check column: its cells multiply their counts by their rows' lanes (R64). -/
def checkSum (p : PlaneSlot) (g b : Nat) (lanes : List Int) : Int :=
  (((lanes.drop (32 * b)).take 32).mapIdx (fun i a => (((p.counts.getD (32 * b + i) []).getD g 0).toNat : Int) * a)).foldl (· + ·) 0

/-- Every check column's block sums equal the sums of the block sums of its group, over the groups in use; a column beyond the tile's holds
no weight (R65, R102). -/
def checksEqual (p : PlaneSlot) (cols : Nat) (lanes : List Int) : Bool :=
  (List.range (ceilDiv cols 128)).all (fun g => (List.range (ceilDiv lanes.length 32)).all (fun b =>
    checkSum p g b lanes == (((groupColumns g).filter (· < cols)).map (fun j => blockSum p j b lanes)).foldl (· + ·) 0))

/-! ### Residues (R65) -/

/-- The residue of a number. -/
def res3 (v : Int) : Nat := (v % 3).toNat

/-- A left shift by s multiplies a residue by (−1)^s. -/
def resShift (s r : Nat) : Nat := if s % 2 = 0 then r % 3 else (3 - r % 3) % 3

/-- A column's contribution for one plane and pass with its residue, which is formed from the block sums by the path of its own (R59,
R60, R65): `shifts` are the block shifts, `neg` says whether the plane is subtracted. -/
def columnTerm (p : PlaneSlot) (col plane pass : Nat) (neg : Bool) (shifts : List Nat) (lanes : List Int) : Int × Nat :=
  let sums := shifts.mapIdx (fun b sh => (blockSum p col b lanes, sh))
  let v := (sums.map (fun x => x.1 * 2 ^ x.2)).foldl (· + ·) 0 * 2 ^ plane
  let r := resShift plane ((sums.map (fun x => resShift x.2 (res3 x.1))).foldl (· + ·) 0 % 3)
  ((if neg then -v else v) * 2 ^ (8 * pass), if neg then resShift 1 r else r)

/-! ### The accumulator file (R60, R62, R63) -/

/-- A slot that holds a value. -/
def accStart (v : Int) : AccSlot := { v := v, sat := false, res := res3 v }

/-- Add a term with its residue; beyond its limits the slot saturates and keeps its value (R60, R62). -/
def AccSlot.add (x : AccSlot) (t : Int) (r : Nat) : AccSlot :=
  if x.sat then x
  else
    let s := satSlot (x.v + t)
    { v := s.1, sat := s.2, res := if s.2 then res3 s.1 else (x.res + r) % 3 }

/-- The comparison of a slot with its residue, at every update and at drain (R65). -/
def AccSlot.ok (x : AccSlot) : Bool := res3 x.v == x.res

/-- The accumulator of a column and slot; one that nothing started is clear. -/
def PressArray.accAt (a : PressArray) (col slot : Nat) : AccSlot :=
  match a.acc.find? (fun x => x.1 == col && x.2.1 == slot) with | some x => x.2.2 | none => accStart 0

/-- Replace an accumulator. -/
def PressArray.setAcc (a : PressArray) (col slot : Nat) (x : AccSlot) : PressArray :=
  { a with acc := a.acc.filter (fun y => !(y.1 == col && y.2.1 == slot)) ++ [(col, slot, x)] }

/-! ### A tile (R60, R70, R72) -/

/-- A tile as the loader takes it: which tensor and tile, planes, mantissas by row and column, the weight offset of each block by
column, and the columns in use; other columns run dummy operations (R75, R76, R81). -/
structure Tile where
  handle  : BitVec 32
  index   : Nat
  planes  : Nat
  signed  : Bool
  cols    : Nat
  ms      : List (List Int)
  offsets : List (List Nat)
  deriving DecidableEq, Repr, Inhabited

/-- An activation row against one tile: its lanes and the offset of each block (R80, R81). -/
structure TileRow where
  lanes   : List Int
  offsets : List Nat
  deriving DecidableEq, Repr, Inhabited

/-- Plane slots that resident tiles hold. -/
def PressArray.used (a : PressArray) : Nat := sumNat (a.resident.map (fun r => r.2.2.2))

/-- Where a tile's planes stand: the slots it is resident in, else the slots after the resident tiles, else a bank of sixteen that
alternates from tile to tile. -/
def PressArray.tileBase (a : PressArray) (t : Tile) : Nat :=
  match a.resident.find? (fun r => r.1 == t.handle && r.2.1 == t.index) with
  | some r => r.2.2.1
  | none => if a.resident.isEmpty then 16 * (t.index % 2) else a.used

/-- Resident tiles give way to a tile that the slots beside them cannot hold. -/
def PressArray.makeRoom (a : PressArray) (t : Tile) : PressArray :=
  if 32 < a.used + t.planes && !a.resident.any (fun r => r.1 == t.handle && r.2.1 == t.index) then { a with resident := [] } else a

/-- Load a tile: its rows go to the row buffer, then its planes from plane 0 upwards, unless they are resident (R70, R72). -/
def PressArray.load (a : PressArray) (t : Tile) (rows : List TileRow) : PressArray :=
  let a1 : PressArray := { a.makeRoom t with rowBuf := rows.map (·.lanes), elementWise := false }
  if a1.resident.any (fun r => r.1 == t.handle && r.2.1 == t.index) then a1
  else
    let base := a1.tileBase t
    (List.range t.planes).foldl (fun b p => b.setSlot (base + p) (loadPlane (t.ms.map (fun r => r.map (fun m => planeBit m p))))) a1

/-- Keep a tile resident in slots that hold no other resident tile, while slots are left (R72). -/
def PressArray.keep (a : PressArray) (t : Tile) : PressArray :=
  let used := a.used
  if used + t.planes ≤ 32 && !a.resident.any (fun r => r.1 == t.handle && r.2.1 == t.index) then
    let b := (List.range t.planes).foldl (fun b p => b.setSlot (used + p) (loadPlane (t.ms.map (fun r => r.map (fun m => planeBit m p))))) a
    { b with resident := b.resident ++ [(t.handle, t.index, used, t.planes)] }
  else a

/-- Accumulate the rows in the row buffer against the tile that stands in the plane slots: slot i takes row i. The array, and whether
every comparison of R65 held. -/
def PressArray.run (a : PressArray) (t : Tile) (passes : Nat) (rows : List TileRow) : PressArray × Bool :=
  let base := a.tileBase t
  (rows.zipIdx).foldl (fun acc x => (List.range passes).foldl (fun acc pass => (List.range t.planes).foldl (fun acc p =>
    let slot := acc.1.slot (base + p)
    let lanes := (acc.1.rowBuf.getD x.2 []).map (laneOf passes pass)
    let neg := t.signed && p + 1 == t.planes
    (List.range t.cols).foldl (fun (acc : PressArray × Bool) j =>
      let shifts := (x.1.offsets).mapIdx (fun b da => 15 - (t.offsets.getD j []).getD b 0 - da)
      let term := columnTerm slot j p pass neg shifts lanes
      let y := (acc.1.accAt j x.2).add term.1 term.2
      (acc.1.setAcc j x.2 y, acc.2 && y.ok)) (acc.1, acc.2 && checksEqual slot t.cols lanes)) acc) acc) (a, true)

/-! ### Element-wise mode (R73) -/

/-- A run over one group of up to 1,024 columns: column j uses the cell of row j mod 512, its lane and its shift; every other cell keeps
its plane slots. -/
def PressArray.element (a : PressArray) (planes passes : Nat) (signed : Bool) (ms lanes : List Int) (shifts : List Nat) (starts : List AccSlot) :
    PressArray × List AccSlot × Bool :=
  let base := if a.used + planes ≤ 32 then a.used else 0
  let put (p : Nat) (s : PlaneSlot) : PlaneSlot :=
    let bits := (List.range (max s.bits.length (min 512 ms.length))).map (fun r => (List.range ms.length).foldl (fun (w : BitVec 1024) j =>
      if j % 512 = r then (if planeBit (ms.getD j 0) p then w ||| oneBit 1024 j else w &&& ~~~ (oneBit 1024 j)) else w) (s.bits.getD r 0))
    { s with bits := bits }
  let a1 := { (List.range planes).foldl (fun b p => b.setSlot (base + p) (put p (b.slot (base + p)))) a with
    rowBuf := [lanes], elementWise := true }
  let outs := (List.range ms.length).map (fun j => (List.range passes).foldl (fun x pass => (List.range planes).foldl (fun (x : AccSlot × Bool) p =>
    let bit := (a1.slot (base + p)).cell (j % 512) j
    let v : Int := (if bit then laneOf passes pass (lanes.getD j 0) else 0) * 2 ^ (shifts.getD j 15) * 2 ^ p
    let neg := signed && p + 1 == planes
    let r := resShift p (resShift (shifts.getD j 15) (res3 (if bit then laneOf passes pass (lanes.getD j 0) else 0)))
    let y := x.1.add ((if neg then -v else v) * 2 ^ (8 * pass)) (if neg then resShift 1 r else r)
    (y, x.2 && y.ok)) x) (starts.getD j (accStart 0), true))
  ((outs.zipIdx).foldl (fun b x => b.setAcc x.2 0 x.1.1) a1, outs.map (·.1), outs.all (·.2))

/-- What stays when a slug's work leaves an array: contents, but no resident tile (R72). -/
def PressArray.release (a : PressArray) : PressArray := { a with resident := [], owner := none }

end Sys2Proof.Machine
end

