-- ==== Sys2Proof/Machine/Press.lean ====
section
/-! DEFINITION. Products and element-wise runs: the decoder's blocks along the reduction, tiles on their cores, partials, correction terms
and the drain (R58 to R74, R79 to R103, R108, R124, R201 to R208). -/
namespace Sys2Proof.Machine

/-! ### Quantising (R95) -/

/-- The integer nearest under a mode to r ÷ s, for finite r and s > 0 (R95). -/
def divRound (mode rnd : Nat) (r s : BitVec 32) : Int :=
  let a := f32Dy r
  let b := f32Dy s
  let e := a.e - b.e
  let n := a.m.natAbs * 2 ^ e.toNat
  let d := b.m.natAbs * 2 ^ (-e).toNat
  let q : Int := roundNat mode rnd n d
  if a.m < 0 then -q else q

/-- Quantise a real value in FP32 (R95): the code. A NaN counts as 0, an infinity as the limit of its sign (R94). -/
def quantise (fmt mode rnd : Nat) (s : BitVec 32) (z : Int) (r : BitVec 32) : Nat :=
  match codeRange fmt with
  | some (lo, hi) =>
    let q := if f32Nan r then z else if f32Inf r then (if f32Neg r then lo else hi) else divRound mode rnd r s + z
    intCode fmt (max lo (min hi q))
  | none => 0

/-! ### The decoder: blocks of 32 along the reduction (R79, R80, R84, R201 to R204) -/

/-- An operand as a product takes it: its lines are the output's columns for the plane operand and the output's rows for the other, and
its places run along the reduction; `turned` is PLANE_T or ROW_T (R201). SPLIT delivers a position-major half as it stands, so it reads
like PASS (log 88). -/
structure Side where
  o      : Operand
  act    : Bool
  turned : Bool
  mode   : Nat
  /-- the word of R86 by linear index -/
  rnd    : Nat → Nat
  /-- the zero point that Octavo subtracts, by stored column (R108) -/
  zp     : Nat → Int

/-- The stored row and column of a place. -/
def Side.place (x : Side) (line k : Nat) : Nat × Nat := if x.act == x.turned then (k, line) else (line, k)

/-- The word of R86 of a place: its linear index is that in the stored tensor. -/
def Side.word (x : Side) (p : Nat × Nat) : Nat := x.rnd (p.1 * x.o.cols + p.2)

/-- Decode the elements at places of one block: those of a tensor in plane layout are decoded already, under the group exponents they
were stored with; a block drawn from several takes the largest (R82 to R84, R204). -/
def Side.block (x : Side) (ps : List (Nat × Nat)) : Block :=
  let r (i : Nat) : Nat := x.word (ps.getD i (0, 0))
  match x.o.plane with
  | some g =>
    let es := ps.map (fun p => g p.1 p.2)
    let b := regroup x.mode r es
    { ms := if x.act then b.1.map (· - activationFlip x.o.fmt) else b.1, e := b.2, special := es.any (·.2.isNone) }
  | none =>
    let xs := ps.map (fun p => (x.o.code p.1 p.2, x.o.scale p.1 p.2))
    if x.act then decodeActivation x.o.fmt x.mode r xs else decodeWeight x.o.fmt x.mode r (fun i => x.zp (ps.getD i (0, 0)).2) xs

/-- One line along the reduction: its reference exponent, and for each block of 32 its mantissas and its offset (R80); `first` is the
number of the first block, counted from reduction index 0. -/
structure Strip where
  ref     : Int
  first   : Nat
  blocks  : List (List Int × Nat)
  special : Bool
  deriving DecidableEq, Repr, Inhabited

/-- The line of an operand over a reduction range: blocks lie at multiples of 32, places outside the range are padding (R80, R102). A
column of an inked tensor keeps the reference exponent that the inker fixed over its whole reduction dimension. -/
def Side.strip (x : Side) (kBase kLen line : Nat) : Strip :=
  let first := kBase / 32
  let raw := (List.range (ceilDiv (kBase + kLen) 32 - first)).map (fun b =>
    let lo := max kBase (32 * (first + b))
    let ps := (List.range (min (kBase + kLen) (32 * (first + b + 1)) - lo)).map (fun q => x.place line (lo + q))
    (lo - 32 * (first + b), ps, x.block ps))
  let ref := match (if x.turned || x.act then none else x.o.ref line) with
    | some r => r
    | none => refExponent (raw.map (·.2.2.e))
  { ref := ref, first := first, special := raw.any (·.2.2.special),
    blocks := raw.map (fun b =>
      let m := limitOffset (if x.act then 8 else 7) x.mode (fun q => x.word (b.2.1.getD q (0, 0))) ref b.2.2.ms b.2.2.e
      let ms := List.replicate b.1 0 ++ m.1
      (ms ++ List.replicate (32 - ms.length) 0, m.2)) }

/-- A block of a line; one beyond the range is padding (R102). -/
def Strip.block (x : Strip) (b : Nat) : List Int × Nat :=
  if b < x.first then (List.replicate 32 0, 0) else x.blocks.getD (b - x.first) (List.replicate 32 0, 0)

/-- The sixteen blocks of a K tile. -/
def Strip.tile (x : Strip) (kt : Nat) : List (List Int × Nat) := (List.range 16).map (fun i => x.block (16 * kt + i))

/-- The row of the row buffer for a K tile (R70). -/
def Strip.tileRow (x : Strip) (kt : Nat) : TileRow := { lanes := (x.tile kt).flatMap (·.1), offsets := (x.tile kt).map (·.2) }

/-- The lanes of the K tiles given, as the row path sums them. -/
def Strip.lanes (x : Strip) (kts : List Nat) : List (Nat × Int) :=
  kts.flatMap (fun kt => ((x.tile kt).flatMap (·.1)).zipIdx.map (fun a => (512 * kt + a.2, a.1)))

/-! ### The op (R259) -/

/-- The fields of a product or element-wise op (R259). -/
structure ProdOp where
  (wFmt aFmt oFmt decRound outRound wRev aRev kBase kLen : Nat)
  (inf stationary rowTerm : Bool)
  (inStream outStream : Word)
  q : ProdDescs
  deriving DecidableEq, Repr

/-- Read them. -/
def prodOp (o : OpRec) (q : ProdDescs) : ProdOp :=
  let w := opWord o 0
  { wFmt := fld w 15 8, aFmt := fld w 23 16, oFmt := fld w 31 24, decRound := fld w 33 32, outRound := fld w 35 34,
    wRev := fld w 39 38, aRev := fld w 41 40, kBase := fld (opWord o 3) 23 0, kLen := fld (opWord o 3) 47 24, inf := bitOf w 36,
    stationary := bitOf w 37, rowTerm := bitOf (opWord o 6) 48, inStream := opWord o 4, outStream := opWord o 5, q := q }

/-- A reverser mode that turns the operand (R201). -/
def turns (rev : Nat) : Bool := 2 ≤ rev

/-- The zero point of the weights at a stored column. -/
def ProdOp.zw (p : ProdOp) (j : Nat) : Int := match p.q.qw with | some q => qZero q j | none => 0

/-- The output format is an integer format (R89). -/
def ProdOp.intOut (p : ProdOp) : Bool := (codeRange p.oFmt).isSome

/-- The output descriptor, which an integer format alone uses (R103). -/
def ProdOp.qo (p : ProdOp) : Option QVals := if p.intOut then p.q.qo else none

/-- The column's output scale in FP32: sw × sa, ÷ so for an integer output; a reversed weight operand's sw is in the rows (R89, R103,
R205). -/
def ProdOp.outScale (p : ProdOp) (j : Nat) : BitVec 32 :=
  let sw := if turns p.wRev then one32 else match p.q.qw with | some q => qScale q j | none => one32
  let sa := match p.q.qa with | some q => qScale q 0 | none => one32
  match p.qo with
  | some q =>
    let n := (f32Dy sw).mul (f32Dy sa)
    let d := f32Dy (qScale q 0)
    let e := n.e - d.e
    f32Round false (n.m.natAbs * 2 ^ e.toNat) (d.m.natAbs * 2 ^ (-e).toNat)
  | none => f32Mul sw sa

/-- The row term over the lanes a core holds: −zw(j) × asum (R98, R100, R101), or −zdot for a reversed weight operand (R205), in slot
units; none for Octavo weights (R108, R115). -/
def ProdOp.rowTermOf (p : ProdOp) (lanes : List (Nat × Int)) (j : Nat) : Int :=
  if !p.rowTerm then 0
  else match formatKind p.wFmt with
    | .octavo _ => 0
    | _ =>
      if turns p.wRev then -((lanes.map (fun a => a.2 * p.zw a.1)).foldl (· + ·) 0) * 32768
      else -(p.zw j * (BitVec.ofInt 32 ((lanes.map (·.2)).foldl (· + ·) 0)).toInt) * 32768

/-! ### Slots: preload, partials, drain (R62, R63, R89 to R91, R93, R94, R100, R103) -/

/-- The slot a PARTIAL element preloads into a product of exponent `k` (R91). -/
def preloadPartial (mode rnd : Nat) (code : Nat) (k : Int) : AccSlot :=
  let e := readElem 0x90 code 0
  let d := e.v.e - k
  let r := satSlot (if 0 ≤ d then e.v.m * 2 ^ d.toNat else Dy.round mode rnd { m := e.v.m, e := d } 0)
  { accStart r.1 with sat := r.2 }

/-- What a slot is preloaded with: cleared, a 64-bit value, or a PARTIAL element (R63, R91). -/
def ProdOp.preload (p : ProdOp) (pre : Option Operand) (rnd : Nat → Nat) (k : Int) (i j : Nat) : AccSlot :=
  match pre with
  | some o =>
    if o.fmt = 0x90 then preloadPartial p.decRound (rnd (i * o.cols + j)) (o.code i j) k
    else accStart (BitVec.ofNat 64 (o.code i j)).toInt
  | none => accStart 0

/-- The correction entry of a column: none when the reduction range begins later, or for a reversed weight operand (R98, R100, R205). -/
def ProdOp.corrOf (p : ProdOp) (corr : List Int) (j : Nat) : Int := if p.kBase = 0 && !turns p.wRev then corr.getD j 0 else 0

/-- The sum of two partials of a slot; a saturated one keeps its value (R62, R100). -/
def AccSlot.join (x y : AccSlot) : AccSlot := if x.sat then x else if y.sat then y else x.add y.v y.res

/-- A drained slot and the exponent its value carries: y = v × 2^k. -/
structure Drained where
  slot : AccSlot
  k    : Int
  deriving DecidableEq, Repr, Inhabited

/-- The stored code of a PARTIAL element (R91). -/
def partialCode (d : Drained) : Nat := (BitVec.ofInt 64 d.slot.v).toNat + (BitVec.ofInt 16 d.k).toNat * 2 ^ 64

/-- A value of a sign beyond every format. -/
def beyond (v : Int) : Dy := { m := if v < 0 then -1 else 1, e := 400 }

/-- The exact value of a drained slot times its column's scale. -/
def ProdOp.value (p : ProdOp) (j : Nat) (d : Drained) : Dy := Dy.mul { m := d.slot.v, e := d.k } (f32Dy (p.outScale j))

/-- A saturated slot in an MX row: its element is the element format's limit, its block's scale that of the values (R90, R94; log 91). -/
def mxSaturate (kind : Nat) (inf : Bool) (ds : List Drained) (codes : List Nat) : List Nat :=
  (codes.zip ds).map (fun c => if c.2.slot.sat then (mxWrite kind 0 0 inf (beyond c.2.slot.v)).1 else c.1)

/-- Convert one row of drained slots to the output format (R89, R90, R93, R94, R103): codes, scales, flags. -/
def drainRow (p : ProdOp) (rnd : Nat → Nat) (ds : List Drained) : List Nat × List Nat × BitVec 3 :=
  let sat := if ds.any (·.slot.sat) then flagSaturated else 0
  match formatKind p.oFmt with
  | .partialSum => (ds.map partialCode, [], sat)
  | .mx k =>
    let o := rowOut p.oFmt p.outRound p.inf true rnd (ds.mapIdx p.value)
    (mxSaturate k p.inf ds o.1, o.2.1, o.2.2 ||| sat)
  | _ =>
    let zo : Int := match p.qo with | some q => qZero q 0 | none => 0
    let os := ds.mapIdx (fun j d =>
      if d.slot.sat then { scalarOut p.oFmt p.outRound 0 p.inf false (beyond d.slot.v) with flags := 0 }
      else scalarOut p.oFmt p.outRound (rnd j) p.inf p.qo.isNone ((p.value j d).add { m := zo, e := 0 }))
    (os.map (·.code), [], os.foldl (fun f o => f ||| o.flags) sat)

/-- Convert one row of drained slots to FP32 for an update (R209), and whether a slot had saturated. -/
def drainF32 (p : ProdOp) (ds : List Drained) : List (BitVec 32) :=
  ds.mapIdx (fun j d => f32Out (if d.slot.sat then inf32 (d.slot.v < 0) else f32Of (p.value j d)))

/-! ### The gradient rows of a product with a reversed weight operand (R205, R218) -/

/-- The rows scaled by sw and converted to the gradient format: each element's value, in the tensor's own format, times sw(n), and one
conversion along the reduction. With it the FP32 rows, for the counts of R219, and whether a special value was met. -/
def scaledSide (p : ProdOp) (x : Side) (fmt : Nat) (q : QVals) (lines len : Nat) : Side × List (List (BitVec 32)) × Bool :=
  let rows := (List.range lines).map (fun i => (List.range len).map (fun k =>
    let e := x.place i k
    f32Mul (elemF32 fmt (x.o.code e.1 e.2) (x.o.scale e.1 e.2)) (qScale q k)))
  let outs := rows.map (finishRow p.aFmt 0 false (fun _ => 0))
  let at' (r c : Nat) : Nat × Nat := if x.turned then (c, r) else (r, c)
  let o : Operand := { x.o with
    fmt := p.aFmt, plane := none, ref := fun _ => none
    code := fun r c => let a := at' r c; ((outs.getD a.1 default).1).getD a.2 0
    scale := fun r c => let a := at' r c; ((outs.getD a.1 default).2.1).getD (a.2 / 32) 127 }
  ({ x with o := o }, rows, outs.any (fun r => r.2.2 &&& flagSpecialIn != 0))

/-! ### Tiles on cores (R69 to R72, R124, R208) -/

/-- The rows of a core's part, split into ⌈r ÷ 64⌉ groups whose sizes differ by at most one, the larger first (R124): first row and
number of rows. -/
def rowGroups (r : Nat) : List (Nat × Nat) :=
  let n := ceilDiv r 64
  (List.range n).map (fun g => (g * (r / n) + min g (r % n), r / n + (if g < r % n then 1 else 0)))

/-- Aligned groups of up to 64 rows, as a weight-side product is split (R208). -/
def alignedGroups (r : Nat) : List (Nat × Nat) := (List.range (ceilDiv r 64)).map (fun g => (64 * g, min 64 (r - 64 * g)))

/-- One core's part of a product: an N tile, the K tiles it holds, and its row groups. -/
structure Part where
  core   : CoreId
  nt     : Nat
  kts    : List Nat
  groups : List (Nat × Nat)
  deriving DecidableEq, Repr, Inhabited

/-- A product with its operands read: lines decoded, start values, and the shape of its result. -/
structure ProdRun where
  p     : ProdOp
  ws    : List Strip
  as    : List Strip
  corr  : List Int
  pre   : Option Operand
  rnd   : Nat → Nat
  wHandle : BitVec 32
  /-- K tiles of the plane operand, by which its tiles are numbered (R120) -/
  kTiles : Nat

/-- The K tiles that a reduction range meets. -/
def ProdOp.tiles (p : ProdOp) : List Nat := (List.range (ceilDiv (p.kBase + p.kLen) 512 - p.kBase / 512)).map (· + p.kBase / 512)

/-- The parts of a product: every N tile's K tiles on their home cores, all rows on each; a weight-side product by aligned row groups
instead, never along the reduction (R100, R124, R208). -/
def ProdRun.jobs (r : ProdRun) (cores : List CoreId) (home : Nat → CoreId) : List Part :=
  let nts := List.range (ceilDiv r.ws.length 1024)
  if r.p.aRev = 3 then
    let gs := alignedGroups r.as.length
    nts.flatMap (fun nt => gs.zipIdx.map (fun g =>
      { core := cores.getD ((nt * gs.length + g.2) % cores.length) 0, nt := nt, kts := r.p.tiles, groups := [g.1] }))
  else
    cores.flatMap (fun c => nts.filterMap (fun nt =>
      match r.p.tiles.filter (fun kt => home (nt * r.kTiles + kt) == c) with
      | [] => none
      | kts => some { core := c, nt := nt, kts := kts, groups := rowGroups r.as.length }))

/-- The lines of an N tile. -/
def ProdRun.columns (r : ProdRun) (nt : Nat) : List Strip := (r.ws.drop (1024 * nt)).take 1024

/-- A tile as the loader takes it. -/
def ProdRun.tile (r : ProdRun) (nt kt : Nat) : Tile :=
  let cs := (r.columns nt).map (fun w => w.tile kt)
  { handle := r.wHandle, index := nt * r.kTiles + kt, planes := weightPlanes r.p.wFmt, signed := !weightUnsigned r.p.wFmt,
    cols := cs.length, ms := (List.range 512).map (fun k => cs.map (fun bs => ((bs.getD (k / 32) ([], 0)).1).getD (k % 32) 0)),
    offsets := cs.map (fun bs => bs.map (·.2)) }

/-- The exponent of a slot: E_w + E_a − 15 (R80). -/
def ProdRun.exponent (r : ProdRun) (i j : Nat) : Int := (r.ws.getD j default).ref + (r.as.getD i default).ref - 15

/-- Where a slot of a part starts: the column term and the preload go to the part that holds the op's first tile alone (R98, R100). -/
def ProdRun.start (r : ProdRun) (j : Part) (i c : Nat) : AccSlot :=
  if j.kts.contains (r.p.kBase / 512) then
    let x := r.p.corrOf r.corr c
    (r.p.preload r.pre r.rnd (r.exponent i c) i c).add x (res3 x)
  else accStart 0

/-- Run one row group of a part: slots started, every tile loaded and accumulated, the row term added in the first drain cycle; the
array, and whether every comparison of R65 held. -/
def ProdRun.group (r : ProdRun) (j : Part) (a : PressArray) (g : Nat × Nat) : PressArray × Bool :=
  let rows := List.range g.2
  let cols := List.range (r.columns j.nt).length
  let line (i : Nat) : Strip := r.as.getD (g.1 + i) default
  let a1 := rows.foldl (fun b i => cols.foldl (fun b c => b.setAcc c i (r.start j (g.1 + i) (1024 * j.nt + c))) b) a
  let a2 := j.kts.foldl (fun (acc : PressArray × Bool) kt =>
    let t := r.tile j.nt kt
    let rs := rows.map (fun i => (line i).tileRow kt)
    let b := (acc.1.load t rs).run t (activationPasses r.p.aFmt) rs
    (b.1, acc.2 && b.2)) (a1, true)
  (rows.foldl (fun b i => cols.foldl (fun b c =>
    let x := r.p.rowTermOf ((line i).lanes j.kts) (1024 * j.nt + c)
    if x = 0 then b else b.setAcc c i ((b.accAt c i).add x (res3 x))) b) a2.1, a2.2)

/-- Resident tiles of the same tensor give way before a product's own are kept. -/
def PressArray.forget (a : PressArray) (h : BitVec 32) (tiles : List Nat) : PressArray :=
  { a with resident := a.resident.filter (fun t => !(t.1 == h && tiles.contains t.2.1)) }

/-- A part may keep its tiles resident: the op is marked STATIONARY and the core's tiles of the product fit in 32 plane slots (R124). -/
def ProdRun.stays (r : ProdRun) (jobs : List Part) (c : CoreId) : Bool :=
  r.p.stationary && sumNat ((jobs.filter (·.core == c)).map (fun j => j.kts.length)) * weightPlanes r.p.wFmt ≤ 32

/-- Run a part on its core's array: its slots by row and column (drained row by row), and the check's verdict. -/
def ProdRun.part (r : ProdRun) (stay : Bool) (j : Part) (a : PressArray) : PressArray × List (Nat × Nat × AccSlot) × Bool :=
  let a0 := a.forget r.wHandle (j.kts.map (fun kt => j.nt * r.kTiles + kt))
  let a1 := if stay then j.kts.foldl (fun b kt => b.keep (r.tile j.nt kt)) a0 else a0
  j.groups.foldl (fun acc g =>
    let b := r.group j acc.1 g
    let out := (List.range g.2).flatMap (fun i => (List.range (r.columns j.nt).length).map (fun c => (g.1 + i, 1024 * j.nt + c, b.1.accAt c i)))
    (b.1, acc.2.1 ++ out, acc.2.2 && b.2)) (a1, [], true)

/-- Galley bytes a part moves: for each group its rows, and its tiles' planes unless they stay resident (R70, R72, R124, R387). -/
def ProdRun.bytes (r : ProdRun) (stay : Bool) (j : Part) : Nat :=
  let planes := 65536 * weightPlanes r.p.wFmt * j.kts.length
  sumNat (j.groups.map (fun g => (if stay then 0 else planes) + 512 * g.2 * activationPasses r.p.aFmt * j.kts.length)) + (if stay then planes else 0)

/-- Work of a slug's run on a core's array. -/
def onArray {α : Type} (s : State) (f : FormeId) (t : SlugTag) (c : CoreId) (g : PressArray → PressArray × α) : State × α :=
  let s1 := (enterCore s f t c).rampUp f c
  let r := g (s1.core c).array
  (s1.modCore c (fun k => { k with array := r.1 }), r.2)

/-- Run every part: the state, the slots of all partials, and the first core whose checks failed. -/
def ProdRun.all (r : ProdRun) (s : State) (f : FormeId) (t : SlugTag) (jobs : List Part) : State × List (Nat × Nat × AccSlot) × Option CoreId :=
  jobs.foldl (fun acc j =>
    let stay := r.stays jobs j.core
    let x := onArray acc.1 f t j.core (fun a => let y := r.part stay j a; (y.1, y.2))
    (x.1.charge f (r.bytes stay j * galleyByteFj), acc.2.1 ++ x.2.1, if x.2.2 then acc.2.2 else acc.2.2.or (some j.core))) (s, [], none)

/-- The drained rows of a product: partials of a slot are summed (R100). -/
def ProdRun.drained (r : ProdRun) (parts : List (Nat × Nat × AccSlot)) : List (List Drained) :=
  (List.range r.as.length).map (fun i =>
    let row := parts.filter (·.1 == i)
    (List.range r.ws.length).map (fun j =>
      let xs := (row.filter (·.2.1 == j)).map (·.2.2)
      { slot := match xs with | [] => accStart 0 | x :: rest => rest.foldl AccSlot.join x, k := r.exponent i j }))

/-- A special value was met in a row or in a column. -/
def ProdRun.special (r : ProdRun) : Bool := r.ws.any (·.special) || r.as.any (·.special)

/-! ### Element-wise runs (R73) -/

/-- An element-wise run with its operands read. A second operand of one row serves every row of the run; there being no reduction,
blocks of 32 lie along the row (log 34). -/
structure ElemRun where
  p    : ProdOp
  w    : Side
  a    : Side
  corr : List Int
  pre  : Option Operand
  rnd  : Nat → Nat
  rows : Nat
  n    : Nat

/-- The line of the second operand that a row uses. -/
def ElemRun.weightRow (r : ElemRun) (i : Nat) : Nat := if (if r.w.turned then r.w.o.cols else r.w.o.rows) = 1 then 0 else i

/-- Blocks of 32 along a row of the second operand: mantissas and group exponent of each. -/
def ElemRun.weights (r : ElemRun) (i : Nat) : List Block :=
  (List.range (ceilDiv r.n 32)).map (fun b => r.w.block ((List.range (min 32 (r.n - 32 * b))).map (fun q =>
    if r.w.turned then (32 * b + q, r.weightRow i) else (r.weightRow i, 32 * b + q))))

/-- One row: the columns' exponents, the outcome of each slot, the array, and the verdict of the residues. -/
def ElemRun.row (r : ElemRun) (i group : Nat) (wb : List Block) (s : Strip) (a : PressArray) : PressArray × List AccSlot × Bool :=
  let js := (List.range (min 1024 (r.n - 1024 * group))).map (· + 1024 * group)
  let m (j : Nat) : Int := ((wb.getD (j / 32) default).ms).getD (j % 32) 0
  let lane (j : Nat) : Int := ((s.block (j / 32)).1).getD (j % 32) 0
  let k (j : Nat) : Int := ((wb.getD (j / 32) default).e.getD 0) + s.ref - 15
  let x := a.element (weightPlanes r.p.wFmt) (activationPasses r.p.aFmt) (!weightUnsigned r.p.wFmt) (js.map m) (js.map lane)
    (js.map (fun j => 15 - (s.block (j / 32)).2))
    (js.map (fun j => let c := r.p.corrOf r.corr j; (r.p.preload r.pre r.rnd (k j) i j).add c (res3 c)))
  (x.1, (js.zip x.2.1).map (fun y => let t := r.p.rowTermOf [(y.1, lane y.1)] y.1; y.2.add t (res3 t)), x.2.2)

/-- Run it row by row and group by group of 1,024 columns over the forme's cores: drained rows, whether a special value was met, and the
first core whose residues failed. -/
def ElemRun.all (r : ElemRun) (s : State) (f : FormeId) (t : SlugTag) (cores : List CoreId) : State × List (List Drained) × Bool × Option CoreId :=
  let groups := ceilDiv r.n 1024
  (List.range r.rows).foldl (fun acc i =>
    let wb := r.weights i
    let line := r.a.strip 0 r.n i
    let row := (List.range groups).foldl (fun (b : State × List AccSlot × Option CoreId) g =>
      let c := cores.getD ((i * groups + g) % cores.length) 0
      let x := onArray b.1 f t c (fun a => let y := r.row i g wb line a; (y.1, y.2))
      (x.1.charge f ((128 * weightPlanes r.p.wFmt + 1024 * activationPasses r.p.aFmt) * galleyByteFj), b.2.1 ++ x.2.1,
       if x.2.2 then b.2.2 else b.2.2.or (some c))) (acc.1, [], acc.2.2.2)
    let ds := row.2.1.mapIdx (fun j x => ({ slot := x, k := ((wb.getD (j / 32) default).e.getD 0) + line.ref - 15 } : Drained))
    (row.1, acc.2.1 ++ [ds], acc.2.2.1 || line.special || wb.any (·.special), row.2.2)) (s, [], false, none)

end Sys2Proof.Machine
end

