-- ==== Sys2Proof/Machine/Attention.lean ====
section
/-! DEFINITION. The attention step: rotation and appends (R162, R163), scores and values over the leaves (R166 to R170), retention (R176),
and attention backward (R217). -/
namespace Sys2Proof.Machine

/-! ### Rows of a tensor as the finishing unit reads and writes them (R92 to R95, R200) -/

/-- An element in FP32: an integer code through the descriptor its record names, any other format by its value; an operand in plane layout
by its mantissa and group exponent. -/
def Operand.real (o : Operand) (q : Option QVals) (r c : Nat) : BitVec 32 :=
  let whole (m : Int) : BitVec 32 := match q with
    | some d => f32Mul (qScale d c) (f32Of { m := m - qZero d c, e := 0 })
    | none => f32Of { m := m, e := 0 }
  match o.plane with
  | some g =>
    let e := g r c
    match formatKind o.fmt, e.2 with
    | .octavo _, _ => (match q with | some d => f32Mul (qScale d c) (f32Of { m := e.1, e := 0 }) | none => f32Of { m := e.1, e := 0 })
    | .uint _, _ | .int _, _ => whole e.1
    | _, some k => f32In (f32Of { m := e.1, e := k })
    | _, none => nan32
  | none => if (codeRange o.fmt).isSome then whole (codeInt o.fmt (o.code r c)) else elemF32 o.fmt (o.code r c) (o.scale r c)

/-- A tensor as the finishing unit reads it: its rows in FP32. -/
structure RealRows where
  o    : Operand
  rows : List (List (BitVec 32))

/-- A NaN or an infinity is among the elements, which sets SPECIAL_IN (R94). -/
def RealRows.special (x : RealRows) : BitVec 3 := if x.rows.any (fun r => r.any (fun e => f32Nan e || f32Inf e)) then flagSpecialIn else 0

/-- The rows of the tensor a handle names; R260 has checked that it names one. -/
def realRows (s : State) (f : FormeId) (sl : Slug) (v : Version) (h : BitVec 32) : Got RealRows :=
  match findTensor v h with
  | some t =>
    let o := tensorOperand s f sl t t.format.toNat
    (recordDesc s f sl t).bind (fun q => .ok { o := o, rows := (List.range o.rows).map (fun r => (List.range o.cols).map (o.real q r)) })
  | none => .ok { o := streamOperand h 0 0 0 (fun _ => 0), rows := [] }

/-- Convert a row of FP32 results to a tensor's format: an integer format with a descriptor is quantised (R92 to R95). -/
def storeRow (q : Option QVals) (fmt : Nat) (xs : List (BitVec 32)) : List Nat × List Nat × BitVec 3 :=
  match q with
  | some d => (xs.mapIdx (fun j x => quantise fmt 0 0 (qScale d j) (qZero d j) x), [], if xs.any (fun x => f32Nan x || f32Inf x) then flagSpecialIn else 0)
  | none => finishRow fmt 0 false (fun _ => 0) xs

/-- The stored bytes of rows of FP32 results in a tensor's record format, or in another, and the flags. -/
def storeAs (s : State) (f : FormeId) (sl : Slug) (v : Version) (h : BitVec 32) (fmt : Option Nat) (rows : List (List (BitVec 32))) :
    Got (List Byte × BitVec 3) :=
  match findTensor v h with
  | some t =>
    (recordDesc s f sl t).bind (fun q =>
      let c := fmt.getD t.format.toNat
      let rs := rows.map (storeRow (if fmt.isSome then none else q) c)
      .ok (tensorBytes c t.cols { codes := rs.flatMap (·.1), scales := rs.flatMap (·.2.1) }, rs.foldl (fun f r => f ||| r.2.2) 0))
  | none => .ok ([], 0)

/-- As `storeAs`, in the record's own format. -/
def storeRows (s : State) (f : FormeId) (sl : Slug) (v : Version) (h : BitVec 32) (rows : List (List (BitVec 32))) : Got (List Byte × BitVec 3) :=
  storeAs s f sl v h none rows

/-- Sum FP32 values in ascending order (R200). -/
def f32Sum (xs : List (BitVec 32)) : BitVec 32 :=
  match xs with
  | [] => 0
  | x :: rest => rest.foldl f32Add x

/-- Sum values that lie on several cores: first within each core in ascending order, then the cores' sums in the ascending order of each
core's lowest index (R200). -/
def f32SumCores (xs : List (Nat × BitVec 32)) : BitVec 32 :=
  let cores := xs.foldl (fun acc x => if acc.contains x.1 then acc else acc ++ [x.1]) []
  f32Sum (cores.map (fun c => f32Sum ((xs.filter (·.1 == c)).map (·.2))))

/-! ### Rotation and appends (R162, R163) -/

/-- Rotate the 128 elements of one head at a position, or with `back` by the opposite angle (R162, R217). -/
def rotate (base : BitVec 32) (back : Bool) (pos : Nat) (xs : List (BitVec 32)) : List (BitVec 32) :=
  if base.toNat % 2 ^ 31 = 0 then xs
  else (List.range 64).flatMap (fun j =>
    let a := f32Mul (f32Of { m := pos, e := 0 }) (ropePower base j)
    let c := f32Cos a
    let n := if back then f32Negate (f32Sin a) else f32Sin a
    let x := xs.getD (2 * j) 0
    let y := xs.getD (2 * j + 1) 0
    [f32Sub (f32Mul x c) (f32Mul y n), f32Add (f32Mul x n) (f32Mul y c)])

/-- An attention step with what it needs of its launch. -/
structure AttnStep where
  d     : AttnDesc
  kvec  : List (BitVec 32 × Int)
  vvec  : List (BitVec 32 × Int)
  layer : Nat
  lg    : Nat
  /-- KV heads: 2 × GROUPS, or one fewer where the last group holds a padding head (R156) -/
  kv    : Nat
  /-- rows of each sequence -/
  n     : Nat
  /-- position of the first row -/
  first : Nat
  seed  : Word
  deriving DecidableEq, Repr

/-- Query heads. -/
def AttnStep.heads (a : AttnStep) : Nat := a.kv * a.d.qheads

/-- The KV heads of a model whose output rows hold so many columns (R156; log 36). -/
def kvHeads (d : AttnDesc) (cols : Nat) : Nat := if cols ≤ 128 * (2 * d.groups - 1) * d.qheads then 2 * d.groups - 1 else 2 * d.groups

/-- The descriptor at an address with its two vectors, read as the slug sees them, every rule of R158 met; the version gives the number of
layers. A vector's scales keep R115, and a calibration's second set may hold the vector (R113, R158). -/
def attnGather (s : State) (f : FormeId) (sl : Slug) (v : Version) (a : BitVec 56) : Got (AttnDesc × List (BitVec 32 × Int) × List (BitVec 32 × Int)) :=
  (ownGather s f sl 0x0902 a 4).bind (fun ws => match attnDesc? ws with
    | none => .fails 0x0902
    | some d =>
      if 1024 < (layerAddrs v).length * d.groups then .fails 0x0902
      else
        (gatherWords s f sl (corrAddr sl d.kvec) (256 * d.groups)).bind (fun k =>
          (gatherWords s f sl (corrAddr sl d.vvec) (256 * d.groups)).bind (fun w =>
            let ks := k.map vectorEntry
            let vs := w.map vectorEntry
            if !(ks ++ vs).all (fun e => scaleOk e.1) then .fails 0x0501
            else if ks.all (fun e => halfZeroOk d.kSigned e.2) && vs.all (fun e => halfZeroOk d.vSigned e.2) then .ok (d, ks, vs)
            else .fails 0x0902)))

/-- The leaf entry of a layer and group for a sequence of the context (R161; log 36). -/
def AttnStep.entry (a : AttnStep) (sq g : Nat) : Nat := a.layer * a.d.groups + g + a.lg * sq

/-- The sequence and the position of a row. -/
def AttnStep.at' (a : AttnStep) (i : Nat) : Nat × Nat := (i / max 1 a.n, a.first + i % max 1 a.n)

/-- Elements of a 128-wide head of a row. -/
def headOf (row : List (BitVec 32)) (start h : Nat) : List (BitVec 32) := (row.drop (start + 128 * h)).take 128

/-- Quantise the 256 elements of a group's K or V to 4-bit codes (R162): `half` 0 for K, 1 for V; a padding head is zero (R156). -/
def appendCodes (a : AttnStep) (half pos g : Nat) (xs : List (BitVec 32)) : List (BitVec 4) :=
  let signed := if half = 0 then a.d.kSigned else a.d.vSigned
  let vec := if half = 0 then a.kvec else a.vvec
  (List.range 256).map (fun e =>
    if a.kv ≤ 2 * g + e / 128 then 0
    else
      let q := vec.getD (256 * g + e) (one32, 0)
      BitVec.ofNat 4 (quantise (if signed then 0x24 else 0x04) a.d.round
        (roundWord a.seed (BitVec.ofNat 64 (2 * a.layer + half)) ((pos * a.d.groups + g) * 256 + e)) q.1 q.2 (xs.getD e 0)))

/-- The appends of one row: for each group, K rotated and V, as codes (R162, R163). -/
def rowAppends (a : AttnStep) (sq pos : Nat) (row : List (BitVec 32)) : List Proof :=
  let k0 := 128 * a.heads
  let v0 := k0 + 128 * a.kv
  (List.range a.d.groups).map (fun g =>
    let k := (List.range 2).flatMap (fun h => rotate a.d.rope false pos (headOf row k0 (2 * g + h)))
    let v := (List.range 2).flatMap (fun h => headOf row v0 (2 * g + h))
    .append (a.entry sq g) pos (appendCodes a 0 pos g k) (appendCodes a 1 pos g v))

/-! ### Leaves as a slug reads them (R163, R166, R168) -/

/-- A 4-bit code as the number the array multiplies. -/
def leafCode (signed : Bool) (q : BitVec 4) : Int := if signed then q.toInt else q.toNat

/-- A position that takes part in a query, with the K and V codes of a KV head (R166, R168). -/
structure Taking where
  pos : Nat
  k   : List Int
  v   : List Int
  deriving DecidableEq, Repr, Inhabited

/-- The positions that take part in a query at `pos` for KV head `kv` of a sequence: below the committed length or the slug's own appends,
and with CAUSAL = 1 none after the query (R168). -/
def AttnStep.taking (a : AttnStep) (s : State) (f : FormeId) (sl : Slug) (c : Context) (proofs : List Proof) (sq kv pos : Nat) : List Taking :=
  let e := a.entry sq (kv / 2)
  let own := proofs.filterMap (fun p => match p with | .append e' q _ _ => if e' == e then some q else none | _ => none)
  let limit := max c.length ((own.map (· + 1)).foldl max 0)
  ((List.range limit).filter (fun j => (j < c.length || own.contains j) && (!a.d.causal || j ≤ pos))).map (fun j =>
    let l := leafSlot s f sl c proofs e j
    { pos := j, k := (List.range 128).map (fun i => leafCode a.d.kSigned (l.1.getD (128 * (kv % 2) + i) 0)),
      v := (List.range 128).map (fun i => leafCode a.d.vSigned (l.2.getD (128 * (kv % 2) + i) 0)) })

/-! ### Scores (R167) -/

/-- The exact dot product of a row in MXINT8 blocks with 4-bit codes, through the block offsets of R80: the value's exact form. -/
def leafDot (blocks : List (Nat × List Nat)) (codes : List Int) : Dy :=
  let ref := refExponent (blocks.map (fun b => some ((b.1 : Int) - 133)))
  let terms := blocks.mapIdx (fun i b =>
    let m := limitOffset 8 0 (fun _ => 0) ref (b.2.map (fun q => (BitVec.ofNat 8 q).toInt)) (some ((b.1 : Int) - 133))
    (List.zipWith (· * ·) m.1 ((codes.drop (32 * i)).take 32)).foldl (· + ·) 0 * 2 ^ (15 - m.2))
  { m := terms.foldl (· + ·) 0, e := ref - 15 }

/-- Cut a row into MXINT8 blocks (R90). -/
def mxRow (xs : List (BitVec 32)) : List (Nat × List Nat) :=
  (List.range (ceilDiv xs.length 32)).map (fun b =>
    let r := mxBlock 0 0 (fun _ => 0) false (((xs.drop (32 * b)).take 32).map (fun x => (f32Leave false x).v))
    (r.1, r.2.1))

/-- The decoded values of a row of MXINT8 blocks, in FP32. -/
def mxDecoded (bs : List (Nat × List Nat)) : List (BitVec 32) := bs.flatMap (fun b => b.2.map (fun q => f32Of (mxRead 0 q b.1).v))

/-- Scale and zero point of an element of a KV head. -/
def headEntry (vec : List (BitVec 32 × Int)) (kv i : Nat) : BitVec 32 × Int := vec.getD (128 * kv + i) (one32, 0)

/-- The scores of one query head over the K codes of the positions given (R167). -/
def scores (a : AttnStep) (kv : Nat) (q : List (BitVec 32)) (codes : List (List Int)) : List (BitVec 32) :=
  let sc := headEntry a.kvec kv
  let bs := mxRow (q.mapIdx (fun i x => f32Mul x (sc i).1))
  let c := f32Sum ((mxDecoded bs).mapIdx (fun i x => f32Mul x (f32Of { m := (sc i).2, e := 0 })))
  codes.map (fun ks =>
    let y := leafDot bs ks
    let d := if f32Nan c || f32Inf c then f32Sub (f32Of y) c else f32Of (y.add (f32Dy (f32Negate c)))
    f32Mul a.d.scale d)

/-! ### Segments and merging (R168 to R170) -/

/-- A softmax state of one query head. -/
structure Seg where
  m : BitVec 32
  l : BitVec 32
  o : List (BitVec 32)
  deriving DecidableEq, Repr, Inhabited

/-- The state of a segment with no participating position. -/
def Seg.empty : Seg := { m := inf32 true, l := 0, o := List.replicate 128 0 }

/-- The segment of the participating positions of one quad: position in the quad, score, V codes (R168). -/
def segment (ps : List (Nat × BitVec 32 × List Int)) : Seg :=
  match ps with
  | [] => Seg.empty
  | p :: rest =>
    let m := rest.foldl (fun m q => if f32Lt m q.2.1 then q.2.1 else m) p.2.1
    let prob (j : Nat) : BitVec 32 := match ps.find? (·.1 == j) with | some q => f32Exp (f32Sub q.2.1 m) | none => 0
    let top := (ps.map (·.1)).foldl max 0
    let bs := mxRow ((List.range (32 * (top / 32 + 1))).map prob)
    let ph := mxDecoded bs
    let l := f32Sum (ps.map (fun q => ph.getD q.1 0))
    let vcode (d j : Nat) : Int := match ps.find? (·.1 == j) with | some q => q.2.2.getD d 0 | none => 0
    { m := m, l := l, o := (List.range 128).map (fun d => f32Of (leafDot bs ((List.range (32 * (top / 32 + 1))).map (vcode d)))) }

/-- merge of R170. -/
def Seg.merge (a b : Seg) : Seg :=
  if a.m = inf32 true then b
  else if b.m = inf32 true then a
  else
    let m := if f32Lt a.m b.m then b.m else a.m
    let fa := f32Exp (f32Sub a.m m)
    let fb := f32Exp (f32Sub b.m m)
    { m := m, l := f32Add (f32Mul a.l fa) (f32Mul b.l fb),
      o := List.zipWith (fun x y => f32Add (f32Mul x fa) (f32Mul y fb)) a.o b.o }

/-- The core a quad of a context lies on, by its place among the forme's cores (R169). -/
def quadCore (origin n quad : Nat) : Nat := (origin + quad) % max 1 n

/-- The two folds of R170: each core folds its quads in ascending order, the cores fold in order of their lowest quads. -/
def mergeAll (origin n : Nat) (segs : List (Nat × Seg)) : Seg :=
  let cores := segs.foldl (fun acc s =>
    let c := quadCore origin n s.1
    if acc.any (fun p : Nat × Seg => p.1 == c) then acc.map (fun p => if p.1 == c then (p.1, p.2.merge s.2) else p) else acc ++ [(c, s.2)]) []
  match cores with
  | [] => Seg.empty
  | p :: rest => rest.foldl (fun m q => m.merge q.2) p.2

/-- The output of one query head (R170). -/
def headOut (a : AttnStep) (kv : Nat) (s : Seg) : List (BitVec 32) :=
  if f32Lt 0 s.l then
    s.o.mapIdx (fun d o =>
      let e := headEntry a.vvec kv d
      f32Mul e.1 (f32Sub (f32Div o s.l) (f32Of { m := e.2, e := 0 })))
  else List.replicate 128 0

/-- The merged state of a query head from the positions that take part and their scores (R168 to R170). -/
def headState (c : Context) (cores : Nat) (ts : List Taking) (ss : List (BitVec 32)) : Seg :=
  let rows := ts.zip ss
  let quads := ceilDiv ((ts.map (·.pos + 1)).foldl max 0) 1024
  mergeAll c.coreOrigin cores ((List.range quads).map (fun q =>
    (q, segment ((rows.filter (fun r => r.1.pos / 1024 == q)).map (fun r => (r.1.pos % 1024, r.2, r.1.v))))))

/-- One query head at a position: its merged state. -/
def attendHead (a : AttnStep) (s : State) (f : FormeId) (sl : Slug) (c : Context) (proofs : List Proof) (cores sq pos h : Nat)
    (row : List (BitVec 32)) : Seg :=
  let kv := h / a.d.qheads
  let ts := a.taking s f sl c proofs sq kv pos
  headState c cores ts (scores a kv (rotate a.d.rope false pos (headOf row 0 h)) (ts.map (·.k)))

/-- The rows of an attention step: output rows, statistics rows (m and l of each head, R176), and the appends. A row holds the query
heads, and, where the step appends, the K and V heads after them (log 36). -/
def attend (a : AttnStep) (s : State) (f : FormeId) (sl : Slug) (c : Context) (rows : List (List (BitVec 32))) :
    List (List (BitVec 32)) × List (List (BitVec 32)) × List Proof :=
  let cores := (s.liveCores f).length
  let appends := if rows.all (fun r => r.length < 128 * a.heads + 256 * a.kv) then []
    else (rows.mapIdx (fun i r => rowAppends a (a.at' i).1 (a.at' i).2 r)).flatten
  let proofs := appends.reverse ++ visibleProofs (s.forme f) 16 sl
  let done := rows.mapIdx (fun i r => (List.range a.heads).map (fun h => (h, attendHead a s f sl c proofs cores (a.at' i).1 (a.at' i).2 h r)))
  (done.map (fun hs => hs.flatMap (fun s => headOut a (s.1 / a.d.qheads) s.2)),
   done.map (fun hs => hs.flatMap (fun s => [s.2.m, s.2.l])), appends)

/-! ### Attention backward (R217) -/

/-- What one query row and head give: dQ, and for each position that took part its P and dS (R217). -/
structure HeadBack where
  dQ : List (BitVec 32)
  at' : List (Nat × BitVec 32 × BitVec 32)
  deriving DecidableEq, Repr, Inhabited

/-- K̃ or Ṽ of an element: scale × (code − zero point). -/
def tilde (vec : List (BitVec 32 × Int)) (kv i : Nat) (code : Int) : BitVec 32 :=
  let e := headEntry vec kv i
  f32Mul e.1 (f32Of { m := code - e.2, e := 0 })

/-- One query head at a position: m and l as retained, or rebuilt by the forward's own score product and merge. A sum over positions is
one over the cores their quads lie on (R200). -/
def headBack (a : AttnStep) (s : State) (f : FormeId) (sl : Slug) (c : Context) (proofs : List Proof) (sq pos h : Nat)
    (q dO out : List (BitVec 32)) (kept : Option (BitVec 32 × BitVec 32)) : HeadBack :=
  let cores := (s.liveCores f).length
  let kv := h / a.d.qheads
  let ts := a.taking s f sl c proofs sq kv pos
  let ss := scores a kv (rotate a.d.rope false pos q) (ts.map (·.k))
  let ml := match kept with | some k => k | none => let g := headState c cores ts ss; (g.m, g.l)
  let big := f32Sum (List.zipWith f32Mul dO out)
  let cells := (ts.zip ss).map (fun t =>
    let p := f32Mul (f32Exp (f32Sub t.2 ml.1)) (f32Recip ml.2)
    let dp := f32Sum (dO.mapIdx (fun d g => f32Mul g (tilde a.vvec kv d (t.1.v.getD d 0))))
    (t.1, p, f32Mul p (f32Sub dp big)))
  { dQ := (List.range 128).map (fun i => f32Mul a.d.scale (f32SumCores (cells.map (fun t =>
      (quadCore c.coreOrigin cores (t.1.pos / 1024), f32Mul t.2.2 (tilde a.kvec kv i (t.1.k.getD i 0))))))),
    at' := cells.map (fun t => (t.1.pos, t.2.1, t.2.2)) }

/-- A position's gradients are kept: it lies in the trained range and not in a shared run (R213). -/
def trainedAt (c : Context) (first count j : Nat) : Bool :=
  first ≤ j && j < first + count && !((c.dir[j / 256]?).any (·.2))

/-- dQ by query row, and dK and dV by sequence and position of the trained range, each over its heads in order: dK and dV are summed over
the query rows in ascending order within a query head, then over the query heads of their KV head in ascending order; dK is rotated back.
Positions outside the trained range are dropped (R213, R217). -/
def attendBack (a : AttnStep) (s : State) (f : FormeId) (sl : Slug) (c : Context) (seqs trained count : Nat)
    (qs dOs outs : List (List (BitVec 32))) (kept : Option (List (List (BitVec 32)))) :
    List (List (BitVec 32)) × List (List (BitVec 32)) × List (List (BitVec 32)) :=
  let proofs := visibleProofs (s.forme f) 16 sl
  let cells := qs.mapIdx (fun i row => (List.range a.heads).map (fun h =>
    headBack a s f sl c proofs (a.at' i).1 (a.at' i).2 h (headOf row 0 h) (headOf (dOs.getD i []) 0 h) (headOf (outs.getD i []) 0 h)
      (kept.map (fun k => ((k.getD i []).getD (2 * h) 0, (k.getD i []).getD (2 * h + 1) 0)))))
  let sumOver (sq j kv : Nat) (term : Nat → Nat → BitVec 32 × BitVec 32 → BitVec 32) : BitVec 32 :=
    f32Sum ((List.range a.d.qheads).map (fun g =>
      let h := kv * a.d.qheads + g
      f32Sum ((cells.zipIdx.filter (fun r => (a.at' r.2).1 == sq)).filterMap (fun r =>
        ((r.1.getD h default).at'.find? (·.1 == j)).map (fun t => term r.2 h t.2)))))
  let each (g : Nat → Nat → Nat → List (BitVec 32)) : List (List (BitVec 32)) :=
    (List.range seqs).flatMap (fun sq => (List.range count).map (fun i =>
      (List.range a.kv).flatMap (fun kv => if trainedAt c trained count (trained + i) then g sq (trained + i) kv else List.replicate 128 0)))
  (cells.map (fun r => r.flatMap (·.dQ)),
   each (fun sq j kv => rotate a.d.rope true j ((List.range 128).map (fun e => f32Mul a.d.scale
      (sumOver sq j kv (fun i h t => f32Mul t.2 ((rotate a.d.rope false (a.at' i).2 (headOf (qs.getD i []) 0 h)).getD e 0)))))),
   each (fun sq j kv => (List.range 128).map (fun e => sumOver sq j kv (fun i h t => f32Mul t.1 ((headOf (dOs.getD i []) 0 h).getD e 0)))))

end Sys2Proof.Machine
end

