-- ==== Sys2Proof/Machine/Finishing.lean ====
section
/-! DEFINITION. Normalisation (R214 to R216), updates (R209 to R213), gradient formats (R218 to R220) and calibration (R110 to R114): what
the finishing unit computes and which writes it makes. -/
namespace Sys2Proof.Machine

/-! ### Normalisation (R214 to R216) -/

/-- A sum times 1 ÷ N, with the reciprocal taken first. -/
def f32Mean (n : Nat) (xs : List (BitVec 32)) : BitVec 32 := f32Mul (f32Sum xs) (f32Recip (f32Of { m := n, e := 0 }))

/-- The statistics of a row: μ (0 for KIND 0) and r (R214). -/
def normStats (kind : Nat) (eps : BitVec 32) (x : List (BitVec 32)) : BitVec 32 × BitVec 32 :=
  let mu := if kind = 0 then 0 else f32Mean x.length x
  let c := if kind = 0 then x else x.map (fun v => f32Sub v mu)
  (mu, f32Rsqrt (f32Add (f32Mean x.length (c.map (fun v => f32Mul v v))) eps))

/-- The forward row (R214). -/
def normForward (kind : Nat) (gamma beta x : List (BitVec 32)) (st : BitVec 32 × BitVec 32) : List (BitVec 32) :=
  x.mapIdx (fun i v =>
    if kind = 0 then f32Mul (f32Mul (gamma.getD i 0) v) st.2
    else f32Add (f32Mul (gamma.getD i 0) (f32Mul (f32Sub v st.1) st.2)) (beta.getD i 0))

/-- The backward row from dy, x and the statistics (R214). -/
def normBackward (kind : Nat) (gamma x dy : List (BitVec 32)) (st : BitVec 32 × BitVec 32) : List (BitVec 32) :=
  let n := x.length
  let r := st.2
  let g := x.mapIdx (fun i _ => f32Mul (dy.getD i 0) (gamma.getD i 0))
  if kind = 0 then
    let t := f32Mean n (List.zipWith f32Mul g x)
    List.zipWith (fun gi xi => f32Mul r (f32Sub gi (f32Mul (f32Mul xi (f32Mul r r)) t))) g x
  else
    let xh := x.map (fun v => f32Mul (f32Sub v st.1) r)
    let a := f32Mean n g
    let b := f32Mean n (List.zipWith f32Mul g xh)
    List.zipWith (fun gi hi => f32Mul r (f32Sub (f32Sub gi a) (f32Mul hi b))) g xh

/-! ### Updates (R209 to R213) -/

/-- β1 and β2 by their codes (R209), in FP32. -/
def beta1Of (c : Nat) : BitVec 32 := [0x3F666666, 0x3F733333, 0x3F7D70A4, 0x3F600000].getD c 0
/-- As `beta1Of`. -/
def beta2Of (c : Nat) : BitVec 32 := [0x3F7FBE77, 0x3F7FF972, 0x3F7D70A4, 0x3F733333].getD c 0

/-- One element of an update: m, v and w (R210). -/
def updateElem (d : UpdateDesc) (p1 p2 f g m v w : BitVec 32) : BitVec 32 × BitVec 32 × BitVec 32 :=
  let b1 := beta1Of d.beta1
  let b2 := beta2Of d.beta2
  let gf := f32Mul g f
  let m' := f32Add (f32Mul b1 m) (f32Mul (f32Mul (f32Sub one32 b1) g) f)
  let v' := f32Add (f32Mul b2 v) (f32Mul (f32Mul (f32Sub one32 b2) gf) gf)
  let mh := f32Mul m' (f32Recip (f32Sub one32 p1))
  let vh := f32Mul v' (f32Recip (f32Sub one32 p2))
  let s := if (f32Dy vh).m == 0 then 0 else f32Mul vh (f32Rsqrt vh)
  (m', v', f32Sub w (f32Mul d.lr (f32Add (f32Mul mh (f32Recip (f32Add s d.eps))) (f32Mul d.wd w))))

/-- The clipping factor f (R211). -/
def clipFactor (d : UpdateDesc) (prev : BitVec 32) : BitVec 32 :=
  if (f32Dy d.clip).m == 0 || !f32Lt (f32Mul d.clip d.clip) prev then one32 else f32Mul d.clip (f32Rsqrt prev)

/-- A number is a NaN or an infinity. -/
def notFinite (x : BitVec 32) : Bool := f32Nan x || f32Inf x

/-- The FP32 fields of a descriptor as the finishing unit takes them (R92). -/
def flushDesc (d : UpdateDesc) : UpdateDesc :=
  { d with lr := f32In d.lr, wd := f32In d.wd, eps := f32In d.eps, clip := f32In d.clip, p1 := f32In d.p1, p2 := f32In d.p2 }

/-- The contiguous runs of a byte string some of whose bytes are not written: where each begins, and its bytes. -/
def writtenRuns (bs : List (Option Byte)) : List (Nat × List Byte) :=
  (bs.zipIdx.foldl (fun (acc : List (Nat × List Byte)) b => match b.1, acc with
    | none, _ => acc
    | some v, (at', d) :: rest => if at' + d.length = b.2 then (at', v :: d) :: rest else (b.2, [v]) :: acc
    | some v, [] => [(b.2, [v])]) []).reverse.map (fun r => (r.1, r.2.reverse))

/-- The core, by its place, that drains an element of a weight-side product of `n` cores (R208). -/
def drainCore (n rows i j : Nat) : Nat := (j / 1024 * ceilDiv rows 64 + i / 64) % max 1 n

/-- The MXINT8 working copy of a matrix (R209): byte by byte in the compact plane layout of `workingElement` (log 37); a block of 32 columns
whose mask bit is 0 writes none of its bytes (R213). -/
def workingImage (d : UpdateDesc) (trained : Nat → Bool) (w : Nat → Nat → BitVec 32) : List (Option Byte) :=
  let block (b j : Nat) : Nat × List Nat :=
    let r := mxBlock 0 0 (fun _ => 0) false ((List.range (min 32 (d.rows - 32 * b))).map (fun i => (f32Leave false (w (32 * b + i) j)).v))
    (r.1, r.2.1)
  let blocks := (List.range (ceilDiv d.rows 32)).map (fun b => (List.range d.cols).map (block b))
  let code (i j : Nat) : Nat := (((blocks.getD (i / 32) []).getD j (0, [])).2).getD (i % 32) 0
  ((List.range 8).flatMap (fun p => (List.range d.rows).flatMap (fun i => (List.range (d.cols / 8)).map (fun q =>
      if trained (8 * q) then some (BitVec.ofNat 8 (sumNat ((List.range 8).map (fun k => code i (8 * q + k) / 2 ^ p % 2 * 2 ^ k)))) else none)))) ++
    blocks.flatMap (fun r => r.zipIdx.map (fun b => if trained b.2 then some (BitVec.ofNat 8 b.1.1) else none))

/-- What an update reads: descriptor, master, moments, mask, and NORM2_PREV. -/
structure UpdateInput where
  d     : UpdateDesc
  w     : List (BitVec 32)
  mv    : List (BitVec 32)
  mask  : List Byte
  prev  : BitVec 32
  deriving DecidableEq, Repr

/-- The mask of an update, where it has one. -/
def readMask (s : State) (f : FormeId) (sl : Slug) (d : UpdateDesc) : Got (List Byte) := if d.mask = 0 then .ok [] else gather s f sl d.mask (maskBytes d)

/-- NORM2_PREV as the launch's first update slug read it (R211), or as the slug reads it. -/
def readPrev (s : State) (f : FormeId) (sl : Slug) (l : Launch) (job : BitVec 56) : Got (BitVec 32) :=
  match l.norm2 with
  | some p => .ok p
  | none => (gather s f sl job 4).bind (fun b => .ok (BitVec.ofNat 32 (leNat b)))

/-- Read it all, as the slug sees it: its own writes and its antecedents' first (R180, R209). -/
def updateInput (s : State) (f : FormeId) (sl : Slug) (l : Launch) (at' job : BitVec 56) : Got UpdateInput :=
  (ownGather s f sl 0x0B02 at' 8).bind (fun ws => match updateDesc? ws with
    | none => .fails 0x0B02
    | some d0 =>
      let d := flushDesc d0
      let n := d.rows * d.cols
      if !updateOwn s f d || !ownSpace s f job 16 then .fails 0x0B02
      else
        (gather s f sl d.master (4 * n)).bind (fun w => (gather s f sl d.moments (8 * n)).bind (fun mv =>
          (readMask s f sl d).bind (fun k =>
            (readPrev s f sl l job).bind (fun p =>
                .ok { d := d, w := (f32Words w).map f32In, mv := (f32Words mv).map f32In, mask := k, prev := f32In p })))))

/-- A column lies in a trained block (R209, R213). -/
def UpdateInput.trained (u : UpdateInput) (j : Nat) : Bool := u.d.mask == 0 || (u.mask.getD (j / 32 / 8) 0).getLsbD (j / 32 % 8)

/-- The powers of a descriptor in this step: multiplied once, by the launch's first update that names it (R210). -/
def stepPowers (l : Launch) (at' : BitVec 56) (d : UpdateDesc) : BitVec 32 × BitVec 32 :=
  match l.powers.find? (·.1 == at') with
  | some p => p.2.2
  | none => (f32Mul d.p1 (beta1Of d.beta1), f32Mul d.p2 (beta2Of d.beta2))

/-- The writes of an update, or the status of one whose values are not finite (R209 to R213): `n` cores drained the gradient. -/
def updateProofs (s : State) (f : FormeId) (u : UpdateInput) (pw : BitVec 32 × BitVec 32) (at' job : BitVec 56) (n : Nat) (grad : List (BitVec 32)) :
    Except Code (List Proof) :=
  let d := u.d
  let count := d.rows * d.cols
  let fac := clipFactor d u.prev
  let new := (List.range count).map (fun i =>
    if u.trained (i % d.cols) then some (updateElem d pw.1 pw.2 fac (grad.getD i 0) (u.mv.getD i 0) (u.mv.getD (count + i) 0) (u.w.getD i 0)) else none)
  let used := (List.range count).filter (fun i => u.trained (i % d.cols))
  if used.any (fun i => notFinite (grad.getD i 0)) || new.any (fun e => e.any (fun x => notFinite x.1 || notFinite x.2.1 || notFinite x.2.2)) then
    .error 0x0B03
  else
    let sum := f32SumCores (used.map (fun i => (drainCore n d.rows (i / d.cols) (i % d.cols), f32Mul (grad.getD i 0) (grad.getD i 0))))
    let words (g : BitVec 32 × BitVec 32 × BitVec 32 → BitVec 32) : List (Option Byte) :=
      new.flatMap (fun e => match e with | some x => (leBytes 4 (f32Out (g x)).toNat).map some | none => List.replicate 4 none)
    let put (a : BitVec 56) (bs : List (Option Byte)) : List Proof := (writtenRuns bs).flatMap (fun r => ownProof s f (a + BitVec.ofNat 56 r.1) r.2)
    .ok (put d.master (words (·.2.2)) ++ put d.moments (words (·.1) ++ words (·.2.1)) ++
      put d.working (workingImage d u.trained (fun i j => match new.getD (i * d.cols + j) none with | some x => x.2.2 | none => u.w.getD (i * d.cols + j) 0)) ++
      ownProof s f (at' + 48) (f32Bytes [f32Out pw.1, f32Out pw.2]) ++ [.norm2 job (f32Out sum) d.stepEnd])

/-! ### Gradient formats (R218 to R220) -/

/-- nz and lost of R219 over rows of FP32 values. -/
def rungCounts (rows : List (List (BitVec 32))) : Nat × Nat :=
  rows.foldl (fun acc row => (List.range (ceilDiv row.length 32)).foldl (fun a b =>
    let es := (((row.drop (32 * b)).take 32).map (fun x => (f32Dy x).frac)).filter (fun q => q.1 != 0)
    match es.map (fun q => floorLog2 q.1 q.2) with
    | [] => a
    | u :: us =>
      let top := us.foldl max u - 7
      let small (q : Nat × Nat) : Bool := if 0 ≤ top then q.1 ≤ q.2 * 2 ^ top.toNat else q.1 * 2 ^ (-top).toNat ≤ q.2
      (a.1 + es.length, a.2 + (es.filter small).length)) acc) (0, 0)

/-- The format record after a step (R220): words 0 and 1. The counts saturate first (R219). -/
def rungNext (w0 : Word) (nz0 lost0 : Nat) : Word × Word :=
  let nz := min nz0 (2 ^ 32 - 1)
  let lost := min lost0 (2 ^ 32 - 1)
  let up := fld w0 23 16
  let down := fld w0 31 24
  let need := fld w0 39 32
  let quiet := fld w0 7 1
  let r : Bool × Nat :=
    if !bitOf w0 0 then (if nz < lost * 2 ^ up then (true, 0) else (false, quiet))
    else
      let q := if lost * 2 ^ down ≤ nz then quiet + 1 else 0
      if need ≤ q then (false, 0) else (true, q)
  ((w0 &&& ~~~ (place 0 0xFF)) ||| placeBit 0 r.1 ||| place 1 r.2, place 0 nz ||| place 32 lost)

/-- The rung a gradient tensor is carried on in this step, by the format record that a conversion names: its address and word 0. -/
def rungOf (s : State) (f : FormeId) (sl : Slug) (work : Option FinWork) : Got (Option (BitVec 56 × Word)) :=
  match work with
  | some (.gradient a) => (gatherWords s f sl a 1).bind (fun ws => .ok (some (a, ws.getD 0 0)))
  | _ => .ok none

/-- The format of a rung: MXINT8, or BF16 wide (R218). -/
def rungFormat (w0 : Word) : Nat := if bitOf w0 0 then 0x57 else 0x41

/-- The write of a format record after a conversion of rows (R219, R220). -/
def rungProofs (s : State) (f : FormeId) (sl : Slug) (rung : Option (BitVec 56 × Word)) (rows : List (List (BitVec 32))) : Got (List Proof) :=
  match rung with
  | some (a, w0) =>
    let c := rungCounts rows
    let n := rungNext w0 c.1 c.2
    writeProof s f sl a (leBytes 8 n.1.toNat ++ leBytes 8 n.2.toNat)
  | none => .ok []

/-! ### Calibration (R109 to R114; log 58) -/

/-- The derivatives of R110 for an element: ∂r̂/∂s, ∂r̂/∂ζ, ∂r̂/∂r. -/
def calibDerivs (fmt : Nat) (s : BitVec 32) (z : Int) (r : BitVec 32) : BitVec 32 × BitVec 32 × BitVec 32 :=
  match codeRange fmt with
  | some (lo, hi) =>
    let q := divRound 0 0 r s + z
    let qz (x : Int) : BitVec 32 := f32Of { m := x - z, e := 0 }
    if lo < q && q < hi then (f32Sub (qz q) (f32Div r s), 0, one32)
    else (qz (max lo (min hi q)), f32Negate s, 0)
  | none => (0, 0, one32)

/-- eta in FP32: 2^−etaLog, 0 for a self-test (R112), the default outside 2^−12 to 2^−4 (R111). -/
def calibEta (p : CalibParams) : BitVec 32 :=
  if p.etaLog = 0 then 0 else BitVec.ofNat 32 ((127 - (if 4 ≤ p.etaLog && p.etaLog ≤ 12 then p.etaLog else 7)) * 2 ^ 23)
/-- beta in FP32 (R111). -/
def calibBeta (p : CalibParams) : BitVec 32 := [0x3F400000, 0x3F600000, 0x3F700000].getD p.beta 0x3F600000
/-- Steps: 1 to 1,024, by default 64 (R111). -/
def calibSteps (p : CalibParams) : Nat := if 1 ≤ p.steps && p.steps ≤ 1024 then p.steps else 64

/-- Limit a value to a range. -/
def f32Limit (lo hi x : BitVec 32) : BitVec 32 := if f32Lt hi x then hi else if f32Lt x lo then lo else x

/-- One step of R111 on a row of parameters and their moments, the moments kept in MXINT8: the parameters, and the moments' stored blocks. -/
def calibStep (eta beta limit lo hi : BitVec 32) (gs ps ms : List (BitVec 32)) : List (BitVec 32) × List (Nat × List Nat) :=
  let held := mxRow (List.zipWith (fun m g => f32Add (f32Mul beta m) (f32Mul (f32Sub one32 beta) g)) ms gs)
  (List.zipWith (fun p m => f32Limit lo hi (f32Sub p (f32Limit (f32Negate limit) limit (f32Mul eta m)))) ps (mxDecoded held), held)

/-- The learning state of one descriptor, as it stands in the forme's space: steps done; for each column t, ζ and their two gradient
totals, in FP32; and the moments of t and of ζ as stored MXINT8 rows (R109; log 58). -/
structure LearnState where
  done : Nat
  (t zeta gt gz : List (BitVec 32))
  (mt mz : List (BitVec 32))
  deriving DecidableEq, Repr, Inhabited

/-- Bytes of a learning state of `n` columns. -/
def learnBytes (n : Nat) : Nat := 8 + 16 * n + 2 * storedBytes 0x41 1 n

/-- Read one. -/
def readLearn (n : Nat) (bs : List Byte) : LearnState :=
  let f (k : Nat) : List (BitVec 32) := f32Words ((bs.drop (8 + 4 * n * k)).take (4 * n))
  let m (k : Nat) : List (BitVec 32) :=
    let g (i : Nat) : Byte := bs.getD (8 + 16 * n + k * storedBytes 0x41 1 n + i) 0
    (List.range n).map (fun c => elemF32 0x41 (storedCode 0x41 n g 0 c) (storedScale 0x41 n g 0 c))
  { done := leNat (bs.take 8), t := f 0, zeta := f 1, gt := f 2, gz := f 3, mt := m 0, mz := m 1 }

/-- The bytes of one whose moments are given as stored blocks. -/
def LearnState.bytes (x : LearnState) (n : Nat) (mt mz : List (Nat × List Nat)) : List Byte :=
  let row (bs : List (Nat × List Nat)) : List Byte := tensorBytes 0x41 n { codes := bs.flatMap (·.2), scales := bs.map (·.1) }
  leBytes 8 x.done ++ f32Bytes (x.t ++ x.zeta ++ x.gt ++ x.gz) ++ row mt ++ row mz

/-- Columns that a descriptor learns: one pair for the whole tensor, or one for each column of its vector (R97). -/
def learnColumns (q : QVals) : Nat := if q.column then q.vals.length else 1

/-- A descriptor of the slug's set that a product of the version names as QW (R105, R114). -/
def weightDesc (v : Version) (i : Nat) : Bool := v.ops.any (fun o => (opKind o == 1 || opKind o == 2) && fld (opWord o 6) 15 0 == i)

/-- The columns of the tensors whose records or ops name a descriptor: how long its column vector is (R97, R104). -/
def descColumns (v : Version) (i : Nat) : Nat :=
  let byOp := (v.ops.filter (fun o => (opKind o == 1 || opKind o == 2) && fld (opWord o 6) 15 0 == i)).filterMap (fun o => (findTensor v (handleLo o 1)).map (·.cols))
  match byOp with
  | n :: _ => n
  | [] => match v.tensors.find? (fun t => t.qdesc == i) with | some t => t.cols | none => 1

/-- A descriptor to be learned, with its words: one whose SHARED bit is set ends the launch with 0x0504 (R114). -/
def learnable (s : State) (f : FormeId) (sl : Slug) (v : Version) (i : Nat) : Got (QDesc × QVals) :=
  (descRecord s f sl i).bind (fun q => if qShared q then .fails 0x0504 else (descVals s f sl (descColumns v i) q).bind (fun x => .ok (q, x)))

/-- The step of a descriptor's learning state (R111): while steps are left, and not for a weight descriptor unless its scales are to be
learned (R114); the totals start anew. -/
def learnStep (p : CalibParams) (skip : Bool) (q : QVals) (n : Nat) (x : LearnState) : List Byte :=
  let range := (codeRange q.fmt).getD (0, 0)
  let z (k : Int) : BitVec 32 := f32Of { m := k, e := 0 }
  if skip || calibSteps p ≤ x.done then x.bytes n (mxRow x.mt) (mxRow x.mz)
  else
    let a := calibStep (calibEta p) (calibBeta p) 0x3F000000 0xC2FC0000 0x42FE0000 x.gt x.t x.mt
    let b := calibStep (calibEta p) (calibBeta p) one32 (z range.1) (z range.2) x.gz x.zeta x.mz
    let zeros := List.replicate n (0 : BitVec 32)
    ({ x with done := x.done + 1, t := a.1, zeta := b.1, gt := zeros, gz := zeros } : LearnState).bytes n a.2 b.2

/-- The gradients of a descriptor's parameters over rows of elements r and of ∂L/∂r̂ (R110): the totals for t and for ζ by column, and the
rows of ∂L/∂r. -/
def scaleGradients (q : QVals) (n : Nat) (rs gs : List (List (BitVec 32))) : List (BitVec 32) × List (BitVec 32) × List (List (BitVec 32)) :=
  let cells := (rs.zip gs).map (fun r => (r.1.zip r.2).mapIdx (fun j e => (j, calibDerivs q.fmt (qScale q j) (qZero q j) e.1, e.2)))
  let total (j : Nat) (pick : BitVec 32 × BitVec 32 × BitVec 32 → BitVec 32) : BitVec 32 :=
    f32Sum (cells.flatMap (fun r => (r.filter (fun e => !q.column || e.1 == j)).map (fun e => f32Mul (pick e.2.1) e.2.2)))
  ((List.range n).map (fun j => f32Mul (f32Mul 0x3F317218 (qScale q j)) (total j (·.1))), (List.range n).map (fun j => total j (·.2.1)),
   cells.map (fun r => r.map (fun e => f32Mul e.2.1.2.2 e.2.2)))

/-- The correction vector of a product (R98, R99, R108), for a weight operand read at its mantissas. -/
def correction (p : ProdOp) (w : Operand) (n : Nat) : List Int :=
  let za : Int := match p.q.qa with | some q => qZero q 0 | none => 0
  let za' := za - activationFlip p.aFmt
  let octavo := match formatKind p.wFmt with | .octavo _ => true | _ => false
  let m (r c : Nat) : Int := match w.plane with
    | some g => (g r c).1
    | none => codeInt p.wFmt (w.code r c) - (if octavo then p.zw c else 0)
  (List.range n).map (fun j =>
    let wsum := ((List.range w.rows).map (fun k => m k j)).foldl (· + ·) 0
    ((if octavo then 0 else (w.rows : Int) * p.zw j * za') - za' * wsum) * 32768)

/-- A learned scale and zero point (R112 step 6). -/
def learnedPair (fmt : Nat) (t zeta : BitVec 32) : BitVec 32 × Int :=
  let range := (codeRange fmt).getD (0, 0)
  (f32Exp2 t, max range.1 (min range.2 (Dy.round 0 0 (f32Dy zeta) 0)))

/-- The 8 bytes of a column-vector entry. -/
def pairBytes (e : BitVec 32 × Int) : List Byte := leBytes 4 e.1.toNat ++ leBytes 2 (BitVec.ofInt 16 e.2).toNat ++ leBytes 2 0

/-- A learned descriptor of the second set: index, words and values, with the bytes of its vector and where they go. -/
structure Relearned where
  index  : Nat
  q      : QDesc
  vals   : QVals
  vector : Option (BitVec 56 × List Byte)
  deriving DecidableEq, Repr

/-- Read the learning state of a descriptor and form its new words; its column vector goes to `at'` (R112, R113). -/
def relearn (s : State) (f : FormeId) (sl : Slug) (v : Version) (i : Nat) (state at' : BitVec 56) : Got Relearned :=
  (learnable s f sl v i).bind (fun x =>
    let n := learnColumns x.2
    (gather s f sl state (learnBytes n)).bind (fun bs =>
      let l := readLearn n bs
      let vals := (List.range n).map (fun j => learnedPair x.2.fmt (l.t.getD j 0) (l.zeta.getD j 0))
      let q : QDesc := if x.2.column then { x.1 with w1 := (x.1.w1 &&& ~~~ (place 0 0xFFFFFFFFFFFFFF)) ||| place 0 at'.toNat }
        else { x.1 with w0 := (x.1.w0 &&& ~~~ (place 0 0xFFFFFFFFFFFF)) ||| place 0 (vals.getD 0 (0, 0)).1.toNat ||| place 32 (BitVec.ofInt 16 (vals.getD 0 (0, 0)).2).toNat }
      .ok { index := i, q := q, vals := { x.2 with vals := vals }, vector := if x.2.column then some (at', vals.flatMap pairBytes) else none }))

/-- Every learned descriptor, vectors one after another. -/
def relearnAll (s : State) (f : FormeId) (sl : Slug) (v : Version) : BitVec 56 → List (Nat × BitVec 56) → Got (List Relearned × BitVec 56)
  | at', [] => .ok ([], at')
  | at', (i, a) :: rest => (relearn s f sl v i a at').bind (fun r =>
      (relearnAll s f sl v (at' + BitVec.ofNat 56 ((r.vector.map (·.2.length)).getD 0)) rest).bind (fun y => .ok (r :: y.1, y.2)))

/-- A descriptor index of an op under the second set: a learned one, or as the slug's set holds it. -/
def secondDesc (s : State) (f : FormeId) (sl : Slug) (rs : List Relearned) (i n : Nat) : Got (Option QVals) :=
  match rs.find? (·.index == i) with
  | some r => .ok (some r.vals)
  | none => descAt s f sl i n

/-- The products, of every live version with the calibrated binding, whose correction vectors the learned descriptors enter (R99, R112). -/
def affectedOps (x : Forme) (b : BindingId) (rs : List Relearned) : List (Version × OpRec) :=
  (x.matters.flatMap (fun m => (m.versions.filter (·.binding == b)).flatMap (fun v => v.ops.map (fun o => (v, o))))).filter (fun p =>
    opKind p.2 == 1 && devAddr (opWord p.2 7) != 0 &&
      rs.any (fun r => r.index == fld (opWord p.2 6) 15 0 || r.index == fld (opWord p.2 6) 31 16))

/-- Rebuild the affected correction vectors, each CORR address once, one after another from an address (R99, R112). -/
def rebuildCorr (s : State) (f : FormeId) (sl : Slug) (rs : List Relearned) :
    BitVec 56 → List (Version × OpRec) → List (BitVec 56) → Got (List (BitVec 56 × BitVec 56 × List Byte))
  | _, [], _ => .ok []
  | at', (v, o) :: rest, done =>
    let a := devAddr (opWord o 7)
    if done.contains a then rebuildCorr s f sl rs at' rest done
    else match findTensor v (handleLo o 1) with
      | none => rebuildCorr s f sl rs at' rest done
      | some t =>
        let w := tensorOperand s f sl t (fld (opWord o 0) 15 8)
        (secondDesc s f sl rs (fld (opWord o 6) 15 0) w.cols).bind (fun qw => (secondDesc s f sl rs (fld (opWord o 6) 31 16) 1).bind (fun qa =>
          let bs := (correction (prodOp o { qw := qw, qa := qa, qo := none }) w w.cols).flatMap (fun e => leBytes 8 (BitVec.ofInt 64 e).toNat)
          (rebuildCorr s f sl rs (at' + BitVec.ofNat 56 bs.length) rest (a :: done)).bind (fun y => .ok ((a, at', bs) :: y))))

/-- The addresses of the second set's vectors, by those they stand for: new ones first, older ones carried over. -/
def corrMap (sl : Slug) (new : List (BitVec 56 × BitVec 56)) : List (BitVec 56 × BitVec 56) :=
  let old := match slugSet sl with | .placed _ _ cs => cs | _ => []
  new ++ old.map (fun e => match new.find? (·.1 == e.2) with | some n => (e.1, n.2) | none => e)

/-- a is no larger than b, both being numbers. -/
def f32Le (a b : BitVec 32) : Bool := !f32Nan a && !f32Nan b && !f32Lt b a

/-- The descriptors of a slug's set. -/
def setCount (s : State) (f : FormeId) (sl : Slug) : Nat := match slugSet sl with | .placed _ n _ => n | b => (setAt s f b).length

/-- All descriptors of the slug's set as it reads them. -/
def setRecords (s : State) (f : FormeId) (sl : Slug) : Nat → Got (List QDesc)
  | 0 => .ok []
  | n + 1 => (setRecords s f sl n).bind (fun qs => (descRecord s f sl n).bind (fun q => .ok (qs ++ [q])))

/-- The slug as it starts a calibration's second set: from the set in force, or from the one host software presents (R112 step 1). -/
def calibStart (s : State) (f : FormeId) (sl : Slug) (c : CalibSet) : Slug :=
  match c.start with
  | some a => { sl with shown := some (.placed a (setCount s f sl) []) }
  | none => sl

/-- Every descriptor of a set as it stands, with its values. -/
def standing (s : State) (f : FormeId) (sl : Slug) (v : Version) : Nat → List QDesc → Got (List Relearned)
  | _, [] => .ok []
  | i, q :: qs => (descVals s f sl (descColumns v i) q).bind (fun x => (standing s f sl v (i + 1) qs).bind (fun rest =>
      .ok ({ index := i, q := q, vals := x, vector := none } :: rest)))

/-- The second set of a calibration: the writes of its descriptors, its vectors and every affected correction vector, and the set they
make (R112 step 6, R113). From a set that host software presents, every correction vector is rebuilt. -/
def secondSet (s : State) (f : FormeId) (sl0 : Slug) (v : Version) (c : CalibSet) : Got (List Proof × SetBase) :=
  let sl := calibStart s f sl0 c
  let ids := c.learned.filter (fun e => c.params.learnWeights || !weightDesc v e.1)
  let n := setCount s f sl
  (relearnAll s f sl v c.vectors ids).bind (fun rs => (setRecords s f sl n).bind (fun qs =>
    (if c.start.isSome then standing s f sl v 0 qs else (.ok [] : Got (List Relearned))).bind (fun old =>
      let all := rs.1 ++ old.filter (fun r => !rs.1.any (·.index == r.index))
      (rebuildCorr s f sl all rs.2 (affectedOps (s.forme f) v.binding all) []).bind (fun cs =>
        let words := qs.mapIdx (fun i q => match rs.1.find? (·.index == i) with | some r => r.q | none => q)
        let moved := rs.1.filterMap (fun r => match r.vector, qs[r.index]? with | some w, some q => some (devAddr q.w1, w.1) | _, _ => none)
        if !ownSpace s f c.set (16 * n) || !cs.all (fun e => ownSpace s f e.2.1 e.2.2.length) ||
            !rs.1.all (fun r => r.vector.all (fun w => ownSpace s f w.1 w.2.length)) then .fails 0x0501
        else .ok (ownProof s f c.set (dsetBytes words) ++ rs.1.flatMap (fun r => match r.vector with | some w => ownProof s f w.1 w.2 | none => []) ++
            cs.flatMap (fun e => ownProof s f e.2.1 e.2.2),
          .placed c.set n (corrMap sl (moved ++ cs.map (fun e => (e.1, e.2.1)))))))))

/-- The writes of a calibration's commit (R113): the second set and the pointer; 0x0503 where that set's error is not known to be no
larger. -/
def commitProofs (s : State) (f : FormeId) (sl : Slug) (v : Version) (c : CalibSet) (errNew errOld : BitVec 56) : Got (List Proof) :=
  (gather s f sl errNew 4).bind (fun en => (gather s f sl errOld 4).bind (fun eo =>
    if !f32Le (BitVec.ofNat 32 (leNat en)) (BitVec.ofNat 32 (leNat eo)) then .fails 0x0503
    else (secondSet s f sl v c).bind (fun r => .ok (r.1 ++ [.pointer v.binding r.2]))))

/-- A byte of the calibration section of the image that a version's MODEL_BINDING holds (R112, R223). -/
def calibByte (s : State) (f : FormeId) (sl : Slug) (v : Version) (off : Nat) : Byte :=
  match slugImage s f sl v.binding with
  | some i => match i.dir.parts[2]? with
    | some p =>
      let a := p.1 + off
      if off < p.2 then (match i.plain.find? (·.1 == a / 2 ^ 20) with | some c => c.2.getD (a % 2 ^ 20) 0 | none => Config.unwrittenByte f.val (2 ^ 32) a)
      else Config.unwrittenByte f.val (2 ^ 32) a
    | none => Config.unwrittenByte f.val (2 ^ 32) off
  | none => Config.unwrittenByte f.val (2 ^ 32) off

/-- FP32 values of the calibration section. -/
def calibWords (s : State) (f : FormeId) (sl : Slug) (v : Version) (off n : Nat) : List (BitVec 32) :=
  f32Words ((List.range (4 * n)).map (fun i => calibByte s f sl v (off + i)))

/-- The mean squared error of rows against their reference, and its gradient (R112 step 2). -/
def meanSquare (rows : List (List (BitVec 32))) (ref : List (BitVec 32)) : BitVec 32 × List (List (BitVec 32)) :=
  let n := rows.flatten.length
  let inv := f32Recip (f32Of { m := n, e := 0 })
  let w := match rows with | r :: _ => r.length | [] => 0
  let diff := rows.mapIdx (fun i r => r.mapIdx (fun j x => f32Sub x (f32In (ref.getD (i * w + j) 0))))
  (f32Mul (f32Sum (diff.flatten.map (fun d => f32Mul d d))) inv, diff.map (fun r => r.map (fun d => f32Mul (f32Mul 0x40000000 d) inv)))

end Sys2Proof.Machine
end

