-- ==== Sys2Proof/Machine/OpSteps.lean ====
section
/-! DEFINITION. The ops of a slug (R184, R259): what each kind reads, computes and keeps, and OP_COMPLETE, which does one of them. -/
namespace Sys2Proof.Machine

/-! ### What an op keeps -/

/-- Keep an op's output: a slug-local tensor by itself, any other as a proof (R179). -/
def keepTensor (v : Version) (h : BitVec 32) (d : List Byte) (sl : Slug) : Slug :=
  if (findTensor v h).any (·.isLocal) then { sl with locals := sl.locals.filter (·.1 != h) ++ [(h, d)] }
  else { sl with proofs := addProof sl.proofs (.tensor h d) }

/-- A tensor of the op's result, where the op has one. -/
def keepSome (v : Version) (h : BitVec 32) (d : Option (List Byte)) (sl : Slug) : Slug :=
  match d with | some b => keepTensor v h b sl | none => sl

/-- Flags join the slug's (R94). -/
def addFlags (fl : BitVec 3) (sl : Slug) : Slug := { sl with flags := sl.flags ||| fl }

/-- Bytes of galley that an op's operands and results move (R387; log 55). -/
def State.chargeGalley (s : State) (f : FormeId) (n : Nat) : State := s.charge f (n * galleyByteFj)

/-! ### Products and element-wise runs (R63, R73, R86, R105, R124, R205, R209) -/

/-- The word of R86 of a place, in the stream that decoding or that output names. -/
def ProdOp.inWord (p : ProdOp) (sl : Slug) (i : Nat) : Nat := roundWord sl.seed p.inStream i
/-- As `ProdOp.inWord`. -/
def ProdOp.outWord (p : ProdOp) (sl : Slug) (i : Nat) : Nat := roundWord sl.seed p.outStream i

/-- The plane operand of a product as its decoder takes it. -/
def planeSide (p : ProdOp) (sl : Slug) (w : Operand) : Side :=
  { o := w, act := false, turned := turns p.wRev, mode := p.decRound, rnd := p.inWord sl, zp := p.zw }

/-- The rows of a product. -/
def rowSide (p : ProdOp) (sl : Slug) (a : Operand) : Side :=
  { o := a, act := true, turned := turns p.aRev, mode := p.decRound, rnd := p.inWord sl, zp := fun _ => 0 }

/-- The descriptor that scales nothing. -/
def unitDesc : QVals := { fmt := 0, shared := false, column := false, vals := [(one32, 0)] }

/-- What the rows of a product read: the operand and the op's fields; with a reversed weight operand that has a descriptor, or under a format
record, the rows are scaled and converted first, and are counted (R205, R218, R219). -/
structure RowInput where
  p     : ProdOp
  side  : Side
  conv  : List (List (BitVec 32))
  special : Bool

/-- The rows of a product, its handle read as the tensor's record stores it where they are converted. -/
def rowInput (p : ProdOp) (sl : Slug) (as own : Operand) (rung : Option (BitVec 56 × Word)) : RowInput :=
  let plain : RowInput := { p := p, side := rowSide p sl as, conv := [], special := false }
  let fmt := match rung with | some r => rungFormat r.2 | none => p.aFmt
  if (turns p.wRev && p.q.qw.isSome) || rung.isSome then
    let q : ProdOp := { p with aFmt := fmt }
    let x := rowSide q sl own
    let r := scaledSide q x own.fmt (if turns p.wRev then p.q.qw.getD unitDesc else unitDesc)
      (if x.turned then own.cols else own.rows) (if x.turned then own.rows else own.cols)
    { p := q, side := r.1, conv := r.2.1, special := r.2.2 }
  else plain

/-- The home of a tile of a product: that of the plan, or, for a tile no plan homes, the cores in turn (R123, R124). -/
def tileHome (x : Forme) (sl : Slug) (h : BitVec 32) (turned : Bool) (i : Nat) : CoreId :=
  let next := sl.cores.getD (i % max 1 sl.cores.length) 0
  match (if turned then none else planOf x (weightCtx x sl h) h i) with
  | some p => if p.cls == 0 && sl.cores.contains p.core then p.core else next
  | none => next

/-- The index in OPS of an op of a slug. -/
def opIndex (v : Version) (sl : Slug) : Nat := (match v.slugs[sl.index]? with | some r => r.firstOp | none => 0) + sl.op

/-- An update of the slug consumes the drains of its present op (R209). -/
def drained? (v : Version) (sl : Slug) : Bool :=
  (slugOps v sl.index).any (fun o => opKind o == 6 && fld (opWord o 2) 15 0 == opIndex v sl)

/-- A product's drained rows are kept: for an update that consumes them in FP32, otherwise as the output tensor (R89, R179, R209). -/
def keepDrained (v : Version) (o : OpRec) (p : ProdOp) (sl : Slug) (out : TensorRec) (rows : List (List Drained)) (special : Bool) : Slug → Slug :=
  let sp := if special then flagSpecialIn else 0
  if opKind o = 1 && drained? v sl then fun z =>
    let sat := if rows.any (fun r => r.any (·.slot.sat)) then flagSaturated else 0
    addFlags (sp ||| sat) { z with drains := z.drains.filter (·.1 != opIndex v sl) ++ [(opIndex v sl, rows.flatMap (drainF32 p), special)] }
  else
    let rs := rows.mapIdx (fun i r => drainRow p (fun j => p.outWord sl (i * out.cols + j)) r)
    let bs := tensorBytes p.oFmt out.cols { codes := rs.flatMap (·.1), scales := rs.flatMap (·.2.1) }
    fun z => keepTensor v (handleLo o 2) bs (addFlags (rs.foldl (fun f r => f ||| r.2.2) sp) z)

/-- The operands of a product, read. -/
structure ProdInput where
  q    : ProdDescs
  corr : List Int
  pre  : Option Operand
  w    : Operand
  as   : Operand
  own  : Operand
  out  : TensorRec
  rung : Option (BitVec 56 × Word)

/-- The correction words of a product: none for a later reduction range, for a reversed weight operand, or at address 0 (R98, R105, R205). -/
def productCorr (s : State) (f : FormeId) (sl : Slug) (o : OpRec) (cols : Nat) : Got (List Int) :=
  let p := prodOp o default
  if devAddr (opWord o 7) = 0 || p.kBase != 0 || turns p.wRev then .ok []
  else (gatherWords s f sl (corrAddr sl (devAddr (opWord o 7))) cols).bind (fun ws => .ok (ws.map (·.toInt)))

/-- Read everything a product or element-wise op names but its weights and rows, which lie where its operands say (R105, R106, R115). -/
def prodInput (s : State) (f : FormeId) (sl : Slug) (v : Version) (o : OpRec) (work : Option FinWork) : Got (Option ProdInput) :=
  let p := prodOp o default
  match operandAs s f sl (handleLo o 1) p.wFmt, operandAs s f sl (handleHi o 1) p.aFmt, operand s f sl (handleHi o 1), findTensor v (handleLo o 2) with
  | some w, some a, some own, some out =>
    (prodDescs s f sl o w.cols).bind (fun q => (productCorr s f sl o out.cols).bind (fun c => (rungOf s f sl work).bind (fun r =>
      .ok (some { q := q, corr := c, pre := if opPreload o then operand s f sl (handleHi o 2) else none, w := w, as := a, own := own, out := out, rung := r }))))
  | _, _, _, _ => .ok none

/-- The product of its operands: every output column's strip and every row's over the reduction range. -/
def prodRun (o : OpRec) (sl : Slug) (x : ProdInput) (r : RowInput) : ProdRun :=
  let p := r.p
  let ws := planeSide p sl x.w
  { p := p, ws := (List.range x.out.cols).map (ws.strip p.kBase p.kLen),
    as := (List.range (if r.side.turned then x.as.cols else x.as.rows)).map (r.side.strip p.kBase p.kLen),
    corr := x.corr, pre := x.pre, rnd := p.inWord sl, wHandle := handleLo o 1,
    kTiles := ceilDiv (if turns p.wRev then x.w.cols else x.w.rows) 512 }

/-- A product runs on its cores: a failed comparison is a detection on its core, otherwise its rows drain (R66, R124). -/
def productRun (s : State) (f : FormeId) (sl : Slug) (v : Version) (o : OpRec) (x : ProdInput) : State :=
  let r := rowInput (prodOp o x.q) sl x.as x.own x.rung
  let run := prodRun o sl x r
  let y := run.all s f sl.tag (run.jobs sl.cores (tileHome (s.forme f) sl (handleLo o 1) (turns r.p.wRev)))
  match y.2.2 with
  | some c => detect y.1 f sl.tag (.check c)
  | none => (rungProofs s f sl x.rung r.conv).finish y.1 f sl (fun ps =>
      let rows := run.drained y.2.1
      let keep := keepDrained v o r.p sl x.out rows (run.special || r.special)
      opDone (y.1.chargeGalley f (storedBytes r.p.oFmt rows.length x.out.cols)) f sl.tag (fun z => { keep z with proofs := (keep z).proofs ++ ps }))

/-- An element-wise run (R73). -/
def elementRun (s : State) (f : FormeId) (sl : Slug) (v : Version) (o : OpRec) (x : ProdInput) : State :=
  let p := prodOp o x.q
  let rows := if turns p.aRev then x.as.cols else x.as.rows
  let run : ElemRun := { p := p, w := planeSide p sl x.w, a := rowSide p sl x.as, corr := x.corr, pre := x.pre, rnd := p.inWord sl, rows := rows, n := x.out.cols }
  let y := run.all s f sl.tag sl.cores
  match y.2.2.2 with
  | some c => detect y.1 f sl.tag (.check c)
  | none => opDone (y.1.chargeGalley f (storedBytes p.oFmt rows x.out.cols)) f sl.tag (keepDrained v o p sl x.out y.2.1 y.2.2.1)

/-- A product or element-wise run completes. -/
def productDone (s : State) (f : FormeId) (sl : Slug) (v : Version) (o : OpRec) (work : Option FinWork) : State :=
  (prodInput s f sl v o work).finish s f sl (fun x => match x with
    | some i => if opKind o = 2 then elementRun s f sl v o i else productRun s f sl v o i
    | none => s)

/-! ### Attention (R162 to R170, R176, R178) -/

/-- An attention step of a slug over the rows it reads. -/
def attnStep (d : AttnDesc × List (BitVec 32 × Int) × List (BitVec 32 × Int)) (c : Context) (sl : Slug) (v : Version) (a : BitVec 56)
    (cols rows seqs first : Nat) : AttnStep :=
  { d := d.1, kvec := d.2.1, vvec := d.2.2, layer := layerOf v a, lg := c.lg, kv := kvHeads d.1 cols, n := ceilDiv rows (max 1 seqs),
    first := first, seed := sl.seed }

/-- An attention step has its descriptor and its rows. -/
def attentionRun (s : State) (f : FormeId) (sl : Slug) (v : Version) (o : OpRec) (c : Context) (a : AttnStep) (q : RealRows) : State :=
  if a.d.retain && handleLo o 4 == noHandle then s.failSlug f sl.tag 0x0902
  else if Config.maxPositions < a.first + a.n then s.failSlug f sl.tag 0x0901
  else
    let r := attend a s f sl c q.rows
    ((storeRows s f sl v (handleLo o 3) r.1).bind (fun out => (storeRows s f sl v (handleLo o 4) r.2.1).bind (fun st => .ok (out, st)))).finish s f sl (fun x =>
      opDone (s.chargeGalley f x.1.1.length) f sl.tag (fun z =>
        let z1 := keepTensor v (handleLo o 3) x.1.1 (addFlags (x.1.2 ||| q.special) { z with proofs := z.proofs ++ r.2.2, appended := z.appended + r.2.2.length })
        if a.d.retain then keepTensor v (handleLo o 4) x.2.1 z1 else z1))

/-- An attention step completes; its descriptor is checked as it runs (R178). -/
def attentionDone (s : State) (f : FormeId) (sl : Slug) (v : Version) (o : OpRec) : State :=
  let a := devAddr (opWord o 1)
  match findCtx (s.forme f) sl.ctx, findLaunch (s.forme f) sl.ring sl.seq, findTensor v (handleLo o 3) with
  | some c, some l, some out =>
    ((attnGather s f sl v a).bind (fun d => (realRows s f sl v (handleLo o 2)).bind (fun q => .ok (d, q)))).finish s f sl (fun x =>
      attentionRun s f sl v o c (attnStep x.1 c sl v a out.cols x.2.o.rows (entrySequences l.entry) (c.length + fld (opWord o 5) 23 0)) x.2)
  | _, _, _ => s

/-- The rows an attention backward reads: q, dO, out, and the retained m and l where there are any. -/
def backRows (s : State) (f : FormeId) (sl : Slug) (v : Version) (w : AttnBack) : Got (RealRows × RealRows × RealRows × Option RealRows) :=
  (realRows s f sl v w.q).bind (fun q => (realRows s f sl v w.dOut).bind (fun g => (realRows s f sl v w.out).bind (fun y =>
    if w.retained == noHandle then .ok (q, g, y, none) else (realRows s f sl v w.retained).bind (fun k => .ok (q, g, y, some k)))))

/-- Attention backward completes: dQ, dK and dV are kept in the formats of their records (R217, R218; log 92). -/
def attnBackDone (s : State) (f : FormeId) (sl : Slug) (v : Version) (w : AttnBack) : State :=
  match findCtx (s.forme f) sl.ctx, findLaunch (s.forme f) sl.ring sl.seq, findTensor v w.out with
  | some c, some l, some out =>
    ((attnGather s f sl v w.desc).bind (fun d => (backRows s f sl v w).bind (fun r =>
      let seqs := entrySequences l.entry
      let a := attnStep d c sl v w.desc out.cols r.1.o.rows seqs w.first
      let g := attendBack a s f sl c seqs w.trained w.count r.1.rows r.2.1.rows r.2.2.1.rows (r.2.2.2.map (·.rows))
      (storeRows s f sl v w.dQ g.1).bind (fun dq => (storeRows s f sl v w.dK g.2.1).bind (fun dk => (storeRows s f sl v w.dV g.2.2).bind (fun dv =>
        .ok (r, dq, dk, dv))))))).finish s f sl (fun x =>
      let sp := x.1.1.special ||| x.1.2.1.special ||| x.1.2.2.1.special
      opDone (s.chargeGalley f (x.2.1.1.length + x.2.2.1.1.length + x.2.2.2.1.length)) f sl.tag (fun z =>
        keepTensor v w.dV x.2.2.2.1 (keepTensor v w.dK x.2.2.1.1 (keepTensor v w.dQ x.2.1.1
          (addFlags (sp ||| x.2.1.2 ||| x.2.2.1.2 ||| x.2.2.2.2) z)))))
  | _, _, _ => s

/-! ### Normalisation (R214 to R216) -/

/-- The output tensor of the op before, which drains the gradient rows a backward normalisation takes (R215, R216; log 38). -/
def gradientSource (x : Forme) (sl : Slug) : Option (BitVec 32) :=
  if sl.op = 0 then none else ((opsOf x sl)[sl.op - 1]?).bind (fun o => (opWrites o).head?)

/-- What a normalisation reads. -/
structure NormInput where
  x     : RealRows
  w0    : Word
  gain  : List (BitVec 32)
  /-- statistics saved by the forward, and the gradient rows, of a backward -/
  saved : Option RealRows
  dy    : Option RealRows
  rung  : Option (BitVec 56 × Word)

/-- The rows of a handle, where there is one. -/
def rowsOf (s : State) (f : FormeId) (sl : Slug) (v : Version) (h : Option (BitVec 32)) : Got (Option RealRows) :=
  match h with
  | some k => (realRows s f sl v k).bind (fun r => .ok (some r))
  | none => .ok none

/-- The fused method, and a backward (R215, R259). -/
def normFused (o : OpRec) : Bool := !bitOf (opWord o 5) 1 && handleLo o 4 != noHandle
/-- As `normFused`. -/
def normIsBack (o : OpRec) : Bool := bitOf (opWord o 5) 0

/-- Read it all: the descriptor and then its vectors, the rows, and in a backward the statistics and the gradient rows. -/
def normInput (s : State) (f : FormeId) (sl : Slug) (v : Version) (o : OpRec) (work : Option FinWork) : Got NormInput :=
  (gatherWords s f sl (devAddr (opWord o 1)) 2).bind (fun d => (realRows s f sl v (handleLo o 2)).bind (fun x =>
    (gather s f sl (devAddr (d.getD 1 0)) (if fld (d.getD 0 0) 1 0 = 1 then 8 * x.o.cols else 4 * x.o.cols)).bind (fun gb =>
      (rowsOf s f sl v (if normFused o && normIsBack o then some (handleLo o 4) else none)).bind (fun sv =>
        (rowsOf s f sl v (if normIsBack o then gradientSource (s.forme f) sl else none)).bind (fun dy =>
          (if normIsBack o then rungOf s f sl work else .ok none).bind (fun r =>
            .ok { x := x, w0 := d.getD 0 0, gain := (f32Words gb).map f32In, saved := sv, dy := dy, rung := r }))))))

/-- The statistics of a row: as the forward saved them, r first, or computed anew (R215, R216). -/
def NormInput.stats (n : NormInput) (i : Nat) (row : List (BitVec 32)) : BitVec 32 × BitVec 32 :=
  match n.saved with
  | some q => let st := q.rows.getD i []; if fld n.w0 1 0 = 0 then (0, st.getD 0 0) else (st.getD 1 0, st.getD 0 0)
  | none => normStats (fld n.w0 1 0) (f32In (BitVec.ofNat 32 (fld n.w0 63 32))) row

/-- The rows it gives; KIND 2 and 3 are not defined, and their results are values the manual leaves open (log 38). -/
def NormInput.result (n : NormInput) (back : Bool) : List (List (BitVec 32)) :=
  let kind := fld n.w0 1 0
  let gamma := n.gain.take n.x.o.cols
  n.x.rows.mapIdx (fun i row =>
    if 2 ≤ kind then (List.range n.x.o.cols).map (Config.finishingResult 0xFFFF [n.w0] row)
    else if back then normBackward kind gamma row (((n.dy.map (·.rows)).getD []).getD i []) (n.stats i row)
    else normForward kind gamma (n.gain.drop n.x.o.cols) row (n.stats i row))

/-- A normalisation completes; a backward under a format record converts its rows to the record's rung (R215, R218). -/
def normDone (s : State) (f : FormeId) (sl : Slug) (v : Version) (o : OpRec) (work : Option FinWork) : State :=
  ((normInput s f sl v o work).bind (fun n =>
    let res := n.result (normIsBack o)
    let st := n.x.rows.mapIdx (fun i row => let t := n.stats i row; if fld n.w0 1 0 = 0 then [t.2] else [t.2, t.1])
    (storeAs s f sl v (handleLo o 3) (n.rung.map (fun r => rungFormat r.2)) res).bind (fun out =>
      (storeRows s f sl v (handleLo o 4) st).bind (fun sv => .ok (n, res, out, sv))))).finish s f sl (fun x =>
    (rungProofs s f sl x.1.rung x.2.1).finish s f sl (fun ps =>
      let sp := x.1.x.special ||| (match x.1.dy with | some d => d.special | none => 0)
      opDone (s.chargeGalley f x.2.2.1.1.length) f sl.tag (fun z =>
        let z1 := keepTensor v (handleLo o 3) x.2.2.1.1 (addFlags (x.2.2.1.2 ||| sp) { z with proofs := z.proofs ++ ps })
        if normFused o && !normIsBack o then keepTensor v (handleLo o 4) x.2.2.2.1 z1 else z1)))

/-! ### Finishing functions (R110 to R114, R179, R218, R259) -/

/-- What a finishing op gives: a tensor for its output handle, further proofs, flags, and a set for the ops that follow. -/
structure FinResult where
  out    : Option (List Byte)
  proofs : List Proof
  flags  : BitVec 3
  shown  : Option SetBase
  deriving DecidableEq, Repr, Inhabited

/-- One FP32 value at an address. -/
def gatherF32 (s : State) (f : FormeId) (sl : Slug) (a : BitVec 56) : Got (BitVec 32) :=
  (gather s f sl a 4).bind (fun b => .ok (BitVec.ofNat 32 (leNat b)))

/-- A layer's error joins its total, and its gradient is the output, on the narrow rung (R109, R112). -/
def lossDone (s : State) (f : FormeId) (sl : Slug) (v : Version) (o : OpRec) (reference : Nat) (total : BitVec 56) : Got FinResult :=
  (realRows s f sl v (handleLo o 2)).bind (fun x =>
    let n := sumNat (x.rows.map List.length)
    let r := meanSquare x.rows (calibWords s f sl v reference n)
    (gatherF32 s f sl total).bind (fun old => (writeProof s f sl total (f32Bytes [f32Out (f32Add (f32In old) r.1)])).bind (fun ps =>
      (storeAs s f sl v (handleLo o 3) (some 0x41) r.2).bind (fun out => .ok { out := some out.1, proofs := ps, flags := x.special ||| out.2, shown := none }))))

/-- The gradients of a descriptor's parameters join its totals, and ∂L/∂r is the output (R110). -/
def scaleGradsDone (s : State) (f : FormeId) (sl : Slug) (v : Version) (o : OpRec) (index : Nat) (grad : BitVec 32) (state : BitVec 56) (p : CalibParams) :
    Got FinResult :=
  (learnable s f sl v index).bind (fun q =>
    let n := learnColumns q.2
    (realRows s f sl v (handleLo o 2)).bind (fun x => (realRows s f sl v grad).bind (fun g => (gather s f sl state (learnBytes n)).bind (fun bs =>
      let l := readLearn n bs
      let r := scaleGradients q.2 n x.rows g.rows
      let m : LearnState := if !p.learnWeights && weightDesc v index then l
        else { l with gt := List.zipWith f32Add l.gt r.1, gz := List.zipWith f32Add l.gz r.2.1 }
      (writeProof s f sl state (m.bytes n (mxRow l.mt) (mxRow l.mz))).bind (fun ps =>
        (storeAs s f sl v (handleLo o 3) (some 0x41) r.2.2).bind (fun out =>
          .ok { out := some out.1, proofs := ps, flags := x.special ||| g.special ||| out.2, shown := none }))))))

/-- A step of learning (R111). -/
def learnDone (s : State) (f : FormeId) (sl : Slug) (v : Version) (index : Nat) (state : BitVec 56) (p : CalibParams) : Got FinResult :=
  (learnable s f sl v index).bind (fun q =>
    let n := learnColumns q.2
    (gather s f sl state (learnBytes n)).bind (fun bs =>
      (writeProof s f sl state (learnStep p (!p.learnWeights && weightDesc v index) q.2 n (readLearn n bs))).bind (fun ps =>
        .ok { out := none, proofs := ps, flags := 0, shown := none })))

/-- A self-test's verdict (R112): bit 0 the error is no larger than the recorded one, bit 1 it has the same bits (log 58). -/
def selfTestDone (s : State) (f : FormeId) (sl : Slug) (v : Version) (total : BitVec 56) (recorded : Nat) (verdict : BitVec 56) : Got FinResult :=
  (gatherF32 s f sl total).bind (fun e =>
    let r := (calibWords s f sl v recorded 1).getD 0 0
    (writeProof s f sl verdict (leBytes 8 (placeBit 0 (f32Le e r) ||| placeBit 1 (e == r)).toNat)).bind (fun ps =>
      .ok { out := none, proofs := ps, flags := 0, shown := none }))

/-- Gradient rows are converted to the rung of their format record, which keeps its counts (R218 to R220). -/
def gradientDone (s : State) (f : FormeId) (sl : Slug) (v : Version) (o : OpRec) (work : Option FinWork) : Got FinResult :=
  (realRows s f sl v (handleLo o 2)).bind (fun x => (rungOf s f sl work).bind (fun r => (rungProofs s f sl r x.rows).bind (fun ps =>
    (storeAs s f sl v (handleLo o 3) (r.map (fun r => rungFormat r.2)) x.rows).bind (fun out =>
      .ok { out := some out.1, proofs := ps, flags := x.special ||| out.2, shown := none }))))

/-- A tensor's stored bytes are written at a device address: host memory, another module, or the forme's own space (R179). -/
def deliverDone (s : State) (f : FormeId) (sl : Slug) (o : OpRec) (v : Version) (dest : BitVec 56) : Got FinResult :=
  match findTensor v (handleLo o 2) with
  | some t =>
    let n := storedBytes t.format.toNat (tensorRows (s.forme f) sl t) t.cols
    let bs := (List.range (ceilDiv n (2 ^ 20))).flatMap (sheetBytes s f sl t)
    let own := (List.range n).map (tensorStream s f sl t.handle)
    (writeProof s f sl dest (if t.cls = 0 || t.cls = 1 then bs else own)).bind (fun ps => .ok { out := none, proofs := ps, flags := 0, shown := none })
  | none => .ok default

/-- A function whose code R259 does not print: its results are values the manual leaves open. -/
def openFunction (s : State) (f : FormeId) (sl : Slug) (v : Version) (o : OpRec) : Got FinResult :=
  (realRows s f sl v (handleLo o 2)).bind (fun x =>
    let cols := match findTensor v (handleLo o 3) with | some t => t.cols | none => 0
    let res := x.rows.map (fun row => (List.range cols).map
      (Config.finishingResult (BitVec.ofNat 16 (fld (opWord o 1) 15 0)) [opWord o 4, opWord o 5, opWord o 6, opWord o 7] row))
    (storeRows s f sl v (handleLo o 3) res).bind (fun out => .ok { out := some out.1, proofs := [], flags := x.special ||| out.2, shown := none }))

/-- What a finishing op's work gives. -/
def finResult (s : State) (f : FormeId) (sl : Slug) (v : Version) (o : OpRec) (work : Option FinWork) : Got FinResult :=
  match work with
  | some (.loss reference total) => lossDone s f sl v o reference total
  | some (.scaleGrads i g a p) => scaleGradsDone s f sl v o i g a p
  | some (.learn i a p) => learnDone s f sl v i a p
  | some (.present c) => (secondSet s f sl v c).bind (fun r => .ok { out := none, proofs := r.1, flags := 0, shown := some r.2 })
  | some (.commit c n e) => (commitProofs s f sl v c n e).bind (fun ps => .ok { out := none, proofs := ps, flags := 0, shown := none })
  | some (.selfTest t r w) => selfTestDone s f sl v t r w
  | some (.gradient _) => gradientDone s f sl v o work
  | some (.deliver dest) => deliverDone s f sl o v dest
  | some (.attnBack _) | none => openFunction s f sl v o

/-- A status of a calibration ends its slug without replay: the values would come again (R113, R114). -/
def finFails (s : State) (f : FormeId) (sl : Slug) (c : Code) : State :=
  if c = 0x0503 || c = 0x0504 then s.faultSlug f sl.tag .discarded c else s.failSlug f sl.tag c

/-- A finishing op completes. -/
def finishingDone (s : State) (f : FormeId) (sl : Slug) (v : Version) (o : OpRec) (work : Option FinWork) : State :=
  match work with
  | some (.attnBack w) => attnBackDone s f sl v w
  | _ => match finResult s f sl v o work with
    | .fails c => finFails s f sl c
    | g => g.finish s f sl (fun r =>
        opDone (s.chargeGalley f ((r.out.map List.length).getD 0)) f sl.tag (fun z =>
          keepSome v (handleLo o 3) r.out (addFlags r.flags { z with proofs := z.proofs ++ r.proofs, shown := r.shown.or z.shown })))

/-! ### Updates (R209 to R213, R221) -/

/-- The gradient an update consumes: the drains of the product it names, kept by this slug, or else that product's output as stored, where
another slug ran it. -/
def updateGrad (s : State) (f : FormeId) (sl : Slug) (v : Version) (o : OpRec) : Got (List (BitVec 32)) :=
  let i := fld (opWord o 2) 15 0
  match sl.drains.find? (·.1 == i) with
  | some d => .ok d.2.1
  | none => match v.ops[i]? with
    | some p => (realRows s f sl v (handleLo p 2)).bind (fun r => .ok r.rows.flatten)
    | none => .ok []

/-- The writes of an update are its slug's proofs; where a value is not finite the slug is finally discarded, and SPECIAL_IN joins the launch's
flags (R212, R221). -/
def updateFinish (s : State) (f : FormeId) (sl : Slug) (at' job : BitVec 56) (l : Launch) (u : UpdateInput) (grad : List (BitVec 32)) : State :=
  let pw := stepPowers l at' u.d
  match updateProofs s f u pw at' job sl.cores.length grad with
  | .ok ps =>
    let s1 := s.modForme f (fun x => modLaunch x sl.ring sl.seq (fun l =>
      if l.powers.any (·.1 == at') then l else { l with powers := l.powers ++ [(at', sl.tag, pw.1, pw.2)] }))
    opDone (s1.chargeGalley f (24 * u.d.rows * u.d.cols)) f sl.tag (fun z => { z with proofs := z.proofs ++ ps })
  | .error c => (s.modForme f (fun x => modLaunch x sl.ring sl.seq (fun l => { l with flags := l.flags ||| flagSpecialIn }))).faultSlug f sl.tag .discarded c

/-- An update completes (R209 to R213). -/
def updateDone (s : State) (f : FormeId) (sl : Slug) (v : Version) (o : OpRec) : State :=
  let a := devAddr (opWord o 1)
  match findLaunch (s.forme f) sl.ring sl.seq with
  | some l => ((updateInput s f sl l a (jobAddr l o)).bind (fun u => (updateGrad s f sl v o).bind (fun g => .ok (u, g)))).finish s f sl (fun x =>
      updateFinish s f sl a (jobAddr l o) l x.1 x.2)
  | none => s

/-! ### OP_COMPLETE -/

/-- The committed length named so far, within what the slug has appended (R164). -/
def nameLength (s : State) (f : FormeId) (t : SlugTag) (n : Nat) : State :=
  s.modForme f (fun x => modSlug x t (fun z =>
    let len := match findCtx x z.ctx with | some c => c.length | none => 0
    let top := ((z.proofs.filterMap (fun p => match p with | .append _ q _ _ => some (q + 1) | _ => none))).foldl max len
    { z with newLength := clampTo len top n }))

/-- The lines of the sheets that an op reads at their homes in stack memory: a demand read, of an inked sheet with the stream hint (R122, R143,
R230, R387). -/
def demandReads (s : State) (f : FormeId) (sl : Slug) (i : OpInput) : State :=
  ((sheetUses s f sl i).filter (fun u => !sheetHeld (s.forme f) sl u.sheet)).foldl (fun t u =>
    t.stackFetch f (if u.chunks.isEmpty then .normal else .stream) false u.lines (256 * u.lines.length)) s

/-- The op of a slug, its operands at hand. -/
def opRun (s : State) (f : FormeId) (sl : Slug) (v : Version) (o : OpRec) (work : Option FinWork) : State :=
  match opKind o with
  | 0x01 | 0x02 => productDone s f sl v o work
  | 0x03 => attentionDone s f sl v o
  | 0x04 => normDone s f sl v o work
  | 0x05 => finishingDone s f sl v o work
  | 0x06 => updateDone s f sl v o
  | 0x09 => opDone s f sl.tag id
  | _ => s

/-- What stands in the way of an op: a context that is not resident, a galley copy that awaits its fetch, a spill page or entry, a poisoned line; then its snapshots are
taken, the chunks it reads are noted, and it runs (R126, R130, R132, R147, R194, R267, R338). -/
def opStart (s : State) (f : FormeId) (sl : Slug) (v : Version) (o : OpRec) (work : Option FinWork) : State :=
  let i := opInput o work
  if awaitsFetch s f sl i || (findCtx (s.forme f) sl.ctx).any (fun c => c.state != .resident) then s
  else (spillNeeds s f sl i (opWrites o)).finish s f sl (fun _ => match poisonHit s f sl i with
    | some k => detect s f sl.tag k
    | none =>
      let z := noteWeights s f v i (snapOperands s f sl o)
      let s1 := (demandReads s f sl i).modForme f (fun x => modSlug x sl.tag (fun y => { y with snaps := z.snaps, reads := z.reads }))
      opRun s1 f z v o work)

/-- The op a RUNNING slug stands at completes (R184); a match, a collective and an acquire have commands of their own. -/
def opStep (s : State) (f : FormeId) (t : SlugTag) (work : Option FinWork) : State :=
  match currentOp s f t with
  | none =>
    match findSlug (s.forme f) t with
    | some sl => if sl.state == .running && sl.wait == .none && (opsOf (s.forme f) sl).length ≤ sl.op then opDone s f t id else s
    | none => s
  | some (sl, o) =>
    match slugVersion (s.forme f) sl with
    | none => s
    | some v => opStart s f sl v o work

/-- R58 to R115, R162 to R170, R184, R200 to R221: one op of a RUNNING slug completes. `committed` is the length n′ the slug
names; `work` says what a finishing function with no printed code does. -/
def execOpComplete (f : FormeId) (tag : SlugTag) (committed : Nat) (work : Option FinWork) (s : State) : Res :=
  .next (nameLength (opStep s f tag work) f tag committed)

end Sys2Proof.Machine
end

