-- ==== Sys2Proof/Machine/Collectives.lean ====
section
/-! DEFINITION. The collective engine: joining, the ring phases, rerouting, completion (R322 to R327). -/
namespace Sys2Proof.Machine

/-! ### A job's box (R315, R325) -/

/-- Pods of a box. -/
def podList (j : Job) : List Nat := bitsSet j.podMask

/-- This module's place along an axis of a box. -/
def ownCoord (s : State) (j : Job) (ax : Nat) : Nat :=
  match ax with
  | 0 => modX s.selfModule - j.x0
  | 1 => modY s.selfModule - j.y0
  | _ => (podList j).findIdx (· == modPod s.selfModule)

/-- The member whose block an element is in, along an axis: members' blocks are ⌈E ÷ M⌉ elements, in member order (R322, log 51). -/
def ownerCoord (j : Job) (c : Coll) (ax e : Nat) : Nat :=
  let m := (jobMembers j).length
  let i := min (e / max 1 (ceilDiv c.elements m)) (m - 1)
  match ax with
  | 0 => i % max 1 j.nxj
  | 1 => i / max 1 j.nxj % max 1 j.nyj
  | _ => i / max 1 (j.nxj * j.nyj)

/-- The half an element travels in (R325). -/
def halfOf (c : Coll) (e : Nat) : Nat := if e < ceilDiv c.elements 2 then 0 else 1

/-- The place after another on a ring of `n`, in a direction. -/
def ringStep (n : Nat) (up : Bool) (p : Nat) : Nat := if up then (p + 1) % max 1 n else (p + n - 1) % max 1 n

/-- The next member of this module's ring along an axis. -/
def ringNext (s : State) (j : Job) (ax : Nat) (up : Bool) : BitVec 12 :=
  let p := ringStep (axisSize j ax) up (ownCoord s j ax)
  match ax with
  | 0 => modNumber (modPod s.selfModule) (modY s.selfModule) (j.x0 + p)
  | 1 => modNumber (modPod s.selfModule) (j.y0 + p) (modX s.selfModule)
  | _ => modNumber ((podList j).getD p 0) (modY s.selfModule) (modX s.selfModule)

/-- The sum of an element's ring starts here: this member follows the element's owner (R325). -/
def startsHere (s : State) (j : Job) (c : Coll) (ax e : Nat) : Bool :=
  ownCoord s j ax == ringStep (axisSize j ax) (halfUp c ax (halfOf c e)) (ownerCoord j c ax e)

/-! ### Arithmetic (R322) -/

/-- Two INT32 values or FP32 values reduced, and whether INT32 saturated. -/
def reduceTwo (dtype red : Nat) (a b : BitVec 32) : BitVec 32 × Bool :=
  if dtype = 0x8A then
    match red with
    | 0 =>
      let v := a.toInt + b.toInt
      (BitVec.ofInt 32 (max (-2147483648) (min 2147483647 v)), decide (v < -2147483648) || decide (2147483647 < v))
    | 1 => (if a.toInt < b.toInt then b else a, false)
    | _ => (if b.toInt < a.toInt then b else a, false)
  else
    let open' := f32Nan a || f32Nan b || (a.toNat % 2 ^ 31 == 0 && b.toNat % 2 ^ 31 == 0 && a != b)
    match red with
    | 0 => (f32Add a b, false)
    | 1 => (if open' then Config.reduceOpen true a b else if f32Lt a b then b else a, false)
    | _ => (if open' then Config.reduceOpen false a b else if f32Lt b a then b else a, false)

/-! ### Packets of elements -/

/-- Consecutive elements, at most 64 to a packet of 256 bytes (R327). -/
def runsOf : List (Nat × BitVec 32) → List (Nat × List (BitVec 32))
  | [] => []
  | (e, v) :: rest => match runsOf rest with
    | (g, vs) :: more => if g = e + 1 && vs.length < 64 then (e, v :: vs) :: more else (e, [v]) :: (g, vs) :: more
    | [] => [(e, [v])]

/-- The elements of a packet. -/
def packetElems (first : Nat) (vs : List (BitVec 32)) : List (Nat × BitVec 32) := vs.mapIdx (fun i v => (first + i, v))

/-- The job of a slot and its collective in progress. -/
def jobColl (s : State) (f : FormeId) (k : JobSlot) : Option (Job × Coll) :=
  ((s.forme f).job k).bind (fun j => j.coll.map (fun c => (j, c)))

/-- Change a collective in progress. -/
def State.modColl (s : State) (f : FormeId) (k : JobSlot) (g : Coll → Coll) : State :=
  s.modJob f k (fun j => { j with coll := j.coll.map g })

/-- How often a half has been rerouted. -/
def halfRun (c : Coll) (half : Nat) : Nat := (c.flips.filter (·.2 == half)).length

/-- The number and chunk index in ARG of a collective data packet (R317, log 51). -/
def collArg (k first : Nat) : BitVec 32 := BitVec.ofNat 32 (k % 256 + 256 * (first / 64))

/-- Send elements to the next member of a ring, on the link of the half's direction; without that link there is no route (R325,
R327). -/
def sendRing (s : State) (f : FormeId) (k : JobSlot) (ax phase half step first : Nat) (elems : List (BitVec 32)) : State :=
  match jobColl s f k with
  | none => s
  | some (j, c) =>
    let up := halfUp c ax half
    let l := axisLink ax up
    let mask := match (s.forme f).cfg with | some g => g.linkMask.getLsbD l.val | none => false
    if !linkUsable s l || !mask then collFault s f k 3 0x1001 true
    else
      let dst := ringNext s j ax up
      match jobPacket s f k dst 5 2 (4 * elems.length) (collArg c.k first) (.collData (halfRun c half) phase half step first elems) with
      | some (p, s1) => enqueue s1 l { p with reversed := ax < 2 && (route s dst false none).map (·.1) != some l }
      | none => s

/-- Start elements on their ring: one packet for each run of a half. -/
def sendRuns (s : State) (f : FormeId) (k : JobSlot) (ax phase : Nat) (evs : List (Nat × BitVec 32)) : State :=
  match jobColl s f k with
  | none => s
  | some (_, c) => [0, 1].foldl (fun t h =>
      (runsOf (evs.filter (fun e => halfOf c e.1 == h))).foldl (fun u r => sendRing u f k ax phase h 0 r.1 r.2) t) s

/-- OP, DTYPE, REDUCE and ROOT of a collective in progress. -/
def Coll.opcode (c : Coll) : Nat := fld c.op 15 8
/-- As `opcode`. -/
def Coll.dtype (c : Coll) : Nat := fld c.op 23 16
/-- As `opcode`. -/
def Coll.red (c : Coll) : Nat := fld c.op 25 24
/-- As `opcode`. -/
def Coll.root (c : Coll) : Nat := fld c.op 43 32

/-- The output index of a reduced element at this member (R322). -/
def outIndex (s : State) (j : Job) (c : Coll) (e : Nat) : Nat :=
  if c.opcode = 2 then e - myIndex s j * (c.elements / max 1 (jobMembers j).length) else e

/-- Keep output elements. -/
def putOut (s : State) (f : FormeId) (k : JobSlot) (evs : List (Nat × BitVec 32)) : State :=
  s.modColl f k (fun c => { c with output := c.output.filter (fun o => !evs.any (·.1 == o.1)) ++ evs })

/-! ### The phases (R325) -/

/-- Values are ready to enter a phase: 1 to 3 reduce along X, Y and the pods, 4 is the whole reduction at its owner, 5 to 7 gather
back along the pods, Y and X. `n` bounds the phases that follow. -/
def collReady : Nat → State → FormeId → JobSlot → Nat → List (Nat × BitVec 32) → State
  | 0, s, _, _, _, _ => s
  | n + 1, s, f, k, phase, evs =>
    match jobColl s f k with
    | none => s
    | some (j, c) =>
      if evs.isEmpty then s
      else if phase ≤ 3 then
        let ax := phase - 1
        if axisSize j ax ≤ 1 then collReady n s f k (phase + 1) evs
        else
          let s1 := s.modColl f k (fun c => { c with vals := c.vals ++ evs.map (fun e => (phase, e.1, e.2)) })
          sendRuns s1 f k ax phase (evs.filter (fun e => startsHere s j c ax e.1))
      else if phase = 4 then
        let s1 := putOut s f k (evs.map (fun e => (outIndex s j c e.1, e.2)))
        if c.opcode = 2 then s1 else collReady n s1 f k 5 evs
      else if phase ≤ 7 then
        let s1 := if axisSize j (7 - phase) ≤ 1 then s else sendRuns s f k (7 - phase) phase evs
        collReady n s1 f k (phase + 1) evs
      else s

/-- This member's own values of a phase for the elements of a packet, if it has reached the phase for all of them. -/
def ownVals (c : Coll) (phase first n : Nat) : Option (List (BitVec 32)) :=
  (List.range n).mapM (fun i => (c.vals.find? (fun v => v.1 == phase && v.2.1 == first + i)).map (·.2.2))

/-- Keep a packet for later. -/
def holdPacket (s : State) (f : FormeId) (k : JobSlot) (b : PacketBody) : State := s.modColl f k (fun c => { c with held := c.held ++ [b] })

/-- A collective data packet: reduced with the member's own values and passed on round the ring, or kept as output and passed on
(R325). A packet of an abandoned run is dropped; one that comes early is held. -/
def collPacket (s : State) (f : FormeId) (k : JobSlot) (b : PacketBody) : State :=
  match jobColl s f k, b with
  | some (j, c), .collData run phase half step first elems =>
    if !c.moving || halfRun c half < run then holdPacket s f k b
    else if run < halfRun c half then s
    else if phase = 0 then putOut s f k (packetElems first elems)
    else if phase ≤ 3 then
      match ownVals c phase first elems.length with
      | none => holdPacket s f k b
      | some own =>
        let rs := (elems.zip own).map (fun p => reduceTwo c.dtype c.red p.1 p.2)
        let s1 := s.modColl f k (fun c => { c with sat := c.sat || rs.any (·.2) })
        if step + 2 < axisSize j (phase - 1) then sendRing s1 f k (phase - 1) phase half (step + 1) first (rs.map (·.1))
        else collReady 8 s1 f k (phase + 1) (packetElems first (rs.map (·.1)))
    else if 5 ≤ phase && phase ≤ 7 then
      let s1 := putOut s f k (packetElems first elems)
      let s2 := if step + 2 < axisSize j (7 - phase) then sendRing s1 f k (7 - phase) phase half (step + 1) first elems else s1
      collReady 8 s2 f k (phase + 1) (packetElems first elems)
    else s
  | _, _ => s

/-- Take up held packets again, as long as some go on. -/
def drainHeld : Nat → State → FormeId → JobSlot → State
  | 0, s, _, _ => s
  | n + 1, s, f, k =>
    match jobColl s f k with
    | none => s
    | some (_, c) =>
      let s1 := c.held.foldl (fun t b => collPacket t f k b) (s.modColl f k (fun c => { c with held := [] }))
      match jobColl s1 f k with
      | some (_, d) => if d.held.length < c.held.length then drainHeld n s1 f k else s1
      | none => s1

/-- Take up whatever is held now. -/
def resumeHeld (s : State) (f : FormeId) (k : JobSlot) : State :=
  match jobColl s f k with
  | some (_, c) => drainHeld (c.held.length + 1) s f k
  | none => s

/-! ### Rerouting (R327) -/

/-- A half runs again from the inputs on the other link of an axis. With `tell`, this member met the loss and tells the others; a
half already turned round there has no route. -/
def rerouteHalf (s : State) (f : FormeId) (k : JobSlot) (ax half : Nat) (tell : Bool) : State :=
  match jobColl s f k with
  | none => s
  | some (j, c) =>
    if c.flips.contains (ax, half) then (if tell then collFault s f k 3 0x1001 true else s)
    else if tell && !linkUsable s (axisLink ax (!halfUp c ax half)) then collFault s f k 3 0x1001 true
    else
      let s1 := s.modColl f k (fun c => { c with
        flips := c.flips ++ [(ax, half)],
        vals := c.vals.filter (fun v => halfOf c v.2.1 != half),
        output := c.output.filter (fun o => !(List.range c.elements).any (fun e => outIndex s j c e == o.1 && halfOf c e == half)) })
      let s2 := if tell then sendAll s1 f k (.reroute ax half) else s1
      if c.moving then
        let evs := (packetElems 0 c.input).filter (fun e => halfOf c e.1 == half)
        resumeHeld (collReady 8 s2 f k 1 evs) f k
      else s2

/-- The collectives in progress that need a link run the halves that used it on the other one (R327). -/
def rerouteColls (s : State) (l : LinkId) : State :=
  allFormes.foldl (fun t f => jobSlots.foldl (fun u k =>
    match jobColl u f k with
    | some (j, c) =>
      if c.moving && c.opcode ≤ 2 && 1 < axisSize j (l.val / 2) then
        [0, 1].foldl (fun v h => match jobColl v f k with
          | some (_, d) => if halfUp d (l.val / 2) h == (l.val % 2 == 0) then rerouteHalf v f k (l.val / 2) h true else v
          | none => v) u
      else u
    | none => u) t) s

/-! ### Start (R324) -/

/-- Halves whose link is missing before anything moves are turned round first. -/
def turnMissing (s : State) (f : FormeId) (k : JobSlot) : State :=
  [0, 1, 2].foldl (fun t ax => [0, 1].foldl (fun u h =>
    match jobColl u f k with
    | some (j, c) =>
      if 1 < axisSize j ax && !linkUsable u (axisLink ax (halfUp c ax h)) && !c.flips.contains (ax, h) then rerouteHalf u f k ax h true else u
    | none => u) t) s

/-- Send a block straight to a member, by the shortest route (R325). -/
def sendBlock (s : State) (f : FormeId) (k : JobSlot) (dst : BitVec 12) (evs : List (Nat × BitVec 32)) : State :=
  (runsOf evs).foldl (fun t r =>
    match jobColl t f k with
    | some (_, c) =>
      if reachable t f dst then sendJob t f k dst 5 2 (4 * r.2.length) (collArg c.k r.1) (.collData 0 0 0 0 r.1 r.2)
      else collFault t f k 3 0x1001 true
    | none => t) s

/-- The elements of a list from a place on, renumbered. -/
def blockAt (input : List (BitVec 32)) (from' n at' : Nat) : List (Nat × BitVec 32) := packetElems at' ((input.drop from').take n)

/-- Data moves: every member's JOIN is held (R324, R325). -/
def startMoving (s : State) (f : FormeId) (k : JobSlot) : State :=
  match jobColl s f k with
  | none => s
  | some (j, c) =>
    let me := myIndex s j
    let ms := jobMembers j
    let others := ms.filter (· != s.selfModule)
    let e := c.elements
    let s1 := s.modColl f k (fun c => { c with moving := true })
    let s2 := match c.opcode with
      | 1 | 2 =>
        let t := turnMissing (s.modColl f k (fun c => { c with moving := false })) f k
        collReady 8 (t.modColl f k (fun c => { c with moving := true })) f k 1 (packetElems 0 c.input)
      | 3 => others.foldl (fun t m => sendBlock t f k m (blockAt c.input 0 e (me * e))) (putOut s1 f k (blockAt c.input 0 e (me * e)))
      | 4 => if me == c.root then others.foldl (fun t m => sendBlock t f k m (packetElems 0 c.input)) (putOut s1 f k (packetElems 0 c.input)) else s1
      | _ =>
        let b := e / max 1 ms.length
        (List.range ms.length).foldl (fun t i =>
          let evs := blockAt c.input (i * b) b (me * b)
          if i = me then putOut t f k evs else sendBlock t f k (ms.getD i 0) evs) s1
    resumeHeld s2 f k

/-- Every other member's JOIN is held. -/
def allJoined (s : State) (j : Job) (c : Coll) : Bool :=
  (List.range (jobMembers j).length).all (fun i => i == myIndex s j || c.joined.contains i)

/-- Start data once every JOIN is in. -/
def maybeMove (s : State) (f : FormeId) (k : JobSlot) : State :=
  match jobColl s f k with
  | some (j, c) => if !c.moving && allJoined s j c then startMoving s f k else s
  | none => s

/-- The digest of a JOIN: 16 bytes of the SHAKE256 of words 0 and 2 with SLOT cleared (R324). -/
def joinDigest (o : OpRec) : BitVec 128 :=
  let w0 := opWord o 0 &&& ~~~ place 26 63
  BitVec.ofNat 128 (leNat ((shake256 (leBytes 8 w0.toNat ++ leBytes 8 (opWord o 2).toNat) 16)))

/-- A member's JOIN is taken: a digest that differs is a mismatch (R324). -/
def takeJoin (s : State) (f : FormeId) (k : JobSlot) (member : Nat) (digest : BitVec 128) : State :=
  match jobColl s f k with
  | some (_, c) =>
    if digest != c.digest then collFault s f k 2 0x1001 true
    else maybeMove (s.modColl f k (fun c => { c with joined := if c.joined.contains member then c.joined else c.joined ++ [member] })) f k
  | none => s

/-- Input elements of a collective, widened to 32 bits (R322). -/
def collInput (s : State) (f : FormeId) (sl : Slug) (o : OpRec) : List (BitVec 32) :=
  match operandAs s f sl (handleLo o 1) (collType o) with
  | some x => (List.range (collElements o)).map (fun i =>
      BitVec.ofNat 32 (x.code (i / max 1 x.cols) (i % max 1 x.cols) * if collType o = 0x82 then 65536 else 1))
  | none => []

/-- Of the slugs that have reached a collective op of a slot, the one issued first may start it (R323). -/
def firstAtColl (s : State) (f : FormeId) (sl : Slug) (k : JobSlot) : Bool :=
  (issuedBefore (s.forme f) sl).all (fun w => !(w.state == .running && (w.wait == .none || w.wait == .window) &&
    ((opsOf (s.forme f) w)[w.op]?).any (fun o => opKind o == 7 && collSlot o == k)))

/-- Collective k begins: its input is taken, and JOIN is sent to every member (R324, R326). -/
def beginColl (s : State) (f : FormeId) (sl : Slug) (o : OpRec) (k : JobSlot) (j : Job) (stroke : Word) (begun : Nat) : State :=
  let c : Coll := {
    tag := sl.tag, k := begun + 1, op := opWord o 0, elements := collElements o, joinAt := s.time.stroke, stroke := stroke,
    digest := joinDigest o, joined := [], input := collInput s f sl o, vals := [], held := [], output := [], sat := false,
    flips := [], moving := false }
  let mine := j.early.filter (fun e => e.2.1 == begun + 1 && e.2.2.1 == stroke)
  let s1 := s.modJob f k (fun j => { j with
    coll := some c, early := j.early.filter (fun e => !mine.contains e),
    window := j.window.map (fun w => (w.1, w.2.1, w.2.2.1, w.2.2.2.1, begun + 1)) })
  let s2 := s1.modForme f (fun x => modSlug x sl.tag (fun z => { z with wait := .collective, sentColl := true }))
  if ((jobMembers j).filter (· != s.selfModule)).all (reachable s2 f) then
    let s3 := sendAll s2 f k (.join c.k stroke c.digest)
    maybeMove (mine.foldl (fun t e => takeJoin t f k e.1 e.2.2.2) s3) f k
  else collFault s2 f k 3 0x1001 true

/-- No collective starts: the stroke is UNLOCKED, LOST or REJOINING; a window already open runs to its end (R50, R322). -/
def collStopped (s : State) : Bool :=
  match s.time.state with
  | .unlocked | .lost | .rejoining => true
  | .locked | .holdover => false

/-- R50, R323, R324: the collective op a slug stands at starts in an open window of its slot, or waits for one. A slug that replays to
an op whose collective goes on takes it up again. -/
def execCollectiveStart (f : FormeId) (tag : SlugTag) (s : State) : Res :=
  match findSlug (s.forme f) tag with
  | some sl =>
    if !(sl.state == .running && (sl.wait == .none || sl.wait == .window)) then .next s
    else match (opsOf (s.forme f) sl)[sl.op]? with
      | some o =>
        if opKind o != 7 then .next s
        else
          let k := collSlot o
          let waits := s.modForme f (fun x => modSlug x tag (fun z => { z with wait := .window }))
          match (s.forme f).job k with
          | none => .next (s.faultSlug f tag .discarded 0x1005)
          | some j => match j.coll, j.window with
            | some c, _ => .next (if c.tag = tag then s.modForme f (fun x => modSlug x tag (fun z => { z with wait := .collective })) else waits)
            | none, some (stroke, _, _, maxColl, begun) =>
              .next (if j.isOpen && begun < maxColl && firstAtColl s f sl k then beginColl s f sl o k j stroke begun else waits)
            | none, none => .next (if collStopped s then s.faultSlug f tag .discarded 0x0310 else waits)
      | none => .next s
  | none => .next s

/-- R324: a JOIN still missing JOIN_STROKES strokes after the member's own. -/
def execJoinTimeout (f : FormeId) (slot : JobSlot) (s : State) : Res :=
  .next (match jobColl s f slot with
    | some (j, c) =>
      let n := match j.window with | some w => w.2.2.1 | none => 0
      if !allJoined s j c && c.joinAt.toNat + n ≤ s.time.stroke.toNat then collFault s f slot 1 0x1001 true else s
    | none => s)

/-! ### Completion (R197, R326) -/

/-- Elements of the output (R322). -/
def outElements (j : Job) (c : Coll) : Nat :=
  let m := (jobMembers j).length
  match c.opcode with
  | 2 => c.elements / max 1 m
  | 3 => c.elements * m
  | _ => c.elements

/-- The output is whole at this member. -/
def outWhole (j : Job) (c : Coll) : Bool := c.output.length == outElements j c

/-- The output as a tensor of one row stores it, with its flags: BF16 is converted once, in mode 0 (R322, R432). -/
def collOutput (j : Job) (c : Coll) : List Byte × BitVec 3 :=
  let xs := (List.range (outElements j c)).map (fun i => match c.output.find? (·.1 == i) with | some v => v.2 | none => 0)
  let r := if c.dtype = 0x82 then finishRow 0x82 0 false (fun _ => 0) xs else (xs.map (·.toNat), [], 0)
  (tensorBytes c.dtype xs.length { codes := r.1, scales := [] }, r.2.2 ||| (if c.sat then flagSaturated else 0))

/-- What a slug keeps once its collective is complete: the output, and the seal (R197). -/
def sealSlug (v : Version) (o : OpRec) (out : List Byte × BitVec 3) (z : Slug) : Slug :=
  let y := keepTensor v (handleHi o 1) out.1 { z with flags := z.flags ||| out.2, replayed := false }
  { y with
    reads := noReads, sealed := some {
      op := z.op + 1, proofs := y.proofs, locals := y.locals, flags := y.flags, appended := y.appended, tokens := y.tokens, shown := y.shown } }

/-- R326: a collective completes: the slug is sealed, and a held detection acts after the seal. -/
def execCollectiveComplete (f : FormeId) (tag : SlugTag) (s : State) : Res :=
  match findSlug (s.forme f) tag with
  | none => .next s
  | some sl =>
    match (opsOf (s.forme f) sl)[sl.op]?, slugVersion (s.forme f) sl with
    | some o, some v =>
      match jobColl s f (collSlot o) with
      | some (j, c) =>
        if opKind o = 7 && c.tag = tag && sl.state == .running && sl.wait == .collective && outWhole j c then
          let s1 := s.modJob f (collSlot o) (fun j => { j with coll := none })
          let out := collOutput j c
          .next (match sl.heldDetect with
            | none => opDone s1 f tag (sealSlug v o out)
            | some kind =>
              detect (s1.modForme f (fun x => modSlug x tag (fun z => { sealSlug v o out z with op := z.op + 1, wait := .none, heldDetect := none }))) f tag kind)
        else .next s
      | none => .next s
    | _, _ => .next s

/-! ### The end of a window (R197, R327) -/

/-- The slug replays, from its start or from a seal, whatever made it replay, and has not reached a collective of the slot that lies before it
(R197). -/
def replayMissed (x : Forme) (k : JobSlot) (sl : Slug) : Bool :=
  sl.replayed && (sl.state == .queued || (sl.state == .running && sl.wait != .collective && sl.wait != .window)) &&
    ((opsOf x sl).drop sl.op).any (fun o => opKind o == 7 && collSlot o == k)

/-- R327: a collective window ends: an output not yet whole is dropped with cause 4, and replays that missed the window end. -/
def execCollectiveWindowClose (f : FormeId) (entry : BitVec 8) (s : State) : Res :=
  match windowOver s f 2 entry with
  | none => .next s
  | some w =>
    let k : JobSlot := Fin.ofNat 64 (fld w.words.w3 5 0)
    let s1 := dropWindow s f w
    let mine := ((s.forme f).job k).any (fun j => match j.window with | some v => v.1 == w.opened | none => false)
    if !mine then .next s1
    else
      let s2 := match jobColl s1 f k with
        | some (j, c) => if outWhole j c then s1 else collFault s1 f k 4 0x1001 true
        | none => s1
      let s3 := s2.modJob f k (fun j => { j with window := none, early := j.early.filter (fun e => e.2.2.1 != w.opened) })
      .next ((((s3.forme f).slugs.filter (replayMissed (s3.forme f) k)).map (·.tag)).foldl (fun t g => t.faultSlug f g .discarded 0x1001) s3)

end Sys2Proof.Machine
end

