-- ==== Sys2Proof/Machine/Jobs.lean ====
section
/-! DEFINITION. Jobs: opening, closing, and the key exchange between members (R315, R316, R367 to R369). -/
namespace Sys2Proof.Machine

/-! ### JOB packets (R367) -/

/-- MSG of a fragment head: an offer, a delivery, a rejection. -/
def jkOfferMsg : BitVec 16 := 1
/-- As `jkOfferMsg`. -/
def jkDeliverMsg : BitVec 16 := 2
/-- As `jkOfferMsg`. -/
def jkRejectMsg : BitVec 16 := 3

/-- What an offer or a delivery carries, and its signature over JOB_ID, words 2 and 3 of the JOB_OPEN and all that (R368). -/
def jkSigned (s : State) (j : Job) (body : List Byte) : List Byte :=
  body ++ identitySign s "KTJOB1" (leBytes 8 j.jobId.toNat ++ leBytes 8 j.w2.toNat ++ leBytes 8 j.w3.toNat ++ body)

/-- A JK_OFFER: certificate, ephemeral encapsulation key, SIGNER_HASH, FW_SVN, member index and two zero bytes, signed (R368). -/
def jkOffer (s : State) (j : Job) (key : Nat) : List Byte :=
  jkSigned s j (identityBytes s ++ fitBytes 1568 (Config.inkEncapsulationKey key) ++ leBytes 32 ((activeSlot s.fuses.signer).getD 0).toNat ++
    leBytes 4 s.colo.fwSvn.toNat ++ leBytes 2 (myIndex s j) ++ leBytes 2 0)

/-- A JK_DELIVER to a member: certificate, ciphertext and wrapped key, signed (R368). -/
def jkDelivery (s : State) (j : Job) (member : Nat) : List Byte :=
  jkSigned s j (identityBytes s ++ fitBytes 1608 (Config.jobWrap j.jobId member))

/-- One fragment as a packet: 16-byte header, 8-byte head, up to 1,024 bytes of data. -/
def jobFragment (s : State) (id : Word) (dst : BitVec 12) (msg : BitVec 16) (frags i : Nat) (data : List Byte) : Packet :=
  { ptype := 7, vc := 3, src := s.selfModule, dst := dst, len := BitVec.ofNat 9 (ceilDiv (8 + data.length) 4), cls := false,
    reversed := false, hops := 0, jobId := id, pktNum := 0, dseq := 0, arg := 0,
    body := .job msg (BitVec.ofNat 16 i) (BitVec.ofNat 16 frags) data, tagOk := true }

/-- Send a key-exchange message in fragments. -/
def sendJk (s : State) (id : Word) (dst : BitVec 12) (msg : BitVec 16) (bytes : List Byte) : State :=
  let n := max 1 (ceilDiv bytes.length 1024)
  (List.range n).foldl (fun t i => forward t none (jobFragment t id dst msg n i ((bytes.drop (1024 * i)).take 1024))) s

/-! ### JOB_OPEN (R315) -/

/-- The job a JOB_OPEN message asks for. -/
def jobRequest (m : Vector Word 16) (now : Word) : Job :=
  { jobId := m[1], x0 := fld m[2] 11 8, nxj := fld m[2] 16 12, y0 := fld m[2] 23 20, nyj := fld m[2] 28 24,
    podMask := BitVec.ofNat 16 (fld m[3] 15 0), w2 := m[2], w3 := m[3], isOpen := false, keyed := false, waiting := some (msgTag m),
    since := now, offers := [], pktNum := 0, dseq := [], rx := [], window := none, coll := none, early := [] }

/-- The JOB_ID is held in this module, by any forme. -/
def jobIdHeld (s : State) (id : Word) : Bool :=
  allFormes.any (fun f => jobSlots.any (fun k => ((s.forme f).job k).any (fun j => j.jobId == id)))

/-- What refuses a JOB_OPEN at once (R315, R363). -/
def jobRefused (s : State) (f : FormeId) (k : JobSlot) (j : Job) : Bool :=
  match (s.forme f).cfg with
  | none => true
  | some c =>
    let ms := jobMembers j
    c.maxJobs ≤ k.val || ((s.forme f).job k).isSome || j.jobId == 0 || jobIdHeld s j.jobId ||
    j.nxj == 0 || j.nyj == 0 || s.nx < j.x0 + j.nxj || s.ny < j.y0 + j.nyj || !ms.contains s.selfModule ||
    c.localTime || !(c.remoteLoad || c.remoteStore || c.collective) ||
    !ms.all (fun m => c.remoteBase ≤ m.toNat && m.toNat < c.remoteBase + c.remoteCount) || !s.colo.identityUp

/-- The slot and forme that wait for a job's key. -/
def jobWaiting (s : State) (id : Word) : Option (FormeId × JobSlot × Job) :=
  allFormes.findSome? (fun f => jobSlots.findSome? (fun k => match (s.forme f).job k with
    | some j => if j.jobId == id && !j.isOpen && j.waiting.isSome then some (f, k, j) else none
    | none => none))

/-- Complete a waiting JOB_OPEN with a code: the slot is free again, and no key survives. -/
def jobEnds (s : State) (f : FormeId) (k : JobSlot) (c : Code) : State :=
  match (s.forme f).job k with
  | some j => match j.waiting with
    | some tag => (s.modForme f (fun x => x.setJob k none)).answer f 3 tag c
    | none => s
  | none => s

/-- The JOB_OPEN failed (R315, R369). -/
def jobFails (s : State) (f : FormeId) (k : JobSlot) : State := jobEnds s f k 0x1004

/-- The job is open at this member (R315, R368). -/
def jobOpens (s : State) (f : FormeId) (k : JobSlot) : State :=
  match (s.forme f).job k with
  | some j => match j.waiting with
    | some tag => (s.modJob f k (fun j => { j with isOpen := true, keyed := true, waiting := none, offers := [] })).answer f 3 tag 0
    | none => s
  | none => s

/-- JK_REJECT goes to member 0, and from member 0 to every member (R369). -/
def sendRejects (s : State) (j : Job) : State :=
  let ms := jobMembers j
  (if myIndex s j = 0 then ms.drop 1 else ms.take 1).foldl (fun t m => sendJk t j.jobId m jkRejectMsg []) s

/-- A failure found here, or told by a member to member 0 (R369). -/
def jobRejects (s : State) (f : FormeId) (k : JobSlot) (j : Job) : State := jobFails (sendRejects s j) f k

/-- The conditions of R369 on a whole message; `unwrap` for a delivery. -/
def jkOk (s : State) (m : JobKeyMsg) (unwrap : Bool) : Bool :=
  m.certOk && m.sigOk && m.signerHash == (activeSlot s.fuses.signer).getD 0 && s.fuses.svnMin ≤ m.fwSvn.toNat && (!unwrap || m.unwrapOk)

/-- Member 0 holds every offer: K_JOB is drawn and delivered (R316, R368). When the health test before the draw fails no key is issued, the
other members are told, and the JOB_OPEN completes with 0x130A (R364, log 97). -/
def jobDelivers (s : State) (f : FormeId) (k : JobSlot) : State :=
  match (s.forme f).job k with
  | some j =>
    let ms := jobMembers j
    if !(List.range ms.length).all (fun i => i == 0 || j.offers.contains (BitVec.ofNat 16 i)) then s
    else if s.colo.mgmtOnly || !Config.drawTest s.draws then entropyFails (jobEnds (sendRejects s j) f k 0x130A)
    else
      let s1 := s.draw.2
      let s2 := (List.range ms.length).foldl (fun t i =>
        if i = 0 then t else sendJk t j.jobId (ms.getD i 0) jkDeliverMsg (jkDelivery t j i)) s1
      jobOpens s2 f k
  | none => s

/-- Member 0 takes one offer (R368, R369). -/
def takeOffer (s : State) (f : FormeId) (k : JobSlot) (m : JobKeyMsg) : State :=
  match (s.forme f).job k with
  | some j =>
    if !jkOk s m false then jobRejects s f k j
    else jobDelivers (s.modJob f k (fun j => { j with offers := if j.offers.contains m.member then j.offers else j.offers ++ [m.member] })) f k
  | none => s

/-- A member other than member 0 draws its ephemeral key pair and sends its offer; without entropy no key is issued (R364, R368, log 97). -/
def jobOffers (s : State) (f : FormeId) (k : JobSlot) (j : Job) : State :=
  if s.colo.mgmtOnly || !Config.drawTest s.draws then entropyFails (jobEnds s f k 0x130A)
  else
    let n := s.draw
    sendJk n.2 j.jobId ((jobMembers j).getD 0 0) jkOfferMsg (jkOffer n.2 j n.1)

/-- The job is entered in its slot, and this member's part of the key exchange begins; offers that came before are taken (R368). -/
def jobBegins (s : State) (f : FormeId) (k : JobSlot) (j : Job) : State :=
  let s1 := s.modForme f (fun x => x.setJob k (some j))
  let me := myIndex s1 j
  if me = 0 then
    let early := s1.colo.offers.filter (fun m => m.jobId == j.jobId)
    let s2 := { s1 with colo := { s1.colo with offers := s1.colo.offers.filter (fun m => m.jobId != j.jobId) } }
    early.foldl (fun t m => takeOffer t f k m) (jobDelivers s2 f k)
  else jobOffers s1 f k j

/-- R315: a JOB_OPEN exchange. -/
def execJobOpen (f : FormeId) (s : State) : Res :=
  .next (exchange s (.plain f) 3 (fun m t =>
    let k : JobSlot := Fin.ofNat 64 (fld m[2] 5 0)
    let j := jobRequest m t.time.ticks
    if jobRefused t f k j then t.answer f 3 (msgTag m) 0x1004 else jobBegins t f k j))

/-- R315: not every member has opened the job within 1,000,000 ticks. -/
def execJobOpenTimeout (f : FormeId) (slot : JobSlot) (s : State) : Res :=
  .next (match (s.forme f).job slot with
    | some j => if !j.isOpen && 1000000 ≤ (s.time.ticks - j.since).toNat then jobFails s f slot else s
    | none => s)

/-- R316: a JOB_CLOSE exchange; a JOB_OPEN of the slot that still waits completes with 0x1004. -/
def execJobClose (f : FormeId) (s : State) : Res :=
  .next (exchange s (.plain f) 4 (fun m t =>
    let k : JobSlot := Fin.ofNat 64 (fld m[1] 5 0)
    (closeJob (jobFails t f k) f k).answer f 4 (msgTag m) 0))

/-! ### Key exchange (R368, R369) -/

/-- R368: a whole JK_OFFER at member 0; one that comes before the module's own JOB_OPEN is kept for it. -/
def execJkOffer (m : JobKeyMsg) (s : State) : Res :=
  .next (match jobWaiting s m.jobId with
    | some (f, k, j) => if myIndex s j = 0 && 0 < m.member.toNat && m.member.toNat < (jobMembers j).length then takeOffer s f k m else s
    | none => if s.isOn && !jobIdHeld s m.jobId then { s with colo := { s.colo with offers := s.colo.offers.filter (· != m) ++ [m] } } else s)

/-- R368: a whole JK_DELIVER at another member. -/
def execJkDeliver (m : JobKeyMsg) (s : State) : Res :=
  .next (match jobWaiting s m.jobId with
    | some (f, k, j) => if myIndex s j = 0 then s else if jkOk s m true then jobOpens s f k else jobRejects s f k j
    | none => s)

/-- R369: a JK_REJECT: member 0 relays it, and the JOB_OPEN that waits completes with 0x1004. A job that is open here already is closed, for
no key survives the failure (log 98). -/
def execJkReject (jobId : Word) (s : State) : Res :=
  .next (match jobWaiting s jobId, jobById s jobId with
    | some (f, k, j), _ => if myIndex s j = 0 then jobRejects s f k j else jobFails s f k
    | none, some (f, k, j) => closeJob (if myIndex s j = 0 then sendRejects s j else s) f k
    | none, none => s)

end Sys2Proof.Machine
end

