-- ==== Sys2Proof/Machine/Aczia.lean ====
section
/-! DEFINITION. Aczia packets at their endpoint, flits, and what a lane or a link leaves when it goes (R307 to R321, R327, R328). -/
namespace Sys2Proof.Machine

/-! ### A packet at its endpoint (R318 to R321) -/

/-- Answer a packet with NACK_REMOTE (R314, R316, R320). -/
def nackBack (s : State) (p : Packet) : State :=
  if p.ptype == 8 || p.ptype == 7 then s
  else forward s none { p with
    ptype := 8, vc := 0, src := s.selfModule, dst := p.src, len := 0, cls := false, reversed := false, hops := 0,
    body := .nack p.ptype (bodyTag p.body) s.selfModule, tagOk := true }

/-- The forme serves remote requests to a range of its stack space: it runs, is not draining, and the range lies inside (R320). -/
def servesRemote (s : State) (f : FormeId) (off n : Nat) : Bool :=
  let x := s.forme f
  x.live && !x.drained && x.ecp.phase == 0 && (match x.cfg with | some c => off + n ≤ c.stackGib * 2 ^ 30 | none => false)

/-- Serve a LOAD_REQ at the target; a poisoned line answers with nothing but the refusal (R146, R319, R320, log 52). -/
def serveLoad (s : State) (f : FormeId) (k : JobSlot) (p : Packet) (tag : BitVec 16) (off : BitVec 40) (n : Nat) : State :=
  if servesRemote s f off.toNat (64 * n) && !s.stackPoisoned f off.toNat (64 * n) then
    sendJob (formeFetch s f .normal false off.toNat (64 * n)) f k p.src 2 0 (16 + 64 * n) 0 (.loadResp tag off ((s.stackRead f off.toNat (64 * n)).getD []))
  else nackBack (if servesRemote s f off.toNat (64 * n) then countPoison s f off.toNat (64 * n) else s) p

/-- Serve a remote write at the target: it lands in the forme's stack space, watched copies go, and it is acknowledged (R319). -/
def serveStore (s : State) (f : FormeId) (k : JobSlot) (p : Packet) (tag : BitVec 16) (off : BitVec 40) (data : List Byte) : State :=
  if servesRemote s f off.toNat data.length then sendJob (watchedWrite s f off.toNat data) f k p.src 4 0 16 0 (.storeAck tag)
  else nackBack s p

/-- Bytes a slug's pieces cover from an address. -/
def pieceBytes (ps : List (BitVec 56 × List Byte)) (a n : Nat) : Option (List Byte) :=
  (List.range n).mapM (fun i => ps.findSome? (fun p => if p.1.toNat ≤ a + i then p.2[a + i - p.1.toNat]? else none))

/-- A slug has what it asked for, and goes on. -/
def slugHas (s : State) (f : FormeId) (t : SlugTag) (a : BitVec 56) (bs : List Byte) : State :=
  s.modForme f (fun x => modSlug x t (fun z => { z with
    fetched := z.fetched ++ [(a, bs)], asked := [], wait := if z.wait == .remote then .none else z.wait }))

/-- The line of a remote load takes a way of the forme's set blocks; the sectors of a line that loses its way are dropped (R142, R319; log 93). -/
def remoteCached (s : State) (f : FormeId) (m : BitVec 12) (off n : Nat) : State :=
  match (s.forme f).cfg with
  | some c => { s with stack := { s.stack with stone := (List.range ((off + n - 1) / 256 + 1 - off / 256)).foldl (fun ss i =>
      stoneAccess ss f c.blocks .normal false false (.remote m (off / 256 + i))) s.stack.stone } }
  | none => s

/-- A remote load's data at the requester: kept in the forme's stone-cache blocks, and given to the slug once whole (R319, R320); a
flag that an acquire reads is compared at once (R291). -/
def takeLoad (s : State) (f : FormeId) (src : BitVec 12) (t : SlugTag) (off : BitVec 40) (data : List Byte) : State :=
  match findSlug (s.forme f) t with
  | none => s
  | some sl =>
    match sl.asked with
    | [] => s
    | (a, n) :: _ =>
      if (acquireOp (s.forme f) sl).isSome then
        pollFlag s f t (leWord ((data.drop (a.toNat % 2 ^ 40 - off.toNat)).take 8))
      else
        let sectors := (List.range (data.length / 64)).map (fun i => (src, off.toNat / 64 + i, (data.drop (64 * i)).take 64))
        let s1 := (remoteCached s f src off.toNat data.length).modForme f (fun x => modSlug { x with
          remoteLines := x.remoteLines.filter (fun l => stoneHolds s.stack.stone f (.remote l.1 (l.2.1 / 4)) &&
            !sectors.any (fun g => g.1 == l.1 && g.2.1 == l.2.1)) ++ sectors } t
          (fun z => { z with fetched := z.fetched ++ [(BitVec.ofNat 56 (8 * 2 ^ 52 + src.toNat * 2 ^ 40 + off.toNat), data)] }))
        match (findSlug (s1.forme f) t).bind (fun z => pieceBytes z.fetched a.toNat n) with
        | some bs => slugHas s1 f t a bs
        | none => s1

/-- A remote store of a slug is lost: its launch completes with 0x1003, and its flags stay unwritten (R321). -/
def storeLost (s : State) (f : FormeId) (t : SlugTag) (due : List (BitVec 12)) : State :=
  (s.modForme f (fun x => (modSlug x t (fun z => { z with remoteDue := due, remoteLost := true })).noteSlugFault t s.time.ticks 0x1003)).noteCode f 0x1003

/-- The slug has an outstanding read of remote space. -/
def remoteAsked (sl : Slug) : Bool := sl.asked.any (fun a => a.1.toNat / 2 ^ 52 == 8)

/-- A refusal comes back (R320, R321, R326). -/
def takeNack (s : State) (f : FormeId) (k : JobSlot) (ptype : BitVec 4) (t : SlugTag) (target : BitVec 12) : State :=
  if ptype == 5 || ptype == 6 then collFault s f k 0 0x1002 true
  else match findSlug (s.forme f) t with
    | none => s
    | some sl =>
      if ptype == 1 then (if remoteAsked sl then s.failSlug f t 0x1002 else s)
      else if ptype == 3 && sl.remoteDue.contains target then storeLost s f t (sl.remoteDue.erase target)
      else s

/-- A JOIN at this member: for the collective in progress, or kept for an occurrence that is open or opens with the next stroke
(R323, R324). -/
def takePeerJoin (s : State) (f : FormeId) (k : JobSlot) (j : Job) (src : BitVec 12) (n : Nat) (stroke : Word) (digest : BitVec 128) : State :=
  let member := (jobMembers j).findIdx (· == src)
  match j.coll with
  | some c => if c.k = n && c.stroke == stroke then takeJoin s f k member digest else early member
  | none => early member
where
  /-- Keep a JOIN that comes before the member's own. -/
  early (member : Nat) : State :=
    let open' := match j.window with | some w => w.1 == stroke | none => false
    if open' || stroke == s.time.stroke || stroke == s.time.stroke + 1 then
      s.modJob f k (fun j => { j with early := j.early ++ [(member, n, stroke, digest)] })
    else s

/-- A packet of a collective belongs to the one in progress, by the number in its ARG: one that comes after its collective has ended is dropped
(R317, log 51). -/
def forColl (j : Job) (p : Packet) : Bool := j.coll.any (fun c => p.arg.toNat % 256 == c.k % 256)

/-- A delivered packet acts; while the forme drains, collectives addressed to it are refused (R37, R319 to R327, R330). -/
def actPacket (s : State) (f : FormeId) (k : JobSlot) (p : Packet) : State :=
  match (s.forme f).job k, p.body with
  | some _, .loadReq t off n => serveLoad s f k p t off n
  | some _, .loadResp t off d => takeLoad s f p.src t off d
  | some _, .store t off d => serveStore s f k p t off d
  | some _, .flagAdd t off v => serveStore (countPoison s f off.toNat 8) f k p t off (leBytes 8 ((s.stackWord f off.toNat).getD 0 + v).toNat)
  | some _, .storeAck t => s.modForme f (fun x => modSlug x t (fun z => { z with remoteDue := z.remoteDue.erase p.src }))
  | some j, .nack ty t m => if (ty == 5 || ty == 6) && !forColl j p then s else takeNack s f k ty t m
  | some j, .collData run phase half step first es =>
    if (s.forme f).drained then nackBack s p
    else if forColl j p then resumeHeld (collPacket s f k (.collData run phase half step first es)) f k else s
  | some j, .join n stroke digest => if (s.forme f).drained then nackBack s p else takePeerJoin s f k j p.src n stroke digest
  | some j, .reroute ax half => if forColl j p then rerouteHalf s f k ax half false else s
  | some j, .abort => if forColl j p && j.coll.any (fun c => !outWhole j c) then collFault s f k 5 0x1001 true else s
  | some _, .job _ _ _ _ => s
  | none, _ => s

/-- The delivery state of a source in a job (R318). -/
def reorderOf (j : Job) (src : BitVec 12) : Reorder := (j.rx.find? (·.src == src)).getD { src := src, next := 0, window := [] }

/-- Put a source's delivery state back. -/
def putReorder (s : State) (f : FormeId) (k : JobSlot) (r : Reorder) : State :=
  s.modJob f k (fun j => { j with rx := j.rx.filter (·.src != r.src) ++ [r] })

/-- Deliver packets in DSEQ order while the next one is held; `n` bounds them (R318). -/
def deliverNext : Nat → State → FormeId → JobSlot → BitVec 12 → State
  | 0, s, _, _, _ => s
  | n + 1, s, f, k, src =>
    match (s.forme f).job k with
    | none => s
    | some j =>
      let r := reorderOf j src
      match r.window.find? (fun p => p.dseq == r.next) with
      | none => s
      | some p =>
        let s1 := putReorder s f k { r with next := r.next + 1, window := r.window.filter (fun q => q.dseq != r.next) }
        deliverNext n (actPacket s1 f k p) f k src

/-- A packet of a job reaches its destination: its tag is checked, duplicates and packets beyond the window are dropped, and the
rest are delivered in order (R316, R318). -/
def endpoint (s : State) (p : Packet) : State :=
  if p.ptype == 7 then s
  else match jobById s p.jobId with
    | none => nackBack s p
    | some (f, k, j) =>
      if !p.tagOk then
        let s1 := s.modForme f (fun x => { x with authFail := satInc x.authFail })
        if p.ptype == 5 || p.ptype == 6 then collFault s1 f k 6 0x1001 true else s1
      else if p.ptype == 8 then actPacket s f k p
      else if !(jobMembers j).contains p.src then s
      else
        let r := reorderOf j p.src
        if (p.dseq - r.next).toNat < 1024 && !r.window.any (fun q => q.dseq == p.dseq) then
          deliverNext 1024 (putReorder s f k { r with window := r.window ++ [p] }) f k p.src
        else s

/-- A packet arrives on a link, or is presented as it reaches this module: here, or on its way (R313, R314). -/
def arrive (s : State) (via : Option LinkId) (p : Packet) : State := if p.dst == s.selfModule then endpoint s p else forward s via p

/-- A packet of one of the PTYPEs given reaches this module. -/
def packetCommand (s : State) (types : List (BitVec 4)) (p : Packet) : Res :=
  .next (if s.isOn && p.dst == s.selfModule && types.contains p.ptype then endpoint s p else s)

/-- R319: a LOAD_REQ at its target. -/
def execLoadReq (p : Packet) (s : State) : Res := packetCommand s [1] p
/-- R320: a LOAD_RESP at its requester. -/
def execLoadResp (p : Packet) (s : State) : Res := packetCommand s [2] p
/-- R319: a STORE at its target. -/
def execStorePacket (p : Packet) (s : State) : Res := packetCommand s [3] p
/-- R321: a STORE_ACK at its requester. -/
def execStoreAck (p : Packet) (s : State) : Res := packetCommand s [4] p
/-- R320, R321, R326: a NACK_REMOTE at its requester. -/
def execNackRemote (p : Packet) (s : State) : Res := packetCommand s [8] p
/-- R325: a COLL_DATA packet at a member. -/
def execCollData (p : Packet) (s : State) : Res := packetCommand s [5] p

/-- The collective control message a packet carries. -/
inductive Ctrl where
  | join
  | reroute
  | abort
  deriving DecidableEq, Repr

/-- Which control message, if any. -/
def ctrlOf : PacketBody → Option Ctrl
  | .join _ _ _ => some .join
  | .reroute _ _ => some .reroute
  | .abort => some .abort
  | .loadReq _ _ _ | .loadResp _ _ _ | .store _ _ _ | .flagAdd _ _ _ | .storeAck _ | .nack _ _ _ | .collData _ _ _ _ _ _ | .job _ _ _ _ => none

/-- A COLL_CTRL packet of one kind at a member. -/
def ctrlCommand (s : State) (c : Ctrl) (p : Packet) : Res := if ctrlOf p.body == some c then packetCommand s [6] p else .next s

/-- R324: a peer's JOIN. -/
def execJoin (p : Packet) (s : State) : Res := ctrlCommand s .join p
/-- R327: a REROUTE. -/
def execReroute (p : Packet) (s : State) : Res := ctrlCommand s .reroute p
/-- R327: an ABORT. -/
def execAbort (p : Packet) (s : State) : Res := ctrlCommand s .abort p

/-- R320: no response to a remote load within 1,000 ticks. -/
def execRemoteLoadTimeout (f : FormeId) (tag : SlugTag) (s : State) : Res :=
  .next (match findSlug (s.forme f) tag with
    | some sl => if remoteAsked sl && 1000 ≤ (s.time.ticks - sl.askedAt).toNat then s.failSlug f tag 0x1002 else s
    | none => s)

/-- R321: no STORE_ACK within 1,000 ticks. -/
def execRemoteStoreTimeout (f : FormeId) (tag : SlugTag) (s : State) : Res :=
  .next (match findSlug (s.forme f) tag with
    | some sl => if !sl.remoteDue.isEmpty && 1000 ≤ (s.time.ticks - sl.storesAt).toNat then storeLost s f tag [] else s
    | none => s)

/-! ### Flits (R307 to R309, R313) -/

/-- The flits an ACK covers leave the replay buffer (R308). -/
def takeAck (k : Link) (ack : BitVec 12) : Link :=
  match k.replay with
  | [] => k
  | (first, _) :: _ =>
    let n := (ack - first).toNat
    if n ≤ k.replay.length then { k with replay := k.replay.drop n, resends := if n = 0 then k.resends else 0 } else k

/-- Credits come back, in units of 64 bytes (R307, R309). -/
def takeCredits (k : Link) (c : Vector (BitVec 8) 8) : Link := { k with credits := Vector.zipWith (fun a b => a + b.toNat) k.credits c }

/-- Credits a receiver returns for the packets of a flit, by VC and class. -/
def creditsOf (ps : List Packet) : List Nat :=
  (List.range 8).map (fun i => sumNat ((ps.filter (fun p => (creditIndex p).val == i)).map creditNeed))

/-- A flit that must be rejected: NAK is sent once, with the SEQ that is expected (R308). -/
def rejectFlit (s : State) (l : LinkId) : State :=
  if (s.link l).nakSent then s
  else (s.modLink l (fun k => { k with nakSent := true })).emit (.linkNak l (s.link l).rxExpect)

/-- A data flit: accepted in order, acknowledged, and its packets go on or are delivered; any other is rejected (R308). -/
def dataFlit (s : State) (l : LinkId) (x : AczFlit) : State :=
  if x.seq != (s.link l).rxExpect then rejectFlit s l
  else
    let s1 := s.modLink l (fun k => { k with rxExpect := k.rxExpect + 1, nakSent := false })
    let s2 := s1.emit (.linkAck l (x.seq + 1) (creditsOf x.packets))
    x.packets.foldl (fun t p => arrive t (some l) p) s2

/-- A flit whose CRC holds: its ACK, NAK and credits act, then what it carries (R307, R308). -/
def goodFlit (s : State) (l : LinkId) (x : AczFlit) : State :=
  let s1 := s.modLink l (fun k => takeCredits (takeAck k x.ack) x.credits)
  let s2 := if x.nak then resend (s1.modLink l (fun k => { k with resends := k.resends + 1 })) l else s1
  let s3 := drainQueue (s2.link l).queue.length s2 l
  if x.type = 0 then dataFlit s3 l x else s3

/-- R307 to R309: a flit is received on a link that is up. -/
def execFlitReceive (l : LinkId) (x : AczFlit) (s : State) : Res :=
  .next (if (s.link l).state == .up && !(s.link l).disable then (if x.crcOk then goodFlit s l x else rejectFlit s l) else s)

/-! ### Lanes and links going (R311, R312, R328) -/

/-- The NACK_REMOTE that answers a packet (R314, R316, R320). -/
def nackFor (s : State) (p : Packet) : Packet := { p with
  ptype := 8, vc := 0, src := s.selfModule, dst := p.src, len := 0, cls := false, reversed := false, hops := 0,
  body := .nack p.ptype (bodyTag p.body) p.dst, tagOk := true }

/-- A packet that a link held takes another way: one that travels reversed already has none left, and keeps the class it had before this
link. One of this module's own that has no way is refused here (R309, R312 to R314). -/
def sendElse (s : State) (l : LinkId) (p : Packet) : State :=
  let via := if p.reversed then some (otherLink l) else none
  let q := { p with cls := p.cls && !classOn s l false }
  if (route s q.dst q.reversed via).isNone && q.src == s.selfModule && q.ptype != 7 then endpoint s (nackFor s q) else forward s via q

/-- A link's packets, those not acknowledged first, take another way (R312). -/
def rerouteAll (s : State) (l : LinkId) : State :=
  let k := s.link l
  let s1 := s.modLink l (fun k => { k with replay := [], queue := [] })
  (k.replay.flatMap (·.2) ++ k.queue).foldl (fun t p => sendElse t l p) s1

/-- A link is lost: the geometry changes, collectives turn round, its packets take another way, and its marks are no source any more
(R49, R312, R327). -/
def linkGone (s : State) (l : LinkId) (st : LinkState) : State :=
  let s1 := (s.modLink l (fun k => { k with state := st, groups := 0, wider := false, since := s.time.ticks })).bumpGen
  sourceGone (rerouteAll (rerouteColls s1 l) l) (markSource l)

/-- R303, R306: training completes, or the peer is not the neighbour and the link is refused. -/
def trainingDone (s : State) (l : LinkId) (peer : BitVec 12) (loopPs : BitVec 24) : State :=
  let k := s.link l
  if !(k.state == .training || k.state == .retraining) || !selfValid s.selfReg || k.disable then s
  else if (neighbour s l).any (· != peer) then
    let s1 := s.modLink l (fun k => { k with peer := peer })
    if k.state == .retraining then linkGone s1 l .refused else s1.modLink l (fun k => { k with state := .refused, groups := 0, wider := false })
  else
    let s1 := s.modLink l (fun k => { k with
      state := .up, groups := if k.state == .training || k.wider then 0xF else k.groups, wider := false, peer := if 4 ≤ l.val then 0 else peer, loopPs := loopPs })
    let s2 := resend (countLanes s s1 l) l
    drainQueue (s2.link l).queue.length s2 l

/-- R306. -/
def execLinkTrainingDone (l : LinkId) (peer : BitVec 12) (loopPs : BitVec 24) (s : State) : Res := .next (trainingDone s l peer loopPs)

/-- R306: training has not completed within 100,000 strokes; a RETRAIN that fails so takes the link down. -/
def execLinkTrainingTimeout (l : LinkId) (s : State) : Res :=
  .next (
    let k := s.link l
    if (s.time.ticks - k.since).toNat < 100000 then s
    else if k.state == .training then s.modLink l (fun k => { k with state := .down, since := s.time.ticks })
    else if k.state == .retraining then linkGone s l .down else s)

/-- The link carries or carried traffic. -/
def linkTrained (s : State) (l : LinkId) : Bool := (s.link l).state == .up || (s.link l).state == .retraining

/-- R312. -/
def execLinkLost (l : LinkId) (s : State) : Res := .next (if linkTrained s l then linkGone s l .lost else s)

/-- R311: a lane goes bad, and its group is dropped; with no group left the link is lost. -/
def execLaneBad (l : LinkId) (lane : Fin 16) (s : State) : Res :=
  .next (
    let g := (s.link l).groups &&& ~~~ oneBit 4 (lane.val / 4)
    if !linkTrained s l || g == (s.link l).groups then s
    else
      let s1 := s.modLink l (fun k => { k with groups := g, degrades := satInc k.degrades })
      if g = 0 then linkGone s1 l .lost
      else (s1.modLink l (fun k => { k with state := .retraining, since := s.time.ticks })).bumpGen)

/-- A write of ACZ_LINK_CTRL_k (R328): DISABLE takes effect, then RETRAIN. -/
def writeLinkCtrl (s : State) (l : LinkId) (v : Word) : State :=
  let off := bitOf v 1
  let s1 := s.modLink l (fun k => { k with disable := off })
  let s2 := if off then (if linkTrained s1 l then linkGone s1 l .down else s1.modLink l (fun k => { k with state := .down, groups := 0 })) else s1
  if bitOf v 0 then startTraining s2 l else s2

/-- R306, R328: RETRAIN. -/
def execRetrain (h : HostReq) (l : LinkId) (value : Word) (s : State) : Res :=
  .next (managementWrite s h (fun _ => writeLinkCtrl s l (value ||| placeBit 0 true)))

/-- R328: DISABLE. -/
def execDisable (h : HostReq) (l : LinkId) (value : Word) (s : State) : Res :=
  .next (managementWrite s h (fun _ => writeLinkCtrl s l (value ||| placeBit 1 true)))

end Sys2Proof.Machine
end

