-- ==== Sys2Proof/Machine/HostRegs.lean ====
section
/-! DEFINITION. Host accesses: the management window's registers, register writes and reads, and the memory apertures (R8, R9, R11,
R33, R118, R119, R286, R328, R332 to R335, R340, R344, R349, R352 to R354, R361, R396, R407, R410). -/
namespace Sys2Proof.Machine

/-! ### The management window: reads (R335) -/

/-- Word `n` of a 32-byte or 64-byte value kept as a number, byte 0 the lowest. -/
def wordOf {w : Nat} (x : BitVec w) (n : Nat) : Word := BitVec.ofNat 64 (x.toNat >>> (64 * n))

/-- A bit for each slot of a hash field that passes a test (R361). -/
def slotMask (v : Vector HashSlot 4) (p : HashSlot → Bool) : Nat := sumNat ((List.finRange 4).map (fun i => if p v[i.val] then 2 ^ i.val else 0))

/-- COLO_FUSE_RULES (R361). -/
def fuseRules (k : Fuses) : Word :=
  place 0 k.rules.toNat ||| place 16 (slotMask k.signer (·.programmed)) ||| place 20 (slotMask k.signer (·.revoked)) |||
  place 24 (slotMask k.operator (·.programmed)) ||| place 28 (slotMask k.operator (·.revoked)) ||| place 32 k.svnMin

/-- A nonce is valid for 1,000,000 ticks (R376). -/
def nonceValid (s : State) : Bool := match s.colo.nonce with | some n => (s.time.ticks - n.2).toNat < 1000000 | none => false

/-- GIB_DONE of COLO_SCRUB: while a scrub runs how much of it is done is a free value within what it scrubs (R382). -/
def gibDone (s : State) : Nat :=
  if s.colo.scrub.active then (Config.freeValue s.free).toNat % (s.colo.scrub.gibTotal.toNat + 1) else s.colo.scrub.gibDone.toNat

/-- The colophon block (R33, R361, R382). -/
def colophonReg (s : State) (n : Nat) : Option Word :=
  let c := s.colo
  if 0x040 ≤ n && n < 0x060 then some (wordOf ((activeSlot s.fuses.signer).getD 0) ((n - 0x040) / 8))
  else if 0x060 ≤ n && n < 0x080 then some (wordOf ((activeSlot s.fuses.operator).getD 0) ((n - 0x060) / 8))
  else if 0x080 ≤ n && n < 0x0A0 then some (wordOf (identityHash s) ((n - 0x080) / 8))
  else if 0x140 ≤ n && n < 0x180 then some (wordOf c.hash ((n - 0x140) / 8))
  else match n with
    | 0x000 => some (fuseRules s.fuses)
    | 0x008 => some (place 0 c.fwSvn.toNat)
    | 0x100 => some (place 0 c.code.toNat ||| place 16 c.formeNo.toNat ||| place 24 c.secType.toNat ||| place 32 c.phase.toNat ||| place 48 c.withheld.toNat)
    | 0x108 => some c.seq
    | 0x110 => some (place 0 c.named.toNat ||| place 16 c.done.toNat ||| place 32 c.abandoned.toNat)
    | 0x200 => some (place 0 c.scopes.toNat ||| placeBit 3 (nonceValid s) ||| placeBit 4 c.opening.isSome ||| place 16 c.quoinCode.toNat)
    | 0x208 => some (placeBit 0 c.scrub.active ||| place 1 c.scrub.cause.toNat ||| place 4 c.scrub.forme.toNat ||| place 32 (gibDone s) ||| place 48 c.scrub.gibTotal.toNat)
    | _ => none

/-- STATE of PLATEN_THERMAL (R393, R396). -/
def thermalNo : Thermal → Nat
  | .normal => 0
  | .warm => 1
  | .hold => 2
  | .trip => 3

/-- SHARE_SUM: the cap shares of the committed formes (R396). -/
def shareSum (s : State) : Nat := match s.colo.committed with | some i => sumNat (i.power.map (fun w => fld w 31 16)) | none => 0

/-- A forme's account in millijoules, rounded down (R388, R396). -/
def accountMj (s : State) (f : FormeId) : Nat := min (accountOf s f / 10 ^ 12) (2 ^ 24 - 1)

/-- The lowest-numbered die among the hottest (R396). -/
def hottestDie (js : Vector (BitVec 8) 10) : Nat := (js.toList.findIdx (fun j => j.toNat == hottestC js))

/-- PLATEN_RESET (R410). -/
def platenReset (b : Boot) : Word :=
  place 0 b.cause.toNat ||| place 8 b.phase.toNat ||| place 12 b.copies.toNat ||| place 16 b.code.toNat ||| place 32 b.resets.toNat ||| placeBit 48 b.ready

/-- The platen block (R57, R396, R410). -/
def platenReg (s : State) (n : Nat) : Option Word :=
  let p := s.platen
  if h : 0x200 ≤ n ∧ n < 0x280 then
    let f : FormeId := ⟨(n - 0x200) / 8, by omega⟩
    some (place 0 (accountMj s f) ||| place 32 (p.account[f.val]).held.toNat)
  else match n with
    | 0x100 => some (place 0 (capW s) ||| place 16 (shareSum s % 2 ^ 16))
    | 0x108 => some (place 0 (measuredSum s / 4000) ||| place 16 p.lastMs.toNat ||| placeBit 32 p.overCap ||| placeBit 33 p.limit ||| place 40 p.above.toNat ||| place 48 p.limits.toNat)
    | 0x110 => some (place 0 (hottestC p.junctions) ||| place 8 (hottestDie p.junctions) ||| place 16 p.inlet.toNat ||| place 24 p.outlet.toNat ||| place 32 (thermalNo p.thermal))
    | 0x118 => some (place 0 p.input10mV.toNat ||| placeBit 16 p.low)
    | 0x120 => some (place 0 p.trip.toNat)
    | 0x130 => some (platenReset s.boot)
    | _ => strokeReg s.time n

/-- The map-out masks (R154). -/
def stackMgmtReg (s : State) (n : Nat) : Option Word :=
  if 0x100 ≤ n && n < 0x120 then
    let i := (n - 0x100) / 8
    some (s.flash.mapOut.foldl (fun w c => if c.val / 64 = i then w ||| oneBit 64 (c.val % 64) else w) 0)
  else none

/-- STATE of ACZ_LINK_STATUS (R328). -/
def linkStateNo : LinkState → Nat
  | .down => 0
  | .training => 1
  | .up => 2
  | .retraining => 3
  | .lost => 4
  | .refused => 5

/-- The link block (R328). -/
def linkReg (s : State) (n : Nat) : Option Word :=
  if n = 0 then some s.selfReg
  else if h : 0x010 ≤ n ∧ n < 0x070 then
    let k := s.link ⟨(n - 0x010) / 0x10, by omega⟩
    if n % 0x10 = 0 then
      some (place 0 k.lanes ||| place 5 (linkStateNo k.state) ||| place 8 k.peer.toNat ||| place 24 k.loopPs.toNat ||| place 48 k.degrades.toNat)
    else if n % 0x10 = 8 then some (placeBit 1 k.disable) else none
  else none

/-- The ECP port block: LINK, RETRAIN and the secure channel's event registers at the offsets of R349. -/
def portReg (k : Port) (n : Nat) : Option Word :=
  match n with
  | 0x000 => some (place 8 k.link.toNat)
  | 0x008 => some 0
  | 0x028 => some (evtAddrWord k.evtEnable k.evtAddr)
  | 0x030 => some (place 0 k.evtData.toNat)
  | _ => none

/-- The register at an aligned offset of the management window, none for an uncovered offset (R335). -/
def mgmtReg (s : State) (p : PortId) (off : Nat) : Option Word :=
  let n := off % 0x1000
  match off / 0x1000 with
  | 0 => colophonReg s n
  | 1 => platenReg s n
  | 2 => stackMgmtReg s n
  | 3 => linkReg s n
  | 4 => portReg (s.port p) n
  | 8 => mboxReg (s.port p).mbox secureRegs n
  | _ => none

/-! ### Register reads (R11, R286, R340) -/

/-- R286, R340: a register read. A forme's read waits while requests to withdrawn pages are outstanding. -/
def execHostRegisterRead (h : HostReq) (offset : BitVec 20) (size : Nat) (s : State) : Res :=
  .next (match hostTarget s h with
    | .management => answerRead { s with free := s.free + 1 } h (accessOf (mgmtReg s h.port) offset.toNat size) size
    | .forme f =>
      if invalOut (s.port h.port) f then s.modPort h.port (fun k => { k with heldReads := k.heldReads ++ [(f, h, offset, size)] })
      else formeRead s h offset.toNat size
    | .resetting _ | .denied => formeRead s h offset.toNat size
    | .absent => s)

/-! ### Spill withdrawal (R340) -/

/-- A request reaches a page of the forme's spill range that passes a test. -/
def reachesPage (f : FormeId) (hit : Nat → Bool) (r : EcpReq) : Bool := r.page.any (fun p => p.1 == f && hit p.2)

/-- A write of ECP_SPILL_INVAL: entries of the range go, and the copies of their pages with them; reads of such entries are made again, what
reads of the pages bring is not kept, and later register reads wait for the requests already issued under the entries (R340). -/
def spillInval (s : State) (f : FormeId) (v : Word) : State :=
  let first := fld v 31 0
  let count := fld v 63 32
  let hit (page : Nat) : Bool := count = 0 || (first ≤ page && page < first + count)
  let s1 := s.modForme f (fun x =>
    invalidateSpill { x with ecp := { x.ecp with spillMap := x.ecp.spillMap.filter (fun e => !hit e.1) } } ((knownSpill x).filter hit))
  match (s.forme f).cfg with
  | some c => s1.modPort c.port (fun k => { k with
      reqs := k.reqs.map (fun r => match r.use with
        | .spillMap g page => if g == f && hit page then { r with again := true } else r
        | _ => if reachesPage f hit r then { r with keep := false, withdrawn := true } else r) })
  | none => s1

/-- A write of ECP_SPILL_MAP. A map that lies elsewhere from now on has none of its entries here: those held are of the old one, and so are
the copies of pages found through them (R338; log 94). -/
def writeSpillMap (s : State) (f : FormeId) (v : Word) : State :=
  let a : BitVec 40 := (v >>> 12).truncate 40
  let s1 := if a == (s.forme f).ecp.spillAddr then s else spillInval s f 0
  s1.modForme f (fun x => { x with ecp := { x.ecp with spillEn := bitOf v 0, spillAddr := a } })

/-- R340. -/
def execEcpSpillInval (h : HostReq) (value : Word) (s : State) : Res := .next (formeWrite s h (fun f => spillInval s f value))

/-! ### Mailbox writes (R352 to R354) -/

/-- GO: the message is sent; an undefined OPCODE is answered once the receiver has taken it (R353 to R355). -/
def mboxSend (s : State) (c : Chan) : State := (s.modMbox c (fun m => { m with full := true })).rejectUndefined c

/-- ACK: VALID clears, and a response that waits is written; the receiver may then take a message (R352, R353). -/
def mboxFree (s : State) (c : Chan) : State :=
  let m := s.mbox c
  let s1 := s.modMbox c (fun m => { m with valid := false, waiting := m.waiting.tail })
  match m.waiting with
  | r :: _ => (s1.respond c r).rejectUndefined c
  | [] => s1.rejectUndefined c

/-- A write of MBOX_IN_CTRL: with GO, an error while FULL (R353). -/
def writeInCtrl (s : State) (h : HostReq) (c : Chan) (v : Word) : State :=
  if !bitOf v 0 then s else if (s.mbox c).full then s.busError h else mboxSend s c

/-- A write of MBOX_OUT_CTRL: EVT_EN, then ACK (R352). -/
def writeOutCtrl (s : State) (c : Chan) (v : Word) : State :=
  let s1 := s.modMbox c (fun m => { m with evtEn := bitOf v 2 })
  if bitOf v 1 && (s1.mbox c).valid then mboxFree s1 c else s1

/-- A write of a mailbox block's register (R352, R353). -/
def writeMbox (s : State) (h : HostReq) (c : Chan) (regs n : Nat) (v : Word) : State :=
  if n < 0x80 then
    if regs ≤ n / 8 then s
    else if (s.mbox c).full then s.busError h
    else s.modMbox c (fun m => { m with inData := m.inData.setIfInBounds (n / 8) v })
  else if n = 0x80 then writeInCtrl s h c v
  else if n = 0x180 then writeOutCtrl s c v
  else s

/-- R353: GO, on the channel of the window the write came to. -/
def execMboxGo (h : HostReq) (value : Word) (s : State) : Res :=
  .next (match hostTarget s h with
    | .management => writeInCtrl s h (.secure h.port) (value ||| placeBit 0 true)
    | .forme f => writeInCtrl s h (.plain f) (value ||| placeBit 0 true)
    | .denied => s.busError h
    | .resetting _ | .absent => s)

/-- R352: ACK. -/
def execMboxAck (h : HostReq) (value : Word) (s : State) : Res :=
  .next (match hostTarget s h with
    | .management => writeOutCtrl s (.secure h.port) (value ||| placeBit 1 true)
    | .forme f => writeOutCtrl s (.plain f) (value ||| placeBit 1 true)
    | .denied => s.busError h
    | .resetting _ | .absent => s)

/-! ### Register writes (R8, R10) -/

/-- BASE or CPL of a ring: ignored while it is enabled (R244). -/
def writeRingAddr (x : Forme) (r : RingId) (base : Bool) (v : Word) : Forme :=
  let g := x.ring r
  let a := v &&& ~~~ 0xFFF#64
  if g.enable then x else if base then x.setRing r { g with base := a } else x.setRing r { g with cpl := a }

/-- A write of FEED_RING_STATE: BELL_ERR is W1C, then REPLAY (R8, R243). -/
def writeRingState (s : State) (f : FormeId) (r : RingId) (v : Word) : State :=
  let s1 := if bitOf v 8 then s.modRing f r (fun g => { g with bellErr := false }) else s
  if bitOf v 16 then ringReplay s1 f r else s1

/-- A write in the feeder block (R19, R243 to R246). -/
def writeFeeder (s : State) (f : FormeId) (n : Nat) (v : Word) : State :=
  let i := (n - 0x1000) / 0x40
  if h : 0x1000 ≤ n ∧ i < 64 then
    let r : RingId := ⟨i, h.2⟩
    match n % 0x40 with
    | 0x00 => s.modForme f (fun x => writeRingAddr x r true v)
    | 0x08 => s.modForme f (fun x => writeRingAddr x r false v)
    | 0x10 => s.modForme f (fun x => writeRingCfg x r v)
    | 0x18 => s.modForme f (fun x => writeRingTail x r s.time.ticks v)
    | 0x30 => writeRingState s f r v
    | _ => s
  else s

/-- A write in the run scheduler's block (R55, R283). -/
def writeSched (x : Forme) (n : Nat) (v : Word) : Forme :=
  match n with
  | 0x000 => { x with sched := { x.sched with ctxTable := (v >>> 3).truncate 53 } }
  | 0x008 => { x with sched := { x.sched with tuneReg := clampTune v } }
  | 0x010 => { x with sched := { x.sched with mixReg := clampMix v } }
  | 0x200 => { x with mrt := { x.mrt with addr := (v >>> 5).truncate 51 } }
  | 0x208 => { x with mrt := { x.mrt with activate := v } }
  | 0x210 => writeMrtCtrl x v
  | _ => x

/-- A write of MAKEUP_TUNE: each field takes the nearer limit; EXPLICIT_MIB waits for an idle stroke (R134). -/
def writeMakeup (x : Forme) (v : Word) : Forme :=
  { x with makeup := { x.makeup with
      reserve := clampTo 64 1024 (fld v 10 0), runahead := clampTo 1 64 (fld v 22 16), shapeLog := clampTo 0 12 (fld v 28 24),
      explicitMib := clampTo 0 64 (fld v 38 32), explicitDue := true } }

/-- A write in the ECP function block (R349). -/
def writeEcp (s : State) (f : FormeId) (n : Nat) (v : Word) : State :=
  let set (g : EcpFn → EcpFn) : State := s.modForme f (fun x => { x with ecp := g x.ecp })
  match n with
  | 0x008 => if bitOf v 0 then fresetForme s f else s
  | 0x010 => set (fun e => { e with aperture := v.truncate 8 })
  | 0x018 => writeSpillMap s f v
  | 0x020 => spillInval s f v
  | 0x028 => set (fun e => { e with evtEnable := bitOf v 0, evtAddr := (v >>> 2).truncate 50 })
  | 0x030 => set (fun e => { e with evtData := v.truncate 16 })
  | _ => s

/-- A write of a register of a forme's BAR0 (R8, R334). -/
def writeFormeReg (s : State) (h : HostReq) (f : FormeId) (off : Nat) (v : Word) : State :=
  let n := off % 0x1000
  match off / 0x1000 with
  | 0 | 1 => writeFeeder s f off v
  | 2 => s.modForme f (fun x => writeSched x n v)
  | 3 => if n = 0 then s.modForme f (fun x => writeMakeup x v) else s
  | 5 => if n = 0x080 then s.modForme f (fun x => { x with seed := v }) else s
  | 0xC => writeEcp s f n v
  | 0xD => writeMbox s h (.plain f) plainRegs n v
  | _ => s

/-- A port starts training at 16 lanes (R341). -/
def portTrains (s : State) (p : PortId) : State := s.modPort p (fun k => { k with link := 1, goodLanes := 0xFFFF, since := s.time.ticks })

/-- A write in the ECP port block (R349): RETRAIN, and the secure channel's event registers. -/
def writePort (s : State) (p : PortId) (n : Nat) (v : Word) : State :=
  match n with
  | 0x008 => if bitOf v 1 then portTrains s p else s
  | 0x028 => s.modPort p (fun k => { k with evtEnable := bitOf v 0, evtAddr := (v >>> 2).truncate 50 })
  | 0x030 => s.modPort p (fun k => { k with evtData := v.truncate 16 })
  | _ => s

/-- A write in the link block (R328). -/
def writeLinks (s : State) (n : Nat) (v : Word) : State :=
  if n = 0 then writeSelf s v
  else if h : 0x010 ≤ n ∧ n < 0x070 then (if n % 0x10 = 8 then writeLinkCtrl s ⟨(n - 0x010) / 0x10, by omega⟩ v else s)
  else s

/-- A write of a register of the management window (R8, R335). -/
def writeMgmtReg (s : State) (h : HostReq) (off : Nat) (v : Word) : State :=
  let n := off % 0x1000
  match off / 0x1000 with
  | 3 => writeLinks s n v
  | 4 => writePort s h.port n v
  | 8 => writeMbox s h (.secure h.port) secureRegs n v
  | _ => s

/-- A register write under R9 and R11: performed, ignored, or a bus error. -/
def performWrite (s : State) (h : HostReq) (a : Access) (k : State) : State :=
  match a with
  | .reg _ => k
  | .uncovered => s
  | .error => s.busError h

/-- R8: a write of a register or field, in a forme's window or the management window; while a per-function reset runs it is ignored
(R407). -/
def execRegisterWrite (h : HostReq) (offset : BitVec 20) (size : Nat) (value : Word) (s : State) : Res :=
  .next (match hostTarget s h with
    | .management => performWrite s h (accessOf (mgmtReg s h.port) offset.toNat size) (writeMgmtReg s h offset.toNat value)
    | .forme f => performWrite s h (accessOf (formeReg s f) offset.toNat size) (writeFormeReg s h f offset.toNat value)
    | .resetting f => performWrite s h (accessOf (formeReg s f) offset.toNat size) s
    | .denied => s.busError h
    | .absent => s)

/-! ### The memory apertures (R118, R119, R333) -/

/-- Where an access of BAR2 or BAR4 lands, none where it completes with BUS_ERROR (R119, R333): more than 256 bytes, no byte, and
any other aperture are errors too (R344). -/
inductive Aperture where
  | galley (addr : Nat)
  | stack (off : Nat)
  deriving DecidableEq, Repr

/-- R333. -/
def aperture (s : State) (f : FormeId) (bar : Fin 6) (off n : Nat) : Option Aperture :=
  let x := s.forme f
  if n = 0 || 256 < n then none
  else if bar.val = 2 then (if off + n ≤ 2 ^ 35 && s.galleyOk f off n then some (.galley off) else none)
  else if bar.val = 4 then
    let a := x.ecp.aperture.toNat * 2 ^ 32 + off
    if off + n ≤ 2 ^ 32 && x.kStack.isSome && (match x.cfg with | some c => a + n ≤ c.stackGib * 2 ^ 30 | none => false) then some (.stack a) else none
  else none

/-- Send the data of a host read. -/
def sendData (s : State) (h : HostReq) (bs : List Byte) : State := s.ecpOut h.port 2 (dataUnits bs.length) (.hcpl h.port h.fn h.tag .ok bs)

/-- What a host read returns of a range with poisoned lines: their bytes have no value the manual gives (R146, R147; log 52). -/
def poisonedRead (s : State) (f : FormeId) (a n : Nat) : List Byte :=
  ((s.stackRead f a n).getD []).mapIdx (fun i b => if s.stackPoisoned f (a + i) 1 then (Config.freeValue (s.free + i)).truncate 8 else b)

/-- R333: a host read of BAR2 or BAR4. A read of a poisoned line is a detection on the forme's read (R146, R147). -/
def memoryRead (s : State) (h : HostReq) (f : FormeId) (bar : Fin 6) (off n : Nat) : State :=
  match aperture s f bar off n with
  | some (.galley a) => sendData s h (galleyBytes s.galley a n)
  | some (.stack a) =>
    if s.stackPoisoned f a n then sendData { countPoison s f a n with free := s.free + n } h (poisonedRead s f a n)
    else sendData (formeFetch s f .normal false a n) h ((s.stackRead f a n).getD [])
  | none => s.busError h

/-- Pages written through BAR4 are watched (R130); a galley write lands in the explicit region (R118). -/
def memoryWrite (s : State) (h : HostReq) (f : FormeId) (bar : Fin 6) (off : Nat) (data : List Byte) : State :=
  match aperture s f bar off data.length with
  | some (.galley a) => s.galleyWrite a data
  | some (.stack a) => watchedWrite s f a data
  | none => s.busError h

/-- R333. -/
def execHostMemoryRead (h : HostReq) (bar : Fin 6) (offset : BitVec 40) (len : Nat) (s : State) : Res :=
  .next (match hostTarget s h with
    | .forme f => memoryRead s h f bar offset.toNat len
    | .management | .denied | .resetting _ => s.busError h
    | .absent => s)

/-- R333. -/
def execHostMemoryWrite (h : HostReq) (bar : Fin 6) (offset : BitVec 40) (data : List Byte) (s : State) : Res :=
  .next (match hostTarget s h with
    | .forme f => memoryWrite s h f bar offset.toNat data
    | .management | .denied | .resetting _ => s.busError h
    | .absent => s)

end Sys2Proof.Machine
end

