-- ==== Sys2Proof/Machine/Attest.lean ====
section
/-! DEFINITION. Attestation and the quoin lock: reports, the identity certificate, challenges, openings and fuse programming (R358
to R383). -/
namespace Sys2Proof.Machine

/-! ### The secure channel's exchanges (R374, R403) -/

/-- An exchange of the colophon's: one that arrives before READY waits for it (R403). -/
def secureExchange (s : State) (p : PortId) (opcode : Nat) (k : Vector Word 16 → State → State) : State :=
  if s.boot.ready then exchange s (.secure p) opcode k else s

/-- End an exchange: its code is kept in COLO_QUOIN, and the response goes out (R353, R382). -/
def colophonAnswer (s : State) (p : PortId) (opcode : Nat) (tag : BitVec 16) (c : Code) (words : List Word) : State :=
  ({ s with colo := { s.colo with quoinCode := c } }).respond (.secure p) (mkResponse opcode tag c words)

/-- A request block is read through the channel's port; the command brings the answer (R374). -/
def colophonRead (s : State) (p : PortId) (addr : Word) (len : Nat) : State :=
  (s.sendDrd p 16 .colophon false addr len).retireUse .colophon

/-- Bytes are written through the channel's port; the command brings the answer (R370, R374). -/
def colophonWrite (s : State) (p : PortId) (addr : Word) (data : List Byte) : State :=
  (s.sendDwr p 16 .colophon addr data).retireUse .colophon

/-! ### REPORT (R370 to R373, R383) -/

/-- FLAGS of the module section (R371). -/
def reportFlags (s : State) : Nat :=
  (if s.colo.scopes != 0 then 1 else 0) + 2 * s.colo.scopes.toNat + (if s.stack.retired then 16 else 0) +
  (if s.time.state == .locked then 32 else 0) + (if s.colo.reimp.isSome then 64 else 0)

/-- LENGTH of a report (R371). -/
def reportLength (formes : Nat) : Nat := 512 + 1888 * formes + 16 + 3309

/-- The module section (R371). -/
def reportModule (s : State) (nonce : List Word) (formes : Nat) : List Byte :=
  let c := s.colo
  leBytes 4 0x4F4C4F43 ++ leBytes 2 1 ++ leBytes 2 0x2410 ++ leBytes 4 (reportLength formes) ++
  leBytes 1 s.fuses.stepping.toNat ++ leBytes 1 formes ++ leBytes 2 (reportFlags s) ++
  leBytes 8 s.time.stroke.toNat ++ leBytes 8 s.time.ticks.toNat ++ leBytes 32 (identityHash s).toNat ++
  nonce.flatMap (fun w => leBytes 8 w.toNat) ++
  leBytes 4 c.fwSvn.toNat ++ leBytes 4 s.fuses.svnMin ++ leBytes 2 s.fuses.rules.toNat ++ leBytes 2 s.mappedOut ++ leBytes 4 0 ++
  leBytes 32 ((activeSlot s.fuses.signer).getD 0).toNat ++ leBytes 32 ((activeSlot s.fuses.operator).getD 0).toNat ++
  leBytes 8 c.seq.toNat ++ leBytes 2 c.withheld.toNat ++ leBytes 2 c.named.toNat ++ leBytes 4 0 ++ leBytes 64 c.hash.toNat ++
  leBytes 64 s.boot.measLoader.toNat ++ leBytes 64 s.boot.measColophon.toNat ++ leBytes 64 s.boot.measCompositor.toNat ++
  leBytes 64 s.boot.measPlaten.toNat

/-- CORES of a forme's octets: bit n is press core n (R372). -/
def coresMask (octets : Nat) : Nat := sumNat ((List.range 16).map (fun k => if octets / 2 ^ k % 2 = 1 then 255 * 2 ^ (8 * k) else 0))

/-- The IMAGE_ID of a binding in force, zero for an empty one (R372). -/
def reportImage (s : State) (f : FormeId) (b : BindingId) : Nat := match bindingImage s f b with | some i => i.imageId.toNat | none => 0

/-- A forme section (R372), from its records in the committed imposition. -/
def reportForme (s : State) (f : FormeId) (r : FormeRecs) : List Byte :=
  let x := s.forme f
  leBytes 1 f.val ++
  leBytes 1 ((if s.colo.withheld.getLsbD f.val then 1 else 0) + (if bitOf r.stroke 4 then 2 else 0)) ++
  leBytes 2 (fld r.w0 47 32) ++ leBytes 1 (fld r.w0 51 48) ++ leBytes 3 0 ++ leBytes 4 x.epoch.toNat ++
  leBytes 1 (inkedMask x) ++ leBytes 1 (attachedMask x) ++ leBytes 2 0 ++ leBytes 16 (coresMask (fld r.w0 23 8)) ++
  leBytes 2 (sumNat ((recRegions r).map (·.len))) ++ leBytes 2 (fld r.port 31 16) ++ leBytes 1 (fld r.port 5 4) ++
  leBytes 1 (fld r.port 11 8) ++ leBytes 26 0 ++
  fitBytes 1568 (match x.inkKey with | some k => Config.inkEncapsulationKey k | none => []) ++
  (List.finRange 8).flatMap (fun b => leBytes 32 (reportImage s f b))

/-- The formes of a mask that are in the committed imposition, with their records (R370). -/
def reportFormes (s : State) (mask : Nat) : List (FormeId × FormeRecs) :=
  match s.colo.committed with
  | some i => allFormes.filterMap (fun f => if mask / 2 ^ f.val % 2 = 1 then (formeRecs i f.val).map (fun r => (f, r)) else none)
  | none => []

/-- A whole report: sections, signature head and signature (R371 to R373). -/
def reportBytes (s : State) (mask : Nat) (nonce : List Word) : List Byte :=
  let fs := reportFormes s mask
  let body := reportModule s nonce fs.length ++ fs.flatMap (fun p => reportForme s p.1 p.2) ++ leBytes 4 0x47495349 ++ leBytes 2 0x0041 ++ leBytes 10 0
  body ++ identitySign s "KTCOL1" body

/-- The report is written and the exchange answered (R370). -/
def reportAnswer (s : State) (p : PortId) (m : List Word) (writeFault : Option EcpStatus) : State :=
  let bytes := reportBytes s (fld (m.getD 2 0) 15 0) ((m.drop 3).take 4)
  let s1 := colophonWrite s p (m.getD 1 0) bytes
  let tag : BitVec 16 := BitVec.ofNat 16 (fld (m.getD 0 0) 31 16)
  if writeFault.isSome then colophonAnswer s1 p 0x0102 tag 0x1309 []
  else colophonAnswer s1 p 0x0102 tag 0 [BitVec.ofNat 64 bytes.length]

/-- R370: a REPORT: busy while an imposition is being checked (R374), and held to the end of an opening (R383). -/
def execReport (p : PortId) (writeFault : Option EcpStatus) (s : State) : Res :=
  .next (secureExchange s p 0x0102 (fun m t =>
    if t.colo.opening.isSome then { t with colo := { t.colo with heldReports := t.colo.heldReports ++ [(p, m.toList, writeFault)] } }
    else if t.colo.phase = 1 then colophonAnswer t p 0x0102 (msgTag m) 0x1305 []
    else reportAnswer t p m.toList writeFault))

/-! ### IDENTITY (R363, R374) -/

/-- R374. -/
def execIdentity (p : PortId) (writeFault : Option EcpStatus) (s : State) : Res :=
  .next (exchange s (.secure p) 0x0103 (fun m t =>
    if !t.colo.identityUp then colophonAnswer t p 0x0103 (msgTag m) 0x130B []
    else
      let t1 := colophonWrite t p m[1] (identityBytes t)
      colophonAnswer t1 p 0x0103 (msgTag m) (if writeFault.isSome then 0x1309 else 0) []))

/-! ### QUOIN_CHALLENGE (R376) -/

/-- The nonce is consumed. -/
def dropNonce (s : State) : State := { s with colo := { s.colo with nonce := none } }

/-- A fresh nonce replaces any earlier one; without entropy none is issued (R364, R376). -/
def challenge (s : State) (p : PortId) (tag : BitVec 16) (entropyOk : Bool) : State :=
  if entropyOk && !s.colo.mgmtOnly then
    let n := s.draw
    let t := { n.2 with colo := { n.2.colo with nonce := some (n.1, s.time.ticks) } }
    colophonAnswer t p 0x0104 tag 0 ((List.range 4).map (wordOf (Config.entropy n.1)))
  else colophonAnswer (entropyFails s) p 0x0104 tag 0x130A []

/-- R376. -/
def execQuoinChallenge (p : PortId) (entropyOk : Bool) (s : State) : Res :=
  .next (secureExchange s p 0x0104 (fun m t => challenge t p (msgTag m) entropyOk))

/-- R376. -/
def execQuoinNonceExpiry (s : State) : Res := .next (if nonceValid s then s else dropNonce s)

/-! ### QUOIN_OPEN (R377 to R379) -/

/-- An imposition check, a re-imposition or an opening is in progress (R378 check 1). -/
def colophonBusy (s : State) : Bool := s.colo.phase != 0 || s.colo.opening.isSome

/-- The hash of a presented key is that of the active operator slot (R378 check 3). -/
def operatorKey (s : State) (h : BitVec 256) : Bool := activeSlot s.fuses.operator == some h

/-- DEBUG_SCOPES of the committed imposition. -/
def debugScopes (s : State) : BitVec 3 := match s.colo.committed with | some i => i.debugScopes.truncate 3 | none => 0

/-- The checks of R378 in their order: 0 when all pass. -/
def quoinCheck (s : State) (r : QuoinRequest) (scope : BitVec 3) : Code :=
  if colophonBusy s then 0x1305
  else if !nonceValid s then 0x1301
  else if !operatorKey s r.keyHash then 0x1302
  else if !r.sigOk then 0x1303
  else if scope = 0 || scope &&& ~~~ debugScopes s != 0 then 0x1304
  else 0

/-- What an opening leaves of a stopped forme: the registers that its rings, contexts, plans and images do not hold (R379; log 53). -/
def openingForme (x : Forme) : Forme :=
  let r := Forme.reset
  { r with
    slugCode := x.slugCode, replays := x.replays, checkCount := x.checkCount, seed := x.seed, detects := x.detects, leafCode := x.leafCode
    collCode := x.collCode, collCause := x.collCause, collSlot := x.collSlot, authFail := x.authFail, mbox := x.mbox
    makeup := { x.makeup with explicitDue := true, explicitActive := 0, key := none, plan := [], keyMaker := none, staged := [], stale := [], arrived := [], halted := [], digest := 0 }
    sched := { x.sched with stepOn := false, stepEnd := none, replay := [], swap := Swap.reset }
    mrt := { x.mrt with windows := [] }
    inker := { Inker.reset with code := x.inker.code }
    ecp := { x.ecp with phase := 0, totalMib := 0, spillMap := [] } }

/-- The formes that have records in force. -/
def imposedFormes (s : State) : List FormeId := allFormes.filter (fun f => (s.forme f).cfg.isSome)

/-- Steps 1 to 3 of an opening: formes stop with 0x1306, every key but the identity goes, the index empties, and the domains are
powered off (R379, R381). -/
def openingClears (s : State) : State :=
  let s1 := (imposedFormes s).foldl (fun t f => stopForme t f 0x1306) s
  let s2 := (imposedFormes s1).foldl (fun t f => clearForme t f (openingForme (t.forme f))) s1
  { s2.clearGalley allCores with
    index := [], poolQueue := [], orphans := []
    colo := { s2.colo with kHeld := none, kShared := none, kDom := Vector.replicate 16 none } }

/-- GiB the scrub of an opening covers: GiB 0 to 951 and the save area, or everything (R379 step 4, R278). -/
def openingGib (s : State) : Nat := match s.colo.committed with | some i => if i.scrubAll then 1024 else 976 | none => 976

/-- An accepted opening starts, to step 4 (R379). -/
def openingStarts (s : State) (p : PortId) (tag : BitVec 16) (scope : BitVec 3) : State :=
  let s1 := openingClears s
  scrubStarts { s1 with colo := { s1.colo with
    opening := some { scope := scope, port := p, tag := tag, domainsOff := true, offSince := s.time.ticks } } } 3 0 (openingGib s)

/-- The request is in: refused with the code of its first failing check, or the opening starts; the nonce is consumed in every case
(R378). -/
def quoinOpen (s : State) (p : PortId) (m : Vector Word 16) (req : Fetched QuoinRequest) : State :=
  let s1 := colophonRead s p m[1] 5261
  let scope : BitVec 3 := BitVec.ofNat 3 (fld m[2] 2 0)
  match req with
  | .fault _ _ => dropNonce (colophonAnswer s1 p 0x0105 (msgTag m) 0x1102 [])
  | .data r =>
    let c := quoinCheck s1 r scope
    if c = 0 then openingStarts (dropNonce s1) p (msgTag m) scope
    else dropNonce (colophonAnswer s1 p 0x0105 (msgTag m) c [])

/-- R378. -/
def execQuoinOpen (p : PortId) (req : Fetched QuoinRequest) (s : State) : Res :=
  .next (secureExchange s p 0x0105 (fun m t => quoinOpen t p m req))

/-! ### The end of an opening (R379 steps 4 to 6, R383) -/

/-- What the scrub of an opening leaves. -/
def openingScrub (s : State) : State :=
  s.scrubRegions [{ base := 0, len := openingGib s }]

/-- A forme gets its new keys and is imposed but idle (R366, R379 step 5). -/
def openingKeys (s : State) (f : FormeId) : State :=
  match (s.forme f).cfg with
  | some c => (keyForme s f c.domain).modForme f (fun x => { x with live := true, epoch := x.epoch + 1 })
  | none => s

/-- REPORTs that waited are answered (R383). -/
def answerHeld (s : State) : State :=
  s.colo.heldReports.foldl (fun t h => reportAnswer t h.1 h.2.1 h.2.2) { s with colo := { s.colo with heldReports := [] } }

/-- Steps 5 and 6: new keys, and the scope opens; without entropy no key is issued and the scope stays closed (R364, R379). -/
def openingEnds (s : State) (o : Opening) (entropyOk : Bool) : State :=
  let s1 := scrubEnds (openingScrub s)
  let s2 := { s1 with colo := { s1.colo with opening := none } }
  answerHeld (if entropyOk && !s.colo.mgmtOnly then
      let s3 := (imposedFormes s2).foldl openingKeys (keyModule s2)
      colophonAnswer { s3 with colo := { s3.colo with scopes := s3.colo.scopes ||| o.scope } } o.port 0x0105 o.tag 0 []
    else colophonAnswer (entropyFails s2) o.port 0x0105 o.tag 0x130A [])

/-- R379: the scrub is done and the domains are powered again. -/
def execQuoinOpeningDone (entropyOk : Bool) (s : State) : Res :=
  .next (match s.colo.opening with
    | some o => if o.domainsOff then s else openingEnds s o entropyOk
    | none => s)

/-- R380: a QUOIN_CLOSE starts a module reset; there is no response. -/
def execQuoinClose (p : PortId) (s : State) : Res := .next (secureExchange s p 0x0106 (fun _ t => startReset t 2))

/-! ### FUSE_PROGRAM (R359, R360) -/

/-- The next blank slot of a hash field. -/
def blankSlot (v : Vector HashSlot 4) : Nat := v.toList.findIdx (fun k => !k.programmed)

/-- The conditions of R359 on an action. -/
def fuseAllowed (s : State) (r : FuseRequest) : Bool :=
  let n := r.slot.toNat
  match r.field.toNat with
  | 1 => n < 6
  | 2 => s.fuses.svnMin ≤ r.value.toNat && r.value.toNat ≤ 64
  | 3 => n < 4 && n == blankSlot s.fuses.signer
  | 4 => match s.fuses.signer.toList[n]? with | some k => k.programmed | none => false
  | 5 => n < 4 && n == blankSlot s.fuses.operator
  | 6 => n < 4 && (List.finRange 4).any (fun i => i.val != n && s.fuses.operator[i.val].programmed && !s.fuses.operator[i.val].revoked)
  | _ => false

/-- FIELD 0x03 and 0x05 for slot 0 need no signature while operator slot 0 is blank (R359). -/
def fuseUnsigned (s : State) (r : FuseRequest) : Bool :=
  !s.fuses.operator[0].programmed && (r.field == 3 || r.field == 5) && r.slot == 0

/-- The checks on a request in the order of R378: 0 when all pass (R359; log 54). -/
def fuseCheck (s : State) (r : FuseRequest) : Code :=
  if colophonBusy s then 0x1305
  else if !fuseUnsigned s r && !nonceValid s then 0x1301
  else if !fuseUnsigned s r && !operatorKey s r.keyHash then 0x1302
  else if !fuseUnsigned s r && !r.sigOk then 0x1303
  else if !fuseAllowed s r then 0x1307
  else 0

/-- A slot of a hash field is programmed; one that fails is revoked, with what its bits took (R360). -/
def programSlot (v : Vector HashSlot 4) (n : Nat) (value : BitVec 256) (ok : Bool) : Vector HashSlot 4 :=
  v.setIfInBounds n { hash := value, programmed := true, revoked := !ok || (v.toList[n]?.map (·.revoked)).getD false }

/-- A slot's revoke bit is blown. -/
def revokeSlot (v : Vector HashSlot 4) (n : Nat) (ok : Bool) : Vector HashSlot 4 :=
  match v.toList[n]? with
  | some k => v.setIfInBounds n { k with revoked := k.revoked || ok }
  | none => v

/-- The fuses after a blow, `ok` when every bit reads back 1; what a failed one took is a free value (R360). -/
def blowFuses (u : Fuses) (r : FuseRequest) (free : Nat) : Fuses :=
  let n := r.slot.toNat
  let part := (Config.freeValue free ++ Config.freeValue (free + 1) ++ Config.freeValue (free + 2) ++ Config.freeValue (free + 3) : BitVec 256)
  let value := if r.blown then r.value else r.value &&& part
  match r.field.toNat with
  | 1 => if r.blown then { u with rules := u.rules ||| oneBit 6 n } else u
  | 2 => { u with svnMin := if r.blown then r.value.toNat else u.svnMin + (Config.freeValue free).toNat % (max 1 (r.value.toNat - u.svnMin)) }
  | 3 => { u with signer := programSlot u.signer n value r.blown }
  | 4 => { u with signer := revokeSlot u.signer n r.blown }
  | 5 => { u with operator := programSlot u.operator n value r.blown }
  | 6 => { u with operator := revokeSlot u.operator n r.blown }
  | _ => u

/-- The request is in: refused with the code of its first failing check, or blown and read back; the nonce is consumed in every case
(R359, R360). -/
def fuseProgram (s : State) (p : PortId) (m : Vector Word 16) (req : Fetched FuseRequest) : State :=
  let s1 := colophonRead s p m[1] 5309
  match req with
  | .fault _ _ => dropNonce (colophonAnswer s1 p 0x0107 (msgTag m) 0x1102 [])
  | .data r =>
    let c := fuseCheck s1 r
    if c = 0 then
      dropNonce (colophonAnswer { s1 with fuses := blowFuses s1.fuses r s1.free, free := s1.free + 4 } p 0x0107 (msgTag m) (if r.blown then 0 else 0x1308) [])
    else dropNonce (colophonAnswer s1 p 0x0107 (msgTag m) c [])

/-- R359, R360. -/
def execFuseProgram (p : PortId) (req : Fetched FuseRequest) (s : State) : Res :=
  .next (secureExchange s p 0x0107 (fun m t => fuseProgram t p m req))

end Sys2Proof.Machine
end

