-- ==== Sys2Proof/Machine/Pins.lean ====
section
/-! DEFINITION. The management connector: I3C access to the platen block, and the test access port (R375, R420, R423 to R425). -/
namespace Sys2Proof.Machine

/-! ### The mezzanine contacts (R416, R419) -/

/-- The mezzanine and the block k of a host port's lanes, TX or RX. -/
def portBlock (p : PortId) (rx : Bool) : Nat × Nat := (p.val / 2, 2 * (p.val % 2) + rx.toNat)

/-- The mezzanine and the block k of a link's lanes: X+, X−, Z+ on mezzanine 0, Y+, Y−, Z− on mezzanine 1. -/
def linkBlock (l : LinkId) (rx : Bool) : Nat × Nat :=
  match l.val with
  | 0 => (0, 4 + rx.toNat)
  | 1 => (0, 6 + rx.toNat)
  | 2 => (1, 4 + rx.toNat)
  | 3 => (1, 6 + rx.toNat)
  | 4 => (0, 8 + rx.toNat)
  | _ => (1, 8 + rx.toNat)

/-- The column of lane l of block k, and the rows of its P and N contacts. -/
def laneContact (k l : Nat) : Nat × Char × Char := (8 * k + 1 + l % 8, if l < 8 then ('B', 'C') else ('E', 'F'))

/-! ### I3C (R423, R424) -/

/-- The target acknowledges: platen firmware runs, or the boot ROM has halted with BOOT_CODE 0x1501 (R402, R423). -/
def i3cAnswers (s : State) : Bool := s.boot.power != .absent && (s.boot.platenUp || s.boot.code == 0x1501)

/-- R424: two bytes are the offset, low byte first; a longer write is not acknowledged from its third byte and has no effect. -/
def execI3cWriteOffset (bytes : List Byte) (s : State) : Res :=
  .next (if !i3cAnswers s then s.emit .i3cNack
    else match bytes with
      | [lo, hi] => { s with i3c := { s.i3c with offset := some (hi ++ lo) } }
      | _ :: _ :: _ :: _ => s.emit .i3cNack
      | [_] | [] => s)

/-- The byte at an offset of the platen block; offsets beyond 0x130 read zero (R424). -/
def i3cByte (s : State) (a : Nat) : Byte :=
  if a / 8 * 8 ≤ 0x130 then ((((platenReg s (a / 8 * 8)).getD 0) >>> (8 * (a % 8))).truncate 8) else 0

/-- R424: a read from the offset written before it, or from PLATEN_RESET. -/
def execI3cRead (len : Nat) (s : State) : Res :=
  .next (if !i3cAnswers s then s.emit .i3cNack
    else
      let start := match s.i3c.offset with | some a => a.toNat | none => 0x130
      ({ s with i3c := { s.i3c with offset := none } }).emit (.i3c ((List.range len).map (fun i => i3cByte s (start + i)))))

/-- R423: SETDASA or ENTDAA. -/
def execI3cAddressAssign (addr : BitVec 7) (s : State) : Res :=
  .next (if i3cAnswers s then { s with i3c := { s.i3c with addr := some addr } } else s.emit .i3cNack)

/-! ### Test access (R375, R420, R425) -/

/-- The port takes instructions: it has power and COLO_TRST_N is high. -/
def tapOn (s : State) : Bool := s.boot.power != .absent && !s.tap.inReset

/-- Put a new state of the port in force: PLATEN_PWRGD follows when EXTEST starts or stops driving it (R425). -/
def setTap (s : State) (t : Tap) : State :=
  let s1 := { s with tap := t }
  if s1.pinPwrgd == s.pinPwrgd then s1 else s1.emit (.pwrgd s1.pinPwrgd)

/-- BYPASS: one bit that captures 0 (IEEE 1149.1). -/
def tapBypass (s : State) : State := (setTap s { s.tap with ir := 0, bypass := false }).emit (.tdo [false])

/-- R375: BYPASS, or an instruction that is not open. -/
def execTapBypass (_instruction : Nat) (s : State) : Res := .next (if tapOn s then tapBypass s else s)

/-- The identification code: 0x_2410_B87 under STEPPING [3:0] (R425). -/
def idcode (s : State) : BitVec 32 := ((s.fuses.stepping.truncate 4 : BitVec 4) ++ (0x2410B87#28 : BitVec 28))

/-- R425: IDCODE, low bit first. -/
def execTapIdcode (s : State) : Res :=
  .next (if tapOn s then (setTap s { s.tap with ir := 1 }).emit (.tdo ((List.range 32).map (fun i => (idcode s).getLsbD i))) else s)

/-- The observe cells: the reset input and power-good from the state, the levels of the I3C and stroke pins from outside. -/
def observedCells (s : State) : Vector Bool 6 :=
  let v := Config.freeValue s.free
  Vector.mk #[v.getLsbD 0, v.getLsbD 1, s.boot.rstHigh, s.pinPwrgd, v.getLsbD 2, v.getLsbD 3] rfl

/-- The cells after a load: drive cells of the first four signals; the stroke pair has observe cells only (R425). -/
def loadedCells (seen load : Vector Bool 6) : Vector Bool 6 := Vector.mk #[load[0], load[1], load[2], load[3], seen[4], seen[5]] rfl

/-- R375: SAMPLE/PRELOAD. -/
def execTapSamplePreload (load : Vector Bool 6) (s : State) : Res :=
  .next (if tapOn s then
      let seen := observedCells s
      (setTap { s with free := s.free + 1 } { s.tap with ir := 2, cells := loadedCells seen load }).emit (.tapCells seen)
    else s)

/-- R425: EXTEST drives the drive cells and observes the others; nothing inside the module changes. -/
def execTapExtest (s : State) : Res :=
  .next (if tapOn s then
      (setTap { s with free := s.free + 1 } { s.tap with ir := 3 }).emit (.tapCells (loadedCells (observedCells s) s.tap.cells))
    else s)

/-- The scope that opens a private instruction (R375). -/
def tapScope : PrivateTap → Nat
  | .memorySelfTest | .analogueMonitors => 0
  | .compositorDebug _ => 1
  | .pressCoreScan _ => 2

/-- R375: with its scope closed a private instruction acts as BYPASS; with its scope open what it does is not in the manual. -/
def execTapPrivateInstruction (i : PrivateTap) (s : State) : Res :=
  if !tapOn s then .next s
  else if s.colo.scopes.getLsbD (tapScope i) then .refused .privateTapScopeOpen
  else .next (tapBypass s)

/-- R420: COLO_TRST_N low holds the port reset; IDCODE is the instruction a reset selects (IEEE 1149.1). -/
def execTapReset (low : Bool) (s : State) : Res :=
  .next (if low then setTap s { s.tap with inReset := true, ir := 1, bypass := false } else setTap s { s.tap with inReset := false })

end Sys2Proof.Machine
end

