-- ==== Sys2Proof/Machine/Ports.lean ====
section
/-! DEFINITION. Host ports: training and loss, the answers to the module's own requests, invalidations and flits (R128, R253, R338 to
R350). -/
namespace Sys2Proof.Machine

/-! ### Faults on host access (R350) -/

/-- The status of a slug whose access faulted: 0x1105 when its port is down (R350). -/
def slugCodeFor (s : State) (p : PortId) : Code := if (s.port p).link = 0 then 0x1105 else 0x1102

/-- The page of the spill range a device address names. -/
def spillPageOf (a : BitVec 56) : Option Nat := if a.toNat / 2 ^ 52 = 3 then some (a.toNat % 2 ^ 52 / 65536) else none

/-- Slugs that wait for bytes of a spill page. -/
def pageWaiters (x : Forme) (page : Nat) : List Slug :=
  x.slugs.filter (fun sl => sl.state == .running && sl.wait == .remote && sl.asked.any (fun a => spillPageOf a.1 == some page))

/-- A launch's result line is held, and its ring faults (R253). -/
def resultFaulted (s : State) (f : FormeId) (r : RingId) (q : Seq) : State :=
  s.modForme f (fun x =>
    let g := x.ring r
    settleRing (x.setRing r ({ g with heldResults := if g.heldResults.contains q then g.heldResults else g.heldResults ++ [q] }).enterFaulted) r)

/-- A flag write of a passing slug is lost: its launch faults, and no later flag of the slug is written (R288, R350). -/
def flagLost (s : State) (f : FormeId) (t : SlugTag) (c : Code) : State :=
  (s.modForme f (fun x => (modSlug x t (fun z => { z with remoteLost := true })).noteSlugFault t s.time.ticks c)).noteCode f c

/-- A slug's read faults: it fails; of a copy of another forme's leaves, the copy stops at the first run not yet copied (R178, R350; log 89). -/
def slugReadFaults (s : State) (f : FormeId) (t : SlugTag) (c : Code) : State :=
  match findSlug (s.forme f) t with
  | some sl => if sl.wait == .matchCopy then endCopy s f t (match sl.hit with | some h => copyReach s h.1 sl | none => 0) else s.failSlug f t c
  | none => s

/-- The entry of a spill page cannot be read: passes that wait for it land without it, and copies of leaves stop before it (R178, R350). -/
def passEntryFaults (s : State) (f : FormeId) (page : Nat) (c : Code) : State :=
  let passes := (s.forme f).slugs.filter (fun sl =>
    sl.state == .passing && !sl.written && sl.wait != .matchCopy && (passPages (s.forme f) sl).contains page)
  let s1 := passes.foldl (fun t sl => passFaults (landProofs t f sl) f sl.tag (some c)) s
  allFormes.foldl (fun t g => ((t.forme g).slugs.filter (fun sl => sl.state == .passing && sl.wait == .matchCopy &&
      (foreignHit g sl).any (fun h => h.1 == f && (copyDue t f h.2 sl).contains page || g == f && (copyHomes t g h.1 sl).flatten.contains page))).foldl
    (fun u sl => match foreignHit g sl with
      | some h => endCopy u g sl.tag (min (copyReach u h.1 sl) ((copyHomes u g h.1 sl).takeWhile (fun ps => !ps.contains page)).length)
      | none => u) t) s1

/-- A request of the module faults: what its use says follows, and the forme's ECP_FAULT_ADDR keeps it (R240, R253, R260, R350). The
colophon's own requests are answered in their exchanges. -/
def requestFaults (s : State) (p : PortId) (q : EcpReq) (st : EcpStatus) : State :=
  match q.use with
  | .ringEntry f r => entryReadFault s f r st
  | .matterImage f r n => matterReadFault s f r n st q.addr
  | .slugRead f t => slugReadFaults (s.noteFault f q.addr st) f t (slugCodeFor s p)
  | .slugWrite f t => flagLost (s.noteFault f q.addr st) f t (slugCodeFor s p)
  | .sheetWrite f _ => s.noteFault f q.addr st
  | .spillMap f page =>
    let c := if (s.port p).link = 0 then 0x1105 else 0x1101
    passEntryFaults (planEntryFaults ((pageWaiters (s.forme f) page).foldl (fun t sl => t.failSlug f sl.tag c) (s.noteFault f q.addr st)) f page) f page c
  | .sheetRead f _ => s.noteFault f q.addr st
  | .inkHeader f => inkHeaderDone s f (.fault st q.addr)
  | .inkChunk f => inkChunkDone s f (.fault st q.addr)
  | .inkRefetch f b n => refetchDone s f b n (.fault st q.addr)
  | .record f r n => recordFaulted s f r n st
  | .result f r n => resultFaulted (s.noteFault f q.addr st) f r n
  | .imposition => impositionFetched s (.fault st q.addr)
  | .colophon => s

/-- Requests complete one by one with a fault. -/
def allFault (p : PortId) (st : EcpStatus) (s : State) (qs : List EcpReq) : State :=
  qs.foldl (fun t q => requestFaults (t.retire p (fun r => r.tag == q.tag)) p q st) s

/-! ### Answers (R253, R291, R338, R339, R344, R347) -/

/-- One page that a copy of another forme's leaves has asked for has come (R174). -/
def copyHas (s : State) (f : FormeId) (t : SlugTag) (a : BitVec 56) (data : List Byte) : State :=
  s.modForme f (fun x => modSlug x t (fun z => { z with fetched := z.fetched ++ [(a, data)], asked := z.asked.tail }))

/-- The data of a slug's read by address: for an acquire, its flag; otherwise the bytes it asked for, in the order it asked. -/
def slugReadData (s : State) (f : FormeId) (t : SlugTag) (data : List Byte) : State :=
  match findSlug (s.forme f) t with
  | none => s
  | some sl =>
    if sl.wait == .matchCopy then (match sl.asked with | (a, n) :: _ => if data.length = n then copyHas s f t a data else s | [] => s)
    else if (acquireOp (s.forme f) sl).isSome then pollFlag s f t (leWord (data.take 8))
    else match sl.asked with
      | (a, n) :: _ => if data.length = n then slugHas s f t a data else s
      | [] => s

/-- A slug that waits for a spill page goes on with the page's entry: the page is read, or the slug stops (R338, R339). -/
def spillOn (s : State) (f : FormeId) (e : Word) (sl : Slug) : State :=
  match sl.asked with
  | (a, n) :: _ => if bitOf e 0 then s.spillDrd f (.slugRead f sl.tag) false (a.toNat % 2 ^ 40 / 65536) (spillHost e (a.toNat % 65536)) n else s.failSlug f sl.tag 0x1101
  | [] => s

/-- An entry of the spill map has been read: it is kept as a coherent copy, unless its page was invalidated meanwhile (R338, R347). -/
def spillEntryData (s : State) (p : PortId) (q : EcpReq) (f : FormeId) (page : Nat) (e : Word) : State :=
  if q.again then askEntry s f page
  else
    let waiters := pageWaiters (s.forme f) page
    let s1 := if q.keep then
        (s.modForme f (fun x => { x with ecp := { x.ecp with spillMap := x.ecp.spillMap.filter (·.1 != page) ++ [(page, e)] } })).modPort p
          (fun k => let c := (f, BitVec.ofNat 40 (q.addr.toNat / 4096)); { k with copies := k.copies.filter (· != c) ++ [c] })
      else s
    waiters.foldl (fun t sl => spillOn t f e sl) s1

/-- A page of the spill range has come for an engine: it waits there until the engine uses it, unless it was invalidated meanwhile (R131, R347). -/
def pageData (s : State) (f : FormeId) (q : EcpReq) (page : Nat) (data : List Byte) : State :=
  if q.keep && data.length = 65536 then
    s.modForme f (fun x => { x with makeup := { x.makeup with arrived := x.makeup.arrived.filter (·.1 != page) ++ [(page, data)] } })
  else s

/-- The data of a read (R344). What fills an entry, an image, a chunk or an imposition acts with the command that names it. -/
def requestData (s : State) (p : PortId) (q : EcpReq) (data : List Byte) : State :=
  match q.use with
  | .slugRead f t => slugReadData s f t data
  | .spillMap f page => spillEntryData s p q f page (leWord (data.take 8))
  | .sheetRead f page => pageData s f q page data
  | .ringEntry _ _ | .matterImage _ _ _ | .slugWrite _ _ | .sheetWrite _ _ | .inkHeader _ | .inkChunk _ | .inkRefetch _ _ _ | .record _ _ _
  | .result _ _ _ | .imposition | .colophon => s

/-- The module's outstanding request of a tag. -/
def Port.request (k : Port) (tag : BitVec 12) (write : Bool) : Option EcpReq := k.reqs.find? (fun q => q.tag == tag && q.write == write)

/-- R344, R350: a DCPL. -/
def execDcpl (p : PortId) (tag : BitVec 12) (st : EcpStatus) (data : List Byte) (s : State) : Res :=
  .next (match (s.port p).request tag false with
    | some q =>
      if !s.portUp p then s
      else
        let s1 := s.retire p (fun r => r.tag == tag && !r.write)
        releaseHeld (if st == .ok then requestData s1 p q data else requestFaults s1 p q st) p
    | none => s)

/-- A write has reached the coherence point (R253, R345). -/
def writeReached (s : State) (q : EcpReq) : State :=
  match q.use with
  | .record f r n => recordWritten s f r n
  | .result f r n =>
    if ((s.forme f).ring r).heldResults.contains n && !useOut s (.result f r n) then
      replayNext (s.modRing f r (fun g => { g with heldResults := g.heldResults.filter (· != n) })) f r
    else s
  | .ringEntry _ _ | .matterImage _ _ _ | .slugRead _ _ | .slugWrite _ _ | .spillMap _ _ | .sheetRead _ _ | .sheetWrite _ _ | .inkHeader _ | .inkChunk _
  | .inkRefetch _ _ _ | .imposition | .colophon => s

/-- R345, R350: a DACK. -/
def execDack (p : PortId) (tag : BitVec 12) (st : EcpStatus) (s : State) : Res :=
  .next (match (s.port p).request tag true with
    | some q =>
      if !s.portUp p then s
      else
        let s1 := s.retire p (fun r => r.tag == tag && r.write)
        releaseHeld (if st == .ok then writeReached s1 q else requestFaults s1 p q st) p
    | none => s)

/-- R350: a DRD or DRD_S without a DCPL within 100,000 ticks. -/
def execDrdTimeout (p : PortId) (tag : BitVec 12) (s : State) : Res :=
  .next (match (s.port p).request tag false with
    | some q =>
      if 100000 ≤ (s.time.ticks - q.issued).toNat then
        releaseHeld (requestFaults (s.retire p (fun r => r.tag == tag && !r.write)) p q .timeout) p
      else s
    | none => s)

/-! ### Invalidation (R131, R347) -/

/-- A forme's copies of what lies in one 4 KiB host page go: spill-map entries, and galley copies of the spill pages that lie there or whose entry
goes (R131, R347; log 94). -/
def dropHostPage (page : BitVec 40) (x : Forme) : Forme :=
  let entryPage (n : Nat) : Nat := (x.ecp.spillAddr.toNat * 4096 + 8 * n) / 4096
  let inPage (n : Nat) : Bool := match x.ecp.spillMap.find? (·.1 == n) with | some e => fld e.2 51 16 == page.toNat / 16 | none => false
  invalidateSpill { x with ecp := { x.ecp with spillMap := x.ecp.spillMap.filter (fun e => entryPage e.1 != page.toNat) } }
    ((knownSpill x).filter (fun n => inPage n || entryPage n == page.toNat))

/-- Every copy of a host page is dropped, reads of it in flight are not kept, and the page is acknowledged (R347). -/
def snoop (s : State) (p : PortId) (page : BitVec 40) : State :=
  let s1 := s.modPort p (fun k => { k with
    copies := k.copies.filter (·.2 != page), reqs := k.reqs.map (fun r => if r.addr.toNat / 4096 = page.toNat then { r with keep := false } else r) })
  let s2 := s1.mapFormes (fun _ x => if x.cfg.any (·.port == p) then dropHostPage page x else x)
  s2.ecpOut p 3 1 (.snpAck p page)

/-- R347. -/
def execSnpInv (p : PortId) (page : BitVec 40) (s : State) : Res := .next (if s.portUp p then snoop s p page else s)

/-! ### Training and loss (R341, R345, R350) -/

/-- A half of the lanes without a failure: lanes 0 to 7, or 8 to 15. -/
def lowHalf (g : BitVec 16) : Bool := g &&& 0x00FF#16 == 0x00FF#16
/-- As `lowHalf`. -/
def highHalf (g : BitVec 16) : Bool := g &&& 0xFF00#16 == 0xFF00#16

/-- The credit of R345 at link-up, in units of 16 bytes: P 32 KiB, NP 8 KiB, C 64 KiB, S 4 KiB. -/
def ecpCredits : Vector Nat 4 := #v[2048, 512, 4096, 256]

/-- The port is down: every outstanding request completes as TIMEOUT (R350). -/
def portFalls (s : State) (p : PortId) : State :=
  let s1 := s.modPort p (fun k => { k with
    link := 0, since := s.time.ticks, waiting := Vector.replicate 4 0, backlog := 0, unacked := [] })
  releaseHeld (allFault p .timeout s1 (s1.port p).reqs) p

/-- The port comes up: fresh credit, and what is not acknowledged is sent again (R342, R345). -/
def portRises (s : State) (p : PortId) (link : BitVec 3) : State :=
  let s1 := s.modPort p (fun k => pumpPort { k with link := link, credits := ecpCredits, nakSent := false })
  if (s.port p).unacked.isEmpty then s1 else s1.emit (.ecpResend p (s.port p).unacked)

/-- R341: training ends: at 16 lanes, at 8 on the half without a failed lane, or down. -/
def portTrained (s : State) (p : PortId) (good : BitVec 16) : State :=
  let k := s.port p
  let g := k.goodLanes &&& good
  let s1 := s.modPort p (fun k => { k with goodLanes := g })
  if k.link != 1 then s
  else if 20000 < (s.time.ticks - k.since).toNat then portFalls s1 p
  else if g = 0xFFFF#16 then portRises s1 p 2
  else if lowHalf g || highHalf g then portRises s1 p 3
  else portFalls s1 p

/-- R341. -/
def execPortTrainingDone (p : PortId) (goodLanes : BitVec 16) (s : State) : Res := .next (portTrained s p goodLanes)

/-- R341: a port that is down tries again, 1,000,000 ticks after it went down. -/
def execPortTrainRetry (p : PortId) (s : State) : Res :=
  .next (if s.isOn && s.boot.pwrgd && (s.port p).link = 0 && 1000000 ≤ (s.time.ticks - (s.port p).since).toNat then portTrains s p else s)

/-- R350: the port goes down. -/
def execPortDown (p : PortId) (s : State) : Res := .next (if (s.port p).link = 0 then s else portFalls s p)

/-- R341, R349: RETRAIN in the ECP port block. -/
def execPortRetrain (h : HostReq) (value : Word) (s : State) : Res :=
  .next (managementWrite s h (fun p => writePort s p 0x008 (value ||| placeBit 1 true)))

/-- R341: a lane fails in operation: the port trains again on the good half, or is down when both halves hold a failed lane. A failed
lane of the half that is not in use changes nothing else. -/
def laneFails (s : State) (p : PortId) (lane : Fin 16) : State :=
  let k := s.port p
  let g := k.goodLanes &&& ~~~ oneBit 16 lane.val
  let s1 := s.modPort p (fun k => { k with goodLanes := g })
  if !s.portUp p || g = k.goodLanes then s
  else if !lowHalf g && !highHalf g then portFalls s1 p
  else if lowHalf k.goodLanes && highHalf k.goodLanes then s1.modPort p (fun k => { k with link := 1, since := s.time.ticks })
  else s1

/-- R341. -/
def execEcpLaneFailed (p : PortId) (lane : Fin 16) (s : State) : Res := .next (laneFails s p lane)

/-! ### Flits (R308, R342, R345) -/

/-- The flits an ACK covers leave the replay buffer, and credits come back (R308, R342, R345). -/
def ecpReturns (k : Port) (x : EcpFlit) : Port :=
  let n := match k.unacked with | first :: _ => (x.ack - first).toNat | [] => 0
  pumpPort { k with
    unacked := if n ≤ k.unacked.length then k.unacked.drop n else k.unacked
    credits := Vector.zipWith (fun a b => a + b.toNat) k.credits x.credits }

/-- A flit that must be rejected: NAK is sent once, with the SEQ that is expected (R308). -/
def ecpRejects (s : State) (p : PortId) : State :=
  if (s.port p).nakSent then s else (s.modPort p (fun k => { k with nakSent := true })).emit (.ecpNak p (s.port p).rxExpect)

/-- A data flit: accepted in order and acknowledged, or rejected (R308). -/
def ecpDataFlit (s : State) (p : PortId) (x : EcpFlit) : State :=
  if x.seq != (s.port p).rxExpect then ecpRejects s p
  else (s.modPort p (fun k => { k with rxExpect := k.rxExpect + 1, nakSent := false })).emit (.ecpAck p (x.seq + 1))

/-- A flit whose CRC holds: its ACK, credits and NAK act, then its data is accepted (R342). -/
def ecpGoodFlit (s : State) (p : PortId) (x : EcpFlit) : State :=
  let s1 := s.modPort p (fun k => ecpReturns k x)
  let s2 := if x.nak then s1.emit (.ecpResend p (s1.port p).unacked) else s1
  if x.type = 0 then ecpDataFlit s2 p x else s2

/-- R342. -/
def execEcpFlitReceive (p : PortId) (x : EcpFlit) (s : State) : Res :=
  .next (if !s.portUp p then s else if x.crcOk then ecpGoodFlit s p x else ecpRejects s p)

end Sys2Proof.Machine
end

