-- ==== Sys2Proof/Machine/Dispatch.lean ====
section
/-! DEFINITION. One arm for each command of the table: a direct call of its meaning. -/
namespace Sys2Proof.Machine

/-- The effect of a command on everything but the queue. -/
def exec (i : Instr) (s : State) : Host.Outcome State Fault Refusal :=
  match i with
  | .coldReset rstHigh input10mV => Sys2Proof.Machine.execColdReset rstHigh input10mV s
  | .inputPowerLoss input10mV => Sys2Proof.Machine.execInputPowerLoss input10mV s
  | .supplyFault input10mV durationUs => Sys2Proof.Machine.execSupplyFault input10mV durationUs s
  | .supplyFaultRestart input10mV heldMs hottest => Sys2Proof.Machine.execSupplyFaultRestart input10mV heldMs hottest s
  | .platenRstNAssert heldUs => Sys2Proof.Machine.execPlatenRstNAssert heldUs s
  | .platenRstNRelease input10mV heldMs hottest => Sys2Proof.Machine.execPlatenRstNRelease input10mV heldMs hottest s
  | .moduleResetSteps env => Sys2Proof.Machine.execModuleResetSteps env s
  | .bringupScrubDone entropyOk => Sys2Proof.Machine.execBringupScrubDone entropyOk s
  | .thermalSample junctions inlet outlet => Sys2Proof.Machine.execThermalSample junctions inlet outlet s
  | .powerIntervalEnd watts => Sys2Proof.Machine.execPowerIntervalEnd watts s
  | .currentLimitEngage => Sys2Proof.Machine.execCurrentLimitEngage s
  | .domainDischargeDone scope => Sys2Proof.Machine.execDomainDischargeDone scope s
  | .freset h => Sys2Proof.Machine.execFreset h s
  | .functionResetScrubDone f entropyOk => Sys2Proof.Machine.execFunctionResetScrubDone f entropyOk s
  | .impose p => Sys2Proof.Machine.execImpose p s
  | .impositionFetched r => Sys2Proof.Machine.execImpositionFetched r s
  | .reimposeDrainDone => Sys2Proof.Machine.execReimposeDrainDone s
  | .reimposeScrubDone entropyOk => Sys2Proof.Machine.execReimposeScrubDone entropyOk s
  | .reimposeCommit => Sys2Proof.Machine.execReimposeCommit s
  | .strokeEdge => Sys2Proof.Machine.execStrokeEdge s
  | .localCountIncrement => Sys2Proof.Machine.execLocalCountIncrement s
  | .strokeFrame edges phaseNs => Sys2Proof.Machine.execStrokeFrame edges phaseNs s
  | .strokeMark l m phaseNs => Sys2Proof.Machine.execStrokeMark l m phaseNs s
  | .strokeSourceLost => Sys2Proof.Machine.execStrokeSourceLost s
  | .holdoverExpiry => Sys2Proof.Machine.execHoldoverExpiry s
  | .mrtGo h value => Sys2Proof.Machine.execMrtGo h value s
  | .mrtCopyDone f => Sys2Proof.Machine.execMrtCopyDone f s
  | .mrtActivate f => Sys2Proof.Machine.execMrtActivate f s
  | .stepBoundary f => Sys2Proof.Machine.execStepBoundary f s
  | .collectiveWindowOpen f entry => Sys2Proof.Machine.execCollectiveWindowOpen f entry s
  | .collectiveWindowClose f entry => Sys2Proof.Machine.execCollectiveWindowClose f entry s
  | .fillerWindowOpen f entry => Sys2Proof.Machine.execFillerWindowOpen f entry s
  | .fillerWindowEnd f entry => Sys2Proof.Machine.execFillerWindowEnd f entry s
  | .sharePeriodEnd f => Sys2Proof.Machine.execSharePeriodEnd f s
  | .feedRingTail h r value => Sys2Proof.Machine.execFeedRingTail h r value s
  | .ringEnable h r value => Sys2Proof.Machine.execRingEnable h r value s
  | .ringDisable h r value => Sys2Proof.Machine.execRingDisable h r value s
  | .bellErrClear h r => Sys2Proof.Machine.execBellErrClear h r s
  | .replay h r => Sys2Proof.Machine.execReplay h r s
  | .feedEntryFetch f => Sys2Proof.Machine.execFeedEntryFetch f s
  | .entryReadFault f r st => Sys2Proof.Machine.execEntryReadFault f r st s
  | .nop f r e => Sys2Proof.Machine.execNop f r e s
  | .launch f r e => Sys2Proof.Machine.execLaunch f r e s
  | .store f r e => Sys2Proof.Machine.execStore f r e s
  | .patch f r e => Sys2Proof.Machine.execPatch f r e s
  | .free f r e => Sys2Proof.Machine.execFree f r e s
  | .matterImageReadDone f r seq image => Sys2Proof.Machine.execMatterImageReadDone f r seq image s
  | .entryRelease f r => Sys2Proof.Machine.execEntryRelease f r s
  | .launchComplete f r seq => Sys2Proof.Machine.execLaunchComplete f r seq s
  | .recordWriteDone f r seq st => Sys2Proof.Machine.execRecordWriteDone f r seq st s
  | .launchTimeout f r seq => Sys2Proof.Machine.execLaunchTimeout f r seq s
  | .issue f r seq slug consts antecedent => Sys2Proof.Machine.execIssue f r seq slug consts antecedent s
  | .resolve f first cut => Sys2Proof.Machine.execResolve f first cut s
  | .wait f tag => Sys2Proof.Machine.execWait f tag s
  | .proofRead f tag offset => Sys2Proof.Machine.execProofRead f tag offset s
  | .endLaunch f r seq status resultAddr result => Sys2Proof.Machine.execEndLaunch f r seq status resultAddr result s
  | .programException f r seq => Sys2Proof.Machine.execProgramException f r seq s
  | .opComplete f tag committed work => Sys2Proof.Machine.execOpComplete f tag committed work s
  | .detection f tag kind => Sys2Proof.Machine.execDetection f tag kind s
  | .slugPassPoint f tag => Sys2Proof.Machine.execSlugPassPoint f tag s
  | .proofWritesDone f tag => Sys2Proof.Machine.execProofWritesDone f tag s
  | .releaseDrainDone f tag => Sys2Proof.Machine.execReleaseDrainDone f tag s
  | .acquireFlagPoll f tag outside => Sys2Proof.Machine.execAcquireFlagPoll f tag outside s
  | .matchPrompt f tag => Sys2Proof.Machine.execMatchPrompt f tag s
  | .leafCopyDone f tag => Sys2Proof.Machine.execLeafCopyDone f tag s
  | .planComplete f => Sys2Proof.Machine.execPlanComplete f s
  | .runaheadFetchDone f c sheet => Sys2Proof.Machine.execRunaheadFetchDone f c sheet s
  | .explicitRegionApply f => Sys2Proof.Machine.execExplicitRegionApply f s
  | .swapStart f => Sys2Proof.Machine.execSwapStart f s
  | .swapOutCopyDone f c => Sys2Proof.Machine.execSwapOutCopyDone f c s
  | .swapInDone f => Sys2Proof.Machine.execSwapInDone f s
  | .swapSliceDrained f c => Sys2Proof.Machine.execSwapSliceDrained f c s
  | .saveSpaceRetest f => Sys2Proof.Machine.execSaveSpaceRetest f s
  | .channelMapOut ch kind => Sys2Proof.Machine.execChannelMapOut ch kind s
  | .channelCommandTimeout ch consecutive trained => Sys2Proof.Machine.execChannelCommandTimeout ch consecutive trained s
  | .migrationComplete detected => Sys2Proof.Machine.execMigrationComplete detected s
  | .ink f => Sys2Proof.Machine.execInk f s
  | .inkHeaderReadDone f r => Sys2Proof.Machine.execInkHeaderReadDone f r s
  | .inkChunkDone f r => Sys2Proof.Machine.execInkChunkDone f r s
  | .inkCopyComplete f => Sys2Proof.Machine.execInkCopyComplete f s
  | .stopServiceDrained f => Sys2Proof.Machine.execStopServiceDrained f s
  | .attach f => Sys2Proof.Machine.execAttach f s
  | .detach f => Sys2Proof.Machine.execDetach f s
  | .chunkRefetchDone f b chunk r => Sys2Proof.Machine.execChunkRefetchDone f b chunk r s
  | .linkTrainingDone l peer loopPs => Sys2Proof.Machine.execLinkTrainingDone l peer loopPs s
  | .linkTrainRetry l => Sys2Proof.Machine.execLinkTrainRetry l s
  | .retrain h l value => Sys2Proof.Machine.execRetrain h l value s
  | .disable h l value => Sys2Proof.Machine.execDisable h l value s
  | .aczSelf h value => Sys2Proof.Machine.execAczSelf h value s
  | .flitReceive l x => Sys2Proof.Machine.execFlitReceive l x s
  | .laneBad l lane => Sys2Proof.Machine.execLaneBad l lane s
  | .linkLost l => Sys2Proof.Machine.execLinkLost l s
  | .loadReq p => Sys2Proof.Machine.execLoadReq p s
  | .loadResp p => Sys2Proof.Machine.execLoadResp p s
  | .storePacket p => Sys2Proof.Machine.execStorePacket p s
  | .storeAck p => Sys2Proof.Machine.execStoreAck p s
  | .nackRemote p => Sys2Proof.Machine.execNackRemote p s
  | .remoteLoadTimeout f tag => Sys2Proof.Machine.execRemoteLoadTimeout f tag s
  | .collData p => Sys2Proof.Machine.execCollData p s
  | .collectiveStart f tag => Sys2Proof.Machine.execCollectiveStart f tag s
  | .join p => Sys2Proof.Machine.execJoin p s
  | .joinTimeout f slot => Sys2Proof.Machine.execJoinTimeout f slot s
  | .reroute p => Sys2Proof.Machine.execReroute p s
  | .abort p => Sys2Proof.Machine.execAbort p s
  | .collectiveComplete f tag => Sys2Proof.Machine.execCollectiveComplete f tag s
  | .jobOpen f => Sys2Proof.Machine.execJobOpen f s
  | .jobOpenTimeout f slot => Sys2Proof.Machine.execJobOpenTimeout f slot s
  | .jobClose f => Sys2Proof.Machine.execJobClose f s
  | .jkOffer m => Sys2Proof.Machine.execJkOffer m s
  | .jkDeliver m => Sys2Proof.Machine.execJkDeliver m s
  | .jkReject jobId => Sys2Proof.Machine.execJkReject jobId s
  | .portTrainingDone p goodLanes => Sys2Proof.Machine.execPortTrainingDone p goodLanes s
  | .portTrainRetry p => Sys2Proof.Machine.execPortTrainRetry p s
  | .portDown p => Sys2Proof.Machine.execPortDown p s
  | .portRetrain h value => Sys2Proof.Machine.execPortRetrain h value s
  | .hostMemoryRead h bar offset len => Sys2Proof.Machine.execHostMemoryRead h bar offset len s
  | .hostMemoryWrite h bar offset data => Sys2Proof.Machine.execHostMemoryWrite h bar offset data s
  | .registerWrite h offset size value => Sys2Proof.Machine.execRegisterWrite h offset size value s
  | .dcpl p tag st data => Sys2Proof.Machine.execDcpl p tag st data s
  | .dack p tag st => Sys2Proof.Machine.execDack p tag st s
  | .drdTimeout p tag => Sys2Proof.Machine.execDrdTimeout p tag s
  | .snpInv p page => Sys2Proof.Machine.execSnpInv p page s
  | .ecpSpillInval h value => Sys2Proof.Machine.execEcpSpillInval h value s
  | .mboxGo h value => Sys2Proof.Machine.execMboxGo h value s
  | .mboxAck h value => Sys2Proof.Machine.execMboxAck h value s
  | .compositorWake c => Sys2Proof.Machine.execCompositorWake c s
  | .compositorPowerGate c => Sys2Proof.Machine.execCompositorPowerGate c s
  | .report p writeFault => Sys2Proof.Machine.execReport p writeFault s
  | .identity p writeFault => Sys2Proof.Machine.execIdentity p writeFault s
  | .quoinChallenge p entropyOk => Sys2Proof.Machine.execQuoinChallenge p entropyOk s
  | .quoinNonceExpiry => Sys2Proof.Machine.execQuoinNonceExpiry s
  | .quoinOpen p req => Sys2Proof.Machine.execQuoinOpen p req s
  | .quoinOpeningDone entropyOk => Sys2Proof.Machine.execQuoinOpeningDone entropyOk s
  | .quoinClose p => Sys2Proof.Machine.execQuoinClose p s
  | .fuseProgram p req => Sys2Proof.Machine.execFuseProgram p req s
  | .i3cWriteOffset bytes => Sys2Proof.Machine.execI3cWriteOffset bytes s
  | .i3cRead len => Sys2Proof.Machine.execI3cRead len s
  | .i3cAddressAssign addr => Sys2Proof.Machine.execI3cAddressAssign addr s
  | .tapBypass instruction => Sys2Proof.Machine.execTapBypass instruction s
  | .tapIdcode => Sys2Proof.Machine.execTapIdcode s
  | .tapSamplePreload load => Sys2Proof.Machine.execTapSamplePreload load s
  | .tapExtest => Sys2Proof.Machine.execTapExtest s
  | .tapPrivateInstruction op => Sys2Proof.Machine.execTapPrivateInstruction op s
  | .tapReset low => Sys2Proof.Machine.execTapReset low s
  | .cableConnected l => Sys2Proof.Machine.execCableConnected l s
  | .linkTrainingTimeout l => Sys2Proof.Machine.execLinkTrainingTimeout l s
  | .remoteStoreTimeout f tag => Sys2Proof.Machine.execRemoteStoreTimeout f tag s
  | .ecpLaneFailed p lane => Sys2Proof.Machine.execEcpLaneFailed p lane s
  | .ecpFlitReceive p x => Sys2Proof.Machine.execEcpFlitReceive p x s
  | .hostRegisterRead h offset size => Sys2Proof.Machine.execHostRegisterRead h offset size s

end Sys2Proof.Machine
end

