-- ==== Sys2Proof/Machine/Lines.lean ====
section
/-! DEFINITION. What the stacks hold: a line as ciphertext with its checks, at the place that the map-outs leave it, and what a read of it
detects (R137 to R139, R145 to R147, R150, R153). The model keeps plaintext and marks poisoned lines; this file says what that stands for. -/
namespace Sys2Proof.Machine

/-- The forme whose regions hold a line. -/
def lineForme (s : State) (l : Nat) : Option FormeId :=
  allFormes.find? (fun f => match (s.forme f).cfg with
    | some c => c.regions.any (fun r => r.base * 2 ^ 22 ≤ l && l < (r.base + r.len) * 2 ^ 22)
    | none => false)

/-- The forme whose share of the save area holds a line (R278). -/
def shareForme (s : State) (l : Nat) : Option FormeId :=
  allFormes.find? (fun f => match (s.forme f).cfg with
    | some c => (List.range c.blocks).any (fun i => saveAddr c (24576 * i) ≤ 256 * l && 256 * l < saveAddr c (24576 * i) + 24576 * 65536)
    | none => false)

/-- The serial number of the key of a line: its forme's in its regions and its share of the save area, the inker's in the shared area, and the
module's own in the rest of what is held back (R145, R231, R365). -/
def lineKey (s : State) (l : Nat) : Option Nat :=
  if l < Config.usableGib * 2 ^ 22 then (lineForme s l).bind (fun f => (s.forme f).kStack)
  else if 256 * l < sharedBase then (shareForme s l).bind (fun f => (s.forme f).kStack)
  else if 256 * l < sharedBase + 40 * 2 ^ 30 then s.colo.kShared
  else s.colo.kHeld

/-- Nothing has been written to a line since its last scrub. -/
def onlyScrubbed (m : Memory) (l : Nat) : Bool := !m.any (fun c => c.1 / 256 == l)

/-- The 256 bytes a line holds under a key: zeros after a scrub, otherwise the encryption of its plaintext with the number of its home as the
tweak (R145, R153). -/
def lineCipher (m : Memory) (key l : Nat) : List Byte :=
  if onlyScrubbed m l then List.replicate 256 0
  else (List.range 16).flatMap (fun j => xtsEncrypt (xtsKey key).1 (xtsKey key).2 l j (stackBytes m key (256 * l + 16 * j) 16))

/-- The checks that a line's ciphertext gives, one for each of its four sectors (R145). -/
def goodChecks (cipher : List Byte) (l : Nat) : List (BitVec 64) := (List.range 4).map (fun i => sectorCheck ((cipher.drop (64 * i)).take 64) l i)

/-- The checks that lie beside a line, 32 bytes of them: complemented in a poisoned line (R137, R145, R147). -/
def storedChecks (k : Stack) (key l : Nat) : List (BitVec 64) :=
  let cs := goodChecks (lineCipher k.mem key l) l
  if k.isPoisoned l then cs.map (~~~ ·) else cs

/-- A read of a line detects: a stored check is not the one of what was read (R146). -/
def readDetects (k : Stack) (key l : Nat) : Bool := storedChecks k key l != goodChecks (lineCipher k.mem key l) l

/-- Where a line is: its stack, the channel there, and the offset on the channel (R137, R138, R150). -/
def linePlace (s : State) (l : Nat) : (Nat × Nat) × Nat :=
  let h := hostLine s.flash.mapOut l
  (stackOf (channelOf (256 * h)), channelOffset h)

end Sys2Proof.Machine
end

