-- ==== Sys2Proof/WellFormed.lean ====
section
/-! DEFINITION. Which commands can come from outside: the bounds that the buses, pins and formats of the manual put on operands.
A command outside them is no access that a host, a board or a neighbour makes; statements about commands take them as hypotheses
where they need them. -/
namespace Sys2Proof

/-- A byte string lists bytes inside its length, at rising offsets. -/
def Blob.wf (b : Blob) : Bool := b.cells.all (fun c => c.1 < b.length) && decide ((b.cells.map (·.1)).Pairwise (· < ·))

/-- Data that came by a read is well-formed; a fault brings a STATUS other than OK (R343). -/
def Fetched.wf {α : Type} (ok : α → Bool) : Fetched α → Bool
  | .data x => ok x
  | .fault st _ => st != .ok

/-- A ring entry is 256 bytes: 64 of header and 192 of constants (R247). -/
def RingEntry.wf (e : RingEntry) : Bool := e.consts.length == 192

/-- A weight image's header and its leading chunks are well-formed, chunk 0 among them. -/
def InkHeader.wf (h : InkHeader) : Bool := h.blob.wf && h.lead.wf (fun bs => !bs.isEmpty && bs.all (fun b => b.wf && b.length == 1048576))

/-- A stroke of the input pair has a period, and is high for less than it (R42). -/
def PairEdge.wf (e : PairEdge) : Bool := 0 < e.periodPs && 1000 * e.highNs < e.periodPs

/-- A self-test names each failing channel and core once. -/
def BootEnv.wf (e : BootEnv) : Bool := decide e.failingChannels.Nodup && decide e.failingCores.Nodup

/-- A packet carries the body its PTYPE names (R317). -/
def Packet.wf (p : Packet) : Bool :=
  match p.body with
  | .loadReq _ _ _ => p.ptype == 1
  | .loadResp _ _ _ => p.ptype == 2
  | .store _ _ _ | .flagAdd _ _ _ => p.ptype == 3
  | .storeAck _ => p.ptype == 4
  | .collData _ _ _ _ _ _ => p.ptype == 5
  | .join _ _ _ | .reroute _ _ | .abort => p.ptype == 6
  | .job _ _ _ _ => p.ptype == 7
  | .nack _ _ _ => p.ptype == 8

/-- The operands of a command are ones its source can send. -/
def Instr.wf : Instr → Bool
  | .moduleResetSteps e => e.wf
  | .impositionFetched r => r.wf (fun i => i.blob.wf)
  | .strokeFrame edges _ => edges.toList.all (·.wf)
  | .entryReadFault _ _ st => st != .ok
  | .nop _ _ e => e.wf
  | .launch _ _ e => e.wf
  | .store _ _ e => e.wf
  | .patch _ _ e => e.wf
  | .free _ _ e => e.wf
  | .matterImageReadDone _ _ _ r => r.wf Blob.wf
  | .inkHeaderReadDone _ r => r.wf InkHeader.wf
  | .inkChunkDone _ r => r.wf Blob.wf
  | .chunkRefetchDone _ _ _ r => r.wf Blob.wf
  | .flitReceive _ x => x.packets.all Packet.wf
  | .loadReq p => p.wf && p.ptype == 1
  | .loadResp p => p.wf && p.ptype == 2
  | .storePacket p => p.wf && p.ptype == 3
  | .storeAck p => p.wf && p.ptype == 4
  | .nackRemote p => p.wf && p.ptype == 8
  | .collData p => p.wf && p.ptype == 5
  | .join p => p.wf && p.ptype == 6
  | .reroute p => p.wf && p.ptype == 6
  | .abort p => p.wf && p.ptype == 6
  | .hostMemoryRead _ _ _ n => n ≤ 256
  | .hostMemoryWrite _ _ _ data => data.length ≤ 256
  | .dcpl _ _ st data => st == .ok || data.isEmpty
  | .report _ st => st != some .ok
  | .identity _ st => st != some .ok
  | .quoinOpen _ r => r.wf (fun _ => true)
  | .fuseProgram _ r => r.wf (fun _ => true)
  | .coldReset _ _ | .inputPowerLoss _ | .supplyFault _ _ | .supplyFaultRestart _ _ _ | .platenRstNAssert _
  | .platenRstNRelease _ _ _ | .bringupScrubDone _ | .thermalSample _ _ _ | .powerIntervalEnd _ | .currentLimitEngage
  | .domainDischargeDone _ | .freset _ | .functionResetScrubDone _ _ | .impose _ | .reimposeDrainDone | .reimposeScrubDone _
  | .reimposeCommit | .strokeEdge | .localCountIncrement | .strokeMark _ _ _ | .strokeSourceLost | .holdoverExpiry | .mrtGo _ _
  | .mrtCopyDone _ | .mrtActivate _ | .stepBoundary _ | .collectiveWindowOpen _ _ | .collectiveWindowClose _ _
  | .fillerWindowOpen _ _ | .fillerWindowEnd _ _ | .sharePeriodEnd _ | .feedRingTail _ _ _ | .ringEnable _ _ _
  | .ringDisable _ _ _ | .bellErrClear _ _ | .replay _ _ | .feedEntryFetch _ | .entryRelease _ _ | .launchComplete _ _ _
  | .recordWriteDone _ _ _ _ | .launchTimeout _ _ _ | .issue _ _ _ _ _ _ | .resolve _ _ _ | .wait _ _ | .proofRead _ _ _
  | .endLaunch _ _ _ _ _ _ | .programException _ _ _ | .opComplete _ _ _ _ | .detection _ _ _ | .slugPassPoint _ _
  | .proofWritesDone _ _ | .releaseDrainDone _ _ | .acquireFlagPoll _ _ _ | .matchPrompt _ _ | .leafCopyDone _ _
  | .planComplete _ | .runaheadFetchDone _ _ _ | .explicitRegionApply _ | .swapStart _ | .swapOutCopyDone _ _ | .swapInDone _
  | .swapSliceDrained _ _ | .saveSpaceRetest _ | .channelMapOut _ _ | .channelCommandTimeout _ _ _ | .migrationComplete _
  | .ink _ | .inkCopyComplete _ | .stopServiceDrained _ | .attach _ | .detach _ | .linkTrainingDone _ _ _ | .linkTrainRetry _
  | .retrain _ _ _ | .disable _ _ _ | .aczSelf _ _ | .laneBad _ _ | .linkLost _ | .remoteLoadTimeout _ _ | .collectiveStart _ _
  | .joinTimeout _ _ | .collectiveComplete _ _ | .jobOpen _ | .jobOpenTimeout _ _ | .jobClose _ | .jkOffer _ | .jkDeliver _
  | .jkReject _ | .portTrainingDone _ _ | .portTrainRetry _ | .portDown _ | .portRetrain _ _ | .registerWrite _ _ _ _
  | .dack _ _ _ | .drdTimeout _ _ | .snpInv _ _ | .ecpSpillInval _ _ | .mboxGo _ _ | .mboxAck _ _ | .compositorWake _
  | .compositorPowerGate _ | .quoinChallenge _ _ | .quoinNonceExpiry | .quoinOpeningDone _ | .quoinClose _ | .i3cWriteOffset _
  | .i3cRead _ | .i3cAddressAssign _ | .tapBypass _ | .tapIdcode | .tapSamplePreload _ | .tapExtest | .tapPrivateInstruction _
  | .tapReset _ | .cableConnected _ | .linkTrainingTimeout _ | .remoteStoreTimeout _ _ | .ecpLaneFailed _ _ | .ecpFlitReceive _ _
  | .hostRegisterRead _ _ _ => true

end Sys2Proof
end

