-- ==== Sys2Proof/Safety.lean ====
section
/-! DEFINITION. What the statements call safe: a command that completes, a command put at the front of the queue, and the invariant
that every step keeps. -/
namespace Sys2Proof.Machine

/-- The command completes: it answers a next state. -/
def Completes (i : Instr) (s : State) : Prop := ∃ t, exec i s = .next t

/-- The state with a command at the front of its queue. -/
def State.withFront (s : State) (i : Instr) : State := { s with pending := i :: s.pending }

/-! ### What a command may touch -/

/-- Nothing changes but one forme. -/
def OnlyForme (f : FormeId) (s t : State) : Prop := t = s.setForme f (t.forme f)

/-- Nothing changes but one host port, and packets may have left. -/
def OnlyPort (p : PortId) (s t : State) : Prop := t = { s.modPort p (fun _ => t.port p) with out := t.out }

/-- Nothing changes but one Aczia link, and flits may have left. -/
def OnlyLink (l : LinkId) (s t : State) : Prop := t = { s.modLink l (fun _ => t.link l) with out := t.out }

/-- A packet leaves on a port, and nothing else changes. -/
def SentOn (p : PortId) (o : Output) (s t : State) : Prop := OnlyPort p s t ∧ t.out = s.out ++ [o]

/-- A message of an OPCODE waits on a channel whose receiver can take it (R353). -/
abbrev Delivered (s : State) (c : Chan) (opcode : Nat) (m : Vector Word 16) : Prop :=
  (s.mbox c).full = true ∧ s.receiverReady c = true ∧ (s.mbox c).inData = m ∧ msgOpcode m = opcode

/-- A response stands in a channel's outbound direction, or waits for it behind an earlier one (R353). -/
def Answered (c : Chan) (r : Vector Word 16) (s t : State) : Prop :=
  if (s.mbox c).valid = true then (t.mbox c).waiting = (s.mbox c).waiting ++ [r] else (t.mbox c).outData = r ∧ (t.mbox c).valid = true

/-- The exchange of a channel is over: FULL is clear, and it is answered (R353). -/
def RespondedWith (c : Chan) (r : Vector Word 16) (s t : State) : Prop := (t.mbox c).full = false ∧ Answered c r s t

/-- A link is up with nothing waiting and credit for a packet on every channel (R309). -/
abbrev LinkReady (s : State) (l : LinkId) : Prop :=
  (s.link l).state = .up ∧ (s.link l).disable = false ∧ (s.link l).queue = [] ∧ (s.link l).replay = [] ∧
  ∀ i : Fin 8, 16 ≤ (s.link l).credits[i.val]

/-- A link holds no packet, and no forme has a collective in progress. -/
def LinkQuiet (s : State) (l : LinkId) : Prop :=
  (s.link l).queue = [] ∧ (s.link l).replay = [] ∧ ∀ (f : FormeId) (k : JobSlot) (j : Job), (s.forme f).job k = some j → j.coll = none

/-- A packet with a property leaves on a link. -/
def PacketSent (l : LinkId) (P : Packet → Prop) (s t : State) : Prop :=
  ∃ (q : BitVec 12) (p : Packet), P p ∧ Output.flit l q [p] ∈ t.out.drop s.out.length

/-- A packet of an open job reaches this module, its destination, in the order of its source and with its tag good (R316, R318). -/
abbrev InOrder (s : State) (f : FormeId) (k : JobSlot) (j : Job) (p : Packet) : Prop :=
  s.boot.power = .on ∧ p.dst = s.selfModule ∧ jobById s p.jobId = some (f, k, j) ∧ p.tagOk = true ∧
  (jobMembers j).contains p.src = true ∧ p.dseq = (reorderOf j p.src).next ∧ (reorderOf j p.src).window = []

/-- A collective of a slot has faulted: its slug is finally discarded with 0x1001, and the cause is kept (R326, R327). -/
def CollFaulted (f : FormeId) (k : JobSlot) (tag : SlugTag) (cause : BitVec 3) (t : State) : Prop :=
  (∃ j, (t.forme f).job k = some j ∧ j.coll = none) ∧ (t.forme f).collCause = cause ∧ (t.forme f).collSlot.toNat = k.val ∧
  (t.forme f).collCode = 0x1001 ∧ ∃ z, findSlug (t.forme f) tag = some z ∧ z.state = .discarded ∧ z.status = 0x1001

/-- A record's 64 bytes leave for its slot (R242, R251), after whatever event the completion itself raised. -/
def RecordSent (f : FormeId) (r : RingId) (k : Record) (s t : State) : Prop :=
  ∃ (c : FormeCfg) (pre : List Output) (tag : BitVec 12), (s.forme f).cfg = some c ∧
    t.out = s.out ++ pre ++ [.dwr c.port c.fnId tag (recordAddr ((s.forme f).ring r) k.seq) (recordBytes k)]

/-- Memory, the other formes and the count stand. -/
def ElsewhereKept (f : FormeId) (s t : State) : Prop :=
  (∀ g : FormeId, g ≠ f → t.forme g = s.forme g) ∧ t.stack = s.stack ∧ t.galley = s.galley ∧ t.time = s.time ∧ t.boot = s.boot ∧
  t.fuses = s.fuses ∧ t.flash = s.flash ∧ t.colo = s.colo ∧ t.links = s.links

/-- The slug of a tag, and the only one: an ISSUE gives a tag no other slug of the forme then holds (R183). -/
abbrev SoleSlug (s : State) (f : FormeId) (t : SlugTag) (sl : Slug) : Prop := (s.forme f).slugs.filter (fun d => d.tag == t) = [sl]

/-- The op a slug stands at finds all it reads at hand (R126, R130, R147, R267, R338): its snapshots are taken and the chunks it reads are
noted, which gives the slug it then runs with, and the lines it reads are demanded, which gives the state. -/
structure AtHand (s : State) (f : FormeId) (sl : Slug) (v : Version) (o : OpRec) (work : Option FinWork) (s1 : State) (z : Slug) : Prop where
  version  : slugVersion (s.forme f) sl = some v
  fetched  : awaitsFetch s f sl (opInput o work) = false
  resident : ∀ c : Context, findCtx (s.forme f) sl.ctx = some c → c.state = .resident
  spill    : spillNeeds s f sl (opInput o work) (opWrites o) = .ok ()
  clean    : poisonHit s f sl (opInput o work) = none
  slug     : z = noteWeights s f v (opInput o work) (snapOperands s f sl o)
  state    : s1 = (demandReads s f sl (opInput o work)).modForme f (fun x => modSlug x sl.tag (fun y => { y with snaps := z.snaps, reads := z.reads }))

/-! ### What no command undoes -/

/-- A slot of a hash field goes only from blank to programmed and from unrevoked to revoked, and a programmed slot keeps its value
(R358, R359). -/
def SlotGrows (a b : HashSlot) : Prop :=
  (a.programmed = true → b.programmed = true ∧ b.hash = a.hash) ∧ (a.revoked = true → b.revoked = true)

/-- Fuses change only by blowing (R358). -/
structure FusesGrow (a b : Fuses) : Prop where
  stepping : b.stepping = a.stepping
  rules    : ∀ n, a.rules.getLsbD n = true → b.rules.getLsbD n = true
  svnMin   : a.svnMin ≤ b.svnMin
  signer   : ∀ (n : Nat) (h : n < 4), SlotGrows a.signer[n] b.signer[n]
  operator : ∀ (n : Nat) (h : n < 4), SlotGrows a.operator[n] b.operator[n]

/-- The memories are in their canonical form: an unlisted byte of stack memory is one that has only been scrubbed, and one of galley
is zero (R153, R382). -/
abbrev MemoryOk (s : State) : Prop := Memory.wf none s.stack.mem = true ∧ Memory.wf galleyDefault s.galley = true

/-- What every command keeps: its queue, blown fuses, the serial numbers of keys and nonces already drawn, what has left the module,
and the canonical form of its memories. -/
structure Keeps (s t : State) : Prop where
  pending : t.pending = s.pending
  fuses   : FusesGrow s.fuses t.fuses
  draws   : s.draws ≤ t.draws
  out     : ∃ new, t.out = s.out ++ new
  memory  : MemoryOk s → MemoryOk t

end Sys2Proof.Machine
end

