-- ==== Sys2Proof/Certificates/Slice0/Obligations.lean ====
section
/-! DEFINITION. What is claimed of the module: one proposition for each statement, for the provers. -/
open Sys2Proof Sys2Proof.Machine

/-! ### The block -/

/-- A step takes the command at the front of the queue and is that command on the state with the queue's rest; with nothing
waiting it changes nothing (the model's choice, log 1). -/
def Obligations.StepRunsFrontCommand : Prop :=
  (∀ (i : Instr) (s : State), step (s.withFront i) = exec i s) ∧
  (∀ s : State, s.pending = [] → step s = .next s)

/-- What a cold reset leaves, by the values the spec gives: the strobe of R40 and R57, R134, R283, R410, R20, R355, R328. -/
def Obligations.ResetValues : Prop :=
  State.reset.time.stroke = 0 ∧ State.reset.time.ticks = 0 ∧ State.reset.time.localCount = 0 ∧
  State.reset.time.state = .unlocked ∧ State.reset.time.active = 7 ∧
  State.reset.boot.phase = 1 ∧ State.reset.boot.cause = 0 ∧ State.reset.boot.code = 0 ∧ State.reset.boot.ready = false ∧
  State.reset.platen.trip = 0 ∧ State.reset.selfReg = 0 ∧ State.reset.colo.scopes = 0 ∧
  (∀ p : PortId, (State.reset.port p).link = 0 ∧ (State.reset.port p).mbox.full = false ∧ (State.reset.port p).mbox.valid = false) ∧
  (∀ f : FormeId,
    (State.reset.forme f).geoGen = 1 ∧ (State.reset.forme f).seed = 0 ∧
    (State.reset.forme f).makeup.reserve = 256 ∧ (State.reset.forme f).makeup.runahead = 8 ∧
    (State.reset.forme f).makeup.shapeLog = 6 ∧ (State.reset.forme f).makeup.explicitMib = 0 ∧
    schedReg (State.reset.forme f) 0x008 = some 0x0003E80003E80040 ∧
    schedReg (State.reset.forme f) 0x010 = some 0x0000000810000409 ∧
    (∀ r : RingId, ((State.reset.forme f).ring r).state = 0 ∧ ((State.reset.forme f).ring r).enable = false))

/-- The memories of the state after a reset are in their canonical form. -/
def Obligations.ResetMemoryCanonical : Prop := MemoryOk State.reset

/-- Every step keeps both memories in their canonical form. Choices of the model it rests on: log 19. -/
def Obligations.StepKeepsMemoryCanonical : Prop :=
  ∀ s t : State, step s = .next t → MemoryOk s → MemoryOk t

/-- No command takes a blown fuse back: R358's rule bits and slots only go one way, the hash of a programmed slot stays, and
FR_SVN_MIN never falls. -/
def Obligations.FusesOnlyBlow : Prop :=
  ∀ (i : Instr) (s t : State), exec i s = .next t → FusesGrow s.fuses t.fuses

/-- No command touches the queue, takes back a packet that has left, or issues a key's serial number a second time. Choices of the model it rests on: log 7. -/
def Obligations.OutputsAndDrawsOnlyGrow : Prop :=
  ∀ (i : Instr) (s t : State), exec i s = .next t →
    t.pending = s.pending ∧ s.draws ≤ t.draws ∧ ∃ new, t.out = s.out ++ new

/-! ### Resets and supply -/

/-- COLD_RESET on a part whose always-on rail rises for the first time, and INPUT_POWER_LOSS. A copy of platen firmware that is
accepted runs, and the module-reset steps follow when the input is in range and the reset input is high; with no copy the boot
stops with 0x1501 (R398, R401, R402). The loss of input power takes everything but fuses and boot flash (R386, R397). Choices of the model it rests on: log 4. -/
def Obligations.ColdResetRuns : Prop :=
  (∀ (s : State) (hi : Bool) (v : BitVec 16) (c : FwCopy) (b : Bool),
    s.boot.power = .standby ∨ s.boot.power = .absent → s.boot.platenUp = false → s.boot.code = 0 → 2000 < v.toNat →
    acceptFw s s.flash.platen = some (c, b) →
    ∃ t, exec (.coldReset hi v) s = .next t ∧
      t.boot.platenUp = true ∧ t.boot.cause = 0 ∧ t.boot.measPlaten = c.measure ∧ t.boot.rstHigh = hi ∧
      (if 4800 ≤ v.toNat ∧ v.toNat ≤ 5800 ∧ hi = true then t.boot.power = .on ∧ t.boot.phase = 2
        else t.boot.power = .standby ∧ t.boot.phase = 1) ∧
      t.fuses = s.fuses ∧ t.flash = s.flash ∧ t.platen.trip = 0 ∧ t.platen.input10mV = v ∧
      t.time = TimeBase.reset ∧ t.formes = State.reset.formes ∧ t.colo = Colophon.reset ∧ t.stack.mem = [] ∧ t.galley = []) ∧
  (∀ (s : State) (hi : Bool) (v : BitVec 16),
    s.boot.power = .standby ∨ s.boot.power = .absent → s.boot.platenUp = false → s.boot.code = 0 → 2000 < v.toNat →
    acceptFw s s.flash.platen = none →
    ∃ t, exec (.coldReset hi v) s = .next t ∧ t.boot.phase = 8 ∧ t.boot.code = 0x1501 ∧ t.boot.platenUp = false) ∧
  (∀ (s : State) (v : BitVec 16), v.toNat ≤ 2000 →
    ∃ t, exec (.inputPowerLoss v) s = .next t ∧
      t.boot.power = .absent ∧ t.boot.platenUp = false ∧ t.boot.pwrgd = false ∧
      t.fuses = s.fuses ∧ t.flash = s.flash ∧ t.platen = Platen.reset ∧ t.time = TimeBase.reset ∧
      t.formes = State.reset.formes ∧ t.colo = Colophon.reset ∧ t.stack = Stack.reset ∧ t.galley = [])

/-- SUPPLY_FAULT and SUPPLY_FAULT_RESTART: below 46.0 V for 10 µs, or above 60.0 V, platen removes power from every domain but
always-on; the keys and galley go, PLATEN_TRIP reads 0x1402 (R386). The module restarts with CAUSE 3 once the input has been in
range for 100 ms (R399). A dip that is no fault is only measured.
PLATEN_RST_N_ASSERT and PLATEN_RST_N_RELEASE: an assertion of 100 µs or more removes power and power-good falls, a shorter one
changes nothing; the release starts the module-reset steps with CAUSE 1 (R399, R406, R410). Choices of the model it rests on: log 68. -/
def Obligations.SupplyAndResetInput : Prop :=
  (∀ (s : State) (v : BitVec 16) (us : Nat), s.boot.platenUp = true → 2000 < v.toNat →
    (v.toNat < 4600 ∧ 10 ≤ us) ∨ 6000 < v.toNat →
    s.boot.power = .on ∨ s.boot.power = .resetHeld ∨ s.boot.power = .standby →
    ∃ t, exec (.supplyFault v us) s = .next t ∧
      t.boot.power = .supplyFault ∧ t.boot.pwrgd = false ∧ t.boot.platenUp = true ∧ t.boot.phase = 2 ∧
      t.platen.trip = 0x1402 ∧ t.platen.input10mV = v ∧ t.platen.thermal = s.platen.thermal ∧
      t.fuses = s.fuses ∧ t.flash = s.flash ∧ t.formes = State.reset.formes ∧ t.colo = Colophon.reset ∧
      t.stack = Stack.reset ∧ t.galley = [] ∧ t.time = TimeBase.reset) ∧
  (∀ (s : State) (v : BitVec 16) (us : Nat), s.boot.platenUp = true → 2000 < v.toNat →
    4600 ≤ v.toNat ∨ us < 10 → v.toNat ≤ 6000 →
    ∃ t, exec (.supplyFault v us) s = .next t ∧ t = { s with platen := t.platen } ∧
      t.platen.input10mV = v ∧ t.platen.low = (s.platen.low || decide (v.toNat < 4800)) ∧ t.platen.trip = s.platen.trip) ∧
  (∀ (s : State) (v : BitVec 16) (ms hottest : Nat), s.boot.power = .supplyFault → s.boot.rstHigh = true →
    4800 ≤ v.toNat → v.toNat ≤ 5800 → 100 ≤ ms →
    ∃ t, exec (.supplyFaultRestart v ms hottest) s = .next t ∧
      t.boot.power = .on ∧ t.boot.phase = 2 ∧ t.boot.cause = 3 ∧ t.boot.resets = satInc s.boot.resets ∧
      t.platen.trip = s.platen.trip ∧ t.platen.input10mV = v ∧ t.fuses = s.fuses ∧ t.flash = s.flash) ∧
  (∀ (s : State) (us : Nat), s.boot.platenUp = true → 100 ≤ us → s.boot.power = .on →
    ∃ t, exec (.platenRstNAssert us) s = .next t ∧
      t.boot.power = .resetHeld ∧ t.boot.rstHigh = false ∧ t.boot.pwrgd = false ∧ t.boot.phase = 2 ∧ t.boot.ready = false ∧
      t.fuses = s.fuses ∧ t.flash = s.flash ∧ t.platen.trip = s.platen.trip ∧ t.formes = State.reset.formes ∧
      t.colo = Colophon.reset ∧ t.stack = Stack.reset ∧ t.galley = [] ∧ t.time = TimeBase.reset) ∧
  (∀ (s : State) (us : Nat), us < 100 → exec (.platenRstNAssert us) s = .next s) ∧
  (∀ (s : State) (v : BitVec 16) (ms hottest : Nat), s.boot.platenUp = true → s.boot.rstHigh = false → s.boot.power = .resetHeld →
    ∃ t, exec (.platenRstNRelease v ms hottest) s = .next t ∧
      t.boot.power = .on ∧ t.boot.rstHigh = true ∧ t.boot.phase = 2 ∧ t.boot.cause = 1 ∧ t.boot.resets = satInc s.boot.resets ∧
      t.fuses = s.fuses ∧ t.flash = s.flash ∧ t.platen.trip = s.platen.trip)

/-- MODULE_RESET_STEPS: with a good copy of each image the rails rise, PLATEN_PWRGD asserts, the measurements are kept, the ports
train and the bring-up scrub starts (R398, R401); without a loader or a colophon copy the boot stops, and without compositor
firmware it goes on for management only (R402).
BRINGUP_SCRUB_DONE with no imposition in the journal: READY, stack memory scrubbed and free of poison, and the module's two
keys drawn, or none without entropy (R153, R364, R365, R404). Choices of the model it rests on: log 11, 68. -/
def Obligations.BootSteps : Prop :=
  (∀ (s : State) (env : BootEnv) (l c k : FwCopy) (lb cb kb : Bool), s.boot.power = .on → s.boot.phase = 2 →
    acceptFw s s.flash.loader = some (l, lb) → acceptFw s s.flash.colophon = some (c, cb) →
    acceptFw s s.flash.compositor = some (k, kb) →
    ∃ t, exec (.moduleResetSteps env) s = .next t ∧
      t.boot.phase = 6 ∧ t.boot.pwrgd = true ∧ t.boot.code = s.boot.code ∧
      t.boot.measLoader = l.measure ∧ t.boot.measColophon = c.measure ∧ t.boot.measCompositor = k.measure ∧
      t.colo.fwSvn = c.svn ∧ t.colo.identityUp = (s.flash.certKeyOk && s.flash.certSigOk) ∧
      (∀ p : PortId, (t.port p).link = 1 ∧ (t.port p).since = s.time.ticks) ∧
      (∀ i : CoreId, (t.core i).working = !env.failingCores.contains i) ∧
      t.stack.retired = decide (33 ≤ t.flash.mapOut.length) ∧ t.fuses = s.fuses ∧ t.formes = s.formes) ∧
  (∀ (s : State) (env : BootEnv), s.boot.power = .on → s.boot.phase = 2 → acceptFw s s.flash.loader = none →
    ∃ t, exec (.moduleResetSteps env) s = .next t ∧ t = { s with boot := t.boot } ∧ t.boot.phase = 8 ∧ t.boot.code = 0x1502) ∧
  (∀ (s : State) (env : BootEnv) (l : FwCopy) (lb : Bool), s.boot.power = .on → s.boot.phase = 2 →
    acceptFw s s.flash.loader = some (l, lb) → acceptFw s s.flash.colophon = none →
    ∃ t, exec (.moduleResetSteps env) s = .next t ∧ t.boot.phase = 8 ∧ t.boot.code = 0x1503) ∧
  (∀ (s : State) (env : BootEnv) (l c : FwCopy) (lb cb : Bool), s.boot.power = .on → s.boot.phase = 2 →
    acceptFw s s.flash.loader = some (l, lb) → acceptFw s s.flash.colophon = some (c, cb) →
    acceptFw s s.flash.compositor = none →
    ∃ t, exec (.moduleResetSteps env) s = .next t ∧ t.boot.phase = 6 ∧ t.boot.code = 0x1504 ∧ t.boot.pwrgd = true) ∧
  (∀ (s : State) (ok : Bool), s.boot.power = .on → s.boot.phase = 6 → standingRecord s = none → s.stack.retired = false →
    s.boot.code ≠ 0x1504 →
    ∃ t, exec (.bringupScrubDone ok) s = .next t ∧
      t.boot = { s.boot with phase := 0, ready := true } ∧ t.stack.mem = [] ∧ t.stack.poisoned = [] ∧ t.stack.poisonSets = [] ∧
      t.colo.scrub.active = false ∧ t.fuses = s.fuses ∧ t.flash = s.flash ∧ t.formes = s.formes ∧ t.time = s.time ∧
      (if ok = true ∧ s.colo.mgmtOnly = false
        then t.colo.kHeld = some s.draws ∧ t.colo.kShared = some (s.draws + 1) ∧ t.draws = s.draws + 2 ∧ t.colo.mgmtOnly = false
        else t.colo.kHeld = s.colo.kHeld ∧ t.draws = s.draws ∧ t.colo.mgmtOnly = true))

/-- THERMAL_SAMPLE: every 1,000 ticks the readings are kept and the thermal state follows the hottest junction (R393): NORMAL when
no junction is above 88 °C, WARM from 90 °C, HOLD when a die is at 95 °C, and at 105 °C a trip removes power with 0x1401.
POWER_INTERVAL_END and CURRENT_LIMIT_ENGAGE: an interval of 1,000 ticks closes every forme's open bucket into its account and
keeps the measured power (R388, R396); an engaged limit sets LIMIT and is counted (R390). Nothing else of the module changes. Choices of the model it rests on: log 15, 47, 61. -/
def Obligations.ThermalAndEnergy : Prop :=
  (∀ (s : State) (js : Vector (BitVec 8) 10) (i o : BitVec 8), s.boot.platenUp = true → s.time.ticks.toNat % 1000 = 0 →
    (∀ k : Fin 10, js[k.val].toNat < 105) →
    ∃ t, exec (.thermalSample js i o) s = .next t ∧ t = { s with platen := t.platen } ∧
      t.platen.junctions = js ∧ t.platen.inlet = i ∧ t.platen.outlet = o ∧
      (s.platen.thermal = .trip → t.platen.thermal = .trip) ∧
      (s.platen.thermal ≠ .trip → (∀ k : Fin 10, js[k.val].toNat ≤ 88) → t.platen.thermal = .normal ∧ t.platen.hot = 0) ∧
      (s.platen.thermal ≠ .trip → (∀ k : Fin 10, js[k.val].toNat < 95 ∧ s.platen.hot.getLsbD k.val = false) →
        (∃ k : Fin 10, 90 ≤ js[k.val].toNat) → t.platen.thermal = .warm) ∧
      (s.platen.thermal ≠ .trip → (∃ k : Fin 10, 95 ≤ js[k.val].toNat) → t.platen.thermal = .hold) ∧
      (∀ k : Fin 10, 95 ≤ js[k.val].toNat → t.platen.hot.getLsbD k.val = true)) ∧
  (∀ (s : State) (js : Vector (BitVec 8) 10) (i o : BitVec 8), s.boot.platenUp = true → s.time.ticks.toNat % 1000 = 0 →
    s.boot.power = .on → (∃ k : Fin 10, 105 ≤ js[k.val].toNat) →
    ∃ t, exec (.thermalSample js i o) s = .next t ∧
      t.boot.power = .tripped ∧ t.boot.pwrgd = false ∧ t.platen.trip = 0x1401 ∧ t.platen.thermal = .trip ∧ t.platen.junctions = js ∧
      t.fuses = s.fuses ∧ t.flash = s.flash ∧ t.formes = State.reset.formes ∧ t.colo = Colophon.reset ∧ t.galley = []) ∧
  (∀ (s : State) (w : BitVec 16), s.boot.power = .on → s.time.ticks.toNat % 1000 = 0 → s.time.ticks ≠ s.platen.lastClose →
    ∃ t, exec (.powerIntervalEnd w) s = .next t ∧ t = { s with platen := t.platen } ∧
      t.platen.lastMs = w ∧ t.platen.lastClose = s.time.ticks ∧ t.platen.measured = (w.toNat :: s.platen.measured).take 4000 ∧
      (∀ f : FormeId, (t.platen.account[f.val]).current = 0 ∧
        (t.platen.account[f.val]).buckets = ((s.platen.account[f.val]).current :: (s.platen.account[f.val]).buckets).take 4000 ∧
        (t.platen.account[f.val]).held = (s.platen.account[f.val]).held)) ∧
  (∀ s : State, s.boot.power = .on →
    ∃ t, exec .currentLimitEngage s = .next t ∧ t = { s with platen := t.platen } ∧ t.platen.limit = true ∧
      t.platen.limits = (if s.platen.limit then s.platen.limits else satInc s.platen.limits))

/-- FRESET, DOMAIN_DISCHARGE_DONE and FUNCTION_RESET_SCRUB_DONE: the forme's keys go and its domains are held off for 100 strokes
before they are powered again; when the scrub is done its stack space and its share of the save area list nothing, new keys are drawn,
KEY_EPOCH is one more and PHASE reads 0; without entropy no key is issued and PHASE reads 5 (R364, R366, R381, R382, R407, R408). Choices of the model it rests on: log 11, 64. -/
def Obligations.FunctionReset : Prop :=
  (∀ (s : State) (h : HostReq) (f : FormeId) (c : FormeCfg), hostTarget s h = .forme f → (s.forme f).cfg = some c →
    s.colo.opening = none → s.colo.reimp = none →
    ∃ t, exec (.freset h) s = .next t ∧
      (t.forme f).kStack = none ∧ (t.forme f).inkKey = none ∧ (t.forme f).live = false ∧ (t.forme f).domainsOff = true ∧
      (t.forme f).ecp.phase = 3 ∧ (t.forme f).ecp.totalMib = BitVec.ofNat 32 (ceilDiv (scrubBytes c) (2 ^ 20)) ∧
      (t.forme f).rings = Vector.replicate 64 Ring.reset ∧ (t.forme f).slugs = [] ∧ (t.forme f).launches = [] ∧
      t.colo.scrub.active = true ∧ t.colo.scrub.cause = 1) ∧
  (∀ (s : State) (f : FormeId), (s.forme f).domainsOff = true → 100 ≤ (s.time.ticks - (s.forme f).offSince).toNat →
    ∃ t, exec (.domainDischargeDone (.forme f)) s = .next t ∧ OnlyForme f s t ∧ (t.forme f).domainsOff = false ∧
      (t.forme f).ecp.phase = (if (s.forme f).ecp.phase = 3 then 4 else (s.forme f).ecp.phase)) ∧
  (∀ (s : State) (o : Opening), s.colo.opening = some o → o.domainsOff = true → 100 ≤ (s.time.ticks - o.offSince).toNat →
    ∃ t, exec (.domainDischargeDone .quoin) s = .next t ∧ t.colo.opening = some { o with domainsOff := false } ∧
      ∀ f : FormeId, (t.forme f).domainsOff = false) ∧
  (∀ (s : State) (f : FormeId) (c : FormeCfg), (s.forme f).cfg = some c → (s.forme f).ecp.phase = 4 → s.colo.mgmtOnly = false →
    ∃ t, exec (.functionResetScrubDone f true) s = .next t ∧
      (t.forme f).kStack = some s.draws ∧ (t.forme f).inkKey = some (s.draws + 1) ∧ (t.forme f).live = true ∧
      (t.forme f).epoch = (s.forme f).epoch + 1 ∧ (t.forme f).ecp.phase = 0 ∧
      (∀ r ∈ c.regions, ∀ a, r.base * 2 ^ 30 ≤ a → a < (r.base + r.len) * 2 ^ 30 → memGet t.stack.mem a = none) ∧
      (∀ i < c.blocks, ∀ a, saveAddr c (24576 * i) ≤ a → a < saveAddr c (24576 * i) + 3 * 2 ^ 29 → memGet t.stack.mem a = none) ∧
      (∀ a, (∀ r ∈ c.regions, a < r.base * 2 ^ 30 ∨ (r.base + r.len) * 2 ^ 30 ≤ a) →
        (∀ i < c.blocks, a < saveAddr c (24576 * i) ∨ saveAddr c (24576 * i) + 3 * 2 ^ 29 ≤ a) →
        memGet t.stack.mem a = memGet s.stack.mem a) ∧
      (∀ g : FormeId, g ≠ f → t.forme g = s.forme g) ∧ t.fuses = s.fuses ∧ t.flash = s.flash ∧ t.time = s.time) ∧
  (∀ (s : State) (f : FormeId) (c : FormeCfg), (s.forme f).cfg = some c → (s.forme f).ecp.phase = 4 →
    ∃ t, exec (.functionResetScrubDone f false) s = .next t ∧
      (t.forme f).live = false ∧ (t.forme f).kStack = (s.forme f).kStack ∧ (t.forme f).ecp.phase = 5 ∧ t.colo.mgmtOnly = true ∧
      t.draws = s.draws)

/-! ### Impositions -/

/-- IMPOSE and IMPOSITION_FETCHED. An IMPOSE that is not refused makes the colophon read the image, 65,536 bytes, through the
channel's port (R24); while an imposition is in progress it is refused with 0x0021 (R26), and a retired module refuses it with 0x0803
(R152). A faulted read ends it with 0x1102; an image that fails a check is refused whole with the code of the first that fails
(R32, R33); the committed image presented again is accepted and changes nothing; any other accepted image opens a re-imposition in which
exactly the formes it names drain, for a PARTIAL image those of its mask (R34, R37, R405). Choices of the model it rests on: log 7, 79. -/
def Obligations.Impose : Prop :=
  (∀ (s : State) (p : PortId) (m : Vector Word 16), Delivered s (.secure p) 0x0101 m → impBusy s = false → s.stack.retired = false →
    m[2] = 65536 →
    ∃ t, exec (.impose p) s = .next t ∧ t.colo = { s.colo with phase := 1, requester := some (p, msgTag m) } ∧
      t.out = s.out ++ [.drd p 16 (s.reqTag p) false m[1] 65536] ∧ (t.mbox (.secure p)).full = false ∧
      t.formes = s.formes ∧ t.flash = s.flash ∧ t.stack = s.stack) ∧
  (∀ (s : State) (p : PortId) (m : Vector Word 16), Delivered s (.secure p) 0x0101 m →
    impBusy s = true ∨ s.stack.retired = true →
    ∃ t, exec (.impose p) s = .next t ∧
      RespondedWith (.secure p) (mkResponse 0x0101 (msgTag m) (if impBusy s then 0x0021 else 0x0803) []) s t ∧
      t.colo = { s.colo with code := if impBusy s then 0x0021 else 0x0803, secType := 0, formeNo := 0 } ∧
      t.formes = s.formes ∧ t.flash = s.flash ∧ t.stack = s.stack) ∧
  (∀ (s : State) (p : PortId) (tag : BitVec 16) (st : EcpStatus) (a : HostAddr), s.colo.phase = 1 →
    s.colo.requester = some (p, tag) →
    ∃ t, exec (.impositionFetched (.fault st a)) s = .next t ∧ t.colo.phase = 0 ∧ t.colo.code = 0x1102 ∧ t.colo.requester = none ∧
      t.colo.committed = s.colo.committed ∧ t.formes = s.formes ∧ t.flash = s.flash) ∧
  (∀ (s : State) (p : PortId) (tag : BitVec 16) (img : SignedImage) (e : ImpRefusal), s.colo.phase = 1 →
    s.colo.requester = some (p, tag) →
    impCheck s s.colo.committed { img with sigOk := signatureVerdict s img } = some e →
    ∃ t, exec (.impositionFetched (.data img)) s = .next t ∧ t.colo.phase = 0 ∧ t.colo.code = e.1 ∧
      t.colo.secType = BitVec.ofNat 8 e.2.1 ∧ t.colo.formeNo = BitVec.ofNat 4 e.2.2 ∧ t.colo.requester = none ∧
      t.colo.committed = s.colo.committed ∧ t.colo.seq = s.colo.seq ∧ t.colo.hash = s.colo.hash ∧ t.formes = s.formes ∧
      t.flash = s.flash ∧ t.stack = s.stack) ∧
  (∀ (s : State) (p : PortId) (tag : BitVec 16) (img : SignedImage), s.colo.phase = 1 → s.colo.requester = some (p, tag) →
    impCheck s s.colo.committed { img with sigOk := signatureVerdict s img } = none →
    s.colo.seq.toNat < (impParse img.blob).sequence.toNat →
    let named := namedBy s (impParse img.blob)
    ∃ t, exec (.impositionFetched (.data img)) s = .next t ∧ t.colo.phase = 2 ∧ t.colo.requester = some (p, tag) ∧
      ((impParse img.blob).partial' = true → t.colo.named = (impParse img.blob).named) ∧
      t.colo.named = named ∧ t.colo.done = 0 ∧ t.colo.abandoned = 0 ∧ t.colo.committed = s.colo.committed ∧
      t.fuses = s.fuses ∧ t.stack = s.stack ∧
      (∀ f : FormeId, named.getLsbD f.val = false → t.forme f = s.forme f) ∧
      (∀ f : FormeId, named.getLsbD f.val = true → (s.forme f).cfg.isSome = true →
        (t.forme f).drained = true ∧ ∀ r : RingId, ((t.forme f).ring r).state ≠ 1)) ∧
  (∀ (s : State) (p : PortId) (tag : BitVec 16) (img : SignedImage), s.colo.phase = 1 → s.colo.requester = some (p, tag) →
    impCheck s s.colo.committed { img with sigOk := signatureVerdict s img } = none →
    (impParse img.blob).sequence = s.colo.seq → impositionHash img.blob = s.colo.hash →
    ∃ t, exec (.impositionFetched (.data img)) s = .next t ∧ t.colo.phase = 0 ∧ t.colo.code = 0 ∧ t.colo.requester = none ∧
      t.colo.committed = s.colo.committed ∧ t.formes = s.formes ∧ t.flash = s.flash ∧ t.stack = s.stack)

/-- R26: an IMPOSE exchange that arrives while an imposition is being checked or a live re-imposition is in progress, PHASE other than 0
(R33), is answered 0x0021, and the imposition in progress is unaffected. -/
def Obligations.ImpositionBusy : Prop :=
  ∀ (s : State) (p : PortId) (m : Vector Word 16), Delivered s (.secure p) 0x0101 m → s.colo.phase ≠ 0 →
    ∃ t, exec (.impose p) s = .next t ∧ RespondedWith (.secure p) (mkResponse 0x0101 (msgTag m) 0x0021 []) s t ∧
      t.colo = { s.colo with code := 0x0021, secType := 0, formeNo := 0 } ∧ t.formes = s.formes ∧ t.flash = s.flash ∧
      t.stack = s.stack ∧ t.galley = s.galley ∧ t.draws = s.draws ∧ t.boot = s.boot

/-- REIMPOSE_DRAIN_DONE, REIMPOSE_SCRUB_DONE and REIMPOSE_COMMIT: with no launch of a named forme in flight the scrub phase starts;
when the domains are powered again the new keys are drawn and the phase is 6; the commit makes the new image the committed one, with
its SEQUENCE and hash, the formes it names and keeps live, and answers with 0 (R37, R38). Each phase is in the journal. Choices of the model it rests on: log 66. -/
def Obligations.ReimpositionPhases : Prop :=
  (∀ (s : State) (r : Reimp), s.colo.reimp = some r → s.colo.phase = 2 →
    (∀ f ∈ stillNamed r, (∀ l ∈ (s.forme f).launches, launchOpen l = false) ∧ ∀ g : RingId, ((s.forme f).ring g).fetching = false) →
    ∃ t, exec .reimposeDrainDone s = .next t ∧ t.colo.phase = 3 ∧
      (∃ j, t.flash.journal.getLast? = some j ∧ j.phase = 3 ∧ j.newHash = some r.hash ∧ j.named = r.named ∧ j.intact = true)) ∧
  (∀ (s : State) (r : Reimp), s.colo.reimp = some r → s.colo.phase = 3 → (∀ f ∈ stillNamed r, (s.forme f).domainsOff = false) →
    (∀ f ∈ stillNamed r, pastUsable s r.imp f.val = false) → s.colo.mgmtOnly = false →
    ∃ t, exec (.reimposeScrubDone true) s = .next t ∧ t.colo.phase = 6 ∧
      (∀ f : FormeId, t.colo.done.getLsbD f.val = (decide (f ∈ stillNamed r) && (formeRecs r.imp f.val).isSome)) ∧
      (∃ j, t.flash.journal.getLast? = some j ∧ j.phase = 6 ∧ j.newHash = some r.hash ∧ j.intact = true)) ∧
  (∀ (s : State) (r : Reimp), s.colo.reimp = some r → s.colo.phase = 6 → (∀ f : FormeId, pastUsable s r.imp f.val = false) →
    ∃ t, exec .reimposeCommit s = .next t ∧ t.colo.committed = some r.imp ∧ t.colo.seq = r.imp.sequence ∧ t.colo.hash = r.hash ∧
      t.colo.phase = 0 ∧ t.colo.code = 0 ∧ t.colo.reimp = none ∧ t.fuses = s.fuses ∧
      (s.boot.code ≠ 0x1504 → ∀ f ∈ stillNamed r, (formeRecs r.imp f.val).isSome = true →
        (t.forme f).live = true ∧ (t.forme f).drained = false ∧ (t.forme f).cfg.isSome = true) ∧
      (∃ j, t.flash.journal.getLast? = some j ∧ j.hash = r.hash ∧ j.seq = r.imp.sequence ∧ j.phase = 0 ∧ j.newHash = none))

/-! ### Strokes -/

/-- STROKE_EDGE and LOCAL_COUNT_INCREMENT: at every edge TICKS adds 1, and so does STROKE unless the module is REJOINING, where the
count waits; LOCAL_COUNT adds 1 on its own strobe (R40, R50). -/
def Obligations.StrokeCounters : Prop :=
  (∀ s : State, s.boot.platenUp = true →
    ∃ t, exec .strokeEdge s = .next t ∧ t.time.ticks = s.time.ticks + 1 ∧ t.time.localCount = s.time.localCount ∧
      t.time.losses = s.time.losses ∧
      (s.time.state ≠ .rejoining → t.time.stroke = s.time.stroke + 1 ∧ t.time.state = s.time.state) ∧
      (s.time.state = .rejoining → t.time.stroke = s.time.stroke ∧
        (t.time.state = .locked ↔ s.time.rejoin + 1 = s.time.stroke)) ∧
      (s.time.state = .locked → t.time.lastLocked = s.time.stroke + 1) ∧
      ((s.time.state = .holdover ∨ s.time.state = .lost) → t.time.holdover = satInc s.time.holdover) ∧
      t.boot = s.boot ∧ t.fuses = s.fuses ∧ t.flash = s.flash ∧ t.stack = s.stack ∧ t.galley = s.galley) ∧
  (∀ s : State, s.boot.platenUp = true →
    ∃ t, exec .localCountIncrement s = .next t ∧ t = { s with time := { s.time with localCount := s.time.localCount + 1 } })

/-- STROKE_FRAME, STROKE_MARK, STROKE_SOURCE_LOST and HOLDOVER_EXPIRY. The second consecutive valid frame of a named pair, or the
sixteenth accepted mark of a named link, makes an UNLOCKED module LOCKED at the number it announces (R44, R47); two frames that are
invalid, or one mark that is, lose the active source (R49); a lost source with no other to take over leaves HOLDOVER and counts in
LOSSES, and 1,000,000 strokes later the state is LOST (R50). Choices of the model it rests on: log 46. -/
def Obligations.StrokeSources : Prop :=
  (∀ (s : State) (edges : Vector PairEdge 128) (ph : Int) (n : Word), s.time.state = .unlocked → s.time.active = 7 →
    sourceNamed s 0 = true → frameNumber edges.toList = some n → 1 ≤ (s.source 0).run → n = (s.source 0).last + 128 →
    ∃ t, exec (.strokeFrame edges ph) s = .next t ∧ t.time.state = .locked ∧ t.time.active = 0 ∧ t.time.hops = 0 ∧ t.time.stroke = n ∧
      t.time.lastLocked = n ∧ t.time.ticks = s.time.ticks ∧ t.time.losses = s.time.losses) ∧
  (∀ (s : State) (edges : Vector PairEdge 128) (ph : Int), s.time.active = 0 → s.time.state = .locked →
    frameNumber edges.toList = none → (s.source 0).bad = 0 →
    ∃ t, exec (.strokeFrame edges ph) s = .next t ∧ t = { s with time := t.time } ∧ t.time.state = .locked ∧
      t.time.stroke = s.time.stroke ∧ (t.source 0).bad = 1) ∧
  (∀ (s : State) (edges : Vector PairEdge 128) (ph : Int), s.time.active = 0 → s.time.state = .locked →
    frameNumber edges.toList = some s.time.stroke →
    ∃ t, exec (.strokeFrame edges ph) s = .next t ∧ t = { s with time := t.time } ∧ t.time.state = .locked ∧ t.time.active = 0 ∧
      t.time.stroke = s.time.stroke ∧ (t.source 0).bad = 0) ∧
  (∀ (s : State) (l : LinkId) (m : MarkFlit) (ph : Int), s.time.state = .unlocked → s.time.active = 7 →
    sourceNamed s (markSource l) = true → markOk s l m = true → 15 ≤ (s.source (markSource l)).run →
    m.stroke = (s.source (markSource l)).last + 1 →
    ∃ t, exec (.strokeMark l m ph) s = .next t ∧ t.time.state = .locked ∧ t.time.active.toNat = l.val + 1 ∧ t.time.hops = m.hops ∧
      t.time.stroke = m.stroke ∧ t.time.ticks = s.time.ticks) ∧
  (∀ (s : State) (l : LinkId) (m : MarkFlit) (ph : Int), s.time.state = .locked → s.time.active.toNat = l.val + 1 →
    markOk s l m = true → m.stroke = s.time.stroke →
    ∃ t, exec (.strokeMark l m ph) s = .next t ∧ t = { s with time := t.time } ∧ t.time.state = .locked ∧
      t.time.stroke = s.time.stroke ∧ t.time.hops = m.hops) ∧
  (∀ s : State, s.time.state = .locked → s.time.active ≠ 7 → (∀ i : Fin 7, sourceNamed s i = true → i.val = s.time.active.toNat ∨ (s.source i).locked = false) →
    ∃ t, exec .strokeSourceLost s = .next t ∧ t = { s with time := t.time } ∧ t.time.state = .holdover ∧ t.time.active = 7 ∧
      t.time.losses = satInc s.time.losses ∧ t.time.stroke = s.time.stroke ∧ t.time.ticks = s.time.ticks) ∧
  (∀ s : State, s.time.state = .holdover → s.time.lastLocked.toNat + 1000000 ≤ s.time.stroke.toNat →
    ∃ t, exec .holdoverExpiry s = .next t ∧ t.time = { s.time with state := .lost, active := 7 }) ∧
  (∀ s : State, s.time.stroke.toNat < s.time.lastLocked.toNat + 1000000 → exec .holdoverExpiry s = .next s)

/-! ### The make-ready table -/

/-- MRT_GO, MRT_COPY_DONE and MRT_ACTIVATE: GO samples ADDR, COUNT and STROKE and reads STATE 1; a second GO while one is copied is
refused with 0x0306; a table that passes the checks of R56 is armed with STATE 2, and one that does not leaves CODE and ENTRY and the
table in force as it was; the armed table replaces it at its activation stroke (R51, R55, R56).
FILLER_WINDOW_OPEN, FILLER_WINDOW_END, COLLECTIVE_WINDOW_OPEN and COLLECTIVE_WINDOW_CLOSE: a window opens at an occurrence of its
entry in the table that holds from its activation stroke on and lasts LENGTH strokes (R51, R53); a filler window puts the cores it names in filler work, and its end takes out those that no
other open window names (R391); a collective window is its job's, with the JOIN_STROKES and MAX_COLL of its ARG, and its close takes it
away (R323). Choices of the model it rests on: log 14. -/
def Obligations.TableAndWindows : Prop :=
  (∀ (s : State) (h : HostReq) (f : FormeId) (v : Word), hostTarget s h = .forme f → (s.forme f).mrt.sampled = none →
    ∃ t, exec (.mrtGo h v) s = .next t ∧ OnlyForme f s t ∧
      t.forme f = { s.forme f with mrt := { (s.forme f).mrt with
        count := v.truncate 9, state := 1, sampled := some ((s.forme f).mrt.addr, v.truncate 9, (s.forme f).mrt.activate) } }) ∧
  (∀ (s : State) (h : HostReq) (f : FormeId) (v : Word), hostTarget s h = .forme f → (s.forme f).mrt.sampled.isSome = true →
    ∃ t, exec (.mrtGo h v) s = .next t ∧ OnlyForme f s t ∧ (t.forme f).mrt.code = 0x0306 ∧
      (t.forme f).mrt.sampled = (s.forme f).mrt.sampled ∧ (t.forme f).mrt.table = (s.forme f).mrt.table) ∧
  (∀ (s : State) (f : FormeId) (a : BitVec 51) (n : BitVec 9) (st : Word) (es : List MrtEntry),
    (s.forme f).mrt.sampled = some (a, n, st) →
    mrtStatus s f ((mrtRead s f (a.zeroExtend 56 <<< 5) n.toNat).map (·.1)) st = .ok es →
    ∃ t, exec (.mrtCopyDone f) s = .next t ∧ (t.forme f).mrt.armed = some (es, st) ∧ (t.forme f).mrt.state = 2 ∧
      (t.forme f).mrt.code = 0 ∧ (t.forme f).mrt.table = (s.forme f).mrt.table ∧ es.length = n.toNat ∧ (∀ e ∈ es, mrtOffset e ≤ 767) ∧
      t.time = s.time ∧ t.out = s.out ∧ t.galley = s.galley ∧ t.stack.mem = s.stack.mem ∧ (∀ g : FormeId, g ≠ f → t.forme g = s.forme g)) ∧
  (∀ (s : State) (f : FormeId) (a : BitVec 51) (n : BitVec 9) (st : Word) (c : Code) (i : Nat),
    (s.forme f).mrt.sampled = some (a, n, st) →
    mrtStatus s f ((mrtRead s f (a.zeroExtend 56 <<< 5) n.toNat).map (·.1)) st = .error (c, i) →
    ∃ t, exec (.mrtCopyDone f) s = .next t ∧ (t.forme f).mrt.armed = (s.forme f).mrt.armed ∧
      (t.forme f).mrt.code = c ∧ (t.forme f).mrt.entry = BitVec.ofNat 8 i ∧ (t.forme f).mrt.table = (s.forme f).mrt.table ∧
      t.time = s.time ∧ t.out = s.out ∧ t.galley = s.galley ∧ t.stack.mem = s.stack.mem ∧ (∀ g : FormeId, g ≠ f → t.forme g = s.forme g)) ∧
  (∀ (s : State) (f : FormeId) (es : List MrtEntry) (st : Word), (s.forme f).mrt.armed = some (es, st) →
    st.toNat ≤ (formeCount s f).toNat →
    ∃ t, exec (.mrtActivate f) s = .next t ∧ OnlyForme f s t ∧ (t.forme f).mrt.table = es ∧ (t.forme f).mrt.armed = none) ∧
  (∀ (s : State) (f : FormeId) (es : List MrtEntry) (st : Word), (s.forme f).mrt.armed = some (es, st) →
    (formeCount s f).toNat < st.toNat → exec (.mrtActivate f) s = .next s) ∧
  (∀ (s : State) (f : FormeId) (i : BitVec 8) (e : MrtEntry), (tableNow s f)[i.toNat]? = some e → mrtKind e = 3 →
    occursAt e (formeCount s f) = true → (s.forme f).mrt.windows = [] →
    ∃ t, exec (.fillerWindowOpen f i) s = .next t ∧
      (∀ c : CoreId, (t.core c).filler = (decide (c ∈ fillerCores (s.forme f) e) || (s.core c).filler)) ∧
      (∀ c : CoreId, (t.core c).level = (s.core c).level ∧ (t.core c).fenced = (s.core c).fenced) ∧
      (t.forme f).mrt.windows = [{ entry := i.toNat, words := e, opened := formeCount s f, last := windowLast s f e }] ∧
      t.time = s.time ∧ t.out = s.out ∧ t.stack = s.stack ∧ t.galley = s.galley ∧ (∀ g : FormeId, g ≠ f → t.forme g = s.forme g)) ∧
  (∀ (s : State) (f : FormeId) (i : BitVec 8) (w : OpenWindow), (s.forme f).mrt.windows = [w] → w.entry = i.toNat →
    mrtKind w.words = 3 → w.last.toNat < (formeCount s f).toNat →
    ∃ t, exec (.fillerWindowEnd f i) s = .next t ∧ (t.forme f).mrt.windows = [] ∧
      (∀ c ∈ fillerCores (s.forme f) w.words, (t.core c).filler = false ∧ (t.core c).holdGalley = false) ∧
      (∀ c : CoreId, c ∉ fillerCores (s.forme f) w.words → t.core c = s.core c) ∧ t.time = s.time ∧ t.out = s.out) ∧
  (∀ (s : State) (f : FormeId) (i : BitVec 8) (e : MrtEntry) (j : Job), (tableNow s f)[i.toNat]? = some e → mrtKind e = 2 →
    occursAt e (formeCount s f) = true → (s.forme f).mrt.windows = [] → s.time.state = .locked ∨ s.time.state = .holdover →
    (s.forme f).job (Fin.ofNat 64 (fld e.w3 5 0)) = some j → j.isOpen = true →
    ∃ t, exec (.collectiveWindowOpen f i) s = .next t ∧ OnlyForme f s t ∧
      (t.forme f).job (Fin.ofNat 64 (fld e.w3 5 0)) =
        some { j with window := some (formeCount s f, windowLast s f e, fld e.w3 23 8, fld e.w3 31 24, 0) }) ∧
  (∀ (s : State) (f : FormeId) (i : BitVec 8) (w : OpenWindow) (j : Job), (s.forme f).mrt.windows = [w] → w.entry = i.toNat →
    mrtKind w.words = 2 → w.last.toNat < (formeCount s f).toNat → (s.forme f).job (Fin.ofNat 64 (fld w.words.w3 5 0)) = some j →
    j.window.map (·.1) = some w.opened → j.coll = none → (s.forme f).slugs = [] →
    ∃ t, exec (.collectiveWindowClose f i) s = .next t ∧ OnlyForme f s t ∧ (t.forme f).mrt.windows = [] ∧
      (t.forme f).job (Fin.ofNat 64 (fld w.words.w3 5 0)) = some { j with window := none, early := j.early.filter (fun e => e.2.2.1 != w.opened) })

/-- STEP_BOUNDARY and SHARE_PERIOD_END. A boundary latches what SCHED_TUNE and SCHED_MIX hold (R283); one that finds the step still
running counts in MISSED, and one over the energy account in HELD, and neither starts a step (R269, R388; stated where pre-emption is
off); with work to place and nothing to bar it, one that finds no step running starts a step (R269, R273). At the end of a share period
every active context's deficit gains its share of the charges and loses its own, and the charges are 0 (R275). Choices of the model it rests on: log 47. -/
def Obligations.BoundariesAndShares : Prop :=
  (∀ (s : State) (f : FormeId) (arg : Word), (s.forme f).cfg.isSome = true → (s.forme f).live = true → (s.forme f).domainsOff = false →
    boundaryArg s f = some arg →
    ∃ t, exec (.stepBoundary f) s = .next t ∧
      (t.forme f).sched.lastBoundary = some (s.time.ticks, formeCount s f) ∧
      (t.forme f).sched.residentMax = fld (s.forme f).sched.tuneReg 10 0 ∧
      (t.forme f).sched.rowsMax = fld (s.forme f).sched.mixReg 31 16 ∧
      (t.forme f).sched.chunksMax = fld (s.forme f).sched.mixReg 38 32 ∧ t.time = s.time) ∧
  (∀ (s : State) (f : FormeId) (arg : Word), (s.forme f).cfg.isSome = true → (s.forme f).live = true → (s.forme f).domainsOff = false →
    boundaryArg s f = some arg → (s.forme f).sched.stepOn = true → (s.forme f).sched.tuneReg.getLsbD 32 = false →
    ∃ t, exec (.stepBoundary f) s = .next t ∧ (t.forme f).sched.steps = (s.forme f).sched.steps ∧ t.time = s.time ∧
      (if accountOver s f = true
        then (t.platen.account[f.val]).held = satInc (s.platen.account[f.val]).held ∧ (t.forme f).sched.missed = (s.forme f).sched.missed
        else t.platen = s.platen ∧ (t.forme f).sched.missed = satInc (s.forme f).sched.missed)) ∧
  (∀ (s : State) (f : FormeId) (arg : Word), (s.forme f).cfg.isSome = true → (s.forme f).live = true → (s.forme f).domainsOff = false →
    boundaryArg s f = some arg → (s.forme f).sched.stepOn = false → arg.getLsbD 24 = false → accountOver s f = false →
    let s2 := bindingBoundary (s.modForme f (fun x => { x with
      sched := { latchSched x.sched with lastBoundary := some (s.time.ticks, formeCount s f) } })) f
    startBarred s2 f = false → planDue s2 f = false → (s2.liveCores f).isEmpty = false → candidates (s2.forme f) ≠ [] →
    ∃ t, exec (.stepBoundary f) s = .next t ∧ (t.forme f).sched.steps = (s.forme f).sched.steps + 1 ∧ t.time = s.time) ∧
  (∀ (s : State) (f : FormeId) (c : FormeCfg), (s.forme f).cfg = some c →
    (s.forme f).sched.periodInForce ≤ (s.time.ticks - (s.forme f).sched.periodStart).toNat →
    ∃ t, exec (.sharePeriodEnd f) s = .next t ∧ OnlyForme f s t ∧ (t.forme f).sched.periodStart = s.time.ticks ∧
      (t.forme f).sched.periodInForce = fld (s.forme f).sched.tuneReg 31 16 ∧
      (t.forme f).ctxs.length = (s.forme f).ctxs.length ∧
      ∀ (i : Nat) (k : Context), (s.forme f).ctxs[i]? = some k → ∃ k', (t.forme f).ctxs[i]? = some k' ∧ k'.num = k.num ∧ k'.charges = 0 ∧
        (k.active = true → k'.deficit = max (-2147483648) (min 2147483647 (k.deficit +
          ((sumNat (((s.forme f).ctxs.filter (·.active)).map (·.charges)) * k.weight /
            max 1 (sumNat (((s.forme f).ctxs.filter (·.active)).map (·.weight))) : Nat) : Int) - (k.charges : Int)))))

/-- R273's procedure: the parts it takes are candidates; their rows together stay within ROWS_MAX and the chunks among them within
the chunk limit, or the step is one part; a TOKEN_ONLY boundary takes token launches alone; and where any part is a candidate, a step
that is not so bound takes at least one. -/
def Obligations.StepFormationBounds : Prop :=
  ∀ (cands : List Cand) (rowsMax chunksMax eighths : Nat) (only : Bool), eighths ≤ 8 →
    let a := formStep cands rowsMax chunksMax eighths only
    (∀ c ∈ a, c ∈ cands) ∧
    (sumNat (a.map (·.rows)) ≤ rowsMax ∨ a.length = 1) ∧
    ((a.filter (fun c => !c.token)).length ≤ chunksMax ∨ a.length = 1) ∧
    (only = true → ∀ c ∈ a, c.token = true) ∧
    (only = false → cands ≠ [] → a ≠ [])

/-! ### Rings and entries -/

/-- FEED_RING_TAIL and BELL_ERR (R246, R8): a value T with HEAD ≤ T and T − DONE.SEQ at most the depth, taken on an enabled ring, is
the new tail, and the tick is kept for the timers of R257; any other is ignored and sets BELL_ERR, which a 1 written to it clears. -/
def Obligations.Doorbells : Prop :=
  (∀ (s : State) (h : HostReq) (f : FormeId) (r : RingId) (v : Word), hostTarget s h = .forme f → ringExists (s.forme f) r = true →
    ((s.forme f).ring r).state ≠ 0 →
    (((s.forme f).ring r).head - ((s.forme f).ring r).done).toNat ≤ ((v.truncate 48 : Seq) - ((s.forme f).ring r).done).toNat →
    ((v.truncate 48 : Seq) - ((s.forme f).ring r).done).toNat ≤ 2 ^ ((s.forme f).ring r).depth.toNat →
    ∃ t, exec (.feedRingTail h r v) s = .next t ∧ OnlyForme f s t ∧
      t.forme f = (s.forme f).setRing r { (s.forme f).ring r with
        tail := v.truncate 48, bells := ((s.forme f).ring r).bells ++ [(v.truncate 48, s.time.ticks)] }) ∧
  (∀ (s : State) (h : HostReq) (f : FormeId) (r : RingId) (v : Word), hostTarget s h = .forme f → ringExists (s.forme f) r = true →
    (((s.forme f).ring r).state = 0 ∨
      ((v.truncate 48 : Seq) - ((s.forme f).ring r).done).toNat < (((s.forme f).ring r).head - ((s.forme f).ring r).done).toNat ∨
      2 ^ ((s.forme f).ring r).depth.toNat < ((v.truncate 48 : Seq) - ((s.forme f).ring r).done).toNat) →
    ∃ t, exec (.feedRingTail h r v) s = .next t ∧ OnlyForme f s t ∧
      t.forme f = (s.forme f).setRing r { (s.forme f).ring r with bellErr := true }) ∧
  (∀ (s : State) (h : HostReq) (f : FormeId) (r : RingId), hostTarget s h = .forme f → ringExists (s.forme f) r = true →
    ∃ t, exec (.bellErrClear h r) s = .next t ∧ OnlyForme f s t ∧
      t.forme f = (s.forme f).setRing r { (s.forme f).ring r with bellErr := false })

/-- ENABLE and DEPTH_LOG2 (R243, R244). Enabling a disabled ring clears TAIL, HEAD and DONE and sets the depth to the nearer limit of
4 to 12; disabling one with nothing in flight or held reaches STATE 0, one with launches in flight STATE 3, and one in STATE 2
remembers it.
REPLAY (R253): in STATE 2, with no write of the hold outstanding and no result line held, the first held record is written to its
slot again; with the hold empty the ring leaves STATE 2; in any other state the write is ignored. Choices of the model it rests on: log 26. -/
def Obligations.RingControl : Prop :=
  (∀ (s : State) (h : HostReq) (f : FormeId) (r : RingId) (v : Word), hostTarget s h = .forme f → ringExists (s.forme f) r = true →
    ((s.forme f).ring r).enable = false →
    ∃ t, exec (.ringEnable h r v) s = .next t ∧ OnlyForme f s t ∧ (t.forme f).launches = (s.forme f).launches ∧
      ((t.forme f).ring r).enable = true ∧ ((t.forme f).ring r).tail = 0 ∧ ((t.forme f).ring r).head = 0 ∧ ((t.forme f).ring r).done = 0 ∧
      ((t.forme f).ring r).fault = 0 ∧ ((t.forme f).ring r).depth.toNat = max 4 (min 12 (v.toNat % 16)) ∧
      ((t.forme f).ring r).base = ((s.forme f).ring r).base ∧ ((t.forme f).ring r).cpl = ((s.forme f).ring r).cpl ∧
      ((t.forme f).ring r).state = (if (s.forme f).drained = true ∨ (s.forme f).stopped = true then 4 else 1) ∧
      (∀ q : RingId, q ≠ r → (t.forme f).ring q = (s.forme f).ring q)) ∧
  (∀ (s : State) (h : HostReq) (f : FormeId) (r : RingId) (v : Word), hostTarget s h = .forme f → ringExists (s.forme f) r = true →
    ((s.forme f).ring r).enable = true → ((s.forme f).ring r).state ≠ 2 → ((s.forme f).ring r).held = [] →
    ((s.forme f).ring r).fetching = false → ((s.forme f).ring r).written = [] → (∀ l ∈ (s.forme f).launches, l.ring ≠ r) →
    ∃ t, exec (.ringDisable h r v) s = .next t ∧ OnlyForme f s t ∧ ((t.forme f).ring r).state = 0 ∧ ((t.forme f).ring r).enable = false ∧
      ((t.forme f).ring r).head = ((s.forme f).ring r).head ∧ ((t.forme f).ring r).done = ((s.forme f).ring r).done ∧
      (∀ q : RingId, q ≠ r → (t.forme f).ring q = (s.forme f).ring q)) ∧
  (∀ (s : State) (h : HostReq) (f : FormeId) (r : RingId) (v : Word), hostTarget s h = .forme f → ringExists (s.forme f) r = true →
    ((s.forme f).ring r).enable = true → ((s.forme f).ring r).state ≠ 2 → (∃ l ∈ (s.forme f).launches, l.ring = r) →
    ∃ t, exec (.ringDisable h r v) s = .next t ∧ OnlyForme f s t ∧ ((t.forme f).ring r).state = 3 ∧ ((t.forme f).ring r).enable = true ∧
      (t.forme f).launches = (s.forme f).launches) ∧
  (∀ (s : State) (h : HostReq) (f : FormeId) (r : RingId) (v : Word), hostTarget s h = .forme f → ringExists (s.forme f) r = true →
    ((s.forme f).ring r).enable = true → ((s.forme f).ring r).state = 2 →
    ∃ t, exec (.ringDisable h r v) s = .next t ∧ OnlyForme f s t ∧
      t.forme f = (s.forme f).setRing r { (s.forme f).ring r with intrEn := v.getLsbD 9, disableMemo := true }) ∧
  (∀ (s : State) (h : HostReq) (f : FormeId) (r : RingId) (c : FormeCfg) (k : Record) (ks : List Record), hostTarget s h = .forme f →
    ringExists (s.forme f) r = true → ((s.forme f).ring r).state = 2 → holdWriteOut s f r = false → (s.forme f).cfg = some c →
    ((s.forme f).ring r).heldResults = [] → ((s.forme f).ring r).held = k :: ks →
    ∃ t, exec (.replay h r) s = .next t ∧
      SentOn c.port (.dwr c.port c.fnId (s.reqTag c.port) (recordAddr ((s.forme f).ring r) k.seq) (recordBytes k)) s t) ∧
  (∀ (s : State) (h : HostReq) (f : FormeId) (r : RingId), hostTarget s h = .forme f → ringExists (s.forme f) r = true →
    ((s.forme f).ring r).state = 2 → holdWriteOut s f r = false → ((s.forme f).ring r).heldResults = [] →
    ((s.forme f).ring r).held = [] → ((s.forme f).ring r).written = [] → ((s.forme f).ring r).disableMemo = false →
    ∃ t, exec (.replay h r) s = .next t ∧ OnlyForme f s t ∧ ((t.forme f).ring r).fault = 0 ∧
      ((t.forme f).ring r).state = (if (s.forme f).drained = true ∨ (s.forme f).stopped = true then 4 else 1)) ∧
  (∀ (s : State) (h : HostReq) (f : FormeId) (r : RingId), hostTarget s h = .forme f → ((s.forme f).ring r).state ≠ 2 →
    exec (.replay h r) s = .next s)

/-- FEED_ENTRY_FETCH and ENTRY_READ_FAULT (R250, R350): the next ring in ascending order from the one last visited that can fetch
has its next entry read, 256 bytes from its slot; with no such ring nothing happens. A fault of the read leaves the entry unfetched
and the ring in STATE 2, with the address and STATUS in ECP_FAULT_ADDR.
NOP, LAUNCH, STORE, PATCH and FREE arrive (R248, R250): whatever the entry holds, HEAD advances by one, once, and the ring may
fetch again. -/
def Obligations.EntriesFetchAndArrive : Prop :=
  (∀ (s : State) (f : FormeId) (c : FormeCfg) (r : RingId), (s.forme f).cfg = some c → formeBusy (s.forme f) < guarantee c →
    (visitOrder (s.forme f)).find? (ringCanFetch (s.forme f)) = some r →
    ∃ t, exec (.feedEntryFetch f) s = .next t ∧ (t.forme f).visit = r ∧
      (t.forme f).ring r = { (s.forme f).ring r with fetching := true } ∧ ElsewhereKept f s t ∧
      t.out = s.out ++ [.drd c.port c.fnId (s.reqTag c.port) false (entryAddr ((s.forme f).ring r) ((s.forme f).ring r).head) 256]) ∧
  (∀ (s : State) (f : FormeId), (∀ r : RingId, ringCanFetch (s.forme f) r = false) → exec (.feedEntryFetch f) s = .next s) ∧
  (∀ (s : State) (f : FormeId) (r : RingId) (st : EcpStatus), ((s.forme f).ring r).fetching = true →
    ∃ t, exec (.entryReadFault f r st) s = .next t ∧ ((t.forme f).ring r).state = 2 ∧ ((t.forme f).ring r).fetching = false ∧
      ((t.forme f).ring r).head = ((s.forme f).ring r).head ∧ (t.forme f).launches = (s.forme f).launches ∧
      (t.forme f).ecp.faultAddr = (entryAddr ((s.forme f).ring r) ((s.forme f).ring r).head).truncate 52 ∧
      (t.forme f).ecp.faultStat = BitVec.ofNat 3 (ecpCode st) ∧
      (((s.forme f).ring r).written = [] → ((s.forme f).ring r).done = ((s.forme f).ring r).head →
        ((t.forme f).ring r).fault = 0x1102) ∧ t.stack = s.stack ∧ t.galley = s.galley ∧ t.out = s.out) ∧
  (∀ (s : State) (f : FormeId) (r : RingId) (e : RingEntry), ((s.forme f).ring r).fetching = true →
    let i := if entryOpcode e = 0 then Instr.nop f r e else if entryOpcode e = 2 then .store f r e else if entryOpcode e = 3 then .patch f r e
      else if entryOpcode e = 4 then .free f r e else .launch f r e
    ∃ t, exec i s = .next t ∧ ((t.forme f).ring r).head = ((s.forme f).ring r).head + 1 ∧ ((t.forme f).ring r).fetching = false ∧
      ((t.forme f).ring r).tail = ((s.forme f).ring r).tail ∧ ((t.forme f).ring r).base = ((s.forme f).ring r).base ∧
      ((t.forme f).ring r).cpl = ((s.forme f).ring r).cpl ∧ t.stack.mem = s.stack.mem ∧ t.galley = s.galley ∧ t.time = s.time ∧
      (∀ g : FormeId, g ≠ f → t.forme g = s.forme g))

/-- What an entry does that nothing holds up and whose timer has not expired (R247, R249, R250, R260). One that fails a check of R249,
and a NOP that passes them, completes with a record of the status; a LAUNCH is admitted with its version pinned and its context
standing, a STORE or PATCH has its image read, and FREE leaves its matter without a newest version. Choices of the model it rests on: log 23. -/
def Obligations.EntryOpcodes : Prop :=
  (∀ (s : State) (f : FormeId) (r : RingId) (e : RingEntry) (c : FormeCfg), ((s.forme f).ring r).fetching = true →
    (s.forme f).cfg = some c → ((s.forme f).ring r).state ≠ 2 → (∀ l ∈ (s.forme f).launches, l.ring ≠ r) →
    timerExpired s (bellTick ((s.forme f).ring r) ((s.forme f).ring r).head) = false → entryOpcode e = 0 →
    ∃ t, exec (.nop f r e) s = .next t ∧ RecordSent f r
      { seq := ((s.forme f).ring r).head, status := (entryStatus (s.forme f) s.time.ticks ((s.forme f).ring r).head e).getD 0, flags := 0,
        version := 0, elapsed := 0, matter := entryMatter e, ctx := entryContext e, passed := 0, result := [] } s t) ∧
  (∀ (s : State) (f : FormeId) (r : RingId) (e : RingEntry) (c : FormeCfg), ((s.forme f).ring r).fetching = true →
    (s.forme f).cfg = some c → ((s.forme f).ring r).state ≠ 2 → (∀ l ∈ (s.forme f).launches, l.ring ≠ r) →
    timerExpired s (bellTick ((s.forme f).ring r) ((s.forme f).ring r).head) = false → entryOpcode e = 1 →
    entrySeq e ≠ ((s.forme f).ring r).head →
    ∃ t, exec (.launch f r e) s = .next t ∧ RecordSent f r
      { seq := ((s.forme f).ring r).head, status := 0x0D02, flags := 0,
        version := 0, elapsed := 0, matter := entryMatter e, ctx := entryContext e, passed := 0, result := [] } s t) ∧
  (∀ (s : State) (f : FormeId) (r : RingId) (e : RingEntry) (v : Version), ((s.forme f).ring r).fetching = true →
    (∀ l ∈ (s.forme f).launches, l.ring ≠ r) → timerExpired s (bellTick ((s.forme f).ring r) ((s.forme f).ring r).head) = false →
    entryOpcode e = 1 → entryStatus (s.forme f) s.time.ticks ((s.forme f).ring r).head e = none →
    pinVersion (s.forme f) s.time.ticks e = some v → entryPositions e + entryNewPositions e ≤ 4194304 →
    contextStatus s f e ((contextRecord s f (entryContext e)).map (·.1)) = none → launchRefusal s f v e = none →
    ∃ t, exec (.launch f r e) s = .next t ∧ t.out = s.out ∧
      (∃ l, findLaunch (t.forme f) r ((s.forme f).ring r).head = some l ∧ l.phase = .running ∧ l.version = v.number ∧ l.entry = e ∧
        l.fetched = s.time.ticks ∧ l.ended = none) ∧
      (∃ k, findCtx (t.forme f) (entryContext e) = some k ∧ k.active = true ∧ k.ring = r ∧ k.matter = entryMatter e ∧ k.version = v.number ∧
        k.weight = fld (((contextRecord s f (entryContext e)).map (·.1)).getD 0) 15 0)) ∧
  (∀ (s : State) (f : FormeId) (r : RingId) (e : RingEntry) (c : FormeCfg), ((s.forme f).ring r).fetching = true →
    (s.forme f).cfg = some c → (∀ l ∈ (s.forme f).launches, l.ring ≠ r) →
    timerExpired s (bellTick ((s.forme f).ring r) ((s.forme f).ring r).head) = false →
    entryStatus (s.forme f) s.time.ticks ((s.forme f).ring r).head e = none →
    (entryOpcode e = 2 ∧ findMatter (s.forme f) (entryMatter e) = none) ∨ entryOpcode e = 3 →
    ∃ t, exec (if entryOpcode e = 2 then .store f r e else .patch f r e) s = .next t ∧
      (∃ l, findLaunch (t.forme f) r ((s.forme f).ring r).head = some l ∧ l.phase = .reading ∧ l.entry = e) ∧
      ∃ tag, t.out = s.out ++ [.drd c.port c.fnId tag false (entrySource e) (entryLength e)]) ∧
  (∀ (s : State) (f : FormeId) (r : RingId) (e : RingEntry), ((s.forme f).ring r).fetching = true →
    (∀ l ∈ (s.forme f).launches, l.ring ≠ r) → timerExpired s (bellTick ((s.forme f).ring r) ((s.forme f).ring r).head) = false →
    entryStatus (s.forme f) s.time.ticks ((s.forme f).ring r).head e = none → entryOpcode e = 4 →
    ∃ t, exec (.free f r e) s = .next t ∧ ∀ m ∈ (t.forme f).matters, m.id = entryMatter e → m.newest = none)

/-- MATTER_IMAGE_READ_DONE and ENTRY_RELEASE (R250, R260, R261, R350): an image of a STORE that passes the checks of R258 and has room
is version 1 of its matter, visible from the next stroke; a fault of its read completes the entry with 0x1102 and stores nothing; a
held entry is acted on once nothing holds it. Choices of the model it rests on: log 24, 57. -/
def Obligations.ImagesAndReleases : Prop :=
  (∀ (s : State) (f : FormeId) (r : RingId) (q : Seq) (b : Blob) (l : Launch) (v : Version),
    findLaunch (s.forme f) r q = some l → l.phase = .reading → l.imposedStatus = none → l.fault = none → entryOpcode l.entry = 2 →
    parseMatter b (entryLength l.entry) = some v →
    findMatter (s.forme f) (entryMatter l.entry) = none → matterRoomEver (s.forme f) (entryMatter l.entry) v.length = true →
    matterRoom (s.forme f) (entryMatter l.entry) v.length = true →
    ∃ t, exec (.matterImageReadDone f r q (.data b)) s = .next t ∧
      (∃ m ∈ (t.forme f).matters, m.id = entryMatter l.entry ∧ m.newest = some 1 ∧
        ∃ w ∈ m.versions, w = { v with number := 1, since := s.time.ticks }) ∧
      t.stack = s.stack ∧ t.galley = s.galley ∧ t.time = s.time) ∧
  (∀ (s : State) (f : FormeId) (r : RingId) (q : Seq) (st : EcpStatus) (a : HostAddr) (c : FormeCfg) (l : Launch),
    findLaunch (s.forme f) r q = some l → l.phase = .reading → l.imposedStatus = none → l.fault = none → l.seq = q →
    (s.forme f).cfg = some c → ((s.forme f).ring r).state ≠ 2 →
    ∃ t, exec (.matterImageReadDone f r q (.fault st a)) s = .next t ∧ (t.forme f).ecp.faultAddr = a.truncate 52 ∧
      (t.forme f).ecp.code = 0x1102 ∧ ∃ k, k.status = 0x1102 ∧ k.seq = q ∧ RecordSent f r k s t) ∧
  (∀ (s : State) (f : FormeId) (r : RingId) (c : FormeCfg) (l : Launch),
    (s.forme f).launches.find? (fun l => l.ring == r && l.phase == .held) = some l → findLaunch (s.forme f) r l.seq = some l →
    mustHold (s.forme f) l = false → timerExpired s l.timer = false → entryOpcode l.entry = 0 →
    entryStatus (s.forme f) s.time.ticks l.seq l.entry = none → l.imposedStatus = none → l.fault = none →
    (s.forme f).cfg = some c → ((s.forme f).ring r).state ≠ 2 →
    ∃ t, exec (.entryRelease f r) s = .next t ∧ ∃ k, k.status = 0 ∧ k.seq = l.seq ∧ RecordSent f r k s t) ∧
  (∀ (s : State) (f : FormeId) (r : RingId) (l : Launch),
    (s.forme f).launches.find? (fun l => l.ring == r && l.phase == .held) = some l → mustHold (s.forme f) l = true →
    exec (.entryRelease f r) s = .next s)

/-- LAUNCH_COMPLETE, RECORD_WRITE_DONE and LAUNCH_TIMEOUT (R251, R253, R257, R413): a launch that is ready has its record written with
the one status of R413; the written record of the oldest entry advances DONE and ends the entry, and one whose write faults is held,
with STATE 2 and FAULT 0x0D06; a launch still running at its timeout has 0x0D04 imposed on it. Choices of the model it rests on: log 22. -/
def Obligations.LaunchesComplete : Prop :=
  (∀ (s : State) (f : FormeId) (r : RingId) (q : Seq) (c : FormeCfg) (l : Launch), findLaunch (s.forme f) r q = some l →
    launchReady (s.forme f) l = true → (s.forme f).cfg = some c → ((s.forme f).ring r).state ≠ 2 → l.seq = q →
    ∃ t, exec (.launchComplete f r q) s = .next t ∧
      findLaunch (t.forme f) r q = some { l with phase := .writing, record := some (makeRecord s.time.ticks l) } ∧
      RecordSent f r (makeRecord s.time.ticks l) s t ∧
      (makeRecord s.time.ticks l).status = launchStatus l ∧ (makeRecord s.time.ticks l).elapsed = s.time.ticks - l.fetched ∧
      t.stack = s.stack ∧ t.galley = s.galley ∧ t.time = s.time) ∧
  (∀ (s : State) (f : FormeId) (r : RingId) (q : Seq) (l : Launch), findLaunch (s.forme f) r q = some l →
    launchReady (s.forme f) l = true → ((s.forme f).ring r).state = 2 →
    ∃ t, exec (.launchComplete f r q) s = .next t ∧ t.out = s.out ∧ findLaunch (t.forme f) r q = none ∧
      makeRecord s.time.ticks l ∈ ((t.forme f).ring r).held) ∧
  (∀ (s : State) (f : FormeId) (r : RingId) (q : Seq) (l : Launch), findLaunch (s.forme f) r q = some l → l.phase = .writing →
    ((s.forme f).ring r).held = [] → ((s.forme f).ring r).written = [] → ((s.forme f).ring r).done = q →
    ∃ t, exec (.recordWriteDone f r q .ok) s = .next t ∧ ((t.forme f).ring r).done = q + 1 ∧ ((t.forme f).ring r).evtDue = true ∧
      findLaunch (t.forme f) r q = none ∧ ((t.forme f).ring r).head = ((s.forme f).ring r).head ∧ t.out = s.out) ∧
  (∀ (s : State) (f : FormeId) (r : RingId) (q : Seq) (st : EcpStatus) (l : Launch) (k : Record), st ≠ .ok →
    findLaunch (s.forme f) r q = some l → l.phase = .writing → l.record = some k → k.seq = q →
    ((s.forme f).ring r).written = [] → ((s.forme f).ring r).done = q → ((s.forme f).ring r).entryFault = false →
    ∃ t, exec (.recordWriteDone f r q st) s = .next t ∧ k ∈ ((t.forme f).ring r).held ∧ ((t.forme f).ring r).state = 2 ∧
      ((t.forme f).ring r).fault = 0x0D06 ∧ ((t.forme f).ring r).done = q ∧ findLaunch (t.forme f) r q = none) ∧
  (∀ (s : State) (f : FormeId) (r : RingId) (q : Seq) (l : Launch), findLaunch (s.forme f) r q = some l → l.phase = .running →
    timerExpired s l.timer = true → launchReady (s.forme f) l = false → ((s.forme f).ring r).heldResults = [] → l.imposedStatus = none →
    ∃ t, exec (.launchTimeout f r q) s = .next t ∧ (∃ l', findLaunch (t.forme f) r q = some l' ∧ l'.imposedStatus = some 0x0D04) ∧
      ElsewhereKept f s t ∧ t.out = s.out)

/-! ### Compositor programs and slugs -/

/-- ISSUE (R183, R263): a slug within SLUGS that nothing refuses is queued under a new tag, which the program receives.
WAIT, PROOF_READ, END and PROGRAM_EXCEPTION (R189, R263): WAIT answers an ended slug's state and status; PROOF_READ answers eight
bytes of a PROVED slug's proofs; END with a status of 0 or from 0x8000 up and RESULT inside the frame ends the launch with them, any
other END, and an exception, with 0x0D0B. Choices of the model it rests on: log 32, 56. -/
def Obligations.ProgramsIssueAndEnd : Prop :=
  (∀ (s : State) (f : FormeId) (r : RingId) (q : Seq) (n : BitVec 16) (cs : List Byte) (a : SlugTag) (l : Launch) (v : Version) (k : SlugRec),
    programLaunch s f r q = some l → slugsInFlight (s.forme f) < 64 → findVersion (s.forme f) (entryMatter l.entry) l.version = some v →
    v.slugs[n.toNat]? = some k → issueStatus s f l (slugOps v n.toNat) a = none →
    ∃ t, exec (.issue f r q n cs a) s = .next t ∧
      t.out = s.out ++ [.issued f (freeTag (s.forme f) 65536 (s.forme f).nextTag)] ∧
      (t.forme f).nextTag = freeTag (s.forme f) 65536 (s.forme f).nextTag + 1 ∧
      SoleSlug t f (freeTag (s.forme f) 65536 (s.forme f).nextTag) (newSlug l (freeTag (s.forme f) 65536 (s.forme f).nextTag) n.toNat k (cs.take 192) a) ∧
      (∀ g : FormeId, g ≠ f → t.forme g = s.forme g) ∧ t.stack = s.stack ∧ t.galley = s.galley ∧ t.time = s.time) ∧
  (∀ (s : State) (f : FormeId) (t : SlugTag) (sl : Slug), findSlug (s.forme f) t = some sl → slugEnded sl = true →
    exec (.wait f t) s = .next { s with out := s.out ++ [.wait f t sl.state sl.status] }) ∧
  (∀ (s : State) (f : FormeId) (t : SlugTag) (o : Nat) (sl : Slug), findSlug (s.forme f) t = some sl → sl.state = .proved →
    exec (.proofRead f t o) s = .next { s with out := s.out ++ [.proof f t ((List.range 8).map (fun i =>
      (sl.proofs.flatMap (passBytes s f)).getD (o + i) 0))] }) ∧
  (∀ (s : State) (f : FormeId) (r : RingId) (q : Seq) (st : Code) (a : Nat) (b : List Byte) (l : Launch) (v : Version),
    programLaunch s f r q = some l → findVersion (s.forme f) (entryMatter l.entry) l.version = some v → st = 0 ∨ 0x8000 ≤ st.toNat →
    a + 32 ≤ (v.frame + 255) / 256 * 256 →
    ∃ t, exec (.endLaunch f r q st a b) s = .next t ∧ OnlyForme f s t ∧
      findLaunch (t.forme f) r q = some { l with ended := some st, result := b.take 32 } ∧ (t.forme f).slugs = (s.forme f).slugs) ∧
  (∀ (s : State) (f : FormeId) (r : RingId) (q : Seq) (st : Code) (a : Nat) (b : List Byte) (l : Launch),
    programLaunch s f r q = some l → st ≠ 0 → st.toNat < 0x8000 →
    ∃ t, exec (.endLaunch f r q st a b) s = .next t ∧ ElsewhereKept f s t ∧ t.out = s.out ∧
      ∃ l', findLaunch (t.forme f) r q = some l' ∧ l'.ended = some 0x0D0B) ∧
  (∀ (s : State) (f : FormeId) (r : RingId) (q : Seq) (l : Launch), programLaunch s f r q = some l →
    ∃ t, exec (.programException f r q) s = .next t ∧ ElsewhereKept f s t ∧ t.out = s.out ∧
      ∃ l', findLaunch (t.forme f) r q = some l' ∧ l'.ended = some 0x0D0B)

/-- RESOLVE (R188): a chain of one speculative slug is resolved to pass by a cut of 1 or more, and finally discarded, with nothing of
it kept, by a cut of 0.
DETECTION (R184, R190): a RUNNING slug that detects is discarded and is queued again with nothing of its run left, and REPLAYS
counts; at its third run it fails with 0x0A03; while a collective moves it the detection is held (R326). -/
def Obligations.ResolveAndDetect : Prop :=
  (∀ (s : State) (f : FormeId) (t : SlugTag) (cut : Nat) (sl : Slug), (s.forme f).slugs = [sl] → sl.tag = t → sl.speculative = true →
    sl.resolved = none → sl.state = .proved → 1 ≤ cut →
    ∃ u, exec (.resolve f t cut) s = .next u ∧ ElsewhereKept f s u ∧ u.out = s.out ∧
      ∃ z, findSlug (u.forme f) t = some z ∧ z.state = .proved ∧ z.resolved = some true ∧ z.proofs = sl.proofs) ∧
  (∀ (s : State) (f : FormeId) (t : SlugTag) (sl : Slug), (s.forme f).slugs = [sl] → sl.tag = t → sl.resolved = none →
    sl.state = .queued ∨ sl.state = .running ∨ sl.state = .proved →
    ∃ u, exec (.resolve f t 0) s = .next u ∧ ElsewhereKept f s u ∧ u.out = s.out ∧
      ∃ z, findSlug (u.forme f) t = some z ∧ z.state = .discarded ∧ z.resolved = some false ∧ z.proofs = [] ∧ z.reserved = false) ∧
  (∀ (s : State) (f : FormeId) (t : SlugTag) (sl : Slug), (s.forme f).slugs = [sl] → sl.tag = t → sl.state = .running →
    sl.wait ≠ .collective → sl.sealed = none → sl.inStep = false → (s.liveCores f).isEmpty = false → sl.runs < 2 →
    ∃ u, exec (.detection f t .galley) s = .next u ∧ ElsewhereKept f s u ∧ u.out = s.out ∧ (u.forme f).replays = satInc (s.forme f).replays ∧
      ∃ z, findSlug (u.forme f) t = some z ∧ z.state = .queued ∧ z.runs = sl.runs + 1 ∧ z.proofs = [] ∧ z.op = 0 ∧ z.seed = sl.seed ∧
        z.reserved = sl.reserved) ∧
  (∀ (s : State) (f : FormeId) (t : SlugTag) (sl : Slug), (s.forme f).slugs = [sl] → sl.tag = t → sl.state = .running →
    sl.wait ≠ .collective → (s.liveCores f).isEmpty = false → 2 ≤ sl.runs →
    ∃ u, exec (.detection f t .galley) s = .next u ∧ ElsewhereKept f s u ∧ u.out = s.out ∧ (u.forme f).slugCode = 0x0A03 ∧
      ∃ z, findSlug (u.forme f) t = some z ∧ z.state = .failed ∧ z.status = 0x0A03 ∧ z.proofs = []) ∧
  (∀ (s : State) (f : FormeId) (t : SlugTag) (k : DetectKind) (sl : Slug), findSlug (s.forme f) t = some sl → sl.state = .running →
    sl.wait = .collective → sl.heldDetect = none →
    ∃ u, exec (.detection f t k) s = .next u ∧ OnlyForme f s u ∧ findSlug (u.forme f) t = some { sl with heldDetect := some k })

/-- SLUG_PASS_POINT (R181, R195): a slug that may pass and has read no bad chunk is PASSING, its proofs kept for their writes.
PROOF_WRITES_DONE (R181, R184): a PASSING slug whose one proof is of galley, with nothing else to wait for, lands it: exactly its
bytes change; the slug is PASSED with its reservation returned, and its count and flags join the launch's. -/
def Obligations.SlugsPassAndLand : Prop :=
  (∀ (s : State) (f : FormeId) (t : SlugTag) (sl : Slug), findSlug (s.forme f) t = some sl → mayPass (s.forme f) sl = true →
    readsBad s f sl = false → sl.matched = 0 → hostProofs sl = [] →
    ∃ u, exec (.slugPassPoint f t) s = .next u ∧ ElsewhereKept f s u ∧ u.out = s.out ∧
      ∃ z, findSlug (u.forme f) t = some z ∧ z.state = .passing ∧ z.proofs = sl.proofs ∧ z.tag = t) ∧
  (∀ (s : State) (f : FormeId) (t : SlugTag) (sl : Slug) (l : Launch) (a : Nat) (d : List Byte), MemoryOk s →
    findSlug (s.forme f) t = some sl → sl.state = .passing → sl.wait = .none → sl.written = false → sl.proofs = [.galley a d] →
    sl.matched = 0 → sl.appended = 0 → sl.remoteDue = [] → sl.released = 0 → releaseOps (s.forme f) sl = [] →
    useOut s (.result f sl.ring sl.seq) = false → useOut s (.slugWrite f t) = false → ((s.forme f).ring sl.ring).heldResults = [] →
    findLaunch (s.forme f) sl.ring sl.seq = some l →
    ∃ u, exec (.proofWritesDone f t) s = .next u ∧
      (∀ x : Nat, galleyByte u.galley x = if a ≤ x ∧ x < a + d.length then d.getD (x - a) 0 else galleyByte s.galley x) ∧
      (∃ z, findSlug (u.forme f) t = some z ∧ z.state = .passed ∧ z.proofs = [] ∧ z.reserved = false) ∧
      (∃ k, findLaunch (u.forme f) sl.ring sl.seq = some k ∧ k.passed = satInc l.passed ∧ k.flags = (l.flags ||| sl.flags)) ∧
      u.stack = s.stack ∧ u.out = s.out ∧ u.time = s.time ∧ (∀ g : FormeId, g ≠ f → u.forme g = s.forme g))

/-- RELEASE_DRAIN_DONE (R288): the next RELEASE of a drained PASSING slug writes its flag in the forme's stack space, the value for SET
and the old word plus the value for ADD: exactly those eight bytes change.
ACQUIRE_FLAG_POLL (R289, R291): a QUEUED slug that opens with an ACQUIRE_WAIT is satisfied when NO_FLAG is set or its flag in the
forme's stack space is not below the value, unsigned; otherwise it waits and nothing changes. -/
def Obligations.FlagsReleaseAndAcquire : Prop :=
  (∀ (s : State) (f : FormeId) (t : SlugTag) (sl : Slug) (o : OpRec) (c : FormeCfg) (g : Region) (off : Nat),
    findSlug (s.forme f) t = some sl → sl.state = .passing → drained s f sl = true → (releaseOps (s.forme f) sl)[sl.released]? = some o →
    (s.forme f).cfg = some c → c.regions = [g] → fld (opWord o 0) 9 8 < 2 → place? s f (devAddr (opWord o 1)) 8 = .stack off →
    ∃ u, exec (.releaseDrainDone f t) s = .next u ∧
      (∀ k x : Nat, stackByte u.stack.mem k x =
        if g.base * 2 ^ 30 + off ≤ x ∧ x < g.base * 2 ^ 30 + off + 8
        then (leBytes 8 (if fld (opWord o 0) 9 8 = 1 then (s.stackWord f off).getD 0 + opWord o 2 else opWord o 2).toNat).getD
          (x - (g.base * 2 ^ 30 + off)) 0
        else stackByte s.stack.mem k x) ∧
      findSlug (u.forme f) t = some { sl with released := sl.released + 1 } ∧
      u.galley = s.galley ∧ u.out = s.out ∧ u.time = s.time ∧ (∀ h : FormeId, h ≠ f → u.forme h = s.forme h)) ∧
  (∀ (s : State) (f : FormeId) (t : SlugTag) (w : Word) (sl : Slug) (o : OpRec) (off : Nat), findSlug (s.forme f) t = some sl →
    acquireOp (s.forme f) sl = some o → sl.state = .queued → sl.inStep = false →
    acquireNoFlag o = true ∨ (place? s f (devAddr (opWord o 1)) 8 = .stack off ∧ s.poisonedLine f off 8 = none ∧ flagHolds s f o off = true) →
    ∃ u, exec (.acquireFlagPoll f t w) s = .next u ∧
      (∃ z, findSlug (u.forme f) t = some z ∧ z.acquired = true ∧ z.op = 1 ∧ z.state = .queued ∧ z.consts = sl.consts) ∧
      u.stack.mem = s.stack.mem ∧ u.galley = s.galley ∧ u.out = s.out) ∧
  (∀ (s : State) (f : FormeId) (t : SlugTag) (w : Word) (sl : Slug) (o : OpRec) (off : Nat), findSlug (s.forme f) t = some sl →
    acquireOp (s.forme f) sl = some o → acquireNoFlag o = false → place? s f (devAddr (opWord o 1)) 8 = .stack off →
    s.poisonedLine f off 8 = none → flagHolds s f o off = false → exec (.acquireFlagPoll f t w) s = .next s)

/-- OP_COMPLETE (R184): with no inked chunk lost and PROOF_KIB kept, a RELEASE op moves the slug on; a product keeps the rows that its
cores drain as a proof, the tensor's bytes as R432 stores them; after the last op the slug is PROVED and holds no core. An attention op
without a good descriptor fails its slug with 0x0902 (R178), and an update op without one with 0x0B02 (R221). Choices of the model it
rests on: log 35, 39. -/
def Obligations.OpsComplete : Prop :=
  (∀ (s : State) (f : FormeId) (t : SlugTag) (n : Nat) (w : Option FinWork) (sl : Slug) (o : OpRec) (v : Version),
    currentOp s f t = some (sl, o) → slugVersion (s.forme f) sl = some v → (∀ k ∈ s.copies, k.dead = []) → opKind o = 9 →
    (∀ c : Context, findCtx (s.forme f) sl.ctx = some c → c.state = .resident) → proofLines sl.proofs ≤ sl.proofKib * 4 →
    ∃ u, exec (.opComplete f t n w) s = .next u ∧
      (∃ z, findSlug (u.forme f) t = some z ∧ z.op = sl.op + 1 ∧ z.proofs = sl.proofs ∧
        z.state = (if (opsOf (s.forme f) sl).length ≤ sl.op + 1 then .proved else .running) ∧
        ((opsOf (s.forme f) sl).length ≤ sl.op + 1 → z.cores = [])) ∧
      u.stack = s.stack ∧ u.galley = s.galley ∧ u.out = s.out) ∧
  (∀ (s s1 : State) (f : FormeId) (t : SlugTag) (n : Nat) (sl z : Slug) (o : OpRec) (v : Version) (x : ProdInput) (tr : TensorRec),
    currentOp s f t = some (sl, o) → AtHand s f sl v o none s1 z → (∀ k ∈ s.copies, k.dead = []) → opKind o = 1 →
    prodInput s1 f z v o none = .ok (some x) → x.rung = none → findTensor v (handleLo o 2) = some tr → tr.isLocal = false →
    drained? v z = false →
    let r := rowInput (prodOp o x.q) z x.as x.own none
    let run := prodRun o z x r
    let y := run.all s1 f t (run.jobs z.cores (tileHome (s1.forme f) z (handleLo o 1) (turns r.p.wRev)))
    let rows := (run.drained y.2.1).mapIdx (fun i d => drainRow r.p (fun j => r.p.outWord z (i * x.out.cols + j)) d)
    let bytes := tensorBytes r.p.oFmt x.out.cols { codes := rows.flatMap (·.1), scales := rows.flatMap (·.2.1) }
    y.2.2 = none → proofLines (addProof sl.proofs (.tensor (handleLo o 2) bytes)) ≤ sl.proofKib * 4 →
    ∃ u, exec (.opComplete f t n none) s = .next u ∧
      (∃ z', findSlug (u.forme f) t = some z' ∧ z'.op = sl.op + 1 ∧ Proof.tensor (handleLo o 2) bytes ∈ z'.proofs) ∧
      u.stack.mem = s.stack.mem ∧ u.galley = s.galley ∧ u.out = s.out) ∧
  (∀ (s s1 : State) (f : FormeId) (t : SlugTag) (n : Nat) (w : Option FinWork) (sl z : Slug) (o : OpRec) (v : Version) (c : Context) (l : Launch),
    SoleSlug s f t sl → currentOp s f t = some (sl, o) → AtHand s f sl v o w s1 z →
    findCtx (s1.forme f) z.ctx = some c → findLaunch (s1.forme f) z.ring z.seq = some l →
    (opKind o = 3 ∧ (findTensor v (handleLo o 3)).isSome = true ∧ attnGather s1 f z v (devAddr (opWord o 1)) = .fails 0x0902) ∨
      (opKind o = 6 ∧ updateInput s1 f z l (devAddr (opWord o 1)) (jobAddr l o) = .fails 0x0B02) →
    ∃ u z', exec (.opComplete f t n w) s = .next u ∧ findSlug (u.forme f) t = some z' ∧ z'.state = .failed ∧
      z'.status = (if opKind o = 3 then 0x0902 else 0x0B02) ∧ z'.proofs = [] ∧ z'.reserved = false)

/-- MATCH_PROMPT and LEAF_COPY_DONE (R174): the first slug of a prefill of an empty context keeps the runs its prompt matches, for its
pass; the copy of another forme's runs, once nothing that it reads or writes by is still to come, takes the records that still stand, in whole groups of four, and the
slug goes on. Choices of the model it rests on: log 31, 89. -/
def Obligations.PromptsMatch : Prop :=
  (∀ (s : State) (f : FormeId) (t : SlugTag) (sl : Slug) (o : OpRec) (c : FormeCfg) (ctx : Context),
    currentOp s f t = some (sl, o) → (∀ k ∈ s.copies, k.dead = []) → opKind o = 8 →
    (s.forme f).cfg = some c → findCtx (s.forme f) sl.ctx = some ctx → ctx.length = 0 → proofLines sl.proofs ≤ sl.proofKib * 4 →
    ∃ u, exec (.matchPrompt f t) s = .next u ∧
      (∃ z, findSlug (u.forme f) t = some z ∧ z.op = sl.op + 1 ∧
        z.matched = (matchPromptRuns s c ctx (promptCodes s f sl (handleLo o 1)) (fld (opWord o 2) 23 0)).1) ∧
      u.stack = s.stack ∧ u.galley = s.galley ∧ u.out = s.out ∧ u.index = s.index) ∧
  (∀ (s : State) (f : FormeId) (t : SlugTag) (sl : Slug) (h : FormeId × List Nat), findSlug (s.forme f) t = some sl →
    sl.state = .passing → sl.wait = .matchCopy → sl.asked = [] → foreignHit f sl = some h → copyReads s f sl = false →
    spillWaits s f (copyHomes s f h.1 sl).flatten = false →
    ∃ u z, exec (.leafCopyDone f t) s = .next u ∧ findSlug (u.forme f) t = some z ∧ z.wait = .none ∧
      z.state = .passing ∧ z.matched % 4 = 0 ∧ z.matched ≤ (hitRecords s h.1 h.2).length ∧ u.galley = s.galley ∧ u.time = s.time)

/-! ### Make-up and the run scheduler -/

/-- PLAN_COMPLETE (R123, R126, R134 to R136): a due plan that places every sheet is in force, counts in PLANS and has its digest in
MAKEUP_STATUS, here one that moves nothing to or from the spill range; one that does not place them all leaves the old plan and completes
the launch that made the key with 0x0701; a running step keeps its plan.
RUNAHEAD_FETCH_DONE and EXPLICIT_REGION_APPLY (R127, R128, R134, R387): a sheet of the stack that the core's stream reads is staged in
free pages, and its bytes are charged; with no launch in flight the explicit region takes its new size and reads zero, but for pages that
are still homes of the plan in force, and nothing else of galley changes. Choices of the model it rests on: log 41, 45. -/
def Obligations.PlansAndStaging : Prop :=
  (∀ (s : State) (f : FormeId) (ps : List Placed), planMayEnd s f = true → makePlan s f = some ps →
    (∀ m ∈ planMoves (s.forme f) ps, spillPagesOf m.src m.pages = [] ∧ spillPagesOf m.dst m.pages = []) →
    ∃ t, exec (.planComplete f) s = .next t ∧ (t.forme f).makeup.plans = (s.forme f).makeup.plans + 1 ∧
      (t.forme f).makeup.plan = ps.map (planRec (s.forme f).makeup.explicitActive) ∧
      (t.forme f).makeup.digest = planDigest (ps.map (planRec (s.forme f).makeup.explicitActive)) ∧
      (t.forme f).makeup.explicitActive = (s.forme f).makeup.explicitActive ∧
      (planMoves (s.forme f) ps = [] → OnlyForme f s t ∧ (t.forme f).launches = (s.forme f).launches)) ∧
  (∀ (s : State) (f : FormeId) (r : RingId) (q : Seq) (l : Launch) (c : FormeCfg), planMayEnd s f = true →
    makePlan s f = none → (s.forme f).makeup.keyMaker = some (r, q) → findLaunch (s.forme f) r q = some l → l.phase = .running →
    l.imposedStatus = none → l.fault = none → l.seq = q → (s.forme f).cfg = some c → ((s.forme f).ring r).state ≠ 2 →
    ∃ t, exec (.planComplete f) s = .next t ∧ (t.forme f).makeup.plan = (s.forme f).makeup.plan ∧
      (t.forme f).makeup.plans = (s.forme f).makeup.plans ∧ (t.forme f).makeup.code = 0x0701 ∧
      ∃ k, k.status = 0x0701 ∧ k.seq = q ∧ RecordSent f r k s t) ∧
  (∀ (s : State) (f : FormeId), planMayEnd s f = false → exec (.planComplete f) s = .next s) ∧
  (∀ (s : State) (f : FormeId) (c : CoreId) (h : SheetId) (p : PlanRec) (a : Nat) (d : List Byte),
    (s.forme f).makeup.plan.find? (·.sheet == h) = some p → (s.forme f).makeup.stale.contains h = false → p.home = .stackPage a →
    mayStage s f c p = true → (fetchLines s f p).any s.stack.isPoisoned = false →
    ∃ t, exec (.runaheadFetchDone f c { id := h, data := .data d }) s = .next t ∧
      (t.forme f).makeup.staged = (s.forme f).makeup.staged ++ [{ core := c, sheet := h, src := some a, spill := none, data := [] }] ∧
      (t.platen.account[f.val]).current = (s.platen.account[f.val]).current + 65536 * p.pages * (17100 + 205) ∧
      t.stack.mem = s.stack.mem ∧ t.galley = s.galley ∧ (∀ g : FormeId, g ≠ f → t.forme g = s.forme g)) ∧
  (∀ (s : State) (f : FormeId), (s.forme f).makeup.explicitDue = true → formeInflight (s.forme f) = 0 →
    ∃ t, exec (.explicitRegionApply f) s = .next t ∧
      t.forme f = { s.forme f with makeup := { (s.forme f).makeup with
        explicitActive := (s.forme f).makeup.explicitMib, explicitDue := false } } ∧
      (∀ c ∈ (s.forme f).cores, ∀ o < 2 ^ 20 * (s.forme f).makeup.explicitMib,
        (∀ p ∈ (s.forme f).makeup.plan, ∀ a : Nat, p.home = .galley c a → 2 ≤ p.cls → o / 65536 < a ∨ a + p.pages ≤ o / 65536) →
        galleyByte t.galley (c.val * 2 ^ 28 + o) = 0) ∧
      (∀ x : Nat, (∀ c ∈ (s.forme f).cores, x < c.val * 2 ^ 28 ∨ c.val * 2 ^ 28 + 2 ^ 20 * (s.forme f).makeup.explicitMib ≤ x) →
        galleyByte t.galley x = galleyByte s.galley x) ∧
      t.stack = s.stack ∧ (∀ g : FormeId, g ≠ f → t.forme g = s.forme g))

/-- SWAP_START and SAVE_SPACE_RETEST (R280 to R282): the runnable swapped context of R280 comes in at once where a resident place is
free, otherwise the victim of R280 starts to leave, or the swap waits in SWAP_STATE 3 for save space.
SWAP_OUT_COPY_DONE, SWAP_IN_DONE and SWAP_SLICE_DRAINED (R281): the last pages of the victim's image are copied to the slice of their
core, the victim is swapped, and the incoming image moves; its sheets, here with no page in the spill range, are then at their new homes
and the incoming context is resident;
a slice goes to the image's pages of the save area, and the swap is over once the slices are empty. Choices of the model it rests on:
log 87, 94. -/
def Obligations.Swaps : Prop :=
  (∀ (s : State) (f : FormeId) (inc : Context), (s.forme f).sched.swap.state = 0 ∨ (s.forme f).sched.swap.state = 3 →
    swapIncoming (s.forme f) = some inc → residentPlaces (s.forme f) < (s.forme f).sched.residentMax →
    ∃ t k, exec (if (s.forme f).sched.swap.state = 0 then .swapStart f else .saveSpaceRetest f) s = .next t ∧ OnlyForme f s t ∧
      findCtx (t.forme f) inc.num = some k ∧ k.state = .swappingIn ∧ (t.forme f).sched.swap.state = 2 ∧
      (t.forme f).sched.swap.incoming = some inc.num ∧ (t.forme f).sched.swap.victim = none) ∧
  (∀ (s : State) (f : FormeId) (inc v : Context) (ms : List (BitVec 16 × ImageAt)),
    (s.forme f).sched.swap.state = 0 ∨ (s.forme f).sched.swap.state = 3 →
    swapIncoming (s.forme f) = some inc → (s.forme f).sched.residentMax ≤ residentPlaces (s.forme f) → swapVictim s f = some v →
    saveRoom (s.forme f) (imageSize (imageSheets (s.forme f) v)) = some ms → moveSpill (s.forme f) ms = [] →
    ∃ t, exec (if (s.forme f).sched.swap.state = 0 then .swapStart f else .saveSpaceRetest f) s = .next t ∧
      (t.forme f).sched.swap.state = 1 ∧ (t.forme f).sched.swap.incoming = some inc.num ∧ (t.forme f).sched.swap.victim = some v.num ∧
      t.galley = s.galley ∧ t.out = s.out ∧ (ms = [] → OnlyForme f s t)) ∧
  (∀ (s : State) (f : FormeId) (inc v : Context), (s.forme f).sched.swap.state = 0 ∨ (s.forme f).sched.swap.state = 3 →
    swapIncoming (s.forme f) = some inc → (s.forme f).sched.residentMax ≤ residentPlaces (s.forme f) → swapVictim s f = some v →
    saveRoom (s.forme f) (imageSize (imageSheets (s.forme f) v)) = none →
    ∃ t, exec (if (s.forme f).sched.swap.state = 0 then .swapStart f else .saveSpaceRetest f) s = .next t ∧ OnlyForme f s t ∧
      (t.forme f).sched.swap.state = 3 ∧ (t.forme f).ctxs = (s.forme f).ctxs) ∧
  (∀ (s : State) (f : FormeId) (c : CoreId) (v i : BitVec 16) (ps : List (Nat × CoreId × Nat)) (kv ki : Context), MemoryOk s →
    (s.forme f).sched.swap.state = 1 → (s.forme f).sched.swap.victim = some v → (s.forme f).sched.swap.incoming = some i → v ≠ i →
    (s.forme f).sched.swap.incomingIn = false → (s.forme f).sched.swap.toCopy = ps → (s.forme f).sched.swap.slice = [] →
    ps ≠ [] → (∀ p ∈ ps, p.2.1 = c ∧ p.2.2 < sliceBase (s.forme f)) → ps.length ≤ swapSlice (s.forme f) →
    findCtx (s.forme f) v = some kv → kv.state = .swappingOut → findCtx (s.forme f) i = some ki →
    ∃ t a b, exec (.swapOutCopyDone f c) s = .next t ∧ findCtx (t.forme f) v = some a ∧ a.state = .swapped ∧ a.image = kv.image ∧
      findCtx (t.forme f) i = some b ∧ b.state = .swappingIn ∧ (t.forme f).sched.swap.state = 2 ∧ (t.forme f).sched.swap.toCopy = [] ∧
      (t.forme f).sched.swap.slice = ps.zipIdx.map (fun p => (p.1.1, c, sliceBase (s.forme f) + p.2)) ∧
      (∀ (n : Nat) (p : Nat × CoreId × Nat), ps[n]? = some p → ∀ o < 65536,
        galleyByte t.galley (c.val * 2 ^ 28 + (sliceBase (s.forme f) + n) * 65536 + o) = galleyByte s.galley (c.val * 2 ^ 28 + p.2.2 * 65536 + o)) ∧
      t.stack = s.stack ∧ t.out = s.out ∧ (∀ g : FormeId, g ≠ f → t.forme g = s.forme g)) ∧
  (∀ (s : State) (f : FormeId) (i : BitVec 16) (k : Context), MemoryOk s → (s.forme f).sched.swap.state = 2 →
    (s.forme f).sched.swap.incoming = some i → findCtx (s.forme f) i = some k → planDue s f = false → imageHomed (s.forme f) k = true →
    imageSpill k = [] → restoreSpill (s.forme f) k = [] → s.stack.poisoned = [] → s.stack.poisonSets = [] →
    ∃ t a, exec (.swapInDone f) s = .next t ∧ findCtx (t.forme f) i = some a ∧ a.state = .resident ∧ a.image = 0 ∧
      (t.forme f).sched.swap.state = (if (s.forme f).sched.swap.slice = [] ∧ (s.forme f).sched.swap.toCopy = [] then 0 else 1) ∧
      (∀ (p q : PlanRec) (j : Nat) (c : CoreId) (g : Nat), k.saved = [p] → p.pages = 1 → (s.forme f).sched.swap.victim ≠ some i →
        k.imageAt = .save [j] → planOf (s.forme f) k.num p.sheet.handle p.sheet.index = some q → q.home = .galley c g → 1 ≤ q.pages →
        t.stack = s.stack ∧ t.out = s.out ∧ ∀ o < 65536, galleyByte t.galley (c.val * 2 ^ 28 + g * 65536 + o) = saveByte s f j o)) ∧
  (∀ (s : State) (f : FormeId) (c : CoreId) (n g j : Nat) (v : BitVec 16) (k : Context) (js : List Nat) (cfg : FormeCfg) (key : Nat),
    MemoryOk s → (s.forme f).sched.swap.slice = [(n, c, g)] → (s.forme f).sched.swap.victim = some v → findCtx (s.forme f) v = some k →
    k.imageAt = .save js → js[n]? = some j → (s.forme f).cfg = some cfg → (s.forme f).kStack = some key →
    ∃ t, exec (.swapSliceDrained f c) s = .next t ∧ (t.forme f).sched.swap.slice = [] ∧ (t.forme f).ctxs = (s.forme f).ctxs ∧
      ((s.forme f).sched.swap.incomingIn = true → (s.forme f).sched.swap.toCopy = [] → (t.forme f).sched.swap = Swap.reset) ∧
      (∀ o < 65536, saveByte t f j o = galleyByte s.galley (c.val * 2 ^ 28 + g * 65536 + o)) ∧
      (∀ x : Nat, x < saveAddr cfg j ∨ saveAddr cfg j + 65536 ≤ x → stackByte t.stack.mem key x = stackByte s.stack.mem key x) ∧
      (t.platen.account[f.val]).current = (s.platen.account[f.val]).current + 65536 * (17100 + 205) ∧
      t.galley = s.galley ∧ t.out = s.out)

/-! ### Stack channels -/

/-- CHANNEL_MAP_OUT and CHANNEL_COMMAND_TIMEOUT (R148, R149, R151, R155): a channel leaves service, draining after detections on 16 lines
or failed at once; usable memory falls by 4 GiB and every GEN moves on; with the failed kind every displaced line of it is poisoned.
Formes that end below the new limit keep all they have. Fewer than four timeouts of a trained channel change
nothing; the 33rd channel retires a module, here one that holds no imposition (R152).
MIGRATION_COMPLETE (R151): lines of a draining channel whose read detected are written poisoned, and the next migration that waits
starts. Choices of the model it rests on: log 67. -/
def Obligations.ChannelsLeaveService : Prop :=
  (∀ (s : State) (ch : ChannelId) (failed : Bool), s.boot.power = .on → s.stack.retired = false → ch ∉ s.flash.mapOut →
    s.flash.mapOut.length < 32 → s.colo.reimp = none → s.stack.migrating = none → s.copies = [] → (failed = false → 16 ≤ linesDetected s ch) →
    (∀ (f : FormeId) (c : FormeCfg), (s.forme f).cfg = some c → ∀ r ∈ c.regions, r.base + r.len + 4 ≤ s.usableGib) →
    ∃ t, exec (.channelMapOut ch (if failed then .failed else .draining)) s = .next t ∧ t.flash.mapOut = s.flash.mapOut ++ [ch] ∧
      t.usableGib + 4 = s.usableGib ∧ t.stack.migrating = some (ch, failed) ∧ t.stack.mem = s.stack.mem ∧
      (∀ f : FormeId, t.forme f = { s.forme f with geoGen := nextGen (s.forme f).geoGen }) ∧
      (failed = false → t.stack.poisonSets = s.stack.poisonSets ∧ t.stack.poisoned = s.stack.poisoned) ∧
      (failed = true → ∀ l : Nat, channelOf (256 * l) = ch → l < t.usableGib * 2 ^ 22 ∨ 952 * 2 ^ 22 ≤ l → t.stack.isPoisoned l = true)) ∧
  (∀ (s : State) (ch : ChannelId) (n : Nat) (up : Bool), s.boot.power = .on → s.stack.retired = false → ch ∉ s.flash.mapOut →
    s.flash.mapOut.length < 32 → s.colo.reimp = none → s.stack.migrating = none → s.copies = [] → 4 ≤ n ∨ up = false →
    (∀ (f : FormeId) (c : FormeCfg), (s.forme f).cfg = some c → ∀ r ∈ c.regions, r.base + r.len + 4 ≤ s.usableGib) →
    ∃ t, exec (.channelCommandTimeout ch n up) s = .next t ∧ t.flash.mapOut = s.flash.mapOut ++ [ch] ∧
      t.stack.migrating = some (ch, true) ∧ (∀ f : FormeId, t.forme f = { s.forme f with geoGen := nextGen (s.forme f).geoGen })) ∧
  (∀ (s : State) (ch : ChannelId) (n : Nat), n < 4 → exec (.channelCommandTimeout ch n true) s = .next s) ∧
  (∀ (s : State) (ch : ChannelId), s.boot.power = .on → s.stack.retired = false → ch ∉ s.flash.mapOut → s.flash.mapOut.length = 32 →
    s.colo.phase = 0 → (∀ f : FormeId, (s.forme f).cfg = none) →
    ∃ t, exec (.channelMapOut ch .failed) s = .next t ∧ t.stack.retired = true ∧ t.colo.withheld = 0xFFFF ∧
      t.flash.mapOut = s.flash.mapOut ++ [ch] ∧ t.stack.migrating = none ∧ t.formes = s.formes) ∧
  (∀ (s : State) (ch : ChannelId) (failed : Bool) (ls : List Nat), s.stack.migrating = some (ch, failed) →
    ∃ t, exec (.migrationComplete ls) s = .next t ∧ t.stack.migrating = s.stack.pendingMig.head? ∧
      t.stack.pendingMig = s.stack.pendingMig.tail ∧ t.stack.mem = s.stack.mem ∧ (∀ l ∈ s.stack.poisoned, l ∈ t.stack.poisoned) ∧
      (failed = false → ∀ l ∈ ls, channelOf (256 * l) = ch → outsideRelocation s.flash.mapOut l = true → l ∈ t.stack.poisoned) ∧
      t.formes = s.formes ∧ t.galley = s.galley ∧ t.flash = s.flash)

/-! ### The inker -/

/-- INK and INK_HEADER_READ_DONE (R228 to R230, R233, R240): a request whose MODE fits its binding has its header read; one that does
not is answered 0x0C08, and one for the binding in progress 0x0C06. An image that passes the checks in an empty room is accepted with
STATUS 0 and its next chunk is read; an image wrapped to another key is refused with 0x0C03, a malformed header or directory with
0x0C02. Choices of the model it rests on: log 48, 63, 87. -/
def Obligations.InkRequests : Prop :=
  (∀ (s : State) (f : FormeId) (m : Vector Word 16) (c : FormeCfg), Delivered s (.plain f) 1 m → (s.forme f).inker.req = none →
    (s.forme f).cfg = some c → modeFits ((s.forme f).binding (inkReq m).binding) (inkReq m).mode.toNat = true →
    ∃ t, exec (.ink f) s = .next t ∧ (t.mbox (.plain f)).full = false ∧ (t.forme f).inker.req = some (inkReq m) ∧
      (t.forme f).inker.state = 1 ∧ (t.forme f).inker.bindings = (s.forme f).inker.bindings ∧
      t.out = s.out ++ [.drd c.port c.fnId (s.reqTag c.port) false m[1] 4096] ∧ t.stack = s.stack) ∧
  (∀ (s : State) (f : FormeId) (m : Vector Word 16), Delivered s (.plain f) 1 m → (s.forme f).inker.req = none →
    modeFits ((s.forme f).binding (inkReq m).binding) (inkReq m).mode.toNat = false →
    ∃ t, exec (.ink f) s = .next t ∧ RespondedWith (.plain f) (mkResponse 1 (msgTag m) 0x0C08 []) s t ∧ (t.forme f).inker.code = 0x0C08 ∧
      (t.forme f).inker.req = none) ∧
  (∀ (s : State) (f : FormeId) (m : Vector Word 16) (q : InkReq), Delivered s (.plain f) 1 m → (s.forme f).inker.req = some q →
    q.binding = (inkReq m).binding →
    ∃ t, exec (.ink f) s = .next t ∧ RespondedWith (.plain f) (mkResponse 1 (msgTag m) 0x0C06 []) s t ∧ (t.forme f).inker.req = some q) ∧
  (∀ (s : State) (f : FormeId) (q : InkReq) (h : InkHeader), (s.forme f).inker.req = some q →
    q.copy = none → q.shareMask = 0 → inkHeaderOk h.blob = true →
    ∃ t, exec (.inkHeaderReadDone f (.data h)) s = .next t ∧ (t.forme f).inker.bindings = (s.forme f).inker.bindings ∧
      match (s.forme f).inkKey.bind (fun n => imageKey n h.blob), h.lead with
      | none, _ => Answered (.plain f) (mkResponse 1 q.tag 0x0C03 []) s t ∧ (t.forme f).inker.req = none ∧
        (t.forme f).inker.state = 0 ∧ (t.forme f).inker.code = 0x0C03 ∧ t.stack = s.stack
      | some _, .fault _ a => Answered (.plain f) (mkResponse 1 q.tag 0x0C05 []) s t ∧ (t.forme f).inker.req = none ∧
        (t.forme f).ecp.faultAddr = a.truncate 52
      | some key, .data bs =>
        let chunks := blobLe h.blob 8 4
        let plain := (bs.take chunks).zipIdx.map (fun b => (b.2, chunkPlain key (BitVec.ofNat 64 (blobLe h.blob 0x10 8)) b.2 b.1))
        let d := readDir (plain.flatMap (·.2))
        (inkPartsOk chunks d = false ∨ (leadHolds plain.length d = true ∧ inkDirOk chunks d = false) →
          Answered (.plain f) (mkResponse 1 q.tag 0x0C02 []) s t ∧ (t.forme f).inker.req = none ∧ (t.forme f).inker.code = 0x0C02) ∧
        (inkPartsOk chunks d = true → leadHolds plain.length d = true → inkDirOk chunks d = true →
          privateRoom (s.forme f) q (footprintPages d) = .live →
          Answered (.plain f) (mkResponse 1 q.tag 0 []) s t ∧ (t.forme f).inker.state = 1 ∧
          (∃ i, (t.forme f).inker.req = some { q with copy := some i } ∧ i.base = q.base ∧ i.pages = footprintPages d ∧
            i.chunks = chunks ∧ i.key = key ∧ i.dir = d ∧ i.shared = false) ∧
          (plain.length < chunks → ∀ c : FormeCfg, (s.forme f).cfg = some c →
            ∃ tag, t.out.getLast? = some (.drd c.port c.fnId tag false (q.source + BitVec.ofNat 64 (4096 + plain.length * 1048576)) 1048576)))) ∧
  (∀ (s : State) (f : FormeId) (q : InkReq) (h : InkHeader), (s.forme f).inker.req = some q → q.copy = none →
    inkHeaderOk h.blob = false →
    ∃ t, exec (.inkHeaderReadDone f (.data h)) s = .next t ∧ Answered (.plain f) (mkResponse 1 q.tag 0x0C02 []) s t ∧
      (t.forme f).inker.req = none ∧ (t.forme f).inker.state = 0 ∧ (t.forme f).inker.code = 0x0C02 ∧
      (t.forme f).inker.bindings = (s.forme f).inker.bindings ∧ t.stack = s.stack ∧ t.galley = s.galley)

/-- INK_CHUNK_DONE, INK_COPY_COMPLETE and STOP_SERVICE_DRAINED (R230, R234, R235, R240): a chunk counts in DONE and is decoded into the
copy; after the last the copy awaits the step boundary with STATE 2; a faulting chunk ends the request with 0x0C05 and leaves the
binding; a stopped forme with no launch in flight drops its old copy and reads the new one.
CHUNK_REFETCH_DONE (R237, R238): a bad chunk read again from its source is bad no more in any use of the copy; a source that faults
leaves it bad for good, with 0x0C01. Choices of the model it rests on: log 63. -/
def Obligations.InkCopiesAndChunks : Prop :=
  (∀ (s : State) (f : FormeId) (q : InkReq) (i : ImageCopy) (b : Blob) (c : FormeCfg), (s.forme f).inker.req = some q →
    q.copy = some i → (s.forme f).inker.state = 1 → (s.forme f).inker.done.toNat < i.chunks → (s.forme f).cfg = some c →
    let n := (s.forme f).inker.done.toNat
    ∃ t, exec (.inkChunkDone f (.data b)) s = .next t ∧ (t.forme f).inker.done = (s.forme f).inker.done + 1 ∧
      (t.forme f).inker.req = some { q with copy := some (takeChunk (s.retireUse (.inkChunk f)) f i n (chunkPlain i.key i.nonce n b)).2 } ∧
      (t.forme f).inker.bindings = (s.forme f).inker.bindings ∧ t.galley = s.galley ∧
      t.stack.mem = (takeChunk (s.retireUse (.inkChunk f)) f i n (chunkPlain i.key i.nonce n b)).1.stack.mem ∧
      (if n + 1 < i.chunks
        then ∃ tag, t.out = s.out ++ [.drd c.port c.fnId tag false (q.source + BitVec.ofNat 64 (4096 + (n + 1) * 1048576)) 1048576]
        else t.out = s.out)) ∧
  (∀ (s : State) (f : FormeId) (q : InkReq) (i : ImageCopy) (st : EcpStatus) (a : HostAddr), (s.forme f).inker.req = some q →
    q.copy = some i → (s.forme f).inker.state = 1 → (s.forme f).inker.done.toNat < i.chunks →
    ∃ t, exec (.inkChunkDone f (.fault st a)) s = .next t ∧ (t.forme f).inker.req = none ∧ (t.forme f).inker.state = 0 ∧
      (t.forme f).inker.code = 0x0C05 ∧ (t.forme f).ecp.faultAddr = a.truncate 52 ∧ (t.forme f).inker.bindings = (s.forme f).inker.bindings ∧
      t.stack = s.stack) ∧
  (∀ (s : State) (f : FormeId) (q : InkReq) (i : ImageCopy), (s.forme f).inker.req = some q → q.copy = some i →
    (s.forme f).inker.state = 1 ∨ (s.forme f).inker.state = 3 → (s.forme f).inker.done.toNat = i.chunks →
    ∃ t, exec (.inkCopyComplete f) s = .next t ∧ OnlyForme f s t ∧
      t.forme f = { s.forme f with inker := { (s.forme f).inker with state := 2 } }) ∧
  (∀ (s : State) (f : FormeId) (q : InkReq) (i o : ImageCopy) (c : FormeCfg), (s.forme f).inker.req = some q → q.copy = some i →
    q.dropped = false → (s.forme f).inker.state = 3 → formeInflight (s.forme f) = 0 → (s.forme f).cfg = some c →
    ((s.forme f).binding q.binding).image = some o → o.shared = false →
    ∃ t, exec (.stopServiceDrained f) s = .next t ∧
      (∃ k, (t.forme f).inker.req = some { q with dropped := true, copy := some k } ∧ k.gen = i.gen) ∧
      ((t.forme f).binding q.binding).image = none ∧ ((t.forme f).binding q.binding).old = ((s.forme f).binding q.binding).old ∧
      (t.forme f).inker.done.toNat = i.plain.length % 2 ^ 32 ∧
      (i.plain.length < i.chunks → ∃ tag,
        t.out = s.out ++ [.drd c.port c.fnId tag false (q.source + BitVec.ofNat 64 (4096 + i.plain.length * 1048576)) 1048576])) ∧
  (∀ (s : State) (f : FormeId) (b : BindingId) (n : Nat) (d : Blob) (i : ImageCopy), refetchCopy s f b n = some i →
    ∃ t, exec (.chunkRefetchDone f b n (.data d)) s = .next t ∧
      (∀ k ∈ t.copies, k.gen = i.gen → n ∉ k.bad ∧ n ∈ k.fresh) ∧ t.out = s.out ∧ t.galley = s.galley ∧ t.time = s.time) ∧
  (∀ (s : State) (f : FormeId) (b : BindingId) (n : Nat) (st : EcpStatus) (a : HostAddr) (i : ImageCopy), refetchCopy s f b n = some i →
    ∃ t, exec (.chunkRefetchDone f b n (.fault st a)) s = .next t ∧ (∀ k ∈ t.copies, k.gen = i.gen → n ∈ k.dead) ∧
      (t.forme f).inker.code = 0x0C01 ∧ (t.forme f).ecp.faultAddr = a.truncate 52)

/-- ATTACH and DETACH (R231, R236): a shareable copy whose mask names the forme is attached and answered 0, anything else is 0x0C02;
DETACH of a full binding takes effect, and is answered, at the next step boundary, and of an empty one is 0x0C08. Choices of the model it rests on: log 59, 63. -/
def Obligations.AttachDetach : Prop :=
  (∀ (s : State) (f g : FormeId) (gb b : BindingId) (m : Vector Word 16), Delivered s (.plain f) 2 m →
    g.val = fld m[1] 3 0 → gb.val = fld m[1] 6 4 → b.val = fld m[2] 2 0 →
    ∃ t, exec (.attach f) s = .next t ∧
      match attachCopy s f g gb b with
      | some i => RespondedWith (.plain f) (mkResponse 2 (msgTag m) 0 []) s t ∧
        ((t.forme f).binding b).attached = some (g, gb) ∧ ((t.forme f).binding b).attachedGen = i.gen ∧
        ((t.forme f).binding b).set = .image i.gen ∧ ((t.forme f).binding b).bHash = shake256Hash (dsetBytes (imageSet i)) ∧ (∀ k : BindingId, k ≠ b → (t.forme f).binding k = (s.forme f).binding k)
      | none => RespondedWith (.plain f) (mkResponse 2 (msgTag m) 0x0C02 []) s t ∧ (t.forme f).inker.code = 0x0C02 ∧
        (t.forme f).inker.bindings = (s.forme f).inker.bindings) ∧
  (∀ (s : State) (f : FormeId) (b : BindingId) (m : Vector Word 16), Delivered s (.plain f) 5 m → b.val = fld m[1] 2 0 →
    bindingFull ((s.forme f).binding b) = true → ((s.forme f).binding b).detaching = none → (s.forme f).inker.req = none →
    ∃ t, exec (.detach f) s = .next t ∧ OnlyForme f s t ∧ (t.forme f).mbox = { (s.forme f).mbox with full := false } ∧
      (t.forme f).binding b = { (s.forme f).binding b with detaching := some (msgTag m) }) ∧
  (∀ (s : State) (f : FormeId) (b : BindingId) (m : Vector Word 16), Delivered s (.plain f) 5 m → b.val = fld m[1] 2 0 →
    bindingFull ((s.forme f).binding b) = false →
    ∃ t, exec (.detach f) s = .next t ∧ RespondedWith (.plain f) (mkResponse 5 (msgTag m) 0x0C08 []) s t ∧
      (t.forme f).inker.bindings = (s.forme f).inker.bindings)

/-! ### Aczia links -/

/-- LINK_TRAINING_DONE, LINK_TRAINING_TIMEOUT, LINK_TRAIN_RETRY, CABLE_CONNECTED and ACZ_SELF (R303, R306, R328): with ACZ_SELF set and
DISABLE clear a connected cable, or a retry 1,000,000 ticks after a failure, starts training; training that finds the neighbour R302
names brings the link up at 16 lanes and every GEN moves on,
and one that RETRAIN trains again has 16 lanes again, another peer has the link refused, and 100,000 strokes without an end leave
it down; ACZ_SELF is ignored while any link is trained.
RETRAIN, DISABLE, LANE_BAD and LINK_LOST (R306, R311, R312, R328): RETRAIN of a link that is up trains it again at 16 lanes with what
is not acknowledged kept; DISABLE takes a link down; a bad lane drops its group, counts, and trains the link narrower, and the last
group's loses it; every loss moves every GEN on. The losses are stated for a link with nothing to send again, whose marks are not
the active source, and a module with no collective in progress. Choices of the model it rests on: log 71, 84. -/
def Obligations.LinksTrainAndNarrow : Prop :=
  (∀ (s : State) (l : LinkId) (peer : BitVec 12) (ps : BitVec 24), (s.link l).state = .training → selfValid s.selfReg = true →
    (s.link l).disable = false → (∀ n, neighbour s l = some n → n = peer) → (s.link l).replay = [] → (s.link l).queue = [] →
    ∃ t, exec (.linkTrainingDone l peer ps) s = .next t ∧ (t.link l).state = .up ∧ (t.link l).groups = 0xF ∧ (t.link l).loopPs = ps ∧
      (l.val < 4 → (t.link l).peer = peer) ∧ (∀ k : LinkId, k ≠ l → t.link k = s.link k) ∧
      (∀ f : FormeId, t.forme f = { s.forme f with geoGen := nextGen (s.forme f).geoGen }) ∧ t.out = s.out) ∧
  (∀ (s : State) (l : LinkId) (peer : BitVec 12) (ps : BitVec 24), (s.link l).state = .retraining → (s.link l).wider = true →
    selfValid s.selfReg = true → (s.link l).disable = false → (∀ n, neighbour s l = some n → n = peer) → (s.link l).replay = [] →
    (s.link l).queue = [] →
    ∃ t, exec (.linkTrainingDone l peer ps) s = .next t ∧ (t.link l).state = .up ∧ (t.link l).groups = 0xF ∧ (t.link l).wider = false ∧
      (∀ f : FormeId, t.forme f = { s.forme f with
        geoGen := if (s.link l).groups = 0xF then (s.forme f).geoGen else nextGen (s.forme f).geoGen }) ∧ t.out = s.out) ∧
  (∀ (s : State) (l : LinkId) (peer n : BitVec 12) (ps : BitVec 24), (s.link l).state = .training → selfValid s.selfReg = true →
    (s.link l).disable = false → neighbour s l = some n → n ≠ peer →
    ∃ t, exec (.linkTrainingDone l peer ps) s = .next t ∧ OnlyLink l s t ∧ (t.link l).state = .refused ∧ (t.link l).groups = 0) ∧
  (∀ (s : State) (l : LinkId), (s.link l).state = .training → 100000 ≤ (s.time.ticks - (s.link l).since).toNat →
    ∃ t, exec (.linkTrainingTimeout l) s = .next t ∧ OnlyLink l s t ∧ t.link l = { s.link l with state := .down, since := s.time.ticks }) ∧
  (∀ (s : State) (l : LinkId), (s.link l).state = .down → 1000000 ≤ (s.time.ticks - (s.link l).since).toNat → selfValid s.selfReg = true →
    (s.link l).disable = false →
    ∃ t, exec (.linkTrainRetry l) s = .next t ∧ OnlyLink l s t ∧ (t.link l).state = .training ∧ (t.link l).since = s.time.ticks ∧
      (t.link l).replay = [] ∧ (t.link l).txSeq = 0) ∧
  (∀ (s : State) (l : LinkId), s.boot.power = .on → (s.link l).state = .down ∨ (s.link l).state = .lost ∨ (s.link l).state = .refused →
    selfValid s.selfReg = true → (s.link l).disable = false →
    ∃ t, exec (.cableConnected l) s = .next t ∧ OnlyLink l s t ∧ (t.link l).state = .training ∧ (t.link l).since = s.time.ticks) ∧
  (∀ (s : State) (h : HostReq) (v : Word), hostTarget s h = .management →
    (∀ l : LinkId, (s.link l).state ≠ .up ∧ (s.link l).state ≠ .retraining) →
    ∃ t, exec (.aczSelf h v) s = .next t ∧ t.selfReg = v &&& 0x1F1F0FFF ∧ t.formes = s.formes ∧ t.out = s.out ∧
      (∀ l : LinkId, (t.link l).state = (if selfValid (v &&& 0x1F1F0FFF) = true ∧ (s.link l).disable = false ∧ (s.link l).state = .down
        then .training else (s.link l).state))) ∧
  (∀ (s : State) (h : HostReq) (v : Word) (l : LinkId), hostTarget s h = .management → (s.link l).state = .up →
    exec (.aczSelf h v) s = .next s) ∧
  (∀ (s : State) (h : HostReq) (v : Word) (l : LinkId), hostTarget s h = .management → (s.link l).state = .up → v.getLsbD 1 = false →
    selfValid s.selfReg = true →
    ∃ t, exec (.retrain h l v) s = .next t ∧ OnlyLink l s t ∧ (t.link l).state = .retraining ∧ (t.link l).wider = true ∧
      (t.link l).groups = (s.link l).groups ∧
      (t.link l).disable = false ∧ (t.link l).replay = (s.link l).replay ∧ (t.link l).queue = (s.link l).queue ∧ t.out = s.out) ∧
  (∀ (s : State) (h : HostReq) (v : Word) (l : LinkId), hostTarget s h = .management → (s.link l).state = .up → LinkQuiet s l →
    s.time.active.toNat ≠ l.val + 1 →
    ∃ t, exec (.disable h l v) s = .next t ∧ (t.link l).state = .down ∧ (t.link l).disable = true ∧ (t.link l).groups = 0 ∧
      (∀ f : FormeId, t.forme f = { s.forme f with geoGen := nextGen (s.forme f).geoGen }) ∧ t.out = s.out) ∧
  (∀ (s : State) (l : LinkId) (lane : Fin 16), (s.link l).state = .up → (s.link l).groups.getLsbD (lane.val / 4) = true →
    (s.link l).groups &&& ~~~ oneBit 4 (lane.val / 4) ≠ 0 →
    ∃ t, exec (.laneBad l lane) s = .next t ∧ (t.link l).state = .retraining ∧
      (t.link l).groups = (s.link l).groups &&& ~~~ oneBit 4 (lane.val / 4) ∧ (t.link l).degrades = satInc (s.link l).degrades ∧
      (t.link l).replay = (s.link l).replay ∧ (∀ f : FormeId, t.forme f = { s.forme f with geoGen := nextGen (s.forme f).geoGen })) ∧
  (∀ (s : State) (l : LinkId) (lane : Fin 16), (s.link l).state = .up → (s.link l).groups.getLsbD (lane.val / 4) = true →
    (s.link l).groups &&& ~~~ oneBit 4 (lane.val / 4) = 0 → LinkQuiet s l → s.time.active.toNat ≠ l.val + 1 →
    ∃ t, exec (.laneBad l lane) s = .next t ∧ (t.link l).state = .lost ∧ (t.link l).groups = 0 ∧
      (∀ f : FormeId, t.forme f = { s.forme f with geoGen := nextGen (s.forme f).geoGen })) ∧
  (∀ (s : State) (l : LinkId), (s.link l).state = .up ∨ (s.link l).state = .retraining → LinkQuiet s l →
    s.time.active.toNat ≠ l.val + 1 →
    ∃ t, exec (.linkLost l) s = .next t ∧ (t.link l).state = .lost ∧ (t.link l).groups = 0 ∧ (t.link l).since = s.time.ticks ∧
      (∀ f : FormeId, t.forme f = { s.forme f with geoGen := nextGen (s.forme f).geoGen }) ∧ t.out = s.out)

/-- FLIT_RECEIVE (R307, R308): a data flit in order moves the expected SEQ on and is acknowledged; one out of order, or with a bad CRC,
is dropped and its link asks once, by NAK, for the SEQ it expects. -/
def Obligations.FlitsInOrder : Prop :=
  (∀ (s : State) (l : LinkId) (x : AczFlit), (s.link l).state = .up → (s.link l).disable = false → x.crcOk = true → x.type = 0 →
    x.nak = false → x.packets = [] → (s.link l).replay = [] → (s.link l).queue = [] → x.seq = (s.link l).rxExpect →
    ∃ t, exec (.flitReceive l x) s = .next t ∧ OnlyLink l s t ∧ (t.link l).rxExpect = (s.link l).rxExpect + 1 ∧
      (t.link l).nakSent = false ∧ (∀ i : Fin 8, (t.link l).credits[i.val] = (s.link l).credits[i.val] + x.credits[i.val].toNat) ∧
      t.out = s.out ++ [.linkAck l (x.seq + 1) [0, 0, 0, 0, 0, 0, 0, 0]]) ∧
  (∀ (s : State) (l : LinkId) (x : AczFlit), (s.link l).state = .up → (s.link l).disable = false → x.crcOk = false →
    ∃ t, exec (.flitReceive l x) s = .next t ∧ OnlyLink l s t ∧ t.link l = { s.link l with nakSent := true } ∧
      t.out = s.out ++ (if (s.link l).nakSent then [] else [.linkNak l (s.link l).rxExpect])) ∧
  (∀ (s : State) (l : LinkId) (x : AczFlit), (s.link l).state = .up → (s.link l).disable = false → x.crcOk = true → x.type = 0 →
    x.nak = false → (s.link l).replay = [] → (s.link l).queue = [] → x.seq ≠ (s.link l).rxExpect → (s.link l).nakSent = false →
    ∃ t, exec (.flitReceive l x) s = .next t ∧ OnlyLink l s t ∧ (t.link l).rxExpect = (s.link l).rxExpect ∧
      t.out = s.out ++ [.linkNak l (s.link l).rxExpect])

/-! ### Remote space -/

/-- LOAD_REQ and STORE at their target (R314, R316, R319, R320). A forme that runs serves a load of its stack space with the bytes it
holds, and a store, or a flag's addition, lands exactly its bytes and is acknowledged; where it does not serve, and for a job this module
does not hold, the requester is sent NACK_REMOTE. Choices of the model it rests on: log 52. -/
def Obligations.RemoteServed : Prop :=
  (∀ (s : State) (f : FormeId) (k : JobSlot) (j : Job) (p : Packet) (tag : BitVec 16) (off : BitVec 40) (n : Nat) (l : LinkId) (rev : Bool),
    InOrder s f k j p → p.ptype = 1 → p.body = .loadReq tag off n → n ≤ 4 → route s p.src false none = some (l, rev) → LinkReady s l →
    servesRemote s f off.toNat (64 * n) = true → s.stackPoisoned f off.toNat (64 * n) = false →
    ∃ t, exec (.loadReq p) s = .next t ∧ t.stack.mem = s.stack.mem ∧ t.galley = s.galley ∧
      PacketSent l (fun q => q.ptype = 2 ∧ q.dst = p.src ∧ q.src = s.selfModule ∧ q.jobId = j.jobId ∧
        q.body = .loadResp tag off ((s.stackRead f off.toNat (64 * n)).getD [])) s t) ∧
  (∀ (s : State) (f : FormeId) (k : JobSlot) (j : Job) (p : Packet) (tag : BitVec 16) (off : BitVec 40) (n : Nat) (l : LinkId) (rev : Bool),
    InOrder s f k j p → p.ptype = 1 → p.body = .loadReq tag off n → route s p.src false none = some (l, rev) → LinkReady s l →
    servesRemote s f off.toNat (64 * n) = false →
    ∃ t, exec (.loadReq p) s = .next t ∧ t.stack = s.stack ∧
      PacketSent l (fun q => q.ptype = 8 ∧ q.dst = p.src ∧ q.body = .nack 1 tag s.selfModule) s t) ∧
  (∀ (s : State) (f : FormeId) (k : JobSlot) (j : Job) (p : Packet) (tag : BitVec 16) (off : BitVec 40) (d : List Byte) (l : LinkId)
      (rev : Bool) (c : FormeCfg) (g : Region),
    InOrder s f k j p → p.ptype = 3 →
    p.body = .store tag off d ∨
      (∃ v, p.body = .flagAdd tag off v ∧ d = leBytes 8 ((s.stackWord f off.toNat).getD 0 + v).toNat) →
    route s p.src false none = some (l, rev) → LinkReady s l → servesRemote s f off.toNat d.length = true →
    (s.forme f).cfg = some c → c.regions = [g] →
    ∃ t, exec (.storePacket p) s = .next t ∧
      (∀ key x : Nat, stackByte t.stack.mem key x =
        if g.base * 2 ^ 30 + off.toNat ≤ x ∧ x < g.base * 2 ^ 30 + off.toNat + d.length then d.getD (x - (g.base * 2 ^ 30 + off.toNat)) 0
        else stackByte s.stack.mem key x) ∧ t.galley = s.galley ∧
      PacketSent l (fun q => q.ptype = 4 ∧ q.dst = p.src ∧ q.body = .storeAck tag) s t) ∧
  (∀ (s : State) (p : Packet) (l : LinkId) (rev : Bool), s.boot.power = .on → p.dst = s.selfModule → p.ptype = 1 ∨ p.ptype = 3 →
    jobById s p.jobId = none → route s p.src false none = some (l, rev) → LinkReady s l →
    ∃ t, exec (if p.ptype = 1 then .loadReq p else .storePacket p) s = .next t ∧ t.stack = s.stack ∧
      PacketSent l (fun q => q.ptype = 8 ∧ q.dst = p.src ∧ q.body = .nack p.ptype (bodyTag p.body) s.selfModule) s t)

/-- LOAD_RESP, STORE_ACK, NACK_REMOTE, REMOTE_LOAD_TIMEOUT and REMOTE_STORE_TIMEOUT at the requester (R319 to R321): data that completes
what a slug asked for is given to it; an acknowledgement takes its destination off; a refused load, or none answered within 1,000 ticks,
fails the slug with 0x1002; a lost store marks the slug and faults its launch with 0x1003. Choices of the model it rests on: log 50. -/
def Obligations.RemoteAnswers : Prop :=
  (∀ (s : State) (f : FormeId) (k : JobSlot) (j : Job) (p : Packet) (tag : SlugTag) (off : BitVec 40) (d : List Byte) (sl : Slug)
      (a : BitVec 56) (n : Nat) (rest : List (BitVec 56 × Nat)) (bs : List Byte),
    InOrder s f k j p → p.ptype = 2 → p.body = .loadResp tag off d → findSlug (s.forme f) tag = some sl → sl.asked = (a, n) :: rest →
    acquireOp (s.forme f) sl = none → sl.wait = .remote →
    pieceBytes (sl.fetched ++ [(BitVec.ofNat 56 (8 * 2 ^ 52 + p.src.toNat * 2 ^ 40 + off.toNat), d)]) a.toNat n = some bs →
    ∃ t, exec (.loadResp p) s = .next t ∧ t.out = s.out ∧ t.stack.mem = s.stack.mem ∧
      ∃ z, findSlug (t.forme f) tag = some z ∧ z.wait = .none ∧ z.asked = [] ∧ (a, bs) ∈ z.fetched ∧ z.proofs = sl.proofs) ∧
  (∀ (s : State) (f : FormeId) (k : JobSlot) (j : Job) (p : Packet) (tag : SlugTag) (sl : Slug), InOrder s f k j p → p.ptype = 4 →
    p.body = .storeAck tag → findSlug (s.forme f) tag = some sl →
    ∃ t, exec (.storeAck p) s = .next t ∧ t.out = s.out ∧ t.stack = s.stack ∧
      findSlug (t.forme f) tag = some { sl with remoteDue := sl.remoteDue.erase p.src }) ∧
  (∀ (s : State) (f : FormeId) (k : JobSlot) (j : Job) (p : Packet) (tag : SlugTag) (who : BitVec 12) (sl : Slug), s.boot.power = .on →
    p.dst = s.selfModule → jobById s p.jobId = some (f, k, j) → p.tagOk = true → p.ptype = 8 → p.body = .nack 1 tag who →
    SoleSlug s f tag sl → sl.state = .running → remoteAsked sl = true →
    ∃ t z, exec (.nackRemote p) s = .next t ∧ findSlug (t.forme f) tag = some z ∧ z.state = .failed ∧ z.status = 0x1002) ∧
  (∀ (s : State) (f : FormeId) (k : JobSlot) (j : Job) (p : Packet) (tag : SlugTag) (who : BitVec 12) (sl : Slug), s.boot.power = .on →
    p.dst = s.selfModule → jobById s p.jobId = some (f, k, j) → p.tagOk = true → p.ptype = 8 → p.body = .nack 3 tag who →
    findSlug (s.forme f) tag = some sl → who ∈ sl.remoteDue →
    ∃ t, exec (.nackRemote p) s = .next t ∧ (t.forme f).collCode = 0x1003 ∧
      findSlug (t.forme f) tag = some { sl with remoteDue := sl.remoteDue.erase who, remoteLost := true }) ∧
  (∀ (s : State) (f : FormeId) (tag : SlugTag) (sl : Slug), SoleSlug s f tag sl → sl.state = .running →
    remoteAsked sl = true → 1000 ≤ (s.time.ticks - sl.askedAt).toNat →
    ∃ t z, exec (.remoteLoadTimeout f tag) s = .next t ∧ ElsewhereKept f s t ∧ t.out = s.out ∧ findSlug (t.forme f) tag = some z ∧ z.state = .failed ∧
      z.status = 0x1002) ∧
  (∀ (s : State) (f : FormeId) (tag : SlugTag) (sl : Slug) (l : Launch), findSlug (s.forme f) tag = some sl → sl.remoteDue ≠ [] →
    1000 ≤ (s.time.ticks - sl.storesAt).toNat → findLaunch (s.forme f) sl.ring sl.seq = some l → l.fault = none →
    ∃ t, exec (.remoteStoreTimeout f tag) s = .next t ∧ OnlyForme f s t ∧ (t.forme f).collCode = 0x1003 ∧
      findSlug (t.forme f) tag = some { sl with remoteDue := [], remoteLost := true } ∧
      findLaunch (t.forme f) sl.ring sl.seq = some { l with fault := some (s.time.ticks, 0x1003) })

/-! ### Collectives -/

/-- COLLECTIVE_START, JOIN_TIMEOUT and COLLECTIVE_COMPLETE (R50, R197, R322 to R324, R326, R327): the collective op a slug stands at waits for a window of its slot, and in one
with room begins as the next number, takes its input and waits for the other members' JOINs; a JOIN still missing JOIN_STROKES strokes
later ends it with cause 1. With no window and no collective to start, because the stroke is UNLOCKED, LOST or REJOINING, the slug is
discarded with 0x0310. When the output is whole the slot is free for the next collective, and the slug goes on from its next op under a
seal that keeps the output with the proofs so far. Choices of the model it rests on: log 51. -/
def Obligations.CollectivesStart : Prop :=
  (∀ (s : State) (f : FormeId) (tag : SlugTag) (sl : Slug) (o : OpRec) (j : Job), findSlug (s.forme f) tag = some sl → sl.state = .running →
    sl.wait = .none → (opsOf (s.forme f) sl)[sl.op]? = some o → opKind o = 7 → (s.forme f).job (collSlot o) = some j → j.coll = none →
    j.window = none → collStopped s = false →
    ∃ t, exec (.collectiveStart f tag) s = .next t ∧ OnlyForme f s t ∧ findSlug (t.forme f) tag = some { sl with wait := .window } ∧
      (t.forme f).jobs = (s.forme f).jobs) ∧
  (∀ (s : State) (f : FormeId) (tag : SlugTag) (sl : Slug) (o : OpRec) (j : Job), SoleSlug s f tag sl → sl.state = .running →
    sl.wait = .none → (opsOf (s.forme f) sl)[sl.op]? = some o → opKind o = 7 → (s.forme f).job (collSlot o) = some j → j.coll = none →
    j.window = none → collStopped s = true →
    ∃ t z, exec (.collectiveStart f tag) s = .next t ∧ findSlug (t.forme f) tag = some z ∧ z.state = .discarded ∧ z.status = 0x0310) ∧
  (∀ (s : State) (f : FormeId) (tag : SlugTag) (sl : Slug) (o : OpRec) (j : Job) (w : Word × Word × Nat × Nat × Nat),
    findSlug (s.forme f) tag = some sl → sl.state = .running → sl.wait = .none ∨ sl.wait = .window →
    (opsOf (s.forme f) sl)[sl.op]? = some o → opKind o = 7 → (s.forme f).job (collSlot o) = some j → j.isOpen = true → j.coll = none →
    j.window = some w → w.2.2.2.2 < w.2.2.2.1 → firstAtColl s f sl (collSlot o) = true → j.early = [] → 2 ≤ (jobMembers j).length →
    (∀ m ∈ jobMembers j, m ≠ s.selfModule → reachable s f m = true) →
    ∃ t, exec (.collectiveStart f tag) s = .next t ∧
      (∃ z, findSlug (t.forme f) tag = some z ∧ z.wait = .collective ∧ z.sentColl = true ∧ z.state = .running) ∧
      (∃ k c, (t.forme f).job (collSlot o) = some k ∧ k.coll = some c ∧ c.tag = sl.tag ∧ c.k = w.2.2.2.2 + 1 ∧ c.stroke = w.1 ∧
        c.joinAt = s.time.stroke ∧ c.input = collInput s f sl o ∧ c.digest = joinDigest o ∧ c.joined = [] ∧ c.moving = false) ∧
      t.stack = s.stack ∧ t.galley = s.galley ∧ t.time = s.time) ∧
  (∀ (s : State) (f : FormeId) (k : JobSlot) (j : Job) (c : Coll) (w : Word × Word × Nat × Nat × Nat) (sl : Slug),
    (s.forme f).job k = some j → j.coll = some c → j.window = some w → allJoined s j c = false →
    c.joinAt.toNat + w.2.2.1 ≤ s.time.stroke.toNat → SoleSlug s f c.tag sl → sl.state = .running →
    ∃ t, exec (.joinTimeout f k) s = .next t ∧ CollFaulted f k c.tag 1 t) ∧
  (∀ (s : State) (f : FormeId) (tag : SlugTag) (sl : Slug) (o : OpRec) (v : Version) (j : Job) (c : Coll),
    findSlug (s.forme f) tag = some sl → (opsOf (s.forme f) sl)[sl.op]? = some o → slugVersion (s.forme f) sl = some v → opKind o = 7 →
    (s.forme f).job (collSlot o) = some j → j.coll = some c → c.tag = tag → sl.state = .running → sl.wait = .collective →
    outWhole j c = true → sl.heldDetect = none → (∀ k ∈ s.copies, k.dead = []) →
    proofLines (sealSlug v o (collOutput j c) sl).proofs ≤ sl.proofKib * 4 →
    ∃ t k z q, exec (.collectiveComplete f tag) s = .next t ∧ (t.forme f).job (collSlot o) = some k ∧ k.coll = none ∧
      findSlug (t.forme f) tag = some z ∧ z.op = sl.op + 1 ∧ z.proofs = (sealSlug v o (collOutput j c) sl).proofs ∧ z.reads = noReads ∧
      z.sealed = some q ∧ q.op = sl.op + 1 ∧ q.proofs = z.proofs ∧ t.stack = s.stack ∧ t.galley = s.galley ∧ t.out = s.out)

/-- JOIN, COLL_DATA, REROUTE and ABORT at a member (R324 to R327): a JOIN whose digest agrees counts its member, one that does not ends
the collective with cause 2, and one that comes before the member's own is kept; elements that arrive for the collective in
progress are output, or reduced with the member's own values; REROUTE turns a half round; ABORT ends a collective that is not whole with cause 5; a forme that drains for a
re-imposition refuses COLL_DATA and JOIN (R37). Choices of the model it rests on: log 51, 69. -/
def Obligations.CollectivesMove : Prop :=
  (∀ (s : State) (f : FormeId) (k : JobSlot) (j : Job) (c : Coll) (p : Packet) (n : Nat) (st : Word) (dg : BitVec 128), InOrder s f k j p → (s.forme f).drained = false →
    p.ptype = 6 → p.body = .join n st dg → j.coll = some c → c.k = n → c.stroke = st → c.digest = dg →
    c.joined.contains ((jobMembers j).findIdx (· == p.src)) = false →
    allJoined s j { c with joined := c.joined ++ [(jobMembers j).findIdx (· == p.src)] } = false →
    ∃ t k' c', exec (.join p) s = .next t ∧ (t.forme f).job k = some k' ∧ k'.coll = some c' ∧ t.out = s.out ∧
      c' = { c with joined := c.joined ++ [(jobMembers j).findIdx (· == p.src)] }) ∧
  (∀ (s : State) (f : FormeId) (k : JobSlot) (j : Job) (c : Coll) (p : Packet) (n : Nat) (st : Word) (dg : BitVec 128) (sl : Slug),
    InOrder s f k j p → (s.forme f).drained = false → p.ptype = 6 → p.body = .join n st dg → j.coll = some c → c.k = n → c.stroke = st → c.digest ≠ dg →
    SoleSlug s f c.tag sl → sl.state = .running →
    ∃ t, exec (.join p) s = .next t ∧ CollFaulted f k c.tag 2 t) ∧
  (∀ (s : State) (f : FormeId) (k : JobSlot) (j : Job) (p : Packet) (n : Nat) (st : Word) (dg : BitVec 128)
      (w : Word × Word × Nat × Nat × Nat), InOrder s f k j p → (s.forme f).drained = false → p.ptype = 6 → p.body = .join n st dg → j.coll = none → j.window = some w →
    w.1 = st →
    ∃ t k', exec (.join p) s = .next t ∧ (t.forme f).job k = some k' ∧
      k'.early = j.early ++ [((jobMembers j).findIdx (· == p.src), n, st, dg)] ∧ t.out = s.out) ∧
  (∀ (s : State) (f : FormeId) (k : JobSlot) (j : Job) (c : Coll) (p : Packet) (half step first : Nat) (es : List (BitVec 32)),
    InOrder s f k j p → (s.forme f).drained = false → p.ptype = 5 → j.coll = some c → p.arg.toNat % 256 = c.k % 256 →
    c.moving = true → c.held = [] → p.body = .collData (halfRun c half) 0 half step first es →
    ∃ t k' c', exec (.collData p) s = .next t ∧ (t.forme f).job k = some k' ∧ k'.coll = some c' ∧
      (∀ i (h : i < es.length), (first + i, es[i]) ∈ c'.output) ∧ t.out = s.out) ∧
  (∀ (s : State) (f : FormeId) (k : JobSlot) (j : Job) (c : Coll) (p : Packet) (half first : Nat) (es own : List (BitVec 32)),
    InOrder s f k j p → (s.forme f).drained = false → p.ptype = 5 → j.coll = some c → p.arg.toNat % 256 = c.k % 256 → c.moving = true → c.held = [] → c.opcode = 2 →
    j.nxj = 2 → j.nyj = 1 →
    (bitsSet j.podMask).length = 1 → es ≠ [] → p.body = .collData (halfRun c half) 1 half 0 first es → ownVals c 1 first es.length = some own →
    ∃ t k' c', exec (.collData p) s = .next t ∧ (t.forme f).job k = some k' ∧ k'.coll = some c' ∧
      (∀ i (h : i < es.length) (h' : i < own.length),
        (outIndex s j c (first + i), (reduceTwo c.dtype c.red es[i] own[i]).1) ∈ c'.output) ∧ t.out = s.out) ∧
  (∀ (s : State) (f : FormeId) (k : JobSlot) (j : Job) (c : Coll) (p : Packet) (ax half : Nat), InOrder s f k j p → p.ptype = 6 →
    p.body = .reroute ax half → j.coll = some c → p.arg.toNat % 256 = c.k % 256 → c.moving = false → c.flips.contains (ax, half) = false →
    ∃ t k' c', exec (.reroute p) s = .next t ∧ (t.forme f).job k = some k' ∧ k'.coll = some c' ∧ c'.flips = c.flips ++ [(ax, half)] ∧
      c'.moving = false ∧ t.out = s.out) ∧
  (∀ (s : State) (f : FormeId) (k : JobSlot) (j : Job) (c : Coll) (p : Packet) (sl : Slug), InOrder s f k j p → p.ptype = 6 →
    p.body = .abort → j.coll = some c → p.arg.toNat % 256 = c.k % 256 → outWhole j c = false → SoleSlug s f c.tag sl → sl.state = .running →
    ∃ t, exec (.abort p) s = .next t ∧ CollFaulted f k c.tag 5 t) ∧
  (∀ (s : State) (f : FormeId) (k : JobSlot) (j : Job) (p : Packet) (l : LinkId) (rev : Bool), InOrder s f k j p →
    (s.forme f).drained = true →
    (p.ptype = 5 ∧ ∃ r h n m e es, p.body = .collData r h n m e es) ∨ (p.ptype = 6 ∧ ∃ n st dg, p.body = .join n st dg) →
    route s p.src false none = some (l, rev) → LinkReady s l →
    ∃ t, exec (if p.ptype = 5 then .collData p else .join p) s = .next t ∧ t.stack = s.stack ∧ t.galley = s.galley ∧
      PacketSent l (fun q => q.ptype = 8 ∧ q.dst = p.src ∧ q.body = .nack p.ptype 0 s.selfModule) s t)

/-! ### Jobs -/

/-- JOB_OPEN, JOB_OPEN_TIMEOUT and JOB_CLOSE (R315, R316): a request R315 refuses is answered 0x1004; one that it does not refuse, of a
job of more members, takes its slot and waits; after 1,000,000 ticks it is answered 0x1004 and the slot is free; closing frees the slot
and is answered 0.
JK_OFFER, JK_DELIVER and JK_REJECT (R368, R369): member 0 that holds every offer draws the key and its JOB_OPEN completes with 0, or, where
the health test before the draw fails, with 0x130A (R364); a
good delivery opens the job at another member; an offer or delivery that fails a condition, and a rejection, complete the JOB_OPEN with
0x1004 and free the slot; an offer before the module's own JOB_OPEN is kept. Choices of the model it rests on: log 70, 97. -/
def Obligations.Jobs : Prop :=
  (∀ (s : State) (f : FormeId) (k : JobSlot) (m : Vector Word 16), Delivered s (.plain f) 3 m → k.val = fld m[2] 5 0 →
    jobRefused s f k (jobRequest m s.time.ticks) = true →
    ∃ t, exec (.jobOpen f) s = .next t ∧ RespondedWith (.plain f) (mkResponse 3 (msgTag m) 0x1004 []) s t ∧
      (t.forme f).jobs = (s.forme f).jobs ∧ (t.forme f).collCode = 0x1004) ∧
  (∀ (s : State) (f : FormeId) (k : JobSlot) (m : Vector Word 16), Delivered s (.plain f) 3 m → k.val = fld m[2] 5 0 →
    jobRefused s f k (jobRequest m s.time.ticks) = false → 2 ≤ (jobMembers (jobRequest m s.time.ticks)).length →
    (∀ o ∈ s.colo.offers, o.jobId ≠ m[1]) →
    ∃ t, exec (.jobOpen f) s = .next t ∧ (t.mbox (.plain f)).full = false ∧ (t.forme f).job k = some (jobRequest m s.time.ticks) ∧
      (∀ i : JobSlot, i ≠ k → (t.forme f).job i = (s.forme f).job i) ∧ t.draws = s.draws ∧ t.stack = s.stack) ∧
  (∀ (s : State) (f : FormeId) (k : JobSlot) (j : Job) (tag : BitVec 16), (s.forme f).job k = some j → j.isOpen = false →
    j.waiting = some tag → 1000000 ≤ (s.time.ticks - j.since).toNat →
    ∃ t, exec (.jobOpenTimeout f k) s = .next t ∧ (t.forme f).job k = none ∧ Answered (.plain f) (mkResponse 3 tag 0x1004 []) s t) ∧
  (∀ (s : State) (f : FormeId) (k : JobSlot) (m : Vector Word 16), Delivered s (.plain f) 4 m → k.val = fld m[1] 5 0 →
    (∀ j, (s.forme f).job k = some j → j.coll = none ∧ j.waiting = none) →
    ∃ t, exec (.jobClose f) s = .next t ∧ (t.forme f).job k = none ∧ RespondedWith (.plain f) (mkResponse 4 (msgTag m) 0 []) s t ∧
      (∀ i : JobSlot, i ≠ k → (t.forme f).job i = (s.forme f).job i)) ∧
  (∀ (s : State) (f : FormeId) (k : JobSlot) (j : Job) (tag : BitVec 16) (m : JobKeyMsg), jobWaiting s m.jobId = some (f, k, j) →
    j.waiting = some tag → myIndex s j = 0 → 0 < m.member.toNat → m.member.toNat < (jobMembers j).length → jkOk s m false = true →
    (∀ i : Nat, 0 < i → i < (jobMembers j).length → i = m.member.toNat ∨ BitVec.ofNat 16 i ∈ j.offers) →
    ∃ t, exec (.jkOffer m) s = .next t ∧
      if s.colo.mgmtOnly = false ∧ Config.drawTest s.draws = true
      then (∃ k', (t.forme f).job k = some k' ∧ k'.isOpen = true ∧ k'.keyed = true ∧ k'.waiting = none) ∧
        t.draws = s.draws + 1 ∧ Answered (.plain f) (mkResponse 3 tag 0 []) s t
      else (t.forme f).job k = none ∧ t.colo.mgmtOnly = true ∧ t.draws = s.draws ∧ Answered (.plain f) (mkResponse 3 tag 0x130A []) s t) ∧
  (∀ (s : State) (f : FormeId) (k : JobSlot) (j : Job) (tag : BitVec 16) (m : JobKeyMsg), jobWaiting s m.jobId = some (f, k, j) →
    j.waiting = some tag → myIndex s j = 0 → 0 < m.member.toNat → m.member.toNat < (jobMembers j).length → jkOk s m false = false →
    ∃ t, exec (.jkOffer m) s = .next t ∧ (t.forme f).job k = none ∧ Answered (.plain f) (mkResponse 3 tag 0x1004 []) s t) ∧
  (∀ (s : State) (m : JobKeyMsg), s.boot.power = .on → jobWaiting s m.jobId = none → jobIdHeld s m.jobId = false →
    ∃ t, exec (.jkOffer m) s = .next t ∧ t = { s with colo := t.colo } ∧ m ∈ t.colo.offers) ∧
  (∀ (s : State) (f : FormeId) (k : JobSlot) (j : Job) (tag : BitVec 16) (m : JobKeyMsg), jobWaiting s m.jobId = some (f, k, j) →
    j.waiting = some tag → myIndex s j ≠ 0 →
    ∃ t, exec (.jkDeliver m) s = .next t ∧
      if jkOk s m true = true
      then (∃ k', (t.forme f).job k = some k' ∧ k'.isOpen = true ∧ k'.keyed = true) ∧ Answered (.plain f) (mkResponse 3 tag 0 []) s t
      else (t.forme f).job k = none ∧ Answered (.plain f) (mkResponse 3 tag 0x1004 []) s t) ∧
  (∀ (s : State) (f : FormeId) (k : JobSlot) (j : Job) (tag : BitVec 16) (id : Word), jobWaiting s id = some (f, k, j) →
    j.waiting = some tag →
    ∃ t, exec (.jkReject id) s = .next t ∧ (t.forme f).job k = none ∧ Answered (.plain f) (mkResponse 3 tag 0x1004 []) s t)

/-! ### Host ports -/

/-- PORT_TRAINING_DONE, PORT_TRAIN_RETRY, PORT_DOWN, ECP_PORT_RETRAIN and ECP_LANE_FAILED (R341, R350): training ends at 16 lanes with
every lane good, at 8 with one half good, and down with a failed lane in both; a port down for 1,000,000 ticks, and RETRAIN, train at 16
lanes again; a port that goes down completes its requests as TIMEOUT, and a slug that waits for one fails with 0x1105. Choices of the model it rests on: log 72. -/
def Obligations.PortsTrain : Prop :=
  (∀ (s : State) (p : PortId) (g : BitVec 16), (s.port p).link = 1 → (s.time.ticks - (s.port p).since).toNat ≤ 20000 →
    lowHalf ((s.port p).goodLanes &&& g) = true ∨ highHalf ((s.port p).goodLanes &&& g) = true →
    ∃ t, exec (.portTrainingDone p g) s = .next t ∧ OnlyPort p s t ∧ (t.port p).goodLanes = (s.port p).goodLanes &&& g ∧
      (t.port p).link = (if (s.port p).goodLanes &&& g = 0xFFFF then 2 else 3) ∧ (t.port p).reqs = (s.port p).reqs) ∧
  (∀ (s : State) (p : PortId) (g : BitVec 16), (s.port p).link = 1 →
    20000 < (s.time.ticks - (s.port p).since).toNat ∨
      (lowHalf ((s.port p).goodLanes &&& g) = false ∧ highHalf ((s.port p).goodLanes &&& g) = false) →
    (s.port p).reqs = [] → (s.port p).heldReads = [] →
    ∃ t, exec (.portTrainingDone p g) s = .next t ∧ OnlyPort p s t ∧ (t.port p).link = 0 ∧ (t.port p).since = s.time.ticks) ∧
  (∀ (s : State) (p : PortId), s.boot.power = .on → s.boot.pwrgd = true → (s.port p).link = 0 →
    1000000 ≤ (s.time.ticks - (s.port p).since).toNat →
    ∃ t, exec (.portTrainRetry p) s = .next t ∧ OnlyPort p s t ∧
      t.port p = { s.port p with link := 1, goodLanes := 0xFFFF, since := s.time.ticks }) ∧
  (∀ (s : State) (p : PortId) (f : FormeId) (q : EcpReq) (tag : SlugTag) (sl : Slug), (s.port p).link ≠ 0 → (s.port p).reqs = [q] →
    (s.port p).heldReads = [] → q.use = .slugRead f tag → SoleSlug s f tag sl → sl.state = .running → sl.wait ≠ .matchCopy →
    ∃ t z, exec (.portDown p) s = .next t ∧ (t.port p).link = 0 ∧ (t.port p).reqs = [] ∧ (t.forme f).ecp.faultAddr = q.addr.truncate 52 ∧
      (t.forme f).ecp.faultStat = 4 ∧ (t.forme f).ecp.code = 0x1105 ∧ findSlug (t.forme f) tag = some z ∧ z.state = .failed ∧
      z.status = 0x1105) ∧
  (∀ (s : State) (p : PortId), (s.port p).reqs = [] → (s.port p).heldReads = [] → (s.port p).link ≠ 0 →
    ∃ t, exec (.portDown p) s = .next t ∧ OnlyPort p s t ∧ (t.port p).link = 0) ∧
  (∀ (s : State) (h : HostReq) (v : Word), hostTarget s h = .management →
    ∃ t, exec (.portRetrain h v) s = .next t ∧ OnlyPort h.port s t ∧
      t.port h.port = { s.port h.port with link := 1, goodLanes := 0xFFFF, since := s.time.ticks }) ∧
  (∀ (s : State) (p : PortId) (lane : Fin 16), s.portUp p = true → (s.port p).goodLanes = 0xFFFF →
    ∃ t, exec (.ecpLaneFailed p lane) s = .next t ∧ OnlyPort p s t ∧ (t.port p).link = 1 ∧ (t.port p).since = s.time.ticks ∧
      (∀ n : Nat, (t.port p).goodLanes.getLsbD n = (decide (n < 16) && decide (n ≠ lane.val))))

/-- ECP_FLIT_RECEIVE (R308, R342): a data flit in order is acknowledged; one out of order, or with a bad CRC, is answered once by NAK with
the SEQ expected.
SNP_INV and ECP_SPILL_INVAL (R340, R347): the copies of an invalidated host page go, and it is acknowledged; the spill-map entries of
a range, or all of them, go, and no other. Choices of the model it rests on: log 20, 74. -/
def Obligations.PortFlitsAndInvalidations : Prop :=
  (∀ (s : State) (p : PortId) (x : EcpFlit), s.portUp p = true → x.crcOk = true → x.type = 0 → x.nak = false →
    x.seq = (s.port p).rxExpect →
    ∃ t, exec (.ecpFlitReceive p x) s = .next t ∧ OnlyPort p s t ∧ (t.port p).rxExpect = (s.port p).rxExpect + 1 ∧
      (t.port p).nakSent = false ∧ t.out = s.out ++ [.ecpAck p (x.seq + 1)]) ∧
  (∀ (s : State) (p : PortId) (x : EcpFlit), s.portUp p = true →
    x.crcOk = false ∨ (x.crcOk = true ∧ x.type = 0 ∧ x.nak = false ∧ x.seq ≠ (s.port p).rxExpect) → (s.port p).nakSent = false →
    ∃ t, exec (.ecpFlitReceive p x) s = .next t ∧ OnlyPort p s t ∧ (t.port p).rxExpect = (s.port p).rxExpect ∧ (t.port p).nakSent = true ∧
      t.out = s.out ++ [.ecpNak p (s.port p).rxExpect]) ∧
  (∀ (s : State) (p : PortId) (page : BitVec 40), s.portUp p = true →
    ∃ t, exec (.snpInv p page) s = .next t ∧ t.out = s.out ++ [.snpAck p page] ∧ (∀ k ∈ (t.port p).copies, k.2 ≠ page) ∧
      (∀ k ∈ (s.port p).copies, k.2 ≠ page → k ∈ (t.port p).copies) ∧ t.stack = s.stack ∧ t.galley = s.galley) ∧
  (∀ (s : State) (h : HostReq) (f : FormeId) (v : Word), hostTarget s h = .forme f →
    ∃ t, exec (.ecpSpillInval h v) s = .next t ∧ t.out = s.out ∧ t.stack = s.stack ∧ t.galley = s.galley ∧
      (∀ e, e ∈ (t.forme f).ecp.spillMap ↔ e ∈ (s.forme f).ecp.spillMap ∧
        ¬(v.toNat / 2 ^ 32 = 0 ∨ (v.toNat % 2 ^ 32 ≤ e.1 ∧ e.1 < v.toNat % 2 ^ 32 + v.toNat / 2 ^ 32))))

/-- DCPL, DACK and DRD_TIMEOUT (R344, R345, R350): the answer retires its request; the bytes a slug asked for are given to it; a faulted
read, or one without an answer within 100,000 ticks, fails the slug with 0x1102 and is kept in ECP_FAULT_ADDR; a faulted flag write
leaves later flags unwritten. Choices of the model it rests on: log 73. -/
def Obligations.HostAnswers : Prop :=
  (∀ (s : State) (p : PortId) (tag : BitVec 12) (d : List Byte) (q : EcpReq) (f : FormeId) (w : SlugTag) (sl : Slug) (a : BitVec 56)
      (rest : List (BitVec 56 × Nat)), s.portUp p = true → (s.port p).request tag false = some q → q.use = .slugRead f w →
    (s.port p).heldReads = [] → findSlug (s.forme f) w = some sl → acquireOp (s.forme f) sl = none → sl.wait = .remote →
    sl.asked = (a, d.length) :: rest →
    ∃ t, exec (.dcpl p tag .ok d) s = .next t ∧ (t.port p).request tag false = none ∧ t.out = s.out ∧ t.stack = s.stack ∧
      findSlug (t.forme f) w = some { sl with fetched := sl.fetched ++ [(a, d)], asked := [], wait := .none }) ∧
  (∀ (s : State) (p : PortId) (tag : BitVec 12) (st : EcpStatus) (d : List Byte) (q : EcpReq) (f : FormeId) (w : SlugTag) (sl : Slug),
    s.portUp p = true → st ≠ .ok → (s.port p).request tag false = some q → q.use = .slugRead f w → (s.port p).heldReads = [] →
    SoleSlug s f w sl → sl.state = .running → sl.wait ≠ .matchCopy →
    ∃ t z, exec (.dcpl p tag st d) s = .next t ∧ (t.port p).request tag false = none ∧ (t.forme f).ecp.faultAddr = q.addr.truncate 52 ∧
      (t.forme f).ecp.faultStat = BitVec.ofNat 3 (ecpCode st) ∧ findSlug (t.forme f) w = some z ∧ z.state = .failed ∧ z.status = 0x1102) ∧
  (∀ (s : State) (p : PortId) (tag : BitVec 12) (q : EcpReq) (f : FormeId) (w : SlugTag), s.portUp p = true →
    (s.port p).request tag true = some q → q.use = .slugWrite f w → (s.port p).heldReads = [] →
    ∃ t, exec (.dack p tag .ok) s = .next t ∧ OnlyPort p s t ∧ (t.port p).request tag true = none ∧ t.out = s.out) ∧
  (∀ (s : State) (p : PortId) (tag : BitVec 12) (st : EcpStatus) (q : EcpReq) (f : FormeId) (w : SlugTag) (sl : Slug),
    s.portUp p = true → st ≠ .ok → (s.port p).request tag true = some q → q.use = .slugWrite f w → (s.port p).heldReads = [] →
    findSlug (s.forme f) w = some sl →
    ∃ t, exec (.dack p tag st) s = .next t ∧ (t.port p).request tag true = none ∧
      findSlug (t.forme f) w = some { sl with remoteLost := true } ∧ (t.forme f).ecp.code = 0x1102) ∧
  (∀ (s : State) (p : PortId) (tag : BitVec 12) (q : EcpReq) (f : FormeId) (w : SlugTag) (sl : Slug), (s.port p).link ≠ 0 →
    (s.port p).request tag false = some q → q.use = .slugRead f w → (s.port p).heldReads = [] →
    100000 ≤ (s.time.ticks - q.issued).toNat → SoleSlug s f w sl → sl.state = .running →
    sl.wait ≠ .matchCopy →
    ∃ t z, exec (.drdTimeout p tag) s = .next t ∧ (t.port p).request tag false = none ∧ (t.forme f).ecp.faultAddr = q.addr.truncate 52 ∧
      (t.forme f).ecp.faultStat = 4 ∧ findSlug (t.forme f) w = some z ∧ z.state = .failed ∧ z.status = 0x1102)

/-- HOST_MEMORY_READ and HOST_MEMORY_WRITE (R118, R333): BAR2 reads and writes exactly the bytes named of an explicit region, BAR4 those
of the forme's stack space in the aperture; an access R333 does not admit is answered BUS_ERROR and has no effect. Choices of the model it rests on: log 75. -/
def Obligations.HostMemory : Prop :=
  (∀ (s : State) (h : HostReq) (f : FormeId) (b : Fin 6) (o : BitVec 40) (n a : Nat), hostTarget s h = .forme f →
    aperture s f b o.toNat n = some (.galley a) →
    ∃ t, exec (.hostMemoryRead h b o n) s = .next t ∧ SentOn h.port (.hcpl h.port h.fn h.tag .ok (galleyBytes s.galley a n)) s t) ∧
  (∀ (s : State) (h : HostReq) (f : FormeId) (b : Fin 6) (o : BitVec 40) (n a : Nat), hostTarget s h = .forme f →
    aperture s f b o.toNat n = some (.stack a) → s.poisonedLine f a n = none →
    ∃ t, exec (.hostMemoryRead h b o n) s = .next t ∧ t.out = s.out ++ [.hcpl h.port h.fn h.tag .ok ((s.stackRead f a n).getD [])] ∧
      t.stack.mem = s.stack.mem ∧ t.galley = s.galley ∧ t.formes = s.formes) ∧
  (∀ (s : State) (h : HostReq) (f : FormeId) (b : Fin 6) (o : BitVec 40) (d : List Byte) (a : Nat), MemoryOk s →
    hostTarget s h = .forme f → aperture s f b o.toNat d.length = some (.galley a) →
    ∃ t, exec (.hostMemoryWrite h b o d) s = .next t ∧ t = { s with galley := t.galley } ∧
      (∀ x : Nat, galleyByte t.galley x = if a ≤ x ∧ x < a + d.length then d.getD (x - a) 0 else galleyByte s.galley x)) ∧
  (∀ (s : State) (h : HostReq) (f : FormeId) (b : Fin 6) (o : BitVec 40) (d : List Byte) (a : Nat) (c : FormeCfg) (g : Region),
    hostTarget s h = .forme f → aperture s f b o.toNat d.length = some (.stack a) → (s.forme f).cfg = some c → c.regions = [g] →
    ∃ t, exec (.hostMemoryWrite h b o d) s = .next t ∧
      (∀ k x : Nat, stackByte t.stack.mem k x =
        if g.base * 2 ^ 30 + a ≤ x ∧ x < g.base * 2 ^ 30 + a + d.length then d.getD (x - (g.base * 2 ^ 30 + a)) 0
        else stackByte s.stack.mem k x) ∧ t.galley = s.galley ∧ t.out = s.out ∧ (∀ e : FormeId, e ≠ f → t.forme e = s.forme e)) ∧
  (∀ (s : State) (h : HostReq) (f : FormeId) (b : Fin 6) (o : BitVec 40) (n : Nat) (d : List Byte), hostTarget s h = .forme f →
    (aperture s f b o.toNat n = none → ∃ t, exec (.hostMemoryRead h b o n) s = .next t ∧
      SentOn h.port (.hcpl h.port h.fn h.tag .busError []) s t) ∧
    (aperture s f b o.toNat d.length = none → ∃ t, exec (.hostMemoryWrite h b o d) s = .next t ∧
      SentOn h.port (.hcpl h.port h.fn h.tag .busError []) s t))

/-- REGISTER_WRITE and HOST_REGISTER_READ (R8, R9, R11): SLUG_SEED, SCHED_TUNE and MAKEUP_TUNE of a forme's window take what is written,
each field at the nearer limit; a write of a read-only block, or of an uncovered offset, is ignored; a register reads as its word, an
uncovered offset as zero; a size other than 8 of a register, an odd size and a misaligned access are BUS_ERROR. -/
def Obligations.RegisterAccess : Prop :=
  (∀ (s : State) (h : HostReq) (f : FormeId) (v : Word), hostTarget s h = .forme f → (s.forme f).cfg.isSome = true →
    (∃ t, exec (.registerWrite h 0x05080 8 v) s = .next t ∧ OnlyForme f s t ∧ t.forme f = { s.forme f with seed := v }) ∧
    (∃ t, exec (.registerWrite h 0x02008 8 v) s = .next t ∧ OnlyForme f s t ∧
      t.forme f = { s.forme f with sched := { (s.forme f).sched with tuneReg := clampTune v } } ∧
      schedReg (t.forme f) 0x008 = some (clampTune v)) ∧
    (∃ t, exec (.registerWrite h 0x03000 8 v) s = .next t ∧ OnlyForme f s t ∧
      (t.forme f).makeup.reserve = max 64 (min 1024 (fld v 10 0)) ∧ (t.forme f).makeup.runahead = max 1 (min 64 (fld v 22 16)) ∧
      (t.forme f).makeup.shapeLog = min 12 (fld v 28 24) ∧ (t.forme f).makeup.explicitMib = min 64 (fld v 38 32) ∧
      (t.forme f).makeup.explicitActive = (s.forme f).makeup.explicitActive)) ∧
  (∀ (s : State) (h : HostReq) (f : FormeId) (o : BitVec 20) (v : Word), hostTarget s h = .forme f → o.toNat % 8 = 0 →
    o.toNat / 0x1000 ∈ [4, 6, 7, 8, 9, 10, 11] ∨ formeReg s f o.toNat = none → exec (.registerWrite h o 8 v) s = .next s) ∧
  (∀ (s : State) (h : HostReq) (f : FormeId) (o : BitVec 20) (w : Word), hostTarget s h = .forme f →
    invalOut (s.port h.port) f = false → o.toNat % 8 = 0 → formeReg s f o.toNat = some w →
    ∃ t, exec (.hostRegisterRead h o 8) s = .next t ∧ t.out = s.out ++ [.hcpl h.port h.fn h.tag .ok (leBytes 8 w.toNat)] ∧
      t.formes = s.formes ∧ t.stack = s.stack ∧ t.galley = s.galley ∧ t.colo = s.colo ∧ t.time = s.time) ∧
  (∀ (s : State) (h : HostReq) (f : FormeId) (o : BitVec 20) (n : Nat), hostTarget s h = .forme f →
    invalOut (s.port h.port) f = false → n = 4 ∨ n = 8 → o.toNat % n = 0 → formeReg s f (o.toNat / 8 * 8) = none →
    ∃ t, exec (.hostRegisterRead h o n) s = .next t ∧ t.out = s.out ++ [.hcpl h.port h.fn h.tag .ok (List.replicate n 0)] ∧
      t.formes = s.formes) ∧
  (∀ (s : State) (h : HostReq) (f : FormeId) (o : BitVec 20) (n : Nat) (v : Word), hostTarget s h = .forme f →
    (n ≠ 4 ∧ n ≠ 8) ∨ o.toNat % n ≠ 0 ∨ (n = 4 ∧ (formeReg s f (o.toNat / 8 * 8)).isSome = true) →
    (∃ t, exec (.registerWrite h o n v) s = .next t ∧ SentOn h.port (.hcpl h.port h.fn h.tag .busError []) s t) ∧
    (invalOut (s.port h.port) f = false → ∃ t, exec (.hostRegisterRead h o n) s = .next t ∧ t.formes = s.formes ∧
      t.out = s.out ++ [.hcpl h.port h.fn h.tag .busError []])) ∧
  (∀ (s : State) (h : HostReq) (f : FormeId) (o : BitVec 20) (n : Nat) (v : Word), hostTarget s h = .resetting f →
    (n ≠ 4 ∧ n ≠ 8) ∨ o.toNat % n ≠ 0 →
    (∃ t, exec (.registerWrite h o n v) s = .next t ∧ SentOn h.port (.hcpl h.port h.fn h.tag .busError []) s t) ∧
    (∃ t, exec (.hostRegisterRead h o n) s = .next t ∧ t.formes = s.formes ∧
      t.out = s.out ++ [.hcpl h.port h.fn h.tag .busError []])) ∧
  (∀ (s : State) (h : HostReq) (o : BitVec 20) (n : Nat) (v : Word), hostTarget s h = .management →
    (n ≠ 4 ∧ n ≠ 8) ∨ o.toNat % n ≠ 0 ∨ (n = 4 ∧ (mgmtReg s h.port (o.toNat / 8 * 8)).isSome = true) →
    (∃ t, exec (.registerWrite h o n v) s = .next t ∧ SentOn h.port (.hcpl h.port h.fn h.tag .busError []) s t) ∧
    (∃ t, exec (.hostRegisterRead h o n) s = .next t ∧ t.formes = s.formes ∧ t.links = s.links ∧ t.colo = s.colo ∧
      t.out = s.out ++ [.hcpl h.port h.fn h.tag .busError []])) ∧
  (∀ (s : State) (h : HostReq) (o : BitVec 20) (w : Word), hostTarget s h = .management → o.toNat % 8 = 0 →
    mgmtReg s h.port o.toNat = some w →
    ∃ t, exec (.hostRegisterRead h o 8) s = .next t ∧ t.out = s.out ++ [.hcpl h.port h.fn h.tag .ok (leBytes 8 w.toNat)] ∧
      t.formes = s.formes)

/-- R332: a request of a function that no forme is bound to, and a management request that is not secure, is answered BUS_ERROR and has
no other effect, whatever it asks; and a request on a port that is down does nothing. -/
def Obligations.DeniedRequests : Prop :=
  (∀ (s : State) (h : HostReq), s.portUp h.port = true → h.fn.val = 16 → h.sec = false → hostTarget s h = .denied) ∧
  (∀ (s : State) (h : HostReq), s.portUp h.port = true → h.fn.val ≠ 16 → s.bound h.port h.fn = none → hostTarget s h = .denied) ∧
  (∀ (s : State) (h : HostReq) (f : FormeId), s.bound h.port h.fn = some f →
    (s.forme f).cfg.isSome = true ∧ s.colo.withheld.getLsbD f.val = false) ∧
  (∀ (s : State) (h : HostReq), s.portUp h.port = false → hostTarget s h = .absent) ∧
  (∀ (s : State) (h : HostReq) (r : RingId) (l : LinkId) (b : Fin 6) (o : BitVec 40) (ro : BitVec 20) (n : Nat) (d : List Byte) (v : Word),
    ∀ i ∈ ([.feedRingTail h r v, .ringEnable h r v, .ringDisable h r v, .bellErrClear h r, .replay h r, .mrtGo h v, .freset h,
        .hostMemoryRead h b o n, .hostMemoryWrite h b o d, .registerWrite h ro n v, .hostRegisterRead h ro n, .ecpSpillInval h v,
        .mboxGo h v, .mboxAck h v, .aczSelf h v, .retrain h l v, .disable h l v, .portRetrain h v] : List Instr),
      (hostTarget s h = .denied → ∃ t, exec i s = .next t ∧ SentOn h.port (.hcpl h.port h.fn h.tag .busError []) s t) ∧
      (hostTarget s h = .absent → exec i s = .next s))

/-- MBOX_GO, MBOX_ACK, COMPOSITOR_WAKE and COMPOSITOR_POWER_GATE (R352 to R355): GO sets FULL, and is a BUS_ERROR while FULL; a message of
an opcode the channel does not define is answered 0x1201; ACK clears VALID, or lets the next response in; a compositor with a wake event
has power, and one idle for 10,000 ticks without one loses it. Choices of the model it rests on: log 62, 80. -/
def Obligations.Mailboxes : Prop :=
  (∀ (s : State) (h : HostReq) (f : FormeId) (v : Word), hostTarget s h = .forme f → (s.forme f).mbox.full = false →
    opcodeDefined (.plain f) (msgOpcode (s.forme f).mbox.inData) = true →
    ∃ t, exec (.mboxGo h v) s = .next t ∧ OnlyForme f s t ∧
      t.forme f = { s.forme f with mbox := { (s.forme f).mbox with full := true } }) ∧
  (∀ (s : State) (h : HostReq) (f : FormeId) (v : Word), hostTarget s h = .forme f → (s.forme f).mbox.full = false →
    opcodeDefined (.plain f) (msgOpcode (s.forme f).mbox.inData) = false → s.receiverReady (.plain f) = true →
    ∃ t, exec (.mboxGo h v) s = .next t ∧ RespondedWith (.plain f)
      (mkResponse (msgOpcode (s.forme f).mbox.inData) (msgTag (s.forme f).mbox.inData) 0x1201 []) s t) ∧
  (∀ (s : State) (h : HostReq) (f : FormeId) (v : Word), hostTarget s h = .forme f → (s.forme f).mbox.full = true →
    ∃ t, exec (.mboxGo h v) s = .next t ∧ SentOn h.port (.hcpl h.port h.fn h.tag .busError []) s t) ∧
  (∀ (s : State) (h : HostReq) (f : FormeId) (v : Word), hostTarget s h = .forme f → (s.forme f).mbox.valid = true →
    (s.forme f).mbox.full = false →
    ∃ t, exec (.mboxAck h v) s = .next t ∧ (t.forme f).mbox.evtEn = v.getLsbD 2 ∧ (t.forme f).mbox.full = false ∧
      (t.forme f).mbox.waiting = (s.forme f).mbox.waiting.tail ∧
      match (s.forme f).mbox.waiting with
      | [] => (t.forme f).mbox.valid = false ∧ OnlyForme f s t
      | r :: _ => (t.forme f).mbox.valid = true ∧ (t.forme f).mbox.outData = r) ∧
  (∀ (s : State) (c : CompId), wakeDue s c = true →
    ∃ t, exec (.compositorWake c) s = .next t ∧ (t.comp c).powered = true ∧ (t.comp c).idle = 0 ∧ t.stack = s.stack ∧ t.galley = s.galley) ∧
  (∀ (s : State) (c : CompId) (f : FormeId) (k : FormeCfg), (s.forme f).cfg = some k → k.compositor = c → (s.comp c).powered = true →
    10000 ≤ (s.comp c).idle → wakeDue s c = false →
    exec (.compositorPowerGate c) s = .next (s.modComp c (fun k => { k with powered := false })))

/-! ### Attestation and the quoin lock -/

/-- REPORT and IDENTITY (R363, R370 to R374): the report of the formes asked for is written to the address given and its length, that of
R371, is answered; one asked for while an imposition is checked is 0x1305; the identity certificate is written, or 0x130B without it; a
faulted write is 0x1309. Choices of the model it rests on: log 77. -/
def Obligations.ReportsAndIdentity : Prop :=
  (∀ (s : State) (mask : Nat) (nonce : List Word), nonce.length = 4 →
    (reportBytes s mask nonce).length = 512 + 1888 * (reportFormes s mask).length + 16 + 3309) ∧
  (∀ (s : State) (p : PortId) (m : Vector Word 16) (w : Option EcpStatus), Delivered s (.secure p) 0x0102 m → s.boot.ready = true →
    s.colo.opening = none → s.colo.phase ≠ 1 →
    ∃ t, exec (.report p w) s = .next t ∧ RespondedWith (.secure p) (if w.isSome then mkResponse 0x0102 (msgTag m) 0x1309 []
        else mkResponse 0x0102 (msgTag m) 0 [BitVec.ofNat 64 (reportBytes s (fld m[2] 15 0) [m[3], m[4], m[5], m[6]]).length]) s t ∧
      Output.dwr p 16 (s.reqTag p) m[1] (reportBytes s (fld m[2] 15 0) [m[3], m[4], m[5], m[6]]) ∈ t.out ∧
      t.formes = s.formes ∧ t.stack = s.stack ∧ t.fuses = s.fuses) ∧
  (∀ (s : State) (p : PortId) (m : Vector Word 16) (w : Option EcpStatus), Delivered s (.secure p) 0x0102 m → s.boot.ready = true →
    s.colo.opening = none → s.colo.phase = 1 →
    ∃ t, exec (.report p w) s = .next t ∧ RespondedWith (.secure p) (mkResponse 0x0102 (msgTag m) 0x1305 []) s t) ∧
  (∀ (s : State) (p : PortId) (m : Vector Word 16) (w : Option EcpStatus), Delivered s (.secure p) 0x0103 m →
    ∃ t, exec (.identity p w) s = .next t ∧ RespondedWith (.secure p) (mkResponse 0x0103 (msgTag m)
        (if s.colo.identityUp = false then 0x130B else if w.isSome then 0x1309 else 0) []) s t ∧
      (s.colo.identityUp = true → Output.dwr p 16 (s.reqTag p) m[1] (identityBytes s) ∈ t.out) ∧
      t.formes = s.formes ∧ t.stack = s.stack ∧ t.fuses = s.fuses)

/-- QUOIN_CHALLENGE and QUOIN_NONCE_EXPIRY (R364, R376): a fresh nonce replaces any earlier one and is answered with its four words;
without entropy it is 0x130A and no later key is issued; a nonce is valid for 1,000,000 ticks. -/
def Obligations.QuoinNonces : Prop :=
  (∀ (s : State) (p : PortId) (m : Vector Word 16), Delivered s (.secure p) 0x0104 m → s.boot.ready = true → s.colo.mgmtOnly = false →
    ∃ t, exec (.quoinChallenge p true) s = .next t ∧ t.colo.nonce = some (s.draws, s.time.ticks) ∧ t.draws = s.draws + 1 ∧
      RespondedWith (.secure p) (mkResponse 0x0104 (msgTag m) 0 ((List.range 4).map (wordOf (Config.entropy s.draws)))) s t ∧
      t.formes = s.formes ∧ t.stack = s.stack) ∧
  (∀ (s : State) (p : PortId) (m : Vector Word 16), Delivered s (.secure p) 0x0104 m → s.boot.ready = true →
    ∃ t, exec (.quoinChallenge p false) s = .next t ∧ t.colo.mgmtOnly = true ∧ t.draws = s.draws ∧ t.colo.nonce = s.colo.nonce ∧
      RespondedWith (.secure p) (mkResponse 0x0104 (msgTag m) 0x130A []) s t) ∧
  (∀ (s : State) (n : Nat) (w : Word), s.colo.nonce = some (n, w) →
    ∃ t, exec .quoinNonceExpiry s = .next t ∧ t = { s with colo := t.colo } ∧
      t.colo.nonce = if (s.time.ticks - w).toNat < 1000000 then some (n, w) else none) ∧
  (∀ s : State, nonceValid s = true ↔ ∃ (n : Nat) (w : Word), s.colo.nonce = some (n, w) ∧ (s.time.ticks - w).toNat < 1000000) ∧
  (∀ (s : State) (p : PortId) (m : Vector Word 16) (r : Fetched QuoinRequest), Delivered s (.secure p) 0x0105 m → s.boot.ready = true →
    ∃ t, exec (.quoinOpen p r) s = .next t ∧ t.colo.nonce = none) ∧
  (∀ (s : State) (p : PortId) (m : Vector Word 16) (r : Fetched FuseRequest), Delivered s (.secure p) 0x0107 m → s.boot.ready = true →
    ∃ t, exec (.fuseProgram p r) s = .next t ∧ t.colo.nonce = none)

/-- QUOIN_OPEN, QUOIN_OPENING_DONE and QUOIN_CLOSE (R378 to R380): a request is answered with the code of its first failing check, and its
nonce is consumed; one that passes starts an opening with no held key left and galley zero; at its end the scrubbed stack memory lists
nothing, fresh keys are drawn and the scope is open, or, without entropy, it stays closed with 0x130A; closing starts a module reset. Choices of the model it rests on: log 11, 53. -/
def Obligations.QuoinOpenings : Prop :=
  (∀ (s : State) (p : PortId) (m : Vector Word 16) (r : QuoinRequest), Delivered s (.secure p) 0x0105 m → s.boot.ready = true →
    quoinCheck s r (BitVec.ofNat 3 (fld m[2] 2 0)) ≠ 0 →
    ∃ t, exec (.quoinOpen p (.data r)) s = .next t ∧
      RespondedWith (.secure p) (mkResponse 0x0105 (msgTag m) (quoinCheck s r (BitVec.ofNat 3 (fld m[2] 2 0))) []) s t ∧
      t.colo.nonce = none ∧ t.colo.scopes = s.colo.scopes ∧ t.colo.opening = s.colo.opening ∧ t.formes = s.formes ∧ t.stack = s.stack ∧
      t.galley = s.galley) ∧
  (∀ (s : State) (p : PortId) (m : Vector Word 16) (r : QuoinRequest), Delivered s (.secure p) 0x0105 m → s.boot.ready = true →
    quoinCheck s r (BitVec.ofNat 3 (fld m[2] 2 0)) = 0 →
    ∃ t, exec (.quoinOpen p (.data r)) s = .next t ∧
      t.colo.opening = some { scope := BitVec.ofNat 3 (fld m[2] 2 0), port := p, tag := msgTag m, domainsOff := true, offSince := s.time.ticks } ∧
      t.colo.kHeld = none ∧ t.colo.kShared = none ∧ (∀ d : Fin 16, t.colo.kDom[d.val] = none) ∧ t.index = [] ∧
      (∀ x < 2 ^ 35, galleyByte t.galley x = 0) ∧ t.colo.scrub.active = true ∧ t.colo.scrub.cause = 3) ∧
  (∀ (s : State) (o : Opening) (ok : Bool), s.colo.opening = some o → o.domainsOff = false → s.colo.heldReports = [] →
    ∃ t, exec (.quoinOpeningDone ok) s = .next t ∧ t.colo.opening = none ∧
      (∀ x < 952 * 2 ^ 30, memGet t.stack.mem x = none) ∧
      (if ok = true ∧ s.colo.mgmtOnly = false
        then t.colo.scopes = (s.colo.scopes ||| o.scope) ∧ t.colo.kHeld = some s.draws ∧ t.colo.kShared = some (s.draws + 1) ∧
          Answered (.secure o.port) (mkResponse 0x0105 o.tag 0 []) s t
        else t.colo.scopes = s.colo.scopes ∧ t.colo.mgmtOnly = true ∧ t.draws = s.draws ∧
          Answered (.secure o.port) (mkResponse 0x0105 o.tag 0x130A []) s t)) ∧
  (∀ (s : State) (p : PortId) (m : Vector Word 16), Delivered s (.secure p) 0x0106 m → s.boot.ready = true →
    ∃ t, exec (.quoinClose p) s = .next t ∧ t.boot.cause = 2 ∧ t.boot.phase = 2 ∧ t.boot.power = .on ∧ t.boot.ready = false ∧
      t.boot.resets = satInc s.boot.resets ∧ t.colo = Colophon.reset ∧ t.formes = State.reset.formes ∧ t.stack = Stack.reset ∧
      t.galley = [] ∧ t.fuses = s.fuses ∧ t.flash = s.flash)

/-- FUSE_PROGRAM (R359, R360): a request is answered with the code of its first failing check and blows nothing; one that passes and
reads back blows its rule bit, raises FR_SVN_MIN, programs the next blank slot or revokes one, and is answered 0; a slot whose bits do
not read back is revoked, with 0x1308. Either way the nonce is consumed. Choices of the model it rests on: log 54. -/
def Obligations.FusesProgram : Prop :=
  (∀ (s : State) (p : PortId) (m : Vector Word 16) (r : FuseRequest), Delivered s (.secure p) 0x0107 m → s.boot.ready = true →
    fuseCheck s r ≠ 0 →
    ∃ t, exec (.fuseProgram p (.data r)) s = .next t ∧ RespondedWith (.secure p) (mkResponse 0x0107 (msgTag m) (fuseCheck s r) []) s t ∧
      t.fuses = s.fuses ∧ t.colo.nonce = none ∧ t.formes = s.formes) ∧
  (∀ (s : State) (p : PortId) (m : Vector Word 16) (r : FuseRequest), Delivered s (.secure p) 0x0107 m → s.boot.ready = true →
    fuseCheck s r = 0 → r.blown = true →
    ∃ t, exec (.fuseProgram p (.data r)) s = .next t ∧ RespondedWith (.secure p) (mkResponse 0x0107 (msgTag m) 0 []) s t ∧
      t.colo.nonce = none ∧
      (r.field = 1 → t.fuses = { s.fuses with rules := s.fuses.rules ||| oneBit 6 r.slot.toNat }) ∧
      (r.field = 2 → t.fuses = { s.fuses with svnMin := r.value.toNat }) ∧
      (r.field = 3 → t.fuses.signer.toList = s.fuses.signer.toList.set r.slot.toNat
        { hash := r.value, programmed := true, revoked := (s.fuses.signer.toList[r.slot.toNat]?.map (·.revoked)).getD false }) ∧
      (r.field = 5 → t.fuses.signer = s.fuses.signer ∧ ∃ k, t.fuses.operator.toList[r.slot.toNat]? = some k ∧ k.hash = r.value ∧ k.programmed = true) ∧
      (r.field = 4 → ∃ k, t.fuses.signer.toList[r.slot.toNat]? = some k ∧ k.revoked = true) ∧
      (r.field = 6 → ∃ k, t.fuses.operator.toList[r.slot.toNat]? = some k ∧ k.revoked = true)) ∧
  (∀ (s : State) (p : PortId) (m : Vector Word 16) (r : FuseRequest), Delivered s (.secure p) 0x0107 m → s.boot.ready = true →
    fuseCheck s r = 0 → r.blown = false →
    ∃ t, exec (.fuseProgram p (.data r)) s = .next t ∧ RespondedWith (.secure p) (mkResponse 0x0107 (msgTag m) 0x1308 []) s t ∧
      (r.field = 3 → ∃ k, t.fuses.signer.toList[r.slot.toNat]? = some k ∧ k.revoked = true))

/-! ### The management connector -/

/-- I3C_WRITE_OFFSET, I3C_READ and I3C_ADDRESS_ASSIGN (R423, R424): two bytes set the offset, low byte first, and a longer write is not
acknowledged; a read answers the platen block from there, once, and from PLATEN_RESET without an offset; nothing answers before platen
firmware runs, unless the boot ROM has halted. Choices of the model it rests on: log 78. -/
def Obligations.I3cAccess : Prop :=
  (∀ (s : State) (a b : Byte), i3cAnswers s = true →
    exec (.i3cWriteOffset [a, b]) s = .next { s with i3c := { s.i3c with offset := some (b ++ a) } }) ∧
  (∀ (s : State) (a b c : Byte) (d : List Byte), exec (.i3cWriteOffset (a :: b :: c :: d)) s = .next { s with out := s.out ++ [.i3cNack] }) ∧
  (∀ (s : State) (n : Nat), i3cAnswers s = true →
    exec (.i3cRead n) s = .next { s with i3c := { s.i3c with offset := none }, out := s.out ++ [.i3c ((List.range n).map (fun i =>
      i3cByte s ((s.i3c.offset.map (·.toNat)).getD 0x130 + i)))] }) ∧
  (∀ (s : State) (a : BitVec 7), i3cAnswers s = true → exec (.i3cAddressAssign a) s = .next { s with i3c := { s.i3c with addr := some a } }) ∧
  (∀ (s : State) (n : Nat) (a : BitVec 7) (bs : List Byte), i3cAnswers s = false →
    exec (.i3cRead n) s = .next { s with out := s.out ++ [.i3cNack] } ∧
    exec (.i3cAddressAssign a) s = .next { s with out := s.out ++ [.i3cNack] } ∧
    exec (.i3cWriteOffset bs) s = .next { s with out := s.out ++ [.i3cNack] }) ∧
  (∀ (s : State) (p : PortId) (a : Nat),
    (a < 0x138 → i3cByte s a = (((mgmtReg s p (0x1000 + a / 8 * 8)).getD 0) >>> (8 * (a % 8))).truncate 8) ∧
    (0x138 ≤ a → i3cByte s a = 0))

/-- The TAP (R375, R420, R425): IDCODE shifts out 0x_2410_B87 under STEPPING; BYPASS, and a private instruction whose scope is closed,
shift out one 0; SAMPLE and EXTEST show the cells, and change nothing inside the module; COLO_TRST_N low resets the port. A private
instruction whose scope is open is refused: the manual does not say what it does. Choices of the model it rests on: log 101. -/
def Obligations.TestAccess : Prop :=
  (∀ (s : State) (n : Nat) (v : Vector Bool 6) (op : PrivateTap), tapOn s = true →
    (∃ t, exec (.tapBypass n) s = .next t ∧ t = { s with tap := t.tap, out := t.out } ∧ t.tap.ir = 0 ∧ t.out.getLast? = some (.tdo [false])) ∧
    (∃ t, exec .tapIdcode s = .next t ∧ t = { s with tap := t.tap, out := t.out } ∧ t.tap.ir = 1 ∧
      t.out.getLast? = some (.tdo ((List.range 32).map
        (fun i => ((s.fuses.stepping.truncate 4 : BitVec 4) ++ (0x2410B87#28 : BitVec 28)).getLsbD i)))) ∧
    (∃ t, exec (.tapSamplePreload v) s = .next t ∧ t = { s with tap := t.tap, out := t.out, free := t.free } ∧ t.tap.ir = 2 ∧
      (∀ i (h : i < 4), t.tap.cells[i] = v[i]) ∧ ∃ w, t.out.getLast? = some (.tapCells w) ∧ w[2] = s.boot.rstHigh ∧ w[3] = s.pinPwrgd) ∧
    (∃ t, exec .tapExtest s = .next t ∧ t = { s with tap := t.tap, out := t.out, free := t.free } ∧ t.tap.ir = 3 ∧
      t.tap.cells = s.tap.cells ∧ t.pinPwrgd = s.tap.cells[3]) ∧
    (s.colo.scopes.getLsbD (tapScope op) = false → ∃ t, exec (.tapPrivateInstruction op) s = .next t ∧
      t = { s with tap := t.tap, out := t.out } ∧ t.tap.ir = 0 ∧ t.out.getLast? = some (.tdo [false])) ∧
    (s.colo.scopes.getLsbD (tapScope op) = true → exec (.tapPrivateInstruction op) s = .refused .privateTapScopeOpen)) ∧
  (∀ (s : State) (low : Bool), ∃ t, exec (.tapReset low) s = .next t ∧ t = { s with tap := t.tap, out := t.out } ∧ t.tap.inReset = low ∧
    (low = true → t.tap.ir = 1))

/-! ### Arithmetic and placement -/

/-- R58 to R61, R64 and R65: with a tile's planes loaded, the passes over planes and bytes of one column, shifted and added, give exactly
the sum of products of its mantissas with the lanes; the top plane counts negative for signed mantissas, and a 16-bit lane is its low byte
and, signed, its high byte. The residue path gives the residue of each term, and the counts of a loaded plane agree with its bits. -/
def Obligations.PlanesSumToProduct : Prop :=
  (∀ (planes passes : Nat) (signed : Bool) (ms : List (List Int)) (lanes : List Int) (shifts : List Nat) (j : Nat),
    1 ≤ planes → passes = 1 ∨ passes = 2 → j < 1024 →
    (∀ r ∈ ms, r.length ≤ 1024 ∧ ∀ w ∈ r, if signed then -(2 ^ (planes - 1) : Int) ≤ w ∧ w < 2 ^ (planes - 1) else 0 ≤ w ∧ w < (2 ^ planes : Int)) →
    ((List.range passes).flatMap (fun pass => (List.range planes).map (fun p =>
      (columnTerm (loadPlane (ms.map (fun r => r.map (fun m => planeBit m p)))) j p pass (signed && p + 1 == planes) shifts
        (lanes.map (laneOf passes pass))).1))).foldl (· + ·) 0 =
      (shifts.mapIdx (fun b sh => (((lanes.drop (32 * b)).take 32).mapIdx (fun i a =>
        (ms.getD (32 * b + i) []).getD j 0 * a)).foldl (· + ·) 0 * 2 ^ sh)).foldl (· + ·) 0) ∧
  (∀ (p : PlaneSlot) (col plane pass : Nat) (neg : Bool) (shifts : List Nat) (lanes : List Int),
    (columnTerm p col plane pass neg shifts lanes).2 = res3 (columnTerm p col plane pass neg shifts lanes).1) ∧
  (∀ (rows : List (List Bool)) (cols : Nat) (lanes : List Int), cols ≤ 1024 → (∀ r ∈ rows, r.length ≤ cols) →
    checksEqual (loadPlane rows) cols lanes = true)

/-- R146, R147 and R150: a line displaced from a channel that is out of service lies in the relocation area, on a channel that is in
service, and every other line lies where it was. A read of a line detects exactly when the line is poisoned, and a line written whole is
poisoned no more, whatever the others are. -/
def Obligations.LinesRelocateAndDetect : Prop :=
  (∀ (out : List ChannelId) (l : Nat), ¬(out.contains (channelOf (256 * l)) = true ∧ outsideRelocation out l = true) → hostLine out l = l) ∧
  (∀ (out : List ChannelId) (l : Nat), out.Nodup → 1 ≤ out.length → out.length ≤ 32 → l < 1024 * 2 ^ 22 →
    out.contains (channelOf (256 * l)) = true → outsideRelocation out l = true →
    out.contains (channelOf (256 * hostLine out l)) = false ∧ outsideRelocation out (hostLine out l) = false) ∧
  (∀ (k : Stack) (key l : Nat), readDetects k key l = k.isPoisoned l) ∧
  (∀ (k : Stack) (l m : Nat), (k.clearPoison l 1).isPoisoned m = (k.isPoisoned m && m != l))

/-- R8, R9 and the rules of each command: every command of the table has an effect in every state, whatever its operands, and what a rule does not
admit is answered or ignored, never a stop. The one exception is a private TAP instruction whose scope is open, which the manual leaves
undefined (TestAccess states it). What each command does is said by the statements above. Choices of the model it rests on: log 1. -/
def Obligations.EveryCommandCompletes : Prop :=
  (∀ (s : State) (a : Bool) (b : BitVec 16), ∃ t, exec (.coldReset a b) s = .next t) ∧
  (∀ (s : State) (a : BitVec 16), ∀ i ∈ ([
      .inputPowerLoss a, .powerIntervalEnd a] : List Instr), ∃ t, exec i s = .next t) ∧
  (∀ (s : State) (a : BitVec 16) (b : Nat), ∃ t, exec (.supplyFault a b) s = .next t) ∧
  (∀ (s : State) (a : BitVec 16) (b : Nat) (c : Nat), ∀ i ∈ ([
      .supplyFaultRestart a b c, .platenRstNRelease a b c] : List Instr), ∃ t, exec i s = .next t) ∧
  (∀ (s : State) (a : Nat), ∀ i ∈ ([
      .platenRstNAssert a, .i3cRead a, .tapBypass a] : List Instr), ∃ t, exec i s = .next t) ∧
  (∀ (s : State) (a : BootEnv), ∃ t, exec (.moduleResetSteps a) s = .next t) ∧
  (∀ (s : State) (a : Bool), ∀ i ∈ ([
      .bringupScrubDone a, .reimposeScrubDone a, .quoinOpeningDone a, .tapReset a] : List Instr), ∃ t, exec i s = .next t) ∧
  (∀ (s : State) (a : Vector (BitVec 8) 10) (b : BitVec 8) (c : BitVec 8), ∃ t, exec (.thermalSample a b c) s = .next t) ∧
  (∀ (s : State), ∀ i ∈ ([
      .currentLimitEngage, .reimposeDrainDone, .reimposeCommit, .strokeEdge, .localCountIncrement, .strokeSourceLost, .holdoverExpiry,
      .quoinNonceExpiry, .tapIdcode, .tapExtest] : List Instr), ∃ t, exec i s = .next t) ∧
  (∀ (s : State) (a : ClearScope), ∃ t, exec (.domainDischargeDone a) s = .next t) ∧
  (∀ (s : State) (a : HostReq), ∃ t, exec (.freset a) s = .next t) ∧
  (∀ (s : State) (a : FormeId) (b : Bool), ∃ t, exec (.functionResetScrubDone a b) s = .next t) ∧
  (∀ (s : State) (a : PortId), ∀ i ∈ ([
      .impose a, .portTrainRetry a, .portDown a, .quoinClose a] : List Instr), ∃ t, exec i s = .next t) ∧
  (∀ (s : State) (a : Fetched SignedImage), ∃ t, exec (.impositionFetched a) s = .next t) ∧
  (∀ (s : State) (a : Vector PairEdge 128) (b : Int), ∃ t, exec (.strokeFrame a b) s = .next t) ∧
  (∀ (s : State) (a : LinkId) (b : MarkFlit) (c : Int), ∃ t, exec (.strokeMark a b c) s = .next t) ∧
  (∀ (s : State) (a : HostReq) (b : Word), ∀ i ∈ ([
      .mrtGo a b, .aczSelf a b, .portRetrain a b, .ecpSpillInval a b, .mboxGo a b, .mboxAck a b] : List Instr), ∃ t, exec i s = .next t) ∧
  (∀ (s : State) (a : FormeId), ∀ i ∈ ([
      .mrtCopyDone a, .mrtActivate a, .stepBoundary a, .sharePeriodEnd a, .feedEntryFetch a, .planComplete a, .explicitRegionApply a,
      .swapStart a, .swapInDone a, .saveSpaceRetest a, .ink a, .inkCopyComplete a, .stopServiceDrained a, .attach a, .detach a, .jobOpen
      a, .jobClose a] : List Instr), ∃ t, exec i s = .next t) ∧
  (∀ (s : State) (a : FormeId) (b : BitVec 8), ∀ i ∈ ([
      .collectiveWindowOpen a b, .collectiveWindowClose a b, .fillerWindowOpen a b, .fillerWindowEnd a b] : List Instr), ∃ t, exec i s =
      .next t) ∧
  (∀ (s : State) (a : HostReq) (b : RingId) (c : Word), ∀ i ∈ ([
      .feedRingTail a b c, .ringEnable a b c, .ringDisable a b c] : List Instr), ∃ t, exec i s = .next t) ∧
  (∀ (s : State) (a : HostReq) (b : RingId), ∀ i ∈ ([
      .bellErrClear a b, .replay a b] : List Instr), ∃ t, exec i s = .next t) ∧
  (∀ (s : State) (a : FormeId) (b : RingId) (c : EcpStatus), ∃ t, exec (.entryReadFault a b c) s = .next t) ∧
  (∀ (s : State) (a : FormeId) (b : RingId) (c : RingEntry), ∀ i ∈ ([
      .nop a b c, .launch a b c, .store a b c, .patch a b c, .free a b c] : List Instr), ∃ t, exec i s = .next t) ∧
  (∀ (s : State) (a : FormeId) (b : RingId) (c : Seq) (d : Fetched Blob), ∃ t, exec (.matterImageReadDone a b c d) s = .next t) ∧
  (∀ (s : State) (a : FormeId) (b : RingId), ∃ t, exec (.entryRelease a b) s = .next t) ∧
  (∀ (s : State) (a : FormeId) (b : RingId) (c : Seq), ∀ i ∈ ([
      .launchComplete a b c, .launchTimeout a b c, .programException a b c] : List Instr), ∃ t, exec i s = .next t) ∧
  (∀ (s : State) (a : FormeId) (b : RingId) (c : Seq) (d : EcpStatus), ∃ t, exec (.recordWriteDone a b c d) s = .next t) ∧
  (∀ (s : State) (a : FormeId) (b : RingId) (c : Seq) (d : BitVec 16) (e : List Byte) (f : SlugTag), ∃ t, exec (.issue a b c d e f) s = .next t) ∧
  (∀ (s : State) (a : FormeId) (b : SlugTag) (c : Nat), ∀ i ∈ ([
      .resolve a b c, .proofRead a b c] : List Instr), ∃ t, exec i s = .next t) ∧
  (∀ (s : State) (a : FormeId) (b : SlugTag), ∀ i ∈ ([
      .wait a b, .slugPassPoint a b, .proofWritesDone a b, .releaseDrainDone a b, .matchPrompt a b, .leafCopyDone a b, .remoteLoadTimeout
      a b, .collectiveStart a b, .collectiveComplete a b, .remoteStoreTimeout a b] : List Instr), ∃ t, exec i s = .next t) ∧
  (∀ (s : State) (a : FormeId) (b : RingId) (c : Seq) (d : Code) (e : Nat) (f : List Byte), ∃ t, exec (.endLaunch a b c d e f) s = .next t) ∧
  (∀ (s : State) (a : FormeId) (b : SlugTag) (c : Nat) (d : Option FinWork), ∃ t, exec (.opComplete a b c d) s = .next t) ∧
  (∀ (s : State) (a : FormeId) (b : SlugTag) (c : DetectKind), ∃ t, exec (.detection a b c) s = .next t) ∧
  (∀ (s : State) (a : FormeId) (b : SlugTag) (c : Word), ∃ t, exec (.acquireFlagPoll a b c) s = .next t) ∧
  (∀ (s : State) (a : FormeId) (b : CoreId) (c : SheetFetch), ∃ t, exec (.runaheadFetchDone a b c) s = .next t) ∧
  (∀ (s : State) (a : FormeId) (b : CoreId), ∀ i ∈ ([
      .swapOutCopyDone a b, .swapSliceDrained a b] : List Instr), ∃ t, exec i s = .next t) ∧
  (∀ (s : State) (a : ChannelId) (b : MapOutKind), ∃ t, exec (.channelMapOut a b) s = .next t) ∧
  (∀ (s : State) (a : ChannelId) (b : Nat) (c : Bool), ∃ t, exec (.channelCommandTimeout a b c) s = .next t) ∧
  (∀ (s : State) (a : List Nat), ∃ t, exec (.migrationComplete a) s = .next t) ∧
  (∀ (s : State) (a : FormeId) (b : Fetched InkHeader), ∃ t, exec (.inkHeaderReadDone a b) s = .next t) ∧
  (∀ (s : State) (a : FormeId) (b : Fetched Blob), ∃ t, exec (.inkChunkDone a b) s = .next t) ∧
  (∀ (s : State) (a : FormeId) (b : BindingId) (c : Nat) (d : Fetched Blob), ∃ t, exec (.chunkRefetchDone a b c d) s = .next t) ∧
  (∀ (s : State) (a : LinkId) (b : BitVec 12) (c : BitVec 24), ∃ t, exec (.linkTrainingDone a b c) s = .next t) ∧
  (∀ (s : State) (a : LinkId), ∀ i ∈ ([
      .linkTrainRetry a, .linkLost a, .cableConnected a, .linkTrainingTimeout a] : List Instr), ∃ t, exec i s = .next t) ∧
  (∀ (s : State) (a : HostReq) (b : LinkId) (c : Word), ∀ i ∈ ([
      .retrain a b c, .disable a b c] : List Instr), ∃ t, exec i s = .next t) ∧
  (∀ (s : State) (a : LinkId) (b : AczFlit), ∃ t, exec (.flitReceive a b) s = .next t) ∧
  (∀ (s : State) (a : LinkId) (b : Fin 16), ∃ t, exec (.laneBad a b) s = .next t) ∧
  (∀ (s : State) (a : Packet), ∀ i ∈ ([
      .loadReq a, .loadResp a, .storePacket a, .storeAck a, .nackRemote a, .collData a, .join a, .reroute a, .abort a] : List Instr), ∃ t,
      exec i s = .next t) ∧
  (∀ (s : State) (a : FormeId) (b : JobSlot), ∀ i ∈ ([
      .joinTimeout a b, .jobOpenTimeout a b] : List Instr), ∃ t, exec i s = .next t) ∧
  (∀ (s : State) (a : JobKeyMsg), ∀ i ∈ ([
      .jkOffer a, .jkDeliver a] : List Instr), ∃ t, exec i s = .next t) ∧
  (∀ (s : State) (a : Word), ∃ t, exec (.jkReject a) s = .next t) ∧
  (∀ (s : State) (a : PortId) (b : BitVec 16), ∃ t, exec (.portTrainingDone a b) s = .next t) ∧
  (∀ (s : State) (a : HostReq) (b : Fin 6) (c : BitVec 40) (d : Nat), ∃ t, exec (.hostMemoryRead a b c d) s = .next t) ∧
  (∀ (s : State) (a : HostReq) (b : Fin 6) (c : BitVec 40) (d : List Byte), ∃ t, exec (.hostMemoryWrite a b c d) s = .next t) ∧
  (∀ (s : State) (a : HostReq) (b : BitVec 20) (c : Nat) (d : Word), ∃ t, exec (.registerWrite a b c d) s = .next t) ∧
  (∀ (s : State) (a : PortId) (b : BitVec 12) (c : EcpStatus) (d : List Byte), ∃ t, exec (.dcpl a b c d) s = .next t) ∧
  (∀ (s : State) (a : PortId) (b : BitVec 12) (c : EcpStatus), ∃ t, exec (.dack a b c) s = .next t) ∧
  (∀ (s : State) (a : PortId) (b : BitVec 12), ∃ t, exec (.drdTimeout a b) s = .next t) ∧
  (∀ (s : State) (a : PortId) (b : BitVec 40), ∃ t, exec (.snpInv a b) s = .next t) ∧
  (∀ (s : State) (a : CompId), ∀ i ∈ ([
      .compositorWake a, .compositorPowerGate a] : List Instr), ∃ t, exec i s = .next t) ∧
  (∀ (s : State) (a : PortId) (b : Option EcpStatus), ∀ i ∈ ([
      .report a b, .identity a b] : List Instr), ∃ t, exec i s = .next t) ∧
  (∀ (s : State) (a : PortId) (b : Bool), ∃ t, exec (.quoinChallenge a b) s = .next t) ∧
  (∀ (s : State) (a : PortId) (b : Fetched QuoinRequest), ∃ t, exec (.quoinOpen a b) s = .next t) ∧
  (∀ (s : State) (a : PortId) (b : Fetched FuseRequest), ∃ t, exec (.fuseProgram a b) s = .next t) ∧
  (∀ (s : State) (a : List Byte), ∃ t, exec (.i3cWriteOffset a) s = .next t) ∧
  (∀ (s : State) (a : BitVec 7), ∃ t, exec (.i3cAddressAssign a) s = .next t) ∧
  (∀ (s : State) (a : Vector Bool 6), ∃ t, exec (.tapSamplePreload a) s = .next t) ∧
  (∀ (s : State) (a : PrivateTap), tapOn s = false ∨ s.colo.scopes.getLsbD (tapScope a) = false → ∃ t, exec (.tapPrivateInstruction a) s = .next t) ∧
  (∀ (s : State) (a : PortId) (b : Fin 16), ∃ t, exec (.ecpLaneFailed a b) s = .next t) ∧
  (∀ (s : State) (a : PortId) (b : EcpFlit), ∃ t, exec (.ecpFlitReceive a b) s = .next t) ∧
  (∀ (s : State) (a : HostReq) (b : BitVec 20) (c : Nat), ∃ t, exec (.hostRegisterRead a b c) s = .next t)
end

