-- ==== Sys2Proof/Laws/Memory.lean ====
section
/-! SUPPORT. The memory operations: a read after a write, every other address untouched, and the canonical form kept. -/
namespace Sys2Proof.Machine

/-- The canonical form from a lower bound holds from any smaller bound. -/
theorem memWfFrom_le {d : Option Byte} {m : Memory} {lo lo' : Nat} (h : memWfFrom d lo m = true) (hl : lo' ≤ lo) :
    memWfFrom d lo' m = true := by
  cases m with
  | nil => rfl
  | cons c m =>
    simp only [memWfFrom, Bool.and_eq_true, decide_eq_true_eq] at h ⊢
    exact ⟨⟨Nat.le_trans hl h.1.1, h.1.2⟩, h.2⟩

/-- An address below the bound is not listed. -/
theorem memGet_lt {d : Option Byte} {m : Memory} {lo x : Nat} (h : memWfFrom d lo m = true) (hx : x < lo) : memGet m x = none := by
  induction m generalizing lo with
  | nil => rfl
  | cons c m ih =>
    simp only [memWfFrom, Bool.and_eq_true, decide_eq_true_eq] at h
    simp only [memGet]
    rw [if_neg (by omega)]
    exact ih h.2 (by omega)

/-- Erasing keeps the form. -/
theorem memErase_wfFrom {d : Option Byte} {m : Memory} {lo x : Nat} (h : memWfFrom d lo m = true) : memWfFrom d lo (memErase m x) = true := by
  induction m generalizing lo with
  | nil => rfl
  | cons c m ih =>
    simp only [memErase]
    split
    · simp only [memWfFrom, Bool.and_eq_true, decide_eq_true_eq] at h
      exact memWfFrom_le h.2 (by omega)
    · simp only [memWfFrom, Bool.and_eq_true, decide_eq_true_eq] at h ⊢
      exact ⟨h.1, ih h.2⟩

/-- Inserting another byte than the unlisted one keeps the form. -/
theorem memInsert_wfFrom {d : Option Byte} {m : Memory} {lo x : Nat} {v : Byte} (h : memWfFrom d lo m = true) (hl : lo ≤ x) (hv : d ≠ some v) :
    memWfFrom d lo (memInsert m x v) = true := by
  induction m generalizing lo with
  | nil => simp [memInsert, memWfFrom, hl, hv]
  | cons c m ih =>
    simp only [memWfFrom, Bool.and_eq_true, decide_eq_true_eq] at h
    simp only [memInsert]
    split
    · simp only [memWfFrom, Bool.and_eq_true, decide_eq_true_eq]
      exact ⟨⟨hl, hv⟩, ⟨⟨by omega, h.1.2⟩, h.2⟩⟩
    · split
      · simp only [memWfFrom, Bool.and_eq_true, decide_eq_true_eq]
        subst_vars
        exact ⟨⟨hl, hv⟩, h.2⟩
      · simp only [memWfFrom, Bool.and_eq_true, decide_eq_true_eq]
        exact ⟨h.1, ih h.2 (by omega)⟩

/-- A write of one byte keeps the canonical form. -/
theorem memPut_wf {d : Option Byte} {m : Memory} {x : Nat} {v : Byte} (h : Memory.wf d m = true) : Memory.wf d (memPut d m x v) = true := by
  unfold memPut Memory.wf
  split
  · exact memErase_wfFrom h
  · exact memInsert_wfFrom h (Nat.zero_le _) ‹_›

/-- A write of bytes keeps the canonical form. -/
theorem memPutAll_wf {d : Option Byte} {m : Memory} {x : Nat} {vs : List Byte} (h : Memory.wf d m = true) :
    Memory.wf d (memPutAll d m x vs) = true := by
  induction vs generalizing m x with
  | nil => exact h
  | cons v vs ih => exact ih (memPut_wf h)

/-- Dropping entries keeps the canonical form. -/
theorem memFilter_wf {d : Option Byte} {m : Memory} {p : Host.Cell → Bool} (h : Memory.wf d m = true) : Memory.wf d (m.filter p) = true := by
  suffices H : ∀ (m : Memory) (lo : Nat), memWfFrom d lo m = true → memWfFrom d lo (m.filter p) = true from H m 0 h
  intro m
  induction m with
  | nil => intro lo _; rfl
  | cons c m ih =>
    intro lo h
    simp only [memWfFrom, Bool.and_eq_true, decide_eq_true_eq] at h
    simp only [List.filter]
    split
    · simp only [memWfFrom, Bool.and_eq_true, decide_eq_true_eq]
      exact ⟨h.1, ih _ h.2⟩
    · exact ih _ (memWfFrom_le h.2 (by omega))

/-- Dropping a range keeps the canonical form. -/
theorem memClear_wf {d : Option Byte} {m : Memory} {b n : Nat} (h : Memory.wf d m = true) : Memory.wf d (memClear m b n) = true := memFilter_wf h

/-- A read after an erase. -/
theorem memGet_erase {d : Option Byte} {m : Memory} {lo x y : Nat} (h : memWfFrom d lo m = true) :
    memGet (memErase m x) y = if y = x then none else memGet m y := by
  induction m generalizing lo with
  | nil => simp [memErase, memGet]
  | cons c m ih =>
    simp only [memWfFrom, Bool.and_eq_true, decide_eq_true_eq] at h
    simp only [memErase]
    split
    · subst_vars
      by_cases hy : y = c.1
      · rw [if_pos hy, hy]; exact memGet_lt h.2 (by omega)
      · simp only [memGet, if_neg hy, if_neg (Ne.symm hy)]
    · simp only [memGet]
      rw [ih h.2]
      by_cases hy : y = x
      · rw [if_pos hy, if_pos hy, if_neg (by omega)]
      · simp only [if_neg hy]

/-- A read after an insert. -/
theorem memGet_insert {m : Memory} {x y : Nat} {v : Byte} : memGet (memInsert m x v) y = if y = x then some v else memGet m y := by
  induction m with
  | nil => simp [memInsert, memGet, eq_comm]
  | cons c m ih =>
    simp only [memInsert]
    split
    · simp only [memGet, eq_comm (a := y)]
    · split
      · subst_vars
        simp only [memGet, eq_comm (a := y)]
        split <;> rfl
      · simp only [memGet, ih, eq_comm (a := y)]
        split
        · rw [if_neg (by omega)]
        · rfl

/-- A read after a write of one byte, with `dflt` for the unlisted: the byte written, and every other address as before. -/
theorem memGet_put {d : Option Byte} {m : Memory} {x y : Nat} {v : Byte} (h : Memory.wf d m = true) :
    (memGet (memPut d m x v) y).or d = if y = x then some v else (memGet m y).or d := by
  unfold memPut
  split
  · rename_i hd
    rw [memGet_erase h]
    split
    · simpa using hd
    · rfl
  · rw [memGet_insert]
    split <;> rfl

end Sys2Proof.Machine
end

