-- ==== Sys2Proof/Laws/Keeps.lean ====
section
/-! SUPPORT. The relation of what every command keeps: it is a preorder, and it passes through folds and through changes of the
parts it does not speak of. -/
namespace Sys2Proof.Machine

theorem SlotGrows.refl (a : HashSlot) : SlotGrows a a := ⟨fun h => ⟨h, rfl⟩, id⟩

theorem SlotGrows.trans {a b c : HashSlot} (h : SlotGrows a b) (k : SlotGrows b c) : SlotGrows a c :=
  ⟨fun p => ⟨(k.1 (h.1 p).1).1, (k.1 (h.1 p).1).2.trans (h.1 p).2⟩, fun p => k.2 (h.2 p)⟩

theorem FusesGrow.refl (a : Fuses) : FusesGrow a a := ⟨rfl, fun _ h => h, Nat.le_refl _, fun _ _ => SlotGrows.refl _, fun _ _ => SlotGrows.refl _⟩

theorem FusesGrow.trans {a b c : Fuses} (h : FusesGrow a b) (k : FusesGrow b c) : FusesGrow a c :=
  ⟨k.stepping.trans h.stepping, fun n p => k.rules n (h.rules n p), Nat.le_trans h.svnMin k.svnMin,
   fun n hn => (h.signer n hn).trans (k.signer n hn), fun n hn => (h.operator n hn).trans (k.operator n hn)⟩

theorem Keeps.refl (s : State) : Keeps s s := ⟨rfl, FusesGrow.refl _, Nat.le_refl _, ⟨[], (List.append_nil _).symm⟩, id⟩

theorem Keeps.trans {s t u : State} (h : Keeps s t) (k : Keeps t u) : Keeps s u :=
  ⟨k.pending.trans h.pending, h.fuses.trans k.fuses, Nat.le_trans h.draws k.draws,
   (let ⟨a, ha⟩ := h.out; let ⟨b, hb⟩ := k.out; ⟨a ++ b, by rw [hb, ha, List.append_assoc]⟩), fun p => k.memory (h.memory p)⟩

/-- A change of parts the relation does not speak of. -/
theorem Keeps.update {s t : State} {boot : Boot} {flash : Flash} {time : TimeBase} {platen : Platen} {colo : Colophon} {stack : Stack}
    {formes : Vector Forme 16} {cores : Vector Core 128} {comps : Vector Compositor 16} {ports : Vector Port 4} {links : Vector Link 6}
    {selfReg : Word} {index : List IndexEntry} {poolQueue : List FormeId} {orphans : List ImageCopy} {engines : Vector (Vector Int 16) 3}
    {tap : Tap} {i3c : I3c} {verdicts : List (List (Nat × Byte) × Bool)} {free : Nat} (h : Keeps s t) (hs : stack.mem = t.stack.mem) :
    Keeps s (State.mk t.pending boot t.fuses flash time platen colo stack t.galley formes cores comps ports links selfReg index poolQueue
      orphans engines tap i3c verdicts t.draws free t.out) :=
  ⟨h.pending, h.fuses, h.draws, h.out, fun p => ⟨hs ▸ (h.memory p).1, (h.memory p).2⟩⟩

/-- A change of stack memory that keeps its form. -/
theorem Keeps.stackMem {s t : State} {stack : Stack} (h : Keeps s t) (hs : Memory.wf none t.stack.mem = true → Memory.wf none stack.mem = true) :
    Keeps s { t with stack := stack } :=
  ⟨h.pending, h.fuses, h.draws, h.out, fun p => ⟨hs (h.memory p).1, (h.memory p).2⟩⟩

/-- A change of galley that keeps its form. -/
theorem Keeps.galleyMem {s t : State} {g : Memory} (h : Keeps s t) (hs : Memory.wf galleyDefault t.galley = true → Memory.wf galleyDefault g = true) :
    Keeps s { t with galley := g } :=
  ⟨h.pending, h.fuses, h.draws, h.out, fun p => ⟨(h.memory p).1, hs (h.memory p).2⟩⟩

/-- The relation passes through a fold. -/
theorem Keeps.foldl {α : Type} {s t : State} {g : State → α → State} {l : List α} (h : Keeps s t) (hg : ∀ u x, Keeps s u → Keeps s (g u x)) :
    Keeps s (l.foldl g t) := by
  induction l generalizing t with
  | nil => exact h
  | cons a l ih => exact ih (hg t a h)

/-- What a command answers keeps what every command keeps, where it is a next state. -/
structure KeepsRes (s : State) (r : Res) : Prop where
  get' : ∀ t, r = .next t → Keeps s t

theorem KeepsRes.next {s t : State} (h : Keeps s t) : KeepsRes s (.next t) := ⟨fun _ e => by cases e; exact h⟩

theorem KeepsRes.fault {s : State} {e : Fault} : KeepsRes s (.fault e) := ⟨fun _ e => by cases e⟩

theorem KeepsRes.refused {s : State} {e : Refusal} : KeepsRes s (.refused e) := ⟨fun _ e => by cases e⟩

theorem Keeps.foldlFst {α β : Type} {s : State} {x : State × β} {g : State × β → α → State × β} {l : List α} (h : Keeps s x.1)
    (hg : ∀ u a, Keeps s u.1 → Keeps s (g u a).1) : Keeps s (l.foldl g x).1 := by
  induction l generalizing x with
  | nil => exact h
  | cons a l ih => exact ih (hg x a h)

theorem Keeps.ofFst {α : Type} {s t : State} {a : α} {x : State × α} (h : Keeps s x.1) (e : x = (t, a)) : Keeps s t := by subst e; exact h

theorem Keeps.ofSnd {α : Type} {s t : State} {a : α} {x : α × State} (h : Keeps s x.2) (e : x = (a, t)) : Keeps s t := by subst e; exact h

/-- What an operation that may give nothing leaves keeps what every command keeps. -/
structure OptKeeps {α : Type} (s : State) (x : Option (α × State)) : Prop where
  get' : ∀ a t, x = Option.some (a, t) → Keeps s t

theorem OptKeeps.none {α : Type} {s : State} : OptKeeps (α := α) s none := ⟨fun _ _ e => by cases e⟩

theorem OptKeeps.some {α : Type} {s t : State} {a : α} (h : Keeps s t) : OptKeeps s (some (a, t)) := ⟨fun _ _ e => by cases e; exact h⟩

theorem OptKeeps.map {α β : Type} {s t : State} {x : Option β} {g : β → α} (h : Keeps s t) : OptKeeps s (x.map (fun b => (g b, t))) := by
  cases x with
  | none => exact .none
  | some b => exact .some h

theorem OptKeeps.mapFst {α β : Type} {s : State} {x : Option (β × State)} {g : β × State → α} (h : OptKeeps s x) :
    OptKeeps s (x.map (fun r => (g r, r.2))) := by
  cases x with
  | none => exact .none
  | some b => exact .some (h.get' _ _ rfl)

theorem OptKeeps.get {α : Type} {s t : State} {a : α} {x : Option (α × State)} (h : OptKeeps s x) (e : x = Option.some (a, t)) : Keeps s t :=
  h.get' a t e

/-- A read that asks for something answers a state that keeps what every command keeps. -/
structure GotKeeps {α : Type} (s : State) (g : Got α) : Prop where
  get' : ∀ t, g = .asked t → Keeps s t

theorem GotKeeps.ok {α : Type} {s : State} {x : α} : GotKeeps s (.ok x) := ⟨fun _ e => by cases e⟩

theorem GotKeeps.poisoned {α : Type} {s : State} {l : Nat} : GotKeeps (α := α) s (.poisoned l) := ⟨fun _ e => by cases e⟩

theorem GotKeeps.fails {α : Type} {s : State} {c : Code} : GotKeeps (α := α) s (.fails c) := ⟨fun _ e => by cases e⟩

theorem GotKeeps.asked {α : Type} {s t : State} (h : Keeps s t) : GotKeeps (α := α) s (.asked t) := ⟨fun _ e => by cases e; exact h⟩

theorem GotKeeps.get {α : Type} {s t : State} {g : Got α} (h : GotKeeps s g) (e : g = .asked t) : Keeps s t := h.get' t e

theorem GotKeeps.bind {α β : Type} {s : State} {g : Got α} {k : α → Got β} (h : GotKeeps s g) (hk : ∀ x, GotKeeps s (k x)) :
    GotKeeps s (g.bind k) := by
  cases g with
  | ok x => exact hk x
  | poisoned l => exact .poisoned
  | asked t => exact .asked (h.get' _ rfl)
  | fails c => exact .fails

theorem GotKeeps.foldr {α β : Type} {s : State} {g : Got α} {k : β → Got α → Got α} {l : List β} (h : GotKeeps s g)
    (hk : ∀ x r, GotKeeps s r → GotKeeps s (k x r)) : GotKeeps s (l.foldr k g) := by
  induction l with
  | nil => exact h
  | cons a l ih => exact hk a _ ih

/-- A read of spill pages that must wait leaves a state that keeps what every command keeps. -/
structure PagesKeep (s : State) (x : PageRead) : Prop where
  get' : ∀ t, x = .waits t → Keeps s t

theorem PagesKeep.ready {s : State} {d : List Byte} : PagesKeep s (.ready d) := ⟨fun _ e => by cases e⟩

theorem PagesKeep.outside {s : State} : PagesKeep s .outside := ⟨fun _ e => by cases e⟩

theorem PagesKeep.waits {s t : State} (h : Keeps s t) : PagesKeep s (.waits t) := ⟨fun _ e => by cases e; exact h⟩

theorem PagesKeep.get {s t : State} {x : PageRead} (h : PagesKeep s x) (e : x = .waits t) : Keeps s t := h.get' t e

/-- Stack memory keeps its form through changes of the poison lists. -/
theorem clearPoison_mem (k : Stack) (a n : Nat) : (k.clearPoison a n).mem = k.mem := by
  unfold Stack.clearPoison
  split <;> rfl

end Sys2Proof.Machine
end

