-- ==== Sys2Proof/Laws/KeepsOps.lean ====
section
/-! SUPPORT. What the operations of Machine/Ops.lean keep (Safety.lean, `Keeps`): one lemma each. -/
namespace Sys2Proof.Machine

theorem State.setForme_keeps {s t : State} (h : Keeps s t) (x0 : FormeId) (x1 : Forme) : Keeps s (State.setForme t x0 x1) := by
  unfold State.setForme
  try dsimp only
  repeat' first
    | with_reducible assumption
    | (with_reducible apply Keeps.update)
    | (show _ = _; rfl)

theorem State.modForme_keeps {s t : State} (h : Keeps s t) (x0 : FormeId) (x1 : Forme → Forme) : Keeps s (State.modForme t x0 x1) := by
  unfold State.modForme
  try dsimp only
  repeat' first
    | with_reducible assumption
    | with_reducible apply State.setForme_keeps

theorem State.modRing_keeps {s t : State} (h : Keeps s t) (x0 : FormeId) (x1 : RingId) (x2 : Ring → Ring) : Keeps s (State.modRing t x0 x1 x2) := by
  unfold State.modRing
  try dsimp only
  repeat' first
    | with_reducible assumption
    | with_reducible apply State.modForme_keeps

theorem State.modPort_keeps {s t : State} (h : Keeps s t) (x0 : PortId) (x1 : Port → Port) : Keeps s (State.modPort t x0 x1) := by
  unfold State.modPort
  try dsimp only
  repeat' first
    | with_reducible assumption
    | (with_reducible apply Keeps.update)
    | (show _ = _; rfl)

theorem State.modLink_keeps {s t : State} (h : Keeps s t) (x0 : LinkId) (x1 : Link → Link) : Keeps s (State.modLink t x0 x1) := by
  unfold State.modLink
  try dsimp only
  repeat' first
    | with_reducible assumption
    | (with_reducible apply Keeps.update)
    | (show _ = _; rfl)

theorem State.modCore_keeps {s t : State} (h : Keeps s t) (x0 : CoreId) (x1 : Core → Core) : Keeps s (State.modCore t x0 x1) := by
  unfold State.modCore
  try dsimp only
  repeat' first
    | with_reducible assumption
    | (with_reducible apply Keeps.update)
    | (show _ = _; rfl)

theorem State.modComp_keeps {s t : State} (h : Keeps s t) (x0 : CompId) (x1 : Compositor → Compositor) : Keeps s (State.modComp t x0 x1) := by
  unfold State.modComp
  try dsimp only
  repeat' first
    | with_reducible assumption
    | (with_reducible apply Keeps.update)
    | (show _ = _; rfl)

theorem State.mapFormes_keeps {s t : State} (h : Keeps s t) (x0 : FormeId → Forme → Forme) : Keeps s (State.mapFormes t x0) := by
  unfold State.mapFormes
  try dsimp only
  repeat' first
    | with_reducible assumption
    | (with_reducible apply Keeps.update)
    | (show _ = _; rfl)

theorem State.emit_keeps {s t : State} (h : Keeps s t) (o : Output) : Keeps s (t.emit o) :=
  ⟨h.pending, h.fuses, h.draws, (let ⟨a, ha⟩ := h.out; ⟨a ++ [o], by simp only [State.emit, ha, List.append_assoc]⟩), h.memory⟩

theorem State.draw_keeps {s t : State} (h : Keeps s t) : Keeps s t.draw.2 :=
  ⟨h.pending, h.fuses, Nat.le_succ_of_le h.draws, h.out, h.memory⟩

theorem State.freshValue_keeps {s t : State} (h : Keeps s t)  : Keeps s (State.freshValue t).2 := by
  unfold State.freshValue
  try dsimp only
  repeat' first
    | with_reducible assumption
    | (with_reducible apply Keeps.update)
    | (show _ = _; rfl)

theorem State.setPwrgd_keeps {s t : State} (h : Keeps s t) (x0 : Bool) : Keeps s (State.setPwrgd t x0) := by
  unfold State.setPwrgd
  try dsimp only
  repeat' first
    | with_reducible assumption
    | with_reducible apply State.emit_keeps
    | split
    | (with_reducible apply Keeps.update)
    | (show _ = _; rfl)

theorem State.charge_keeps {s t : State} (h : Keeps s t) (x0 : FormeId) (x1 : Nat) : Keeps s (State.charge t x0 x1) := by
  unfold State.charge
  try dsimp only
  repeat' first
    | with_reducible assumption
    | (with_reducible apply Keeps.update)
    | (show _ = _; rfl)

theorem State.chargeStack_keeps {s t : State} (h : Keeps s t) (x0 : FormeId) (x1 : Nat) : Keeps s (State.chargeStack t x0 x1) := by
  unfold State.chargeStack
  try dsimp only
  repeat' first
    | with_reducible assumption
    | with_reducible apply State.charge_keeps

theorem State.rampUp_keeps {s t : State} (h : Keeps s t) (x0 : FormeId) (x1 : CoreId) : Keeps s (State.rampUp t x0 x1) := by
  unfold State.rampUp
  try dsimp only
  repeat' first
    | with_reducible assumption
    | with_reducible apply State.modCore_keeps
    | with_reducible apply State.charge_keeps
    | (with_reducible apply Keeps.update)
    | (show _ = _; rfl)

theorem State.rampDown_keeps {s t : State} (h : Keeps s t) (x0 : FormeId) (x1 : CoreId) : Keeps s (State.rampDown t x0 x1) := by
  unfold State.rampDown
  try dsimp only
  repeat' first
    | with_reducible assumption
    | with_reducible apply State.modCore_keeps
    | with_reducible apply State.charge_keeps
    | (with_reducible apply Keeps.update)
    | (show _ = _; rfl)

theorem State.stackFetch_keeps {s t : State} (h : Keeps s t) (x0 : FormeId) (x1 : Hint) (x2 : Bool) (x3 : List Nat) (x4 : Nat) : Keeps s (State.stackFetch t x0 x1 x2 x3 x4) := by
  unfold State.stackFetch
  try dsimp only
  repeat' first
    | with_reducible assumption
    | with_reducible apply State.chargeStack_keeps
    | split
    | (with_reducible apply Keeps.update)
    | (show _ = _; rfl)

theorem formeFetch_keeps {s t : State} (h : Keeps s t) (x0 : FormeId) (x1 : Hint) (x2 : Bool) (x3 : Nat) (x4 : Nat) : Keeps s (formeFetch t x0 x1 x2 x3 x4) := by
  unfold formeFetch
  try dsimp only
  repeat' first
    | with_reducible assumption
    | with_reducible apply State.stackFetch_keeps
    | split

theorem stackWrite_fold_wf {c : FormeCfg} {off : Nat} {data : List Byte} {m : Memory} (l : List Nat) (h : Memory.wf none m = true) :
    Memory.wf none (l.foldl (fun m i => match slotAddr c.regions (off + i) with
      | some a => memPut none m a (data.getD i 0)
      | none => m) m) = true := by
  induction l generalizing m with
  | nil => exact h
  | cons i l ih =>
    refine ih ?_
    dsimp only
    split
    · exact memPut_wf h
    · exact h

theorem clearPoison_fold_mem (l : List Nat) (k : Stack) : (l.foldl (fun (k : Stack) l => k.clearPoison l 1) k).mem = k.mem := by
  induction l generalizing k with
  | nil => rfl
  | cons i l ih => exact (ih _).trans (clearPoison_mem _ _ _)

theorem State.stackStore_keeps {s t : State} (h : Keeps s t) (f : FormeId) (x : Hint) (off : Nat) (data : List Byte) :
    Keeps s (t.stackStore f x off data) := by
  unfold State.stackStore
  split
  · exact h
  · split
    · exact State.chargeStack_keeps (h.stackMem (fun p => stackWrite_fold_wf _ p)) f _
    · exact h

theorem State.scrubRegions_keeps {s t : State} (h : Keeps s t) (rs : List Region) : Keeps s (t.scrubRegions rs) := by
  refine h.stackMem (fun p => ?_)
  show Memory.wf none (rs.foldl _ t.stack.mem) = true
  revert p
  generalize t.stack.mem = m
  induction rs generalizing m with
  | nil => exact id
  | cons r rs ih => exact fun p => ih _ (memClear_wf p)

theorem State.scrubBytes_keeps {s t : State} (h : Keeps s t) (base n : Nat) : Keeps s (t.scrubBytes base n) := h.stackMem memClear_wf

theorem State.modCopy_keeps {s t : State} (h : Keeps s t) (x0 : Nat) (x1 : ImageCopy → ImageCopy) : Keeps s (State.modCopy t x0 x1) := by
  unfold State.modCopy
  try dsimp only
  repeat' first
    | with_reducible assumption
    | with_reducible apply State.mapFormes_keeps
    | split
    | (with_reducible apply Keeps.update)
    | (show _ = _; rfl)

theorem State.galleyWrite_keeps {s t : State} (h : Keeps s t) (a : Nat) (data : List Byte) : Keeps s (t.galleyWrite a data) :=
  h.galleyMem memPutAll_wf

theorem State.clearGalley_keeps {s t : State} (h : Keeps s t) (cs : List CoreId) : Keeps s (t.clearGalley cs) := h.galleyMem memFilter_wf

theorem State.ecpOut_keeps {s t : State} (h : Keeps s t) (x0 : PortId) (x1 : Fin 4) (x2 : Nat) (x3 : Output) : Keeps s (State.ecpOut t x0 x1 x2 x3) := by
  unfold State.ecpOut
  try dsimp only
  repeat' first
    | with_reducible assumption
    | with_reducible apply State.modPort_keeps
    | with_reducible apply State.emit_keeps
    | (with_reducible apply Keeps.update)
    | (show _ = _; rfl)

theorem State.sendDrd_keeps {s t : State} (h : Keeps s t) (x0 : PortId) (x1 : FnId) (x2 : EcpUse) (x3 : Bool) (x4 : HostAddr) (x5 : Nat) : Keeps s (State.sendDrd t x0 x1 x2 x3 x4 x5) := by
  unfold State.sendDrd
  try dsimp only
  repeat' first
    | with_reducible assumption
    | with_reducible apply State.modPort_keeps
    | with_reducible apply State.ecpOut_keeps
    | (with_reducible apply Keeps.update)
    | (show _ = _; rfl)

theorem State.sendDwr_keeps {s t : State} (h : Keeps s t) (x0 : PortId) (x1 : FnId) (x2 : EcpUse) (x3 : HostAddr) (x4 : List Byte) : Keeps s (State.sendDwr t x0 x1 x2 x3 x4) := by
  unfold State.sendDwr
  try dsimp only
  repeat' first
    | with_reducible assumption
    | with_reducible apply State.modPort_keeps
    | with_reducible apply State.ecpOut_keeps
    | (with_reducible apply Keeps.update)
    | (show _ = _; rfl)

theorem State.formeDrd_keeps {s t : State} (h : Keeps s t) (x0 : FormeId) (x1 : EcpUse) (x2 : Bool) (x3 : HostAddr) (x4 : Nat) : Keeps s (State.formeDrd t x0 x1 x2 x3 x4) := by
  unfold State.formeDrd
  try dsimp only
  repeat' first
    | with_reducible assumption
    | with_reducible apply State.sendDrd_keeps
    | split

theorem State.formeDwr_keeps {s t : State} (h : Keeps s t) (x0 : FormeId) (x1 : EcpUse) (x2 : HostAddr) (x3 : List Byte) : Keeps s (State.formeDwr t x0 x1 x2 x3) := by
  unfold State.formeDwr
  try dsimp only
  repeat' first
    | with_reducible assumption
    | with_reducible apply State.sendDwr_keeps
    | split

theorem State.markPage_keeps {s t : State} (h : Keeps s t) (x0 : FormeId) (x1 : Nat) : Keeps s (State.markPage t x0 x1) := by
  unfold State.markPage
  try dsimp only
  repeat' first
    | with_reducible assumption
    | with_reducible apply State.modPort_keeps
    | split
    | (with_reducible apply Keeps.update)
    | (show _ = _; rfl)

theorem State.spillDrd_keeps {s t : State} (h : Keeps s t) (x0 : FormeId) (x1 : EcpUse) (x2 : Bool) (x3 : Nat) (x4 : HostAddr) (x5 : Nat) : Keeps s (State.spillDrd t x0 x1 x2 x3 x4 x5) := by
  unfold State.spillDrd
  try dsimp only
  repeat' first
    | with_reducible assumption
    | with_reducible apply State.formeDrd_keeps
    | with_reducible apply State.markPage_keeps
    | split

theorem State.spillDwr_keeps {s t : State} (h : Keeps s t) (x0 : FormeId) (x1 : EcpUse) (x2 : Nat) (x3 : HostAddr) (x4 : List Byte) : Keeps s (State.spillDwr t x0 x1 x2 x3 x4) := by
  unfold State.spillDwr
  try dsimp only
  repeat' first
    | with_reducible assumption
    | with_reducible apply State.formeDwr_keeps
    | with_reducible apply State.markPage_keeps
    | split

theorem State.retire_keeps {s t : State} (h : Keeps s t) (x0 : PortId) (x1 : EcpReq → Bool) : Keeps s (State.retire t x0 x1) := by
  unfold State.retire
  try dsimp only
  repeat' first
    | with_reducible assumption
    | with_reducible apply State.modPort_keeps
    | (with_reducible apply Keeps.update)
    | (show _ = _; rfl)

theorem State.retireUse_keeps {s t : State} (h : Keeps s t) (x0 : EcpUse) : Keeps s (State.retireUse t x0) := by
  unfold State.retireUse
  try dsimp only
  repeat' first
    | with_reducible assumption
    | (with_reducible apply Keeps.update)
    | (show _ = _; rfl)

theorem State.formeEvent_keeps {s t : State} (h : Keeps s t) (x0 : FormeId) (x1 : BitVec 8) : Keeps s (State.formeEvent t x0 x1) := by
  unfold State.formeEvent
  try dsimp only
  repeat' first
    | with_reducible assumption
    | with_reducible apply State.ecpOut_keeps
    | split

theorem State.portEvent_keeps {s t : State} (h : Keeps s t) (x0 : PortId) (x1 : BitVec 8) : Keeps s (State.portEvent t x0 x1) := by
  unfold State.portEvent
  try dsimp only
  repeat' first
    | with_reducible assumption
    | with_reducible apply State.ecpOut_keeps
    | split

theorem State.noteFault_keeps {s t : State} (h : Keeps s t) (x0 : FormeId) (x1 : HostAddr) (x2 : EcpStatus) : Keeps s (State.noteFault t x0 x1 x2) := by
  unfold State.noteFault
  try dsimp only
  repeat' first
    | with_reducible assumption
    | with_reducible apply State.modForme_keeps
    | (with_reducible apply Keeps.update)
    | (show _ = _; rfl)

theorem State.modMbox_keeps {s t : State} (h : Keeps s t) (x0 : Chan) (x1 : Mbox → Mbox) : Keeps s (State.modMbox t x0 x1) := by
  unfold State.modMbox
  try dsimp only
  repeat' first
    | with_reducible assumption
    | with_reducible apply State.modForme_keeps
    | with_reducible apply State.modPort_keeps
    | split
    | (with_reducible apply Keeps.update)
    | (show _ = _; rfl)

theorem State.mboxEvent_keeps {s t : State} (h : Keeps s t) (x0 : Chan) : Keeps s (State.mboxEvent t x0) := by
  unfold State.mboxEvent
  try dsimp only
  repeat' first
    | with_reducible assumption
    | with_reducible apply State.formeEvent_keeps
    | with_reducible apply State.portEvent_keeps
    | split

theorem State.respond_keeps {s t : State} (h : Keeps s t) (x0 : Chan) (x1 : Vector Word 16) : Keeps s (State.respond t x0 x1) := by
  unfold State.respond
  try dsimp only
  repeat' first
    | with_reducible assumption
    | with_reducible apply State.modMbox_keeps
    | with_reducible apply State.mboxEvent_keeps
    | split
    | (with_reducible apply Keeps.update)
    | (show _ = _; rfl)

theorem State.rejectUndefined_keeps {s t : State} (h : Keeps s t) (x0 : Chan) : Keeps s (State.rejectUndefined t x0) := by
  unfold State.rejectUndefined
  try dsimp only
  repeat' first
    | with_reducible assumption
    | with_reducible apply State.modMbox_keeps
    | with_reducible apply State.respond_keeps
    | split
    | (with_reducible apply Keeps.update)
    | (show _ = _; rfl)

theorem State.take_keeps {s t : State} (h : Keeps s t) (x0 : Chan) (x1 : Nat) : OptKeeps s (State.take t x0 x1) := by
  unfold State.take
  try dsimp only
  repeat' first
    | with_reducible assumption
    | with_reducible apply State.modMbox_keeps
    | with_reducible apply OptKeeps.none
    | with_reducible apply OptKeeps.some
    | with_reducible apply OptKeeps.map
    | with_reducible apply OptKeeps.mapFst
    | split
    | (with_reducible apply Keeps.update)
    | (show _ = _; rfl)

theorem State.bumpGen_keeps {s t : State} (h : Keeps s t)  : Keeps s (State.bumpGen t) := by
  unfold State.bumpGen
  try dsimp only
  repeat' first
    | with_reducible assumption
    | with_reducible apply State.mapFormes_keeps
    | (with_reducible apply Keeps.update)
    | (show _ = _; rfl)

theorem entropyFails_keeps {s t : State} (h : Keeps s t)  : Keeps s (entropyFails t) := by
  unfold entropyFails
  try dsimp only
  repeat' first
    | with_reducible assumption
    | with_reducible apply State.mapFormes_keeps
    | (with_reducible apply Keeps.update)
    | (show _ = _; rfl)

end Sys2Proof.Machine
end

