-- ==== Sys2Proof/Laws/KeepsFlags.lean ====
section
/-! SUPPORT. What the operations of Machine/Flags.lean keep (Safety.lean, `Keeps`): one lemma each. -/
namespace Sys2Proof.Machine

theorem State.noteCode_keeps {s t : State} (h : Keeps s t) (x0 : FormeId) (x1 : Code) : Keeps s (State.noteCode t x0 x1) := by
  unfold State.noteCode
  try dsimp only
  repeat' first
    | with_reducible assumption
    | with_reducible apply State.modForme_keeps
    | with_reducible apply State.formeEvent_keeps
    | split

end Sys2Proof.Machine
end

