-- ==== Sys2Proof/Laws/KeepsLaunches.lean ====
section
/-! SUPPORT. What the operations of Machine/Launches.lean keep (Safety.lean, `Keeps`): one lemma each. -/
namespace Sys2Proof.Machine

theorem State.releaseTiles_keeps {s t : State} (h : Keeps s t) (x0 : FormeId) : Keeps s (State.releaseTiles t x0) := by
  unfold State.releaseTiles
  try dsimp only
  repeat' first
    | with_reducible assumption
    | split
    | (with_reducible apply Keeps.update)
    | (show _ = _; rfl)

theorem State.settle_keeps {s t : State} (h : Keeps s t) (x0 : FormeId) : Keeps s (State.settle t x0) := by
  unfold State.settle
  try dsimp only
  repeat' first
    | with_reducible assumption
    | with_reducible apply State.modForme_keeps
    | with_reducible apply State.releaseTiles_keeps
    | (with_reducible apply Keeps.update)
    | (show _ = _; rfl)

theorem State.faultSlug_keeps {s t : State} (h : Keeps s t) (x0 : FormeId) (x1 : SlugTag) (x2 : SlugState) (x3 : Code) : Keeps s (State.faultSlug t x0 x1 x2 x3) := by
  unfold State.faultSlug
  try dsimp only
  repeat' first
    | with_reducible assumption
    | with_reducible apply State.modForme_keeps
    | with_reducible apply State.noteCode_keeps
    | with_reducible apply State.settle_keeps
    | split

theorem State.failSlug_keeps {s t : State} (h : Keeps s t) (x0 : FormeId) (x1 : SlugTag) (x2 : Code) : Keeps s (State.failSlug t x0 x1 x2) := by
  unfold State.failSlug
  try dsimp only
  repeat' first
    | with_reducible assumption
    | with_reducible apply State.faultSlug_keeps

theorem State.trimIndex_keeps {s t : State} (h : Keeps s t) (x0 : FormeId) : Keeps s (State.trimIndex t x0) := by
  unfold State.trimIndex
  try dsimp only
  repeat' first
    | with_reducible assumption
    | (with_reducible apply Keeps.update)
    | (show _ = _; rfl)

theorem State.completeEntry_keeps {s t : State} (h : Keeps s t) (x0 : FormeId) (x1 : RingId) (x2 : Seq) : Keeps s (State.completeEntry t x0 x1 x2) := by
  unfold State.completeEntry
  try dsimp only
  repeat' first
    | with_reducible assumption
    | with_reducible apply State.modForme_keeps
    | with_reducible apply State.formeDwr_keeps
    | with_reducible apply State.trimIndex_keeps
    | split
    | (with_reducible apply Keeps.update)
    | (show _ = _; rfl)

theorem State.completeWith_keeps {s t : State} (h : Keeps s t) (x0 : FormeId) (x1 : RingId) (x2 : Seq) (x3 : Code) : Keeps s (State.completeWith t x0 x1 x2 x3) := by
  unfold State.completeWith
  try dsimp only
  repeat' first
    | with_reducible assumption
    | with_reducible apply State.modForme_keeps
    | with_reducible apply State.noteCode_keeps
    | with_reducible apply State.completeEntry_keeps
    | (with_reducible apply Keeps.foldl)
    | (intro _ _ _; try dsimp only)
    | (with_reducible apply Keeps.update)
    | (show _ = _; rfl)

end Sys2Proof.Machine
end

