-- ==== Sys2Proof/Laws/KeepsOperands.lean ====
section
/-! SUPPORT. What the operations of Machine/Operands.lean keep (Safety.lean, `Keeps`): one lemma each. -/
namespace Sys2Proof.Machine

theorem State.busError_keeps {s t : State} (h : Keeps s t) (x0 : HostReq) : Keeps s (State.busError t x0) := by
  unfold State.busError
  try dsimp only
  repeat' first
    | with_reducible assumption
    | with_reducible apply State.ecpOut_keeps

theorem formeWrite_keeps {s t : State} (h : Keeps s t) (x0 : HostReq) (x1 : FormeId → State) (k2 : ∀ (y0 : FormeId),  Keeps s (x1 y0)) : Keeps s (formeWrite t x0 x1) := by
  unfold formeWrite
  try dsimp only
  repeat' first
    | with_reducible assumption
    | with_reducible apply State.busError_keeps
    | with_reducible apply k2
    | split

theorem managementWrite_keeps {s t : State} (h : Keeps s t) (x0 : HostReq) (x1 : PortId → State) (k2 : ∀ (y0 : PortId),  Keeps s (x1 y0)) : Keeps s (managementWrite t x0 x1) := by
  unfold managementWrite
  try dsimp only
  repeat' first
    | with_reducible assumption
    | with_reducible apply State.busError_keeps
    | with_reducible apply k2
    | split

theorem countDetect_keeps {s t : State} (h : Keeps s t) (x0 : FormeId) (x1 : ChannelId) (x2 : Nat) : Keeps s (countDetect t x0 x1 x2) := by
  unfold countDetect
  try dsimp only
  repeat' first
    | with_reducible assumption
    | with_reducible apply State.modForme_keeps
    | (with_reducible apply Keeps.update)
    | (show _ = _; rfl)

theorem countPoison_keeps {s t : State} (h : Keeps s t) (x0 : FormeId) (x1 : Nat) (x2 : Nat) : Keeps s (countPoison t x0 x1 x2) := by
  unfold countPoison
  try dsimp only
  repeat' first
    | with_reducible assumption
    | with_reducible apply countDetect_keeps
    | (with_reducible apply Keeps.foldl)
    | (intro _ _ _; try dsimp only)
    | split

theorem engineRead_keeps {s t : State} (h : Keeps s t) (x0 : FormeId) (x1 : BitVec 56) (x2 : Nat) : OptKeeps s (engineRead t x0 x1 x2) := by
  unfold engineRead
  try dsimp only
  repeat' first
    | with_reducible assumption
    | with_reducible apply countPoison_keeps
    | with_reducible apply OptKeeps.none
    | with_reducible apply OptKeeps.some
    | with_reducible apply OptKeeps.map
    | with_reducible apply OptKeeps.mapFst
    | split
    | (with_reducible apply Keeps.update)
    | (show _ = _; rfl)

theorem watchedStore_keeps {s t : State} (h : Keeps s t) (x0 : FormeId) (x1 : Hint) (x2 : Nat) (x3 : List Byte) : Keeps s (watchedStore t x0 x1 x2 x3) := by
  unfold watchedStore
  try dsimp only
  repeat' first
    | with_reducible assumption
    | with_reducible apply State.modForme_keeps
    | with_reducible apply State.stackStore_keeps

theorem watchedWrite_keeps {s t : State} (h : Keeps s t) (x0 : FormeId) (x1 : Nat) (x2 : List Byte) : Keeps s (watchedWrite t x0 x1 x2) := by
  unfold watchedWrite
  try dsimp only
  repeat' first
    | with_reducible assumption
    | with_reducible apply watchedStore_keeps

theorem ownWrite_keeps {s t : State} (h : Keeps s t) (x0 : FormeId) (x1 : BitVec 56) (x2 : List Byte) : Keeps s (ownWrite t x0 x1 x2) := by
  unfold ownWrite
  try dsimp only
  repeat' first
    | with_reducible assumption
    | with_reducible apply State.galleyWrite_keeps
    | with_reducible apply watchedWrite_keeps
    | split

end Sys2Proof.Machine
end

