-- ==== Sys2Proof/Laws/KeepsLeaves.lean ====
section
/-! SUPPORT. What the operations of Machine/Leaves.lean keep (Safety.lean, `Keeps`): one lemma each. -/
namespace Sys2Proof.Machine

theorem indexInsert_keeps {s t : State} (h : Keeps s t) (x0 : Fin 16) (x1 : FormeId) (x2 : Nat) (x3 : BitVec 256) : Keeps s (indexInsert t x0 x1 x2 x3) := by
  unfold indexInsert
  try dsimp only
  repeat' first
    | with_reducible assumption
    | with_reducible apply State.modForme_keeps
    | split
    | (with_reducible apply Keeps.update)
    | (show _ = _; rfl)

theorem absorbToken_keeps {s t : State} (h : Keeps s t) (x0 : FormeId) (x1 : BitVec 16) (x2 : Nat) : Keeps s (absorbToken t x0 x1 x2) := by
  unfold absorbToken
  try dsimp only
  repeat' first
    | with_reducible assumption
    | with_reducible apply State.modForme_keeps
    | with_reducible apply indexInsert_keeps
    | split
    | (with_reducible apply Keeps.update)
    | (show _ = _; rfl)

end Sys2Proof.Machine
end

