-- ==== Sys2Proof/Laws/KeepsSheets.lean ====
section
/-! SUPPORT. What the operations of Machine/Sheets.lean keep (Safety.lean, `Keeps`): one lemma each. -/
namespace Sys2Proof.Machine

theorem saveWrite_keeps {s t : State} (h : Keeps s t) (x0 : FormeId) (x1 : Nat) (x2 : List Byte) : Keeps s (saveWrite t x0 x1 x2) := by
  unfold saveWrite
  try dsimp only
  repeat' first
    | with_reducible assumption
    | with_reducible apply State.chargeStack_keeps
    | split
    | exact Keeps.stackMem (by assumption) memPutAll_wf
    | (with_reducible apply Keeps.update)
    | (show _ = _; rfl)

theorem spillPageWrite_keeps {s t : State} (h : Keeps s t) (x0 : FormeId) (x1 : EcpUse) (x2 : Nat) (x3 : Nat) (x4 : List Byte) : Keeps s (spillPageWrite t x0 x1 x2 x3 x4) := by
  unfold spillPageWrite
  try dsimp only
  repeat' first
    | with_reducible assumption
    | with_reducible apply State.modForme_keeps
    | with_reducible apply State.spillDwr_keeps
    | split

theorem spillWrite_keeps {s t : State} (h : Keeps s t) (x0 : FormeId) (x1 : EcpUse) (x2 : Nat) (x3 : List Byte) : Keeps s (spillWrite t x0 x1 x2 x3) := by
  unfold spillWrite
  try dsimp only
  repeat' first
    | with_reducible assumption
    | with_reducible apply State.take_keeps
    | with_reducible apply spillPageWrite_keeps
    | (rename_i e; with_reducible refine OptKeeps.get ?_ e)
    | (with_reducible apply Keeps.foldlFst)
    | (with_reducible apply Keeps.foldl)
    | (intro _ _ _; try dsimp only)

theorem leafWrite_keeps {s t : State} (h : Keeps s t) (x0 : FormeId) (x1 : EcpUse) (x2 : LeafEntry) (x3 : Nat) (x4 : List Byte) : Keeps s (leafWrite t x0 x1 x2 x3 x4) := by
  unfold leafWrite
  try dsimp only
  repeat' first
    | with_reducible assumption
    | with_reducible apply watchedWrite_keeps
    | with_reducible apply spillPageWrite_keeps
    | split

theorem putSlot_keeps {s t : State} (h : Keeps s t) (x0 : FormeId) (x1 : EcpUse) (x2 : BitVec 16) (x3 : Nat) (x4 : Nat) (x5 : List (BitVec 4)) (x6 : List (BitVec 4)) : Keeps s (putSlot t x0 x1 x2 x3 x4 x5 x6) := by
  unfold putSlot
  try dsimp only
  repeat' first
    | with_reducible assumption
    | with_reducible apply leafWrite_keeps
    | split

theorem commitAppends_keeps {s t : State} (h : Keeps s t) (x0 : FormeId) (x1 : EcpUse) (x2 : BitVec 16) (x3 : List Proof) (x4 : Nat) (x5 : List Nat) : Keeps s (commitAppends t x0 x1 x2 x3 x4 x5) := by
  unfold commitAppends
  try dsimp only
  repeat' first
    | with_reducible assumption
    | with_reducible apply State.modForme_keeps
    | with_reducible apply absorbToken_keeps
    | with_reducible apply putSlot_keeps
    | (with_reducible apply Keeps.foldl)
    | (intro _ _ _; try dsimp only)
    | split
    | (with_reducible apply Keeps.update)
    | (show _ = _; rfl)

theorem homeWrite_keeps {s t : State} (h : Keeps s t) (x0 : FormeId) (x1 : EcpUse) (x2 : Home) (x3 : List Byte) : Keeps s (homeWrite t x0 x1 x2 x3) := by
  unfold homeWrite
  try dsimp only
  repeat' first
    | with_reducible assumption
    | with_reducible apply State.galleyWrite_keeps
    | with_reducible apply watchedWrite_keeps
    | with_reducible apply spillWrite_keeps
    | split

theorem imageWrite_keeps {s t : State} (h : Keeps s t) (x0 : FormeId) (x1 : EcpUse) (x2 : ImagePlace) (x3 : List Byte) : Keeps s (imageWrite t x0 x1 x2 x3) := by
  unfold imageWrite
  try dsimp only
  repeat' first
    | with_reducible assumption
    | with_reducible apply State.galleyWrite_keeps
    | with_reducible apply watchedWrite_keeps
    | with_reducible apply saveWrite_keeps
    | with_reducible apply spillPageWrite_keeps
    | split

theorem sheetWrite_keeps {s t : State} (h : Keeps s t) (x0 : FormeId) (x1 : EcpUse) (x2 : BitVec 16) (x3 : BitVec 32) (x4 : Nat) (x5 : List Byte) : Keeps s (sheetWrite t x0 x1 x2 x3 x4 x5) := by
  unfold sheetWrite
  try dsimp only
  repeat' first
    | with_reducible assumption
    | with_reducible apply State.take_keeps
    | with_reducible apply homeWrite_keeps
    | with_reducible apply imageWrite_keeps
    | (rename_i e; with_reducible refine OptKeeps.get ?_ e)
    | (with_reducible apply Keeps.foldl)
    | (intro _ _ _; try dsimp only)
    | split

theorem tensorWrite_keeps {s t : State} (h : Keeps s t) (x0 : FormeId) (x1 : EcpUse) (x2 : BitVec 16) (x3 : BitVec 32) (x4 : List Byte) : Keeps s (tensorWrite t x0 x1 x2 x3 x4) := by
  unfold tensorWrite
  try dsimp only
  repeat' first
    | with_reducible assumption
    | with_reducible apply State.take_keeps
    | with_reducible apply sheetWrite_keeps
    | (rename_i e; with_reducible refine OptKeeps.get ?_ e)
    | (with_reducible apply Keeps.foldl)
    | (intro _ _ _; try dsimp only)

end Sys2Proof.Machine
end

