-- ==== Sys2Proof/Laws/KeepsFeeder.lean ====
section
/-! SUPPORT. What the operations of Machine/Feeder.lean keep (Safety.lean, `Keeps`): one lemma each. -/
namespace Sys2Proof.Machine

theorem replayNext_keeps {s t : State} (h : Keeps s t) (x0 : FormeId) (x1 : RingId) : Keeps s (replayNext t x0 x1) := by
  unfold replayNext
  try dsimp only
  repeat' first
    | with_reducible assumption
    | with_reducible apply State.modForme_keeps
    | with_reducible apply State.formeDwr_keeps
    | (with_reducible apply Keeps.foldlFst)
    | (with_reducible apply Keeps.foldl)
    | (intro _ _ _; try dsimp only)
    | split
    | (with_reducible apply Keeps.update)
    | (show _ = _; rfl)

theorem ringReplay_keeps {s t : State} (h : Keeps s t) (x0 : FormeId) (x1 : RingId) : Keeps s (ringReplay t x0 x1) := by
  unfold ringReplay
  try dsimp only
  repeat' first
    | with_reducible assumption
    | with_reducible apply replayNext_keeps
    | split

theorem issueFetch_keeps {s t : State} (h : Keeps s t) (x0 : FormeId) (x1 : RingId) : Keeps s (issueFetch t x0 x1) := by
  unfold issueFetch
  try dsimp only
  repeat' first
    | with_reducible assumption
    | with_reducible apply State.modRing_keeps
    | with_reducible apply State.formeDrd_keeps
    | (with_reducible apply Keeps.update)
    | (show _ = _; rfl)

theorem visitRing_keeps {s t : State} (h : Keeps s t) (x0 : FormeId) (x1 : RingId) : Keeps s (visitRing t x0 x1) := by
  unfold visitRing
  try dsimp only
  repeat' first
    | with_reducible assumption
    | with_reducible apply State.modForme_keeps
    | with_reducible apply issueFetch_keeps
    | split
    | (with_reducible apply Keeps.update)
    | (show _ = _; rfl)

theorem entryReadFault_keeps {s t : State} (h : Keeps s t) (x0 : FormeId) (x1 : RingId) (x2 : EcpStatus) : Keeps s (entryReadFault t x0 x1 x2) := by
  unfold entryReadFault
  try dsimp only
  repeat' first
    | with_reducible assumption
    | with_reducible apply State.modForme_keeps
    | with_reducible apply State.retireUse_keeps
    | with_reducible apply State.noteFault_keeps
    | split
    | (with_reducible apply Keeps.update)
    | (show _ = _; rfl)

theorem contextRecord_keeps {s t : State} (h : Keeps s t) (x0 : FormeId) (x1 : BitVec 16) : OptKeeps s (contextRecord t x0 x1) := by
  unfold contextRecord
  try dsimp only
  repeat' first
    | with_reducible assumption
    | with_reducible apply engineRead_keeps
    | with_reducible apply OptKeeps.none
    | with_reducible apply OptKeeps.some
    | with_reducible apply OptKeeps.map
    | with_reducible apply OptKeeps.mapFst
    | (rename_i e; with_reducible refine OptKeeps.get ?_ e)
    | split

theorem afterRead_keeps {s t : State} (h : Keeps s t) {x : Option (Word × State)} (hx : OptKeeps s x) : Keeps s (afterRead t x) := by
  unfold afterRead
  split
  · exact hx.get rfl
  · exact h

theorem enterLaunch_keeps {s t : State} (h : Keeps s t) (x0 : FormeId) (x1 : RingId) (x2 : Seq) (x3 : Launch) (x4 : Version) (x5 : Word) : Keeps s (enterLaunch t x0 x1 x2 x3 x4 x5) := by
  unfold enterLaunch
  try dsimp only
  repeat' first
    | with_reducible assumption
    | with_reducible apply State.modForme_keeps
    | split
    | (with_reducible apply Keeps.update)
    | (show _ = _; rfl)

theorem noteKeyMaker_keeps {s t u : State} (h : Keeps s t) (f : FormeId) (r : RingId) (q : Seq) : Keeps s (noteKeyMaker u t f r q) := by
  unfold noteKeyMaker
  split
  · exact h
  · exact State.modForme_keeps h _ _

theorem launchStands_keeps {s t u : State} (h : Keeps s t) (f : FormeId) (r : RingId) (q : Seq) (v : Version) (e : RingEntry) :
    Keeps s (launchStands u t f r q v e) := by
  unfold launchStands
  dsimp only
  split
  · exact State.completeWith_keeps (noteKeyMaker_keeps h _ _ _) _ _ _ _
  · exact noteKeyMaker_keeps h _ _ _

theorem admitLaunch_keeps {s t : State} (h : Keeps s t) (f : FormeId) (r : RingId) (q : Seq) (l : Launch) (v : Version) :
    Keeps s (admitLaunch t f r q l v) := by
  unfold admitLaunch
  dsimp only
  have hr := afterRead_keeps h (contextRecord_keeps h f (entryContext l.entry))
  split
  · exact State.completeWith_keeps h _ _ _ _
  · split
    · exact State.completeWith_keeps hr _ _ _ _
    · exact launchStands_keeps (enterLaunch_keeps hr _ _ _ _ _ _) _ _ _ _ _

theorem startImageRead_keeps {s t : State} (h : Keeps s t) (x0 : FormeId) (x1 : RingId) (x2 : Seq) (x3 : RingEntry) : Keeps s (startImageRead t x0 x1 x2 x3) := by
  unfold startImageRead
  try dsimp only
  repeat' first
    | with_reducible assumption
    | with_reducible apply State.modForme_keeps
    | with_reducible apply State.formeDrd_keeps
    | (with_reducible apply Keeps.update)
    | (show _ = _; rfl)

theorem processEntry_keeps {s t : State} (h : Keeps s t) (x0 : FormeId) (x1 : RingId) (x2 : Seq) : Keeps s (processEntry t x0 x1 x2) := by
  unfold processEntry
  try dsimp only
  repeat' first
    | with_reducible assumption
    | with_reducible apply State.modForme_keeps
    | with_reducible apply State.completeWith_keeps
    | with_reducible apply admitLaunch_keeps
    | with_reducible apply startImageRead_keeps
    | split
    | (with_reducible apply Keeps.update)
    | (show _ = _; rfl)

theorem arriveEntry_keeps {s t : State} (h : Keeps s t) (x0 : FormeId) (x1 : RingId) (x2 : RingEntry) : Keeps s (arriveEntry t x0 x1 x2) := by
  unfold arriveEntry
  try dsimp only
  repeat' first
    | with_reducible assumption
    | with_reducible apply State.modForme_keeps
    | with_reducible apply State.retireUse_keeps
    | with_reducible apply processEntry_keeps
    | split
    | (with_reducible apply Keeps.update)
    | (show _ = _; rfl)

theorem storeVersion_keeps {s t : State} (h : Keeps s t) (x0 : FormeId) (x1 : RingId) (x2 : Seq) (x3 : RingEntry) (x4 : Version) : Keeps s (storeVersion t x0 x1 x2 x3 x4) := by
  unfold storeVersion
  try dsimp only
  repeat' first
    | with_reducible assumption
    | with_reducible apply State.modForme_keeps
    | with_reducible apply State.chargeStack_keeps
    | with_reducible apply State.completeWith_keeps
    | split
    | (with_reducible apply Keeps.update)
    | (show _ = _; rfl)

theorem matterReadFault_keeps {s t : State} (h : Keeps s t) (x0 : FormeId) (x1 : RingId) (x2 : Seq) (x3 : EcpStatus) (x4 : HostAddr) : Keeps s (matterReadFault t x0 x1 x2 x3 x4) := by
  unfold matterReadFault
  try dsimp only
  repeat' first
    | with_reducible assumption
    | with_reducible apply State.retireUse_keeps
    | with_reducible apply State.noteFault_keeps
    | with_reducible apply State.completeWith_keeps

theorem recordWritten_keeps {s t : State} (h : Keeps s t) (x0 : FormeId) (x1 : RingId) (x2 : Seq) : Keeps s (recordWritten t x0 x1 x2) := by
  unfold recordWritten
  try dsimp only
  repeat' first
    | with_reducible assumption
    | with_reducible apply State.modForme_keeps
    | with_reducible apply State.retireUse_keeps
    | with_reducible apply replayNext_keeps
    | split
    | (with_reducible apply Keeps.update)
    | (show _ = _; rfl)

theorem recordFaulted_keeps {s t : State} (h : Keeps s t) (x0 : FormeId) (x1 : RingId) (x2 : Seq) (x3 : EcpStatus) : Keeps s (recordFaulted t x0 x1 x2 x3) := by
  unfold recordFaulted
  try dsimp only
  repeat' first
    | with_reducible assumption
    | with_reducible apply State.modForme_keeps
    | with_reducible apply State.retireUse_keeps
    | with_reducible apply State.noteFault_keeps
    | split
    | (with_reducible apply Keeps.update)
    | (show _ = _; rfl)

theorem launchExpire_keeps {s t : State} (h : Keeps s t) (x0 : FormeId) (x1 : RingId) (x2 : Seq) : Keeps s (launchExpire t x0 x1 x2) := by
  unfold launchExpire
  try dsimp only
  repeat' first
    | with_reducible assumption
    | with_reducible apply State.modForme_keeps
    | with_reducible apply State.settle_keeps
    | with_reducible apply State.completeWith_keeps
    | with_reducible apply visitRing_keeps
    | split

end Sys2Proof.Machine
end

