-- ==== Sys2Proof/Laws/KeepsLinkOps.lean ====
section
/-! SUPPORT. What the operations of Machine/LinkOps.lean keep (Safety.lean, `Keeps`): one lemma each. -/
namespace Sys2Proof.Machine

theorem drainQueue_keeps {s t : State} (h : Keeps s t) (x0 : Nat) (x1 : LinkId) : Keeps s (drainQueue x0 t x1) := by
  induction x0 generalizing t with
  | zero => exact h
  | succ n ih =>
    unfold drainQueue
    dsimp only
    split
    · exact h
    · split
      · exact ih ((State.modLink_keeps h _ _).foldl (fun u x k => State.emit_keeps k _))
      · exact h

theorem enqueue_keeps {s t : State} (h : Keeps s t) (x0 : LinkId) (x1 : Packet) : Keeps s (enqueue t x0 x1) := by
  unfold enqueue
  try dsimp only
  repeat' first
    | with_reducible assumption
    | with_reducible apply State.modLink_keeps
    | with_reducible apply drainQueue_keeps
    | (with_reducible apply Keeps.update)
    | (show _ = _; rfl)

theorem forward_keeps {s t : State} (h : Keeps s t) (x0 : Option LinkId) (x1 : Packet) : Keeps s (forward t x0 x1) := by
  unfold forward
  try dsimp only
  repeat' first
    | with_reducible assumption
    | with_reducible apply enqueue_keeps
    | split
    | (with_reducible apply Keeps.update)
    | (show _ = _; rfl)

theorem State.modJob_keeps {s t : State} (h : Keeps s t) (x0 : FormeId) (x1 : JobSlot) (x2 : Job → Job) : Keeps s (State.modJob t x0 x1 x2) := by
  unfold State.modJob
  try dsimp only
  repeat' first
    | with_reducible assumption
    | with_reducible apply State.modForme_keeps
    | split

theorem jobPacket_keeps {s t : State} (h : Keeps s t) (x0 : FormeId) (x1 : JobSlot) (x2 : BitVec 12) (x3 : BitVec 4) (x4 : Fin 4) (x5 : Nat) (x6 : BitVec 32) (x7 : PacketBody) : OptKeeps s (jobPacket t x0 x1 x2 x3 x4 x5 x6 x7) := by
  unfold jobPacket
  try dsimp only
  repeat' first
    | with_reducible assumption
    | with_reducible apply State.modJob_keeps
    | with_reducible apply OptKeeps.none
    | with_reducible apply OptKeeps.some
    | with_reducible apply OptKeeps.map
    | with_reducible apply OptKeeps.mapFst
    | split
    | (with_reducible apply Keeps.update)
    | (show _ = _; rfl)

theorem sendJob_keeps {s t : State} (h : Keeps s t) (x0 : FormeId) (x1 : JobSlot) (x2 : BitVec 12) (x3 : BitVec 4) (x4 : Fin 4) (x5 : Nat) (x6 : BitVec 32) (x7 : PacketBody) : Keeps s (sendJob t x0 x1 x2 x3 x4 x5 x6 x7) := by
  unfold sendJob
  try dsimp only
  repeat' first
    | with_reducible assumption
    | with_reducible apply forward_keeps
    | with_reducible apply jobPacket_keeps
    | (rename_i e; with_reducible refine OptKeeps.get ?_ e)
    | split

theorem sendAll_keeps {s t : State} (h : Keeps s t) (x0 : FormeId) (x1 : JobSlot) (x2 : PacketBody) : Keeps s (sendAll t x0 x1 x2) := by
  unfold sendAll
  try dsimp only
  repeat' first
    | with_reducible assumption
    | with_reducible apply sendJob_keeps
    | (with_reducible apply Keeps.foldl)
    | (intro _ _ _; try dsimp only)
    | split

theorem collFault_keeps {s t : State} (h : Keeps s t) (x0 : FormeId) (x1 : JobSlot) (x2 : BitVec 3) (x3 : Code) (x4 : Bool) : Keeps s (collFault t x0 x1 x2 x3 x4) := by
  unfold collFault
  try dsimp only
  repeat' first
    | with_reducible assumption
    | with_reducible apply State.modForme_keeps
    | with_reducible apply State.faultSlug_keeps
    | with_reducible apply State.modJob_keeps
    | with_reducible apply sendAll_keeps
    | split
    | (with_reducible apply Keeps.update)
    | (show _ = _; rfl)

theorem closeJob_keeps {s t : State} (h : Keeps s t) (x0 : FormeId) (x1 : JobSlot) : Keeps s (closeJob t x0 x1) := by
  unfold closeJob
  try dsimp only
  repeat' first
    | with_reducible assumption
    | with_reducible apply State.modForme_keeps
    | with_reducible apply collFault_keeps

theorem closeJobs_keeps {s t : State} (h : Keeps s t) (x0 : FormeId) : Keeps s (closeJobs t x0) := by
  unfold closeJobs
  try dsimp only
  repeat' first
    | with_reducible assumption
    | with_reducible apply closeJob_keeps
    | (with_reducible apply Keeps.foldl)
    | (intro _ _ _; try dsimp only)
    | split

end Sys2Proof.Machine
end

