-- ==== Sys2Proof/Laws/KeepsSlugs.lean ====
section
/-! SUPPORT. What the operations of Machine/Slugs.lean keep (Safety.lean, `Keeps`): one lemma each. -/
namespace Sys2Proof.Machine

theorem programEnds_keeps {s t : State} (h : Keeps s t) (x0 : FormeId) (x1 : RingId) (x2 : Seq) : Keeps s (programEnds t x0 x1 x2) := by
  unfold programEnds
  try dsimp only
  repeat' first
    | with_reducible assumption
    | with_reducible apply State.modForme_keeps
    | with_reducible apply State.settle_keeps
    | (with_reducible apply Keeps.foldl)
    | (intro _ _ _; try dsimp only)
    | (with_reducible apply Keeps.update)
    | (show _ = _; rfl)

theorem readNorm2_keeps {s t : State} (h : Keeps s t) (x0 : FormeId) (x1 : RingId) (x2 : Seq) (x3 : List OpRec) : Keeps s (readNorm2 t x0 x1 x2 x3) := by
  unfold readNorm2
  try dsimp only
  repeat' first
    | with_reducible assumption
    | with_reducible apply State.modForme_keeps
    | split
    | (with_reducible apply Keeps.update)
    | (show _ = _; rfl)

theorem discardReaders_keeps {s t : State} (h : Keeps s t) (x0 : Nat) (x1 : Nat) : Keeps s (discardReaders t x0 x1) := by
  unfold discardReaders
  try dsimp only
  repeat' first
    | with_reducible assumption
    | with_reducible apply State.modForme_keeps
    | with_reducible apply State.settle_keeps
    | (with_reducible apply Keeps.foldl)
    | (intro _ _ _; try dsimp only)
    | split
    | (with_reducible apply Keeps.update)
    | (show _ = _; rfl)

theorem askRefetch_keeps {s t : State} (h : Keeps s t) (x0 : Nat) (x1 : Nat) : Keeps s (askRefetch t x0 x1) := by
  unfold askRefetch
  try dsimp only
  repeat' first
    | with_reducible assumption
    | with_reducible apply State.formeDrd_keeps
    | split

theorem declareBad_keeps {s t : State} (h : Keeps s t) (x0 : Nat) (x1 : Nat) : Keeps s (declareBad t x0 x1) := by
  unfold declareBad
  try dsimp only
  repeat' first
    | with_reducible assumption
    | with_reducible apply State.modCopy_keeps
    | with_reducible apply discardReaders_keeps
    | with_reducible apply askRefetch_keeps
    | split
    | (with_reducible apply Keeps.update)
    | (show _ = _; rfl)

theorem enterCore_keeps {s t : State} (h : Keeps s t) (x0 : FormeId) (x1 : SlugTag) (x2 : CoreId) : Keeps s (enterCore t x0 x1 x2) := by
  unfold enterCore
  try dsimp only
  repeat' first
    | with_reducible assumption
    | with_reducible apply State.modForme_keeps
    | with_reducible apply State.modCore_keeps
    | split
    | (with_reducible apply Keeps.update)
    | (show _ = _; rfl)

theorem readClean_keeps {s t : State} (h : Keeps s t) (x0 : FormeId) (x1 : SlugTag) : Keeps s (readClean t x0 x1) := by
  unfold readClean
  try dsimp only
  repeat' first
    | with_reducible assumption
    | with_reducible apply State.modCopy_keeps
    | (with_reducible apply Keeps.foldl)
    | (intro _ _ _; try dsimp only)
    | split
    | (with_reducible apply Keeps.update)
    | (show _ = _; rfl)

theorem opDone_keeps {s t : State} (h : Keeps s t) (x0 : FormeId) (x1 : SlugTag) (x2 : Slug → Slug) : Keeps s (opDone t x0 x1 x2) := by
  unfold opDone
  try dsimp only
  repeat' first
    | with_reducible assumption
    | with_reducible apply State.modForme_keeps
    | with_reducible apply State.settle_keeps
    | with_reducible apply State.failSlug_keeps
    | with_reducible apply readClean_keeps
    | split
    | (with_reducible apply Keeps.update)
    | (show _ = _; rfl)

theorem fenceCore_keeps {s t : State} (h : Keeps s t) (x0 : FormeId) (x1 : CoreId) (x2 : SlugTag) : Keeps s (fenceCore t x0 x1 x2) := by
  unfold fenceCore
  try dsimp only
  repeat' first
    | with_reducible assumption
    | with_reducible apply State.modForme_keeps
    | with_reducible apply State.modCore_keeps
    | with_reducible apply State.settle_keeps
    | (with_reducible apply Keeps.foldl)
    | (intro _ _ _; try dsimp only)
    | split
    | (with_reducible apply Keeps.update)
    | (show _ = _; rfl)

theorem checkDetect_keeps {s t : State} (h : Keeps s t) (x0 : FormeId) (x1 : SlugTag) (x2 : CoreId) : Keeps s (checkDetect t x0 x1 x2) := by
  unfold checkDetect
  try dsimp only
  repeat' first
    | with_reducible assumption
    | with_reducible apply State.modForme_keeps
    | with_reducible apply State.modCore_keeps
    | with_reducible apply enterCore_keeps
    | with_reducible apply fenceCore_keeps
    | split
    | (with_reducible apply Keeps.update)
    | (show _ = _; rfl)

theorem markBad_keeps {s t : State} (h : Keeps s t) (x0 : FormeId) (x1 : Nat) : Keeps s (markBad t x0 x1) := by
  unfold markBad
  try dsimp only
  repeat' first
    | with_reducible assumption
    | with_reducible apply State.modForme_keeps
    | with_reducible apply State.trimIndex_keeps
    | (with_reducible apply Keeps.update)
    | (show _ = _; rfl)

theorem heldFails_keeps {s t : State} (h : Keeps s t) (x0 : FormeId) (x1 : Slug) : Keeps s (heldFails t x0 x1) := by
  unfold heldFails
  try dsimp only
  repeat' first
    | with_reducible assumption
    | with_reducible apply State.modForme_keeps
    | with_reducible apply State.settle_keeps
    | (with_reducible apply Keeps.foldl)
    | (intro _ _ _; try dsimp only)

theorem detectEffects_keeps {s t : State} (h : Keeps s t) (x0 : FormeId) (x1 : Slug) (x2 : DetectKind) : Keeps s (detectEffects t x0 x1 x2) := by
  unfold detectEffects
  try dsimp only
  repeat' first
    | with_reducible assumption
    | with_reducible apply countDetect_keeps
    | with_reducible apply declareBad_keeps
    | with_reducible apply checkDetect_keeps
    | with_reducible apply markBad_keeps
    | with_reducible apply heldFails_keeps
    | (with_reducible apply Keeps.foldl)
    | (intro _ _ _; try dsimp only)
    | split

theorem endRun_keeps {s t : State} (h : Keeps s t) (x0 : FormeId) (x1 : DetectKind) (x2 : Slug) : Keeps s (endRun t x0 x1 x2) := by
  unfold endRun
  try dsimp only
  repeat' first
    | with_reducible assumption
    | with_reducible apply State.modForme_keeps
    | with_reducible apply State.settle_keeps
    | with_reducible apply State.failSlug_keeps
    | split
    | (with_reducible apply Keeps.update)
    | (show _ = _; rfl)

theorem endFused_keeps {s t : State} (h : Keeps s t) (x0 : FormeId) (x1 : DetectKind) (x2 : Slug) : Keeps s (endFused x0 x1 t x2) := by
  unfold endFused
  try dsimp only
  repeat' first
    | with_reducible assumption
    | with_reducible apply endRun_keeps
    | split

theorem detect_keeps {s t : State} (h : Keeps s t) (x0 : FormeId) (x1 : SlugTag) (x2 : DetectKind) : Keeps s (detect t x0 x1 x2) := by
  unfold detect
  try dsimp only
  repeat' first
    | with_reducible assumption
    | with_reducible apply State.modForme_keeps
    | with_reducible apply detectEffects_keeps
    | with_reducible apply endRun_keeps
    | with_reducible apply endFused_keeps
    | (with_reducible apply Keeps.foldl)
    | (intro _ _ _; try dsimp only)
    | split
    | (with_reducible apply Keeps.update)
    | (show _ = _; rfl)

theorem askEntry_keeps {s t : State} (h : Keeps s t) (x0 : FormeId) (x1 : Nat) : Keeps s (askEntry t x0 x1) := by
  unfold askEntry
  try dsimp only
  repeat' first
    | with_reducible assumption
    | with_reducible apply State.formeDrd_keeps

theorem askEntries_keeps {s t : State} (h : Keeps s t) (x0 : FormeId) (x1 : List Nat) : Keeps s (askEntries t x0 x1) := by
  unfold askEntries
  try dsimp only
  repeat' first
    | with_reducible assumption
    | with_reducible apply askEntry_keeps
    | (with_reducible apply Keeps.foldl)
    | (intro _ _ _; try dsimp only)
    | split

theorem holdRuns_keeps {s t : State} (h : Keeps s t) (x0 : FormeId) (x1 : List Nat) (x2 : Bool) : Keeps s (holdRuns t x0 x1 x2) := by
  unfold holdRuns
  try dsimp only
  repeat' first
    | with_reducible assumption
    | with_reducible apply State.modForme_keeps
    | with_reducible apply State.take_keeps
    | with_reducible apply State.trimIndex_keeps
    | (rename_i e; with_reducible refine OptKeeps.get ?_ e)
    | split
    | (with_reducible apply Keeps.update)
    | (show _ = _; rfl)

theorem copyAsk_keeps {s t : State} (h : Keeps s t) (x0 : FormeId) (x1 : SlugTag) (x2 : FormeId) (x3 : List Nat) : Keeps s (copyAsk t x0 x1 x2 x3) := by
  unfold copyAsk
  try dsimp only
  repeat' first
    | with_reducible assumption
    | with_reducible apply State.modForme_keeps
    | with_reducible apply State.spillDrd_keeps
    | with_reducible apply askEntries_keeps
    | (with_reducible apply Keeps.foldl)
    | (intro _ _ _; try dsimp only)
    | split
    | (with_reducible apply Keeps.update)
    | (show _ = _; rfl)

theorem beginCopy_keeps {s t : State} (h : Keeps s t) (x0 : FormeId) (x1 : SlugTag) (x2 : FormeId) (x3 : List Nat) : Keeps s (beginCopy t x0 x1 x2 x3) := by
  unfold beginCopy
  try dsimp only
  repeat' first
    | with_reducible assumption
    | with_reducible apply State.modForme_keeps
    | with_reducible apply holdRuns_keeps
    | with_reducible apply copyAsk_keeps
    | split
    | (with_reducible apply Keeps.update)
    | (show _ = _; rfl)

theorem passPoint_keeps {s t : State} (h : Keeps s t) (x0 : FormeId) (x1 : SlugTag) : Keeps s (passPoint t x0 x1) := by
  unfold passPoint
  try dsimp only
  repeat' first
    | with_reducible assumption
    | with_reducible apply State.modForme_keeps
    | with_reducible apply State.formeDwr_keeps
    | with_reducible apply State.settle_keeps
    | with_reducible apply beginCopy_keeps
    | (with_reducible apply Keeps.foldlFst)
    | (with_reducible apply Keeps.foldl)
    | (intro _ _ _; try dsimp only)
    | split
    | (with_reducible apply Keeps.update)
    | (show _ = _; rfl)

theorem putPointer_keeps {s t : State} (h : Keeps s t) (x0 : FormeId) (x1 : BindingId) (x2 : SetBase) : Keeps s (putPointer t x0 x1 x2) := by
  unfold putPointer
  try dsimp only
  repeat' first
    | with_reducible assumption
    | with_reducible apply State.modForme_keeps
    | (with_reducible apply Keeps.update)
    | (show _ = _; rfl)

theorem putNorm2_keeps {s t : State} (h : Keeps s t) (x0 : FormeId) (x1 : BitVec 56) (x2 : BitVec 32) (x3 : Bool) : Keeps s (putNorm2 t x0 x1 x2 x3) := by
  unfold putNorm2
  try dsimp only
  repeat' first
    | with_reducible assumption
    | with_reducible apply ownWrite_keeps

theorem putProof_keeps {s t : State} (h : Keeps s t) (x0 : Slug) (x1 : FormeId) (x2 : Proof) : Keeps s (putProof x0 x1 t x2) := by
  unfold putProof
  try dsimp only
  repeat' first
    | with_reducible assumption
    | with_reducible apply State.galleyWrite_keeps
    | with_reducible apply watchedWrite_keeps
    | with_reducible apply spillWrite_keeps
    | with_reducible apply tensorWrite_keeps
    | with_reducible apply putPointer_keeps
    | with_reducible apply putNorm2_keeps
    | split

theorem sendStore_keeps {s t : State} (h : Keeps s t) (x0 : FormeId) (x1 : SlugTag) (x2 : BitVec 12) (x3 : PacketBody) (x4 : Nat) : Keeps s (sendStore t x0 x1 x2 x3 x4) := by
  unfold sendStore
  try dsimp only
  repeat' first
    | with_reducible assumption
    | with_reducible apply State.modForme_keeps
    | with_reducible apply sendJob_keeps
    | split
    | (with_reducible apply Keeps.update)
    | (show _ = _; rfl)

theorem sendStores_keeps {s t : State} (h : Keeps s t) (x0 : FormeId) (x1 : SlugTag) (x2 : BitVec 12) (x3 : BitVec 40) (x4 : List Byte) : Keeps s (sendStores t x0 x1 x2 x3 x4) := by
  unfold sendStores
  try dsimp only
  repeat' first
    | with_reducible assumption
    | with_reducible apply sendStore_keeps
    | (with_reducible apply Keeps.foldlFst)
    | (with_reducible apply Keeps.foldl)
    | (intro _ _ _; try dsimp only)

theorem takeMatch_keeps {s t : State} (h : Keeps s t) (x0 : FormeId) (x1 : Slug) : Keeps s (takeMatch t x0 x1) := by
  unfold takeMatch
  try dsimp only
  repeat' first
    | with_reducible assumption
    | with_reducible apply State.modForme_keeps
    | with_reducible apply State.take_keeps
    | (rename_i e; with_reducible refine OptKeeps.get ?_ e)
    | split
    | (with_reducible apply Keeps.update)
    | (show _ = _; rfl)

theorem landProofs_keeps {s t : State} (h : Keeps s t) (x0 : FormeId) (x1 : Slug) : Keeps s (landProofs t x0 x1) := by
  unfold landProofs
  try dsimp only
  repeat' first
    | with_reducible assumption
    | with_reducible apply State.modForme_keeps
    | with_reducible apply commitAppends_keeps
    | with_reducible apply putProof_keeps
    | with_reducible apply sendStores_keeps
    | with_reducible apply takeMatch_keeps
    | (with_reducible apply Keeps.foldl)
    | (intro _ _ _; try dsimp only)
    | split
    | (with_reducible apply Keeps.update)
    | (show _ = _; rfl)

theorem passFaults_keeps {s t : State} (h : Keeps s t) (x0 : FormeId) (x1 : SlugTag) (x2 : Option Code) : Keeps s (passFaults t x0 x1 x2) := by
  unfold passFaults
  try dsimp only
  repeat' first
    | with_reducible assumption
    | with_reducible apply State.modForme_keeps
    | with_reducible apply State.noteCode_keeps
    | split

theorem landAll_keeps {s t : State} (h : Keeps s t) (x0 : FormeId) (x1 : Slug) : Keeps s (landAll t x0 x1) := by
  unfold landAll
  try dsimp only
  repeat' first
    | with_reducible assumption
    | with_reducible apply landProofs_keeps
    | with_reducible apply passFaults_keeps

theorem slugPassed_keeps {s t : State} (h : Keeps s t) (x0 : FormeId) (x1 : Slug) : Keeps s (slugPassed t x0 x1) := by
  unfold slugPassed
  try dsimp only
  repeat' first
    | with_reducible assumption
    | with_reducible apply State.modForme_keeps
    | with_reducible apply State.settle_keeps
    | (with_reducible apply Keeps.update)
    | (show _ = _; rfl)

theorem writesEnd_keeps {s t : State} (h : Keeps s t) (x0 : FormeId) (x1 : SlugTag) : Keeps s (writesEnd t x0 x1) := by
  unfold writesEnd
  try dsimp only
  repeat' first
    | with_reducible assumption
    | with_reducible apply slugPassed_keeps
    | split

theorem writesDone_keeps {s t : State} (h : Keeps s t) (x0 : FormeId) (x1 : SlugTag) : Keeps s (writesDone t x0 x1) := by
  unfold writesDone
  try dsimp only
  repeat' first
    | with_reducible assumption
    | with_reducible apply askEntries_keeps
    | with_reducible apply landAll_keeps
    | with_reducible apply writesEnd_keeps
    | split

theorem writeFlag_keeps {s t : State} (h : Keeps s t) (x0 : FormeId) (x1 : SlugTag) (x2 : OpRec) : Keeps s (writeFlag t x0 x1 x2) := by
  unfold writeFlag
  try dsimp only
  repeat' first
    | with_reducible assumption
    | with_reducible apply State.formeDwr_keeps
    | with_reducible apply countPoison_keeps
    | with_reducible apply watchedWrite_keeps
    | with_reducible apply sendStore_keeps
    | split

theorem releaseNext_keeps {s t : State} (h : Keeps s t) (x0 : FormeId) (x1 : SlugTag) : Keeps s (releaseNext t x0 x1) := by
  unfold releaseNext
  try dsimp only
  repeat' first
    | with_reducible assumption
    | with_reducible apply State.modForme_keeps
    | with_reducible apply writeFlag_keeps
    | split
    | (with_reducible apply Keeps.update)
    | (show _ = _; rfl)

theorem copyRun_keeps {s t : State} (h : Keeps s t) (x0 : FormeId) (x1 : FormeId) (x2 : Slug) (x3 : RunRec) : Keeps s (copyRun x0 x1 x2 t x3) := by
  unfold copyRun
  try dsimp only
  repeat' first
    | with_reducible assumption
    | with_reducible apply State.modForme_keeps
    | with_reducible apply leafWrite_keeps
    | (with_reducible apply Keeps.foldlFst)
    | (with_reducible apply Keeps.foldl)
    | (intro _ _ _; try dsimp only)
    | split
    | (with_reducible apply Keeps.update)
    | (show _ = _; rfl)

theorem endCopy_keeps {s t : State} (h : Keeps s t) (x0 : FormeId) (x1 : SlugTag) (x2 : Nat) : Keeps s (endCopy t x0 x1 x2) := by
  unfold endCopy
  try dsimp only
  repeat' first
    | with_reducible assumption
    | with_reducible apply State.modForme_keeps
    | with_reducible apply State.retireUse_keeps
    | with_reducible apply State.take_keeps
    | with_reducible apply holdRuns_keeps
    | with_reducible apply copyRun_keeps
    | (rename_i e; with_reducible refine OptKeeps.get ?_ e)
    | (with_reducible apply Keeps.foldlFst)
    | (with_reducible apply Keeps.foldl)
    | (intro _ _ _; try dsimp only)
    | split
    | (with_reducible apply Keeps.update)
    | (show _ = _; rfl)

theorem sendLoads_keeps {s t : State} (h : Keeps s t) (x0 : FormeId) (x1 : JobSlot) (x2 : SlugTag) (x3 : BitVec 12) (x4 : Nat) (x5 : Nat) : Keeps s (sendLoads t x0 x1 x2 x3 x4 x5) := by
  unfold sendLoads
  try dsimp only
  repeat' first
    | with_reducible assumption
    | with_reducible apply sendJob_keeps
    | (with_reducible apply Keeps.foldl)
    | (intro _ _ _; try dsimp only)

theorem dropRemote_keeps {s t : State} (h : Keeps s t) (x0 : FormeId) (x1 : List Word) : Keeps s (dropRemote t x0 x1) := by
  unfold dropRemote
  try dsimp only
  repeat' first
    | with_reducible assumption
    | with_reducible apply State.modForme_keeps
    | split
    | (with_reducible apply Keeps.update)
    | (show _ = _; rfl)

theorem dropScope_keeps {s t : State} (h : Keeps s t) (x0 : FormeId) (x1 : List Word) : Keeps s (dropScope t x0 x1) := by
  unfold dropScope
  try dsimp only
  repeat' first
    | with_reducible assumption
    | with_reducible apply State.modForme_keeps
    | with_reducible apply State.modPort_keeps
    | with_reducible apply dropRemote_keeps
    | split

theorem acquireDone_keeps {s t : State} (h : Keeps s t) (x0 : FormeId) (x1 : Slug) (x2 : OpRec) : Keeps s (acquireDone t x0 x1 x2) := by
  unfold acquireDone
  try dsimp only
  repeat' first
    | with_reducible assumption
    | with_reducible apply State.modForme_keeps
    | with_reducible apply State.settle_keeps
    | with_reducible apply opDone_keeps
    | with_reducible apply dropScope_keeps
    | split
    | (with_reducible apply Keeps.update)
    | (show _ = _; rfl)

theorem pollOutside_keeps {s t : State} (h : Keeps s t) (x0 : FormeId) (x1 : Slug) (x2 : OpRec) (x3 : Word) : Keeps s (pollOutside t x0 x1 x2 x3) := by
  unfold pollOutside
  try dsimp only
  repeat' first
    | with_reducible assumption
    | with_reducible apply State.modForme_keeps
    | with_reducible apply State.formeDrd_keeps
    | with_reducible apply State.retireUse_keeps
    | with_reducible apply sendLoads_keeps
    | with_reducible apply acquireDone_keeps
    | split
    | (with_reducible apply Keeps.update)
    | (show _ = _; rfl)

theorem pollFlag_keeps {s t : State} (h : Keeps s t) (x0 : FormeId) (x1 : SlugTag) (x2 : Word) : Keeps s (pollFlag t x0 x1 x2) := by
  unfold pollFlag
  try dsimp only
  repeat' first
    | with_reducible assumption
    | with_reducible apply countPoison_keeps
    | with_reducible apply detect_keeps
    | with_reducible apply acquireDone_keeps
    | with_reducible apply pollOutside_keeps
    | split

end Sys2Proof.Machine
end

