-- ==== Sys2Proof/Laws/KeepsReads.lean ====
section
/-! SUPPORT. What the operations of Machine/Reads.lean keep (Safety.lean, `Keeps`): one lemma each. -/
namespace Sys2Proof.Machine

theorem askFor_keeps {s t : State} (h : Keeps s t) (x0 : FormeId) (x1 : SlugTag) (x2 : BitVec 56) (x3 : Nat) : Keeps s (askFor t x0 x1 x2 x3) := by
  unfold askFor
  try dsimp only
  repeat' first
    | with_reducible assumption
    | with_reducible apply State.modForme_keeps
    | (with_reducible apply Keeps.update)
    | (show _ = _; rfl)

theorem gatherSpill_keeps {s t : State} (h : Keeps s t) (x0 : FormeId) (x1 : SlugTag) (x2 : Nat) (x3 : Nat) : GotKeeps s (gatherSpill t x0 x1 x2 x3) := by
  unfold gatherSpill
  try dsimp only
  repeat' first
    | with_reducible assumption
    | assumption
    | with_reducible apply State.spillDrd_keeps
    | with_reducible apply askEntry_keeps
    | with_reducible apply askFor_keeps
    | with_reducible apply GotKeeps.ok
    | with_reducible apply GotKeeps.asked
    | with_reducible apply GotKeeps.fails
    | with_reducible apply GotKeeps.poisoned
    | (with_reducible refine GotKeeps.bind ?_ (fun _ => ?_); try dsimp only)
    | split

theorem gatherPages_keeps {s t : State} (h : Keeps s t) (x0 : FormeId) (x1 : Slug) (x2 : Nat) (x3 : Nat) : GotKeeps s (gatherPages t x0 x1 x2 x3) := by
  unfold gatherPages
  try dsimp only
  repeat' first
    | with_reducible assumption
    | assumption
    | with_reducible apply gatherSpill_keeps
    | with_reducible apply GotKeeps.ok
    | with_reducible apply GotKeeps.asked
    | with_reducible apply GotKeeps.fails
    | with_reducible apply GotKeeps.poisoned
    | (with_reducible refine GotKeeps.bind ?_ (fun _ => ?_); try dsimp only)
    | (with_reducible refine GotKeeps.foldr ?_ (fun _ _ _ => ?_); try dsimp only)
    | (rename_i e; with_reducible refine GotKeeps.get ?_ e)
    | split

theorem gatherAt_keeps {s t : State} (h : Keeps s t) (x0 : FormeId) (x1 : Slug) (x2 : Place) (x3 : BitVec 56) (x4 : Nat) : GotKeeps s (gatherAt t x0 x1 x2 x3 x4) := by
  unfold gatherAt
  try dsimp only
  repeat' first
    | with_reducible assumption
    | assumption
    | with_reducible apply State.formeDrd_keeps
    | with_reducible apply sendLoads_keeps
    | with_reducible apply askFor_keeps
    | with_reducible apply gatherPages_keeps
    | with_reducible apply GotKeeps.ok
    | with_reducible apply GotKeeps.asked
    | with_reducible apply GotKeeps.fails
    | with_reducible apply GotKeeps.poisoned
    | (with_reducible refine GotKeeps.bind ?_ (fun _ => ?_); try dsimp only)
    | (rename_i e; with_reducible refine GotKeeps.get ?_ e)
    | split

theorem gather_keeps {s t : State} (h : Keeps s t) (x0 : FormeId) (x1 : Slug) (x2 : BitVec 56) (x3 : Nat) : GotKeeps s (gather t x0 x1 x2 x3) := by
  unfold gather
  try dsimp only
  repeat' first
    | with_reducible assumption
    | assumption
    | with_reducible apply gatherAt_keeps
    | with_reducible apply GotKeeps.ok
    | with_reducible apply GotKeeps.asked
    | with_reducible apply GotKeeps.fails
    | with_reducible apply GotKeeps.poisoned
    | (with_reducible refine GotKeeps.bind ?_ (fun _ => ?_); try dsimp only)
    | (rename_i e; with_reducible refine GotKeeps.get ?_ e)

theorem gatherWords_keeps {s t : State} (h : Keeps s t) (x0 : FormeId) (x1 : Slug) (x2 : BitVec 56) (x3 : Nat) : GotKeeps s (gatherWords t x0 x1 x2 x3) := by
  unfold gatherWords
  try dsimp only
  repeat' first
    | with_reducible assumption
    | assumption
    | with_reducible apply State.take_keeps
    | with_reducible apply gather_keeps
    | with_reducible apply GotKeeps.ok
    | with_reducible apply GotKeeps.asked
    | with_reducible apply GotKeeps.fails
    | with_reducible apply GotKeeps.poisoned
    | (with_reducible refine GotKeeps.bind ?_ (fun _ => ?_); try dsimp only)
    | (rename_i e; with_reducible refine GotKeeps.get ?_ e)
    | (rename_i e; with_reducible refine OptKeeps.get ?_ e)

theorem gatherOwn_keeps {s t : State} (h : Keeps s t) (x0 : FormeId) (x1 : Slug) (x2 : Code) (x3 : BitVec 56) (x4 : Nat) : GotKeeps s (gatherOwn t x0 x1 x2 x3 x4) := by
  unfold gatherOwn
  try dsimp only
  repeat' first
    | with_reducible assumption
    | assumption
    | with_reducible apply gather_keeps
    | with_reducible apply GotKeeps.ok
    | with_reducible apply GotKeeps.asked
    | with_reducible apply GotKeeps.fails
    | with_reducible apply GotKeeps.poisoned
    | (with_reducible refine GotKeeps.bind ?_ (fun _ => ?_); try dsimp only)
    | (rename_i e; with_reducible refine GotKeeps.get ?_ e)
    | split

theorem ownGather_keeps {s t : State} (h : Keeps s t) (x0 : FormeId) (x1 : Slug) (x2 : Code) (x3 : BitVec 56) (x4 : Nat) : GotKeeps s (ownGather t x0 x1 x2 x3 x4) := by
  unfold ownGather
  try dsimp only
  repeat' first
    | with_reducible assumption
    | assumption
    | with_reducible apply gatherWords_keeps
    | with_reducible apply GotKeeps.ok
    | with_reducible apply GotKeeps.asked
    | with_reducible apply GotKeeps.fails
    | with_reducible apply GotKeeps.poisoned
    | (with_reducible refine GotKeeps.bind ?_ (fun _ => ?_); try dsimp only)
    | (rename_i e; with_reducible refine GotKeeps.get ?_ e)
    | split

theorem Got.finish_keeps {s t : State} (h : Keeps s t) {α : Type} (x0 : FormeId) (x1 : Slug) (x2 : Got α) (x3 : α → State) (k3 : GotKeeps s x2) (k4 : ∀ (y0 : α),  Keeps s (x3 y0)) : Keeps s (Got.finish t x0 x1 x2 x3) := by
  unfold Got.finish
  try dsimp only
  repeat' first
    | with_reducible assumption
    | with_reducible apply State.failSlug_keeps
    | with_reducible apply detect_keeps
    | with_reducible apply k3
    | (exact GotKeeps.get k3 rfl)
    | with_reducible apply k4
    | split

theorem spillReady_keeps {s t : State} (h : Keeps s t) (x0 : FormeId) (x1 : Slug) (x2 : Nat) (x3 : Nat) : GotKeeps s (spillReady t x0 x1 x2 x3) := by
  unfold spillReady
  try dsimp only
  repeat' first
    | with_reducible assumption
    | assumption
    | with_reducible apply gatherSpill_keeps
    | with_reducible apply GotKeeps.ok
    | with_reducible apply GotKeeps.asked
    | with_reducible apply GotKeeps.fails
    | with_reducible apply GotKeeps.poisoned
    | (with_reducible refine GotKeeps.bind ?_ (fun _ => ?_); try dsimp only)
    | (with_reducible refine GotKeeps.foldr ?_ (fun _ _ _ => ?_); try dsimp only)
    | (rename_i e; with_reducible refine GotKeeps.get ?_ e)
    | split

theorem writeProof_keeps {s t : State} (h : Keeps s t) (x0 : FormeId) (x1 : Slug) (x2 : BitVec 56) (x3 : List Byte) : GotKeeps s (writeProof t x0 x1 x2 x3) := by
  unfold writeProof
  try dsimp only
  repeat' first
    | with_reducible assumption
    | assumption
    | with_reducible apply spillReady_keeps
    | with_reducible apply GotKeeps.ok
    | with_reducible apply GotKeeps.asked
    | with_reducible apply GotKeeps.fails
    | with_reducible apply GotKeeps.poisoned
    | (with_reducible refine GotKeeps.bind ?_ (fun _ => ?_); try dsimp only)
    | (rename_i e; with_reducible refine GotKeeps.get ?_ e)
    | split

theorem descRecord_keeps {s t : State} (h : Keeps s t) (x0 : FormeId) (x1 : Slug) (x2 : Nat) : GotKeeps s (descRecord t x0 x1 x2) := by
  unfold descRecord
  try dsimp only
  repeat' first
    | with_reducible assumption
    | assumption
    | with_reducible apply ownGather_keeps
    | with_reducible apply GotKeeps.ok
    | with_reducible apply GotKeeps.asked
    | with_reducible apply GotKeeps.fails
    | with_reducible apply GotKeeps.poisoned
    | (with_reducible refine GotKeeps.bind ?_ (fun _ => ?_); try dsimp only)
    | (rename_i e; with_reducible refine GotKeeps.get ?_ e)
    | split

theorem descVals_keeps {s t : State} (h : Keeps s t) (x0 : FormeId) (x1 : Slug) (x2 : Nat) (x3 : QDesc) : GotKeeps s (descVals t x0 x1 x2 x3) := by
  unfold descVals
  try dsimp only
  repeat' first
    | with_reducible assumption
    | assumption
    | with_reducible apply gatherWords_keeps
    | with_reducible apply GotKeeps.ok
    | with_reducible apply GotKeeps.asked
    | with_reducible apply GotKeeps.fails
    | with_reducible apply GotKeeps.poisoned
    | (with_reducible refine GotKeeps.bind ?_ (fun _ => ?_); try dsimp only)
    | (rename_i e; with_reducible refine GotKeeps.get ?_ e)
    | split

theorem descAt_keeps {s t : State} (h : Keeps s t) (x0 : FormeId) (x1 : Slug) (x2 : Nat) (x3 : Nat) : GotKeeps s (descAt t x0 x1 x2 x3) := by
  unfold descAt
  try dsimp only
  repeat' first
    | with_reducible assumption
    | assumption
    | with_reducible apply descRecord_keeps
    | with_reducible apply descVals_keeps
    | with_reducible apply GotKeeps.ok
    | with_reducible apply GotKeeps.asked
    | with_reducible apply GotKeeps.fails
    | with_reducible apply GotKeeps.poisoned
    | (with_reducible refine GotKeeps.bind ?_ (fun _ => ?_); try dsimp only)
    | (rename_i e; with_reducible refine GotKeeps.get ?_ e)
    | split

theorem prodDescs_keeps {s t : State} (h : Keeps s t) (x0 : FormeId) (x1 : Slug) (x2 : OpRec) (x3 : Nat) : GotKeeps s (prodDescs t x0 x1 x2 x3) := by
  unfold prodDescs
  try dsimp only
  repeat' first
    | with_reducible assumption
    | assumption
    | with_reducible apply descAt_keeps
    | with_reducible apply GotKeeps.ok
    | with_reducible apply GotKeeps.asked
    | with_reducible apply GotKeeps.fails
    | with_reducible apply GotKeeps.poisoned
    | (with_reducible refine GotKeeps.bind ?_ (fun _ => ?_); try dsimp only)
    | (rename_i e; with_reducible refine GotKeeps.get ?_ e)
    | split

theorem recordDesc_keeps {s t : State} (h : Keeps s t) (x0 : FormeId) (x1 : Slug) (x2 : TensorRec) : GotKeeps s (recordDesc t x0 x1 x2) := by
  unfold recordDesc
  try dsimp only
  repeat' first
    | with_reducible assumption
    | assumption
    | with_reducible apply descAt_keeps
    | with_reducible apply GotKeeps.ok
    | with_reducible apply GotKeeps.asked
    | with_reducible apply GotKeeps.fails
    | with_reducible apply GotKeeps.poisoned
    | (with_reducible refine GotKeeps.bind ?_ (fun _ => ?_); try dsimp only)
    | (rename_i e; with_reducible refine GotKeeps.get ?_ e)
    | split

theorem spillNeeds_keeps {s t : State} (h : Keeps s t) (x0 : FormeId) (x1 : Slug) (x2 : OpInput) (x3 : List (BitVec 32)) : GotKeeps s (spillNeeds t x0 x1 x2 x3) := by
  unfold spillNeeds
  try dsimp only
  repeat' first
    | with_reducible assumption
    | assumption
    | with_reducible apply gatherSpill_keeps
    | with_reducible apply gather_keeps
    | with_reducible apply GotKeeps.ok
    | with_reducible apply GotKeeps.asked
    | with_reducible apply GotKeeps.fails
    | with_reducible apply GotKeeps.poisoned
    | (with_reducible refine GotKeeps.bind ?_ (fun _ => ?_); try dsimp only)
    | (rename_i e; with_reducible refine GotKeeps.get ?_ e)
    | split

end Sys2Proof.Machine
end

