-- ==== Sys2Proof/Laws/KeepsRunAhead.lean ====
section
/-! SUPPORT. What the operations of Machine/RunAhead.lean keep (Safety.lean, `Keeps`): one lemma each. -/
namespace Sys2Proof.Machine

theorem askPages_keeps {s t : State} (h : Keeps s t) (x0 : FormeId) (x1 : List Nat) : Keeps s (askPages t x0 x1) := by
  unfold askPages
  try dsimp only
  repeat' first
    | with_reducible assumption
    | with_reducible apply State.spillDrd_keeps
    | (with_reducible apply Keeps.foldl)
    | (intro _ _ _; try dsimp only)
    | split

theorem readPages_keeps {s t : State} (h : Keeps s t) (x0 : FormeId) (x1 : List Nat) (x2 : Option (List Byte)) : PagesKeep s (readPages t x0 x1 x2) := by
  unfold readPages
  try dsimp only
  repeat' first
    | with_reducible assumption
    | with_reducible apply State.take_keeps
    | with_reducible apply askEntries_keeps
    | with_reducible apply askPages_keeps
    | with_reducible apply PagesKeep.ready
    | with_reducible apply PagesKeep.outside
    | with_reducible apply PagesKeep.waits
    | (rename_i e; with_reducible refine OptKeeps.get ?_ e)
    | split

theorem keepHost_keeps {s t : State} (h : Keeps s t) (x0 : FormeId) (x1 : Nat) : Keeps s (keepHost t x0 x1) := by
  unfold keepHost
  try dsimp only
  repeat' first
    | with_reducible assumption
    | with_reducible apply State.modPort_keeps
    | split
    | (with_reducible apply Keeps.update)
    | (show _ = _; rfl)

theorem usePages_keeps {s t : State} (h : Keeps s t) (x0 : FormeId) (x1 : List Nat) : Keeps s (usePages t x0 x1) := by
  unfold usePages
  try dsimp only
  repeat' first
    | with_reducible assumption
    | with_reducible apply State.modForme_keeps
    | with_reducible apply State.retireUse_keeps
    | with_reducible apply keepHost_keeps
    | (with_reducible apply Keeps.foldlFst)
    | (with_reducible apply Keeps.foldl)
    | (intro _ _ _; try dsimp only)
    | (with_reducible apply Keeps.update)
    | (show _ = _; rfl)

theorem contextFails_keeps {s t : State} (h : Keeps s t) (x0 : FormeId) (x1 : BitVec 16) (x2 : Code) : Keeps s (contextFails t x0 x1 x2) := by
  unfold contextFails
  try dsimp only
  repeat' first
    | with_reducible assumption
    | with_reducible apply State.modForme_keeps
    | with_reducible apply State.settle_keeps
    | (with_reducible apply Keeps.foldl)
    | (intro _ _ _; try dsimp only)

theorem moveDetects_keeps {s t : State} (h : Keeps s t) (x0 : FormeId) (x1 : Move) : Keeps s (moveDetects t x0 x1) := by
  unfold moveDetects
  try dsimp only
  repeat' first
    | with_reducible assumption
    | with_reducible apply countPoison_keeps
    | with_reducible apply contextFails_keeps
    | (with_reducible apply Keeps.foldl)
    | (intro _ _ _; try dsimp only)
    | split
    | (with_reducible apply Keeps.update)
    | (show _ = _; rfl)

theorem moveCharge_keeps {s t : State} (h : Keeps s t) (x0 : FormeId) (x1 : Move) : Keeps s (moveCharge t x0 x1) := by
  unfold moveCharge
  try dsimp only
  repeat' first
    | with_reducible assumption
    | with_reducible apply State.charge_keeps
    | split

theorem clearLeft_keeps {s t : State} (h : Keeps s t) (x0 : FormeId) (x1 : List Move) : Keeps s (clearLeft t x0 x1) := by
  unfold clearLeft
  try dsimp only
  repeat' first
    | with_reducible assumption
    | (with_reducible apply Keeps.foldl)
    | (intro _ _ _; try dsimp only)
    | split
    | exact Keeps.galleyMem (by assumption) memClear_wf
    | (with_reducible apply Keeps.update)
    | (show _ = _; rfl)

theorem takePlan_keeps {s t : State} (h : Keeps s t) (x0 : FormeId) (x1 : PlanKey) (x2 : List Placed) : Keeps s (takePlan t x0 x1 x2) := by
  unfold takePlan
  try dsimp only
  repeat' first
    | with_reducible assumption
    | with_reducible apply State.modForme_keeps
    | with_reducible apply homeWrite_keeps
    | with_reducible apply sheetWrite_keeps
    | with_reducible apply usePages_keeps
    | with_reducible apply moveDetects_keeps
    | with_reducible apply moveCharge_keeps
    | with_reducible apply clearLeft_keeps
    | (with_reducible apply Keeps.foldlFst)
    | (with_reducible apply Keeps.foldl)
    | (intro _ _ _; try dsimp only)

theorem failMaker_keeps {s t : State} (h : Keeps s t) (x0 : FormeId) (x1 : Option (RingId × Seq)) (x2 : Code) : Keeps s (failMaker t x0 x1 x2) := by
  unfold failMaker
  try dsimp only
  repeat' first
    | with_reducible assumption
    | with_reducible apply State.modForme_keeps
    | with_reducible apply State.completeWith_keeps
    | (with_reducible apply Keeps.foldl)
    | (intro _ _ _; try dsimp only)
    | split

theorem failPlan_keeps {s t : State} (h : Keeps s t) (x0 : FormeId) (x1 : PlanKey) (x2 : Code) : Keeps s (failPlan t x0 x1 x2) := by
  unfold failPlan
  try dsimp only
  repeat' first
    | with_reducible assumption
    | with_reducible apply State.modForme_keeps
    | with_reducible apply failMaker_keeps
    | (with_reducible apply Keeps.update)
    | (show _ = _; rfl)

theorem finishPlan_keeps {s t : State} (h : Keeps s t) (x0 : FormeId) : Keeps s (finishPlan t x0) := by
  unfold finishPlan
  try dsimp only
  repeat' first
    | with_reducible assumption
    | with_reducible apply askEntries_keeps
    | with_reducible apply readPages_keeps
    | with_reducible apply takePlan_keeps
    | with_reducible apply failPlan_keeps
    | (rename_i e; with_reducible refine PagesKeep.get ?_ e)
    | split

theorem planEntryFaults_keeps {s t : State} (h : Keeps s t) (x0 : FormeId) (x1 : Nat) : Keeps s (planEntryFaults t x0 x1) := by
  unfold planEntryFaults
  try dsimp only
  repeat' first
    | with_reducible assumption
    | with_reducible apply failPlan_keeps
    | split

theorem fetchStack_keeps {s t : State} (h : Keeps s t) (x0 : FormeId) (x1 : PlanRec) : Keeps s (fetchStack t x0 x1) := by
  unfold fetchStack
  try dsimp only
  repeat' first
    | with_reducible assumption
    | with_reducible apply State.stackFetch_keeps
    | split

theorem snapStaged_keeps {s t : State} (h : Keeps s t) (x0 : FormeId) (x1 : SheetId) : Keeps s (snapStaged t x0 x1) := by
  unfold snapStaged
  try dsimp only
  repeat' first
    | with_reducible assumption
    | with_reducible apply State.modForme_keeps
    | split
    | (with_reducible apply Keeps.update)
    | (show _ = _; rfl)

theorem fetchCopy_keeps {s t : State} (h : Keeps s t) (x0 : FormeId) (x1 : PlanRec) (x2 : Option (List Byte)) : Keeps s (fetchCopy t x0 x1 x2) := by
  unfold fetchCopy
  try dsimp only
  repeat' first
    | with_reducible assumption
    | with_reducible apply State.modForme_keeps
    | with_reducible apply State.charge_keeps
    | with_reducible apply State.galleyWrite_keeps
    | with_reducible apply readPages_keeps
    | with_reducible apply usePages_keeps
    | with_reducible apply fetchStack_keeps
    | with_reducible apply snapStaged_keeps
    | (rename_i e; with_reducible refine PagesKeep.get ?_ e)
    | split

theorem putStaged_keeps {s t : State} (h : Keeps s t) (x0 : FormeId) (x1 : CoreId) (x2 : PlanRec) (x3 : Option Nat) (x4 : Option Nat) (x5 : List Byte) : Keeps s (putStaged t x0 x1 x2 x3 x4 x5) := by
  unfold putStaged
  try dsimp only
  repeat' first
    | with_reducible assumption
    | with_reducible apply State.modForme_keeps
    | with_reducible apply State.charge_keeps
    | with_reducible apply snapStaged_keeps
    | (with_reducible apply Keeps.update)
    | (show _ = _; rfl)

theorem haltStream_keeps {s t : State} (h : Keeps s t) (x0 : FormeId) (x1 : CoreId) : Keeps s (haltStream t x0 x1) := by
  unfold haltStream
  try dsimp only
  repeat' first
    | with_reducible assumption
    | with_reducible apply State.modForme_keeps
    | split
    | (with_reducible apply Keeps.update)
    | (show _ = _; rfl)

theorem stageSheet_keeps {s t : State} (h : Keeps s t) (x0 : FormeId) (x1 : CoreId) (x2 : PlanRec) (x3 : Option (List Byte)) : Keeps s (stageSheet t x0 x1 x2 x3) := by
  unfold stageSheet
  try dsimp only
  repeat' first
    | with_reducible assumption
    | with_reducible apply readPages_keeps
    | with_reducible apply usePages_keeps
    | with_reducible apply fetchStack_keeps
    | with_reducible apply putStaged_keeps
    | with_reducible apply haltStream_keeps
    | (rename_i e; with_reducible refine PagesKeep.get ?_ e)
    | split

theorem fetchFaults_keeps {s t : State} (h : Keeps s t) (x0 : FormeId) (x1 : PlanRec) (x2 : EcpStatus) (x3 : HostAddr) : Keeps s (fetchFaults t x0 x1 x2 x3) := by
  unfold fetchFaults
  try dsimp only
  repeat' first
    | with_reducible assumption
    | with_reducible apply State.retireUse_keeps
    | with_reducible apply State.noteFault_keeps
    | (with_reducible apply Keeps.foldl)
    | (intro _ _ _; try dsimp only)
    | split

theorem galleyClear_fold_wf (base : Nat) (keep : Nat → Bool) (l : List Nat) (m : Memory) (h : Memory.wf galleyDefault m = true) :
    Memory.wf galleyDefault (l.foldl (fun m g => if keep g = true then m else memClear m (base + g * 65536) 65536) m) = true := by
  induction l generalizing m with
  | nil => exact h
  | cons g l ih =>
    refine ih _ ?_
    dsimp only
    split
    · exact h
    · exact memClear_wf h

theorem clearExplicit_keeps {s t : State} (h : Keeps s t) (f : FormeId) (mib : Nat) : Keeps s (clearExplicit t f mib) := by
  refine h.galleyMem (fun p => ?_)
  revert p
  generalize (t.forme f).cores = l
  generalize t.galley = m
  induction l generalizing m with
  | nil => exact id
  | cons c l ih => exact fun p => ih _ (galleyClear_fold_wf _ _ _ _ p)

end Sys2Proof.Machine
end

