-- ==== Sys2Proof/Laws/KeepsRegisters.lean ====
section
/-! SUPPORT. What the operations of Machine/Registers.lean keep (Safety.lean, `Keeps`): one lemma each. -/
namespace Sys2Proof.Machine

theorem resetView_keeps {s t : State} (h : Keeps s t) (x0 : FormeId) : Keeps s (resetView t x0) := by
  unfold resetView
  try dsimp only
  repeat' first
    | with_reducible assumption
    | with_reducible apply State.setForme_keeps
    | with_reducible apply State.take_keeps
    | (rename_i e; with_reducible refine OptKeeps.get ?_ e)
    | (with_reducible apply Keeps.update)
    | (show _ = _; rfl)

theorem answerRead_keeps {s t : State} (h : Keeps s t) (x0 : HostReq) (x1 : Access) (x2 : Nat) : Keeps s (answerRead t x0 x1 x2) := by
  unfold answerRead
  try dsimp only
  repeat' first
    | with_reducible assumption
    | with_reducible apply State.ecpOut_keeps
    | with_reducible apply State.busError_keeps
    | split

theorem formeRead_keeps {s t : State} (h : Keeps s t) (x0 : HostReq) (x1 : Nat) (x2 : Nat) : Keeps s (formeRead t x0 x1 x2) := by
  unfold formeRead
  try dsimp only
  repeat' first
    | with_reducible assumption
    | with_reducible apply State.busError_keeps
    | with_reducible apply resetView_keeps
    | with_reducible apply answerRead_keeps
    | split
    | (with_reducible apply Keeps.update)
    | (show _ = _; rfl)

theorem releaseHeld_keeps {s t : State} (h : Keeps s t) (x0 : PortId) : Keeps s (releaseHeld t x0) := by
  unfold releaseHeld
  try dsimp only
  repeat' first
    | with_reducible assumption
    | with_reducible apply State.modPort_keeps
    | with_reducible apply formeRead_keeps
    | (with_reducible apply Keeps.foldlFst)
    | (with_reducible apply Keeps.foldl)
    | (intro _ _ _; try dsimp only)
    | split
    | (with_reducible apply Keeps.update)
    | (show _ = _; rfl)

theorem releaseAll_keeps {s t : State} (h : Keeps s t)  : Keeps s (releaseAll t) := by
  unfold releaseAll
  try dsimp only
  repeat' first
    | with_reducible assumption
    | with_reducible apply releaseHeld_keeps
    | (with_reducible apply Keeps.foldl)
    | (intro _ _ _; try dsimp only)

end Sys2Proof.Machine
end

