-- ==== Sys2Proof/Laws/KeepsStrokes.lean ====
section
/-! SUPPORT. What the operations of Machine/Strokes.lean keep (Safety.lean, `Keeps`): one lemma each. -/
namespace Sys2Proof.Machine

theorem State.modSource_keeps {s t : State} (h : Keeps s t) (x0 : Fin 7) (x1 : SourceMon → SourceMon) : Keeps s (State.modSource t x0 x1) := by
  unfold State.modSource
  try dsimp only
  repeat' first
    | with_reducible assumption
    | (with_reducible apply Keeps.update)
    | (show _ = _; rfl)

theorem endWindows_keeps {s t : State} (h : Keeps s t) (x0 : FormeId) : Keeps s (endWindows t x0) := by
  unfold endWindows
  try dsimp only
  repeat' first
    | with_reducible assumption
    | with_reducible apply State.modForme_keeps
    | with_reducible apply State.modCore_keeps
    | (with_reducible apply Keeps.foldl)
    | (intro _ _ _; try dsimp only)
    | (with_reducible apply Keeps.update)
    | (show _ = _; rfl)

theorem setNumber_keeps {s t : State} (h : Keeps s t) (x0 : Word) : Keeps s (setNumber t x0) := by
  unfold setNumber
  try dsimp only
  repeat' first
    | with_reducible assumption
    | with_reducible apply endWindows_keeps
    | (with_reducible apply Keeps.foldl)
    | (intro _ _ _; try dsimp only)
    | split
    | (with_reducible apply Keeps.update)
    | (show _ = _; rfl)

theorem refuseWaiting_keeps {s t : State} (h : Keeps s t)  : Keeps s (refuseWaiting t) := by
  unfold refuseWaiting
  try dsimp only
  repeat' first
    | with_reducible assumption
    | with_reducible apply State.faultSlug_keeps
    | (with_reducible apply Keeps.foldl)
    | (intro _ _ _; try dsimp only)

theorem followSource_keeps {s t : State} (h : Keeps s t) (x0 : Fin 7) : Keeps s (followSource t x0) := by
  unfold followSource
  try dsimp only
  repeat' first
    | with_reducible assumption
    | split
    | (with_reducible apply Keeps.update)
    | (show _ = _; rfl)

theorem sourceLocks_keeps {s t : State} (h : Keeps s t) (x0 : Fin 7) : Keeps s (sourceLocks t x0) := by
  unfold sourceLocks
  try dsimp only
  repeat' first
    | with_reducible assumption
    | with_reducible apply setNumber_keeps
    | with_reducible apply refuseWaiting_keeps
    | with_reducible apply followSource_keeps
    | split
    | (with_reducible apply Keeps.update)
    | (show _ = _; rfl)

theorem sourceLost_keeps {s t : State} (h : Keeps s t)  : Keeps s (sourceLost t) := by
  unfold sourceLost
  try dsimp only
  repeat' first
    | with_reducible assumption
    | with_reducible apply refuseWaiting_keeps
    | with_reducible apply followSource_keeps
    | split
    | (with_reducible apply Keeps.update)
    | (show _ = _; rfl)

theorem sourceGone_keeps {s t : State} (h : Keeps s t) (x0 : Fin 7) : Keeps s (sourceGone t x0) := by
  unfold sourceGone
  try dsimp only
  repeat' first
    | with_reducible assumption
    | with_reducible apply State.modSource_keeps
    | with_reducible apply sourceLost_keeps
    | split
    | (with_reducible apply Keeps.update)
    | (show _ = _; rfl)

theorem frameSeen_keeps {s t : State} (h : Keeps s t) (x0 : Option Word) (x1 : Int) : Keeps s (frameSeen t x0 x1) := by
  unfold frameSeen
  try dsimp only
  repeat' first
    | with_reducible assumption
    | with_reducible apply State.modSource_keeps
    | with_reducible apply sourceLocks_keeps
    | with_reducible apply sourceGone_keeps
    | split
    | (with_reducible apply Keeps.update)
    | (show _ = _; rfl)

theorem markSeen_keeps {s t : State} (h : Keeps s t) (x0 : LinkId) (x1 : MarkFlit) (x2 : Int) : Keeps s (markSeen t x0 x1 x2) := by
  unfold markSeen
  try dsimp only
  repeat' first
    | with_reducible assumption
    | with_reducible apply State.modSource_keeps
    | with_reducible apply sourceLocks_keeps
    | with_reducible apply sourceGone_keeps
    | split
    | (with_reducible apply Keeps.update)
    | (show _ = _; rfl)

theorem chargeForme_keeps {s t : State} (h : Keeps s t) (x0 : FormeId) : Keeps s (chargeForme t x0) := by
  unfold chargeForme
  try dsimp only
  repeat' first
    | with_reducible assumption
    | with_reducible apply State.modCore_keeps
    | with_reducible apply State.charge_keeps
    | (with_reducible apply Keeps.foldlFst)
    | (with_reducible apply Keeps.foldl)
    | (intro _ _ _; try dsimp only)

theorem sendMarks_keeps {s t : State} (h : Keeps s t)  : Keeps s (sendMarks t) := by
  unfold sendMarks
  try dsimp only
  repeat' first
    | with_reducible assumption
    | with_reducible apply State.emit_keeps
    | with_reducible apply State.freshValue_keeps
    | (rename_i e; with_reducible refine Keeps.ofSnd ?_ e)
    | (with_reducible apply Keeps.foldlFst)
    | (with_reducible apply Keeps.foldl)
    | (intro _ _ _; try dsimp only)
    | split

theorem ringEvents_keeps {s t : State} (h : Keeps s t)  : Keeps s (ringEvents t) := by
  unfold ringEvents
  try dsimp only
  repeat' first
    | with_reducible assumption
    | with_reducible apply State.modRing_keeps
    | with_reducible apply State.formeEvent_keeps
    | (with_reducible apply Keeps.foldl)
    | (intro _ _ _; try dsimp only)
    | split
    | (with_reducible apply Keeps.update)
    | (show _ = _; rfl)

theorem idleCompositors_keeps {s t : State} (h : Keeps s t)  : Keeps s (idleCompositors t) := by
  unfold idleCompositors
  try dsimp only
  repeat' first
    | with_reducible assumption
    | split
    | (with_reducible apply Keeps.update)
    | (show _ = _; rfl)

theorem strokeEdge_keeps {s t : State} (h : Keeps s t)  : Keeps s (strokeEdge t) := by
  unfold strokeEdge
  try dsimp only
  repeat' first
    | with_reducible assumption
    | with_reducible apply State.mapFormes_keeps
    | with_reducible apply releaseAll_keeps
    | with_reducible apply chargeForme_keeps
    | with_reducible apply sendMarks_keeps
    | with_reducible apply ringEvents_keeps
    | with_reducible apply idleCompositors_keeps
    | (with_reducible apply Keeps.foldl)
    | (intro _ _ _; try dsimp only)
    | (with_reducible apply Keeps.update)
    | (show _ = _; rfl)

theorem mrtRead_keeps {s t : State} (h : Keeps s t) (x0 : FormeId) (x1 : BitVec 56) (x2 : Nat) : OptKeeps s (mrtRead t x0 x1 x2) := by
  unfold mrtRead
  try dsimp only
  repeat' first
    | with_reducible assumption
    | with_reducible apply State.take_keeps
    | with_reducible apply engineRead_keeps
    | with_reducible apply OptKeeps.none
    | with_reducible apply OptKeeps.some
    | with_reducible apply OptKeeps.map
    | with_reducible apply OptKeeps.mapFst
    | (rename_i e; with_reducible refine OptKeeps.get ?_ e)
    | split

theorem openWindow_keeps {s t : State} (h : Keeps s t) (x0 : FormeId) (x1 : BitVec 8) (x2 : MrtEntry) : Keeps s (openWindow t x0 x1 x2) := by
  unfold openWindow
  try dsimp only
  repeat' first
    | with_reducible assumption
    | with_reducible apply State.modForme_keeps
    | (with_reducible apply Keeps.update)
    | (show _ = _; rfl)

theorem dropWindow_keeps {s t : State} (h : Keeps s t) (x0 : FormeId) (x1 : OpenWindow) : Keeps s (dropWindow t x0 x1) := by
  unfold dropWindow
  try dsimp only
  repeat' first
    | with_reducible assumption
    | with_reducible apply State.modForme_keeps
    | (with_reducible apply Keeps.update)
    | (show _ = _; rfl)

end Sys2Proof.Machine
end

