-- ==== Sys2Proof/Laws/KeepsBindings.lean ====
section
/-! SUPPORT. What the operations of Machine/Bindings.lean keep (Safety.lean, `Keeps`): one lemma each. -/
namespace Sys2Proof.Machine

theorem State.modBinding_keeps {s t : State} (h : Keeps s t) (x0 : FormeId) (x1 : BindingId) (x2 : Binding → Binding) : Keeps s (State.modBinding t x0 x1 x2) := by
  unfold State.modBinding
  try dsimp only
  repeat' first
    | with_reducible assumption
    | with_reducible apply State.modForme_keeps
    | (with_reducible apply Keeps.update)
    | (show _ = _; rfl)

theorem switchBinding_keeps {s t : State} (h : Keeps s t) (x0 : FormeId) : Keeps s (switchBinding t x0) := by
  unfold switchBinding
  try dsimp only
  repeat' first
    | with_reducible assumption
    | with_reducible apply State.modForme_keeps
    | with_reducible apply State.modBinding_keeps
    | split
    | (with_reducible apply Keeps.update)
    | (show _ = _; rfl)

theorem emptyBinding_keeps {s t : State} (h : Keeps s t) (x0 : FormeId) (x1 : BindingId) : Keeps s (emptyBinding t x0 x1) := by
  unfold emptyBinding
  try dsimp only
  repeat' first
    | with_reducible assumption
    | with_reducible apply State.respond_keeps
    | with_reducible apply State.modBinding_keeps
    | split
    | (with_reducible apply Keeps.update)
    | (show _ = _; rfl)

theorem releaseCopies_keeps {s t : State} (h : Keeps s t) (x0 : FormeId) (x1 : BindingId) : Keeps s (releaseCopies t x0 x1) := by
  unfold releaseCopies
  try dsimp only
  repeat' first
    | with_reducible assumption
    | with_reducible apply State.modBinding_keeps
    | (with_reducible apply Keeps.update)
    | (show _ = _; rfl)

theorem trimShared_keeps {s t : State} (h : Keeps s t)  : Keeps s (trimShared t) := by
  unfold trimShared
  try dsimp only
  repeat' first
    | with_reducible assumption
    | with_reducible apply State.modBinding_keeps
    | (with_reducible apply Keeps.foldl)
    | (intro _ _ _; try dsimp only)
    | (with_reducible apply Keeps.update)
    | (show _ = _; rfl)

theorem leaveShared_keeps {s t u : State} (h : Keeps s t) : Keeps s (leaveShared u t) :=
  h.foldl (fun _ _ k => State.scrubBytes_keeps k _ _)

theorem bindingBoundary_keeps {s t : State} (h : Keeps s t) (x0 : FormeId) : Keeps s (bindingBoundary t x0) := by
  unfold bindingBoundary
  try dsimp only
  repeat' first
    | with_reducible assumption
    | with_reducible apply switchBinding_keeps
    | with_reducible apply emptyBinding_keeps
    | with_reducible apply releaseCopies_keeps
    | with_reducible apply trimShared_keeps
    | with_reducible apply leaveShared_keeps
    | (with_reducible apply Keeps.foldl)
    | (intro _ _ _; try dsimp only)

end Sys2Proof.Machine
end

