-- ==== Sys2Proof/Laws/KeepsScheduler.lean ====
section
/-! SUPPORT. What the operations of Machine/Scheduler.lean keep (Safety.lean, `Keeps`): one lemma each. -/
namespace Sys2Proof.Machine

theorem startStep_keeps {s t : State} (h : Keeps s t) (x0 : FormeId) (x1 : List SlugTag) : Keeps s (startStep t x0 x1) := by
  unfold startStep
  try dsimp only
  repeat' first
    | with_reducible assumption
    | with_reducible apply State.modForme_keeps
    | with_reducible apply State.settle_keeps
    | split
    | (with_reducible apply Keeps.update)
    | (show _ = _; rfl)

theorem preempt_keeps {s t : State} (h : Keeps s t) (x0 : FormeId) : Keeps s (preempt t x0) := by
  unfold preempt
  try dsimp only
  repeat' first
    | with_reducible assumption
    | with_reducible apply State.modForme_keeps
    | with_reducible apply State.settle_keeps
    | (with_reducible apply Keeps.foldl)
    | (intro _ _ _; try dsimp only)
    | split

theorem nextStep_keeps {s t : State} (h : Keeps s t) (x0 : FormeId) (x1 : Word) : Keeps s (nextStep t x0 x1) := by
  unfold nextStep
  try dsimp only
  repeat' first
    | with_reducible assumption
    | with_reducible apply State.modForme_keeps
    | with_reducible apply startStep_keeps
    | split

theorem countHeld_keeps {s t : State} (h : Keeps s t) (x0 : FormeId) : Keeps s (countHeld t x0) := by
  unfold countHeld
  try dsimp only
  repeat' first
    | with_reducible assumption
    | (with_reducible apply Keeps.update)
    | (show _ = _; rfl)

theorem boundaryOutcome_keeps {s t : State} (h : Keeps s t) (x0 : FormeId) (x1 : Bool) (x2 : Word) : Keeps s (boundaryOutcome t x0 x1 x2) := by
  unfold boundaryOutcome
  try dsimp only
  repeat' first
    | with_reducible assumption
    | with_reducible apply State.modForme_keeps
    | with_reducible apply nextStep_keeps
    | with_reducible apply countHeld_keeps
    | split
    | (with_reducible apply Keeps.update)
    | (show _ = _; rfl)

theorem stepBoundary_keeps {s t : State} (h : Keeps s t) (x0 : FormeId) : Keeps s (stepBoundary t x0) := by
  unfold stepBoundary
  try dsimp only
  repeat' first
    | with_reducible assumption
    | with_reducible apply State.modForme_keeps
    | with_reducible apply bindingBoundary_keeps
    | with_reducible apply preempt_keeps
    | with_reducible apply boundaryOutcome_keeps
    | split
    | (with_reducible apply Keeps.update)
    | (show _ = _; rfl)

theorem moveImage_keeps {s t : State} (h : Keeps s t) (x0 : FormeId) (x1 : BitVec 16) (x2 : ImageAt) : Keeps s (moveImage t x0 x1 x2) := by
  unfold moveImage
  try dsimp only
  repeat' first
    | with_reducible assumption
    | with_reducible apply State.modForme_keeps
    | with_reducible apply State.chargeStack_keeps
    | with_reducible apply watchedWrite_keeps
    | with_reducible apply spillPageWrite_keeps
    | with_reducible apply sheetWrite_keeps
    | (with_reducible apply Keeps.foldlFst)
    | (with_reducible apply Keeps.foldl)
    | (intro _ _ _; try dsimp only)
    | split
    | (with_reducible apply Keeps.update)
    | (show _ = _; rfl)

theorem trySwap_keeps {s t : State} (h : Keeps s t) (x0 : FormeId) : Keeps s (trySwap t x0) := by
  unfold trySwap
  try dsimp only
  repeat' first
    | with_reducible assumption
    | with_reducible apply State.modForme_keeps
    | with_reducible apply askEntries_keeps
    | with_reducible apply moveImage_keeps
    | (with_reducible apply Keeps.foldlFst)
    | (with_reducible apply Keeps.foldl)
    | (intro _ _ _; try dsimp only)
    | split
    | (with_reducible apply Keeps.update)
    | (show _ = _; rfl)

theorem copyPage_keeps {s t : State} (h : Keeps s t) (x0 : FormeId) (x1 : CoreId) (x2 : Nat) (x3 : Nat) : Keeps s (copyPage t x0 x1 x2 x3) := by
  unfold copyPage
  try dsimp only
  repeat' first
    | with_reducible assumption
    | with_reducible apply State.charge_keeps
    | with_reducible apply State.galleyWrite_keeps

theorem copyRound_keeps {s t : State} (h : Keeps s t) (x0 : FormeId) (x1 : CoreId) : Keeps s (copyRound t x0 x1) := by
  unfold copyRound
  try dsimp only
  repeat' first
    | with_reducible assumption
    | with_reducible apply State.modForme_keeps
    | with_reducible apply State.take_keeps
    | with_reducible apply copyPage_keeps
    | (rename_i e; with_reducible refine OptKeeps.get ?_ e)
    | (with_reducible apply Keeps.foldlFst)
    | (with_reducible apply Keeps.foldl)
    | (intro _ _ _; try dsimp only)
    | split
    | (with_reducible apply Keeps.update)
    | (show _ = _; rfl)

theorem restoreImage_keeps {s t : State} (h : Keeps s t) (x0 : FormeId) (x1 : Context) : Keeps s (restoreImage t x0 x1) := by
  unfold restoreImage
  try dsimp only
  repeat' first
    | with_reducible assumption
    | with_reducible apply State.chargeStack_keeps
    | with_reducible apply State.take_keeps
    | with_reducible apply homeWrite_keeps
    | with_reducible apply sheetWrite_keeps
    | (rename_i e; with_reducible refine OptKeeps.get ?_ e)
    | (with_reducible apply Keeps.foldlFst)
    | (with_reducible apply Keeps.foldl)
    | (intro _ _ _; try dsimp only)
    | split

theorem imageDetects_keeps {s t : State} (h : Keeps s t) (x0 : FormeId) (x1 : Context) : Keeps s (imageDetects t x0 x1) := by
  unfold imageDetects
  try dsimp only
  repeat' first
    | with_reducible assumption
    | with_reducible apply countDetect_keeps
    | with_reducible apply contextFails_keeps
    | (with_reducible apply Keeps.foldl)
    | (intro _ _ _; try dsimp only)
    | split

theorem swapIn_keeps {s t : State} (h : Keeps s t) (x0 : FormeId) (x1 : Context) : Keeps s (swapIn t x0 x1) := by
  unfold swapIn
  try dsimp only
  repeat' first
    | with_reducible assumption
    | with_reducible apply State.modForme_keeps
    | with_reducible apply usePages_keeps
    | with_reducible apply restoreImage_keeps
    | with_reducible apply imageDetects_keeps
    | (with_reducible apply Keeps.update)
    | (show _ = _; rfl)

theorem swapBack_keeps {s t : State} (h : Keeps s t) (x0 : FormeId) (x1 : Context) : Keeps s (swapBack t x0 x1) := by
  unfold swapBack
  try dsimp only
  repeat' first
    | with_reducible assumption
    | with_reducible apply State.modForme_keeps
    | (with_reducible apply Keeps.update)
    | (show _ = _; rfl)

theorem drainSlice_keeps {s t : State} (h : Keeps s t) (x0 : FormeId) (x1 : CoreId) : Keeps s (drainSlice t x0 x1) := by
  unfold drainSlice
  try dsimp only
  repeat' first
    | with_reducible assumption
    | with_reducible apply State.charge_keeps
    | with_reducible apply saveWrite_keeps
    | (with_reducible apply Keeps.foldlFst)
    | (with_reducible apply Keeps.foldl)
    | (intro _ _ _; try dsimp only)
    | split

end Sys2Proof.Machine
end

