-- ==== Sys2Proof/Laws/KeepsInker.lean ====
section
/-! SUPPORT. What the operations of Machine/Inker.lean keep (Safety.lean, `Keeps`): one lemma each. -/
namespace Sys2Proof.Machine

theorem exchange_keeps {s t : State} (h : Keeps s t) (x0 : Chan) (x1 : Nat) (x2 : Vector Word 16 → State → State) (k3 : ∀ (y0 : Vector Word 16) (y1 : State), Keeps s y1 → Keeps s (x2 y0 y1)) : Keeps s (exchange t x0 x1 x2) := by
  unfold exchange
  try dsimp only
  repeat' first
    | with_reducible assumption
    | with_reducible apply State.rejectUndefined_keeps
    | with_reducible apply State.take_keeps
    | with_reducible apply k3
    | (rename_i e; with_reducible refine OptKeeps.get ?_ e)
    | split

theorem State.answer_keeps {s t : State} (h : Keeps s t) (x0 : FormeId) (x1 : Nat) (x2 : BitVec 16) (x3 : Code) : Keeps s (State.answer t x0 x1 x2 x3) := by
  unfold State.answer
  try dsimp only
  repeat' first
    | with_reducible assumption
    | with_reducible apply State.respond_keeps
    | with_reducible apply State.noteCode_keeps
    | split

theorem State.modInker_keeps {s t : State} (h : Keeps s t) (x0 : FormeId) (x1 : Inker → Inker) : Keeps s (State.modInker t x0 x1) := by
  unfold State.modInker
  try dsimp only
  repeat' first
    | with_reducible assumption
    | with_reducible apply State.modForme_keeps
    | (with_reducible apply Keeps.update)
    | (show _ = _; rfl)

theorem inkStart_keeps {s t : State} (h : Keeps s t) (x0 : FormeId) (x1 : InkReq) : Keeps s (inkStart t x0 x1) := by
  unfold inkStart
  try dsimp only
  repeat' first
    | with_reducible assumption
    | with_reducible apply State.formeDrd_keeps
    | with_reducible apply State.modInker_keeps
    | (with_reducible apply Keeps.update)
    | (show _ = _; rfl)

theorem inkRefuse_keeps {s t : State} (h : Keeps s t) (x0 : FormeId) (x1 : BitVec 16) (x2 : Code) : Keeps s (inkRefuse t x0 x1 x2) := by
  unfold inkRefuse
  try dsimp only
  repeat' first
    | with_reducible assumption
    | with_reducible apply State.answer_keeps
    | with_reducible apply State.modInker_keeps
    | (with_reducible apply Keeps.update)
    | (show _ = _; rfl)

theorem readChunk_keeps {s t : State} (h : Keeps s t) (x0 : FormeId) (x1 : InkReq) (x2 : Nat) : Keeps s (readChunk t x0 x1 x2) := by
  unfold readChunk
  try dsimp only
  repeat' first
    | with_reducible assumption
    | with_reducible apply State.formeDrd_keeps

theorem copyWrite_keeps {s t : State} (h : Keeps s t) (x0 : FormeId) (x1 : ImageCopy) (x2 : Nat) (x3 : List Byte) : Keeps s (copyWrite t x0 x1 x2 x3) := by
  unfold copyWrite
  try dsimp only
  repeat' first
    | with_reducible assumption
    | with_reducible apply State.chargeStack_keeps
    | with_reducible apply watchedStore_keeps
    | split
    | exact Keeps.stackMem (by assumption) memPutAll_wf
    | (with_reducible apply Keeps.update)
    | (show _ = _; rfl)

theorem writeTile_keeps {s t : State} (h : Keeps s t) (x0 : FormeId) (x1 : ImageCopy) (x2 : ImageTensor) (x3 : Nat) : Keeps s (writeTile x0 x1 x2 t x3) := by
  unfold writeTile
  try dsimp only
  repeat' first
    | with_reducible assumption
    | with_reducible apply copyWrite_keeps
    | split

theorem takeChunk_keeps {s t : State} (h : Keeps s t) (x0 : FormeId) (x1 : ImageCopy) (x2 : Nat) (x3 : List Byte) : Keeps s (takeChunk t x0 x1 x2 x3).1 := by
  unfold takeChunk
  try dsimp only
  repeat' first
    | with_reducible assumption
    | with_reducible apply writeTile_keeps
    | (with_reducible apply Keeps.foldlFst)
    | (with_reducible apply Keeps.foldl)
    | (intro _ _ _; try dsimp only)
    | (with_reducible apply Keeps.update)
    | (show _ = _; rfl)

theorem inkLead_keeps {s t : State} (h : Keeps s t) (x0 : FormeId) (x1 : InkReq) (x2 : ImageCopy) : Keeps s (inkLead t x0 x1 x2) := by
  unfold inkLead
  try dsimp only
  repeat' first
    | with_reducible assumption
    | with_reducible apply State.modInker_keeps
    | with_reducible apply readChunk_keeps
    | with_reducible apply takeChunk_keeps
    | (rename_i e; with_reducible refine Keeps.ofFst ?_ e)
    | (with_reducible apply Keeps.foldlFst)
    | (with_reducible apply Keeps.foldl)
    | (intro _ _ _; try dsimp only)
    | split
    | (with_reducible apply Keeps.update)
    | (show _ = _; rfl)

theorem inkAccept_keeps {s t : State} (h : Keeps s t) (x0 : FormeId) (x1 : InkReq) (x2 : Blob) (x3 : ImageDir) (x4 : List Byte) (x5 : List (Nat × List Byte)) (x6 : Nat) (x7 : Bool) : Keeps s (inkAccept t x0 x1 x2 x3 x4 x5 x6 x7) := by
  unfold inkAccept
  try dsimp only
  repeat' first
    | with_reducible assumption
    | with_reducible apply State.modForme_keeps
    | with_reducible apply State.draw_keeps
    | with_reducible apply State.answer_keeps
    | with_reducible apply State.modInker_keeps
    | with_reducible apply inkLead_keeps
    | (rename_i e; with_reducible refine Keeps.ofSnd ?_ e)
    | split
    | (with_reducible apply Keeps.update)
    | (show _ = _; rfl)

theorem readLead_keeps {s t : State} (h : Keeps s t) (x0 : FormeId) (x1 : InkReq) (x2 : Nat) : Keeps s (readLead t x0 x1 x2) := by
  unfold readLead
  try dsimp only
  repeat' first
    | with_reducible assumption
    | with_reducible apply State.retireUse_keeps
    | with_reducible apply readChunk_keeps
    | (with_reducible apply Keeps.foldl)
    | (intro _ _ _; try dsimp only)

theorem inkChecks_keeps {s t : State} (h : Keeps s t) (x0 : FormeId) (x1 : InkReq) (x2 : InkHeader) : Keeps s (inkChecks t x0 x1 x2) := by
  unfold inkChecks
  try dsimp only
  repeat' first
    | with_reducible assumption
    | with_reducible apply State.noteFault_keeps
    | with_reducible apply State.take_keeps
    | with_reducible apply State.modInker_keeps
    | with_reducible apply inkRefuse_keeps
    | with_reducible apply inkAccept_keeps
    | with_reducible apply readLead_keeps
    | (rename_i e; with_reducible refine OptKeeps.get ?_ e)
    | split
    | (with_reducible apply Keeps.update)
    | (show _ = _; rfl)

theorem inkHeaderDone_keeps {s t : State} (h : Keeps s t) (x0 : FormeId) (x1 : Fetched InkHeader) : Keeps s (inkHeaderDone t x0 x1) := by
  unfold inkHeaderDone
  try dsimp only
  repeat' first
    | with_reducible assumption
    | with_reducible apply State.retireUse_keeps
    | with_reducible apply State.noteFault_keeps
    | with_reducible apply inkRefuse_keeps
    | with_reducible apply inkChecks_keeps
    | split

theorem inkFails_keeps {s t : State} (h : Keeps s t) (x0 : FormeId) : Keeps s (inkFails t x0) := by
  unfold inkFails
  try dsimp only
  repeat' first
    | with_reducible assumption
    | with_reducible apply State.modForme_keeps
    | with_reducible apply State.noteCode_keeps
    | (with_reducible apply Keeps.update)
    | (show _ = _; rfl)

theorem inkChunkDone_keeps {s t : State} (h : Keeps s t) (x0 : FormeId) (x1 : Fetched Blob) : Keeps s (inkChunkDone t x0 x1) := by
  unfold inkChunkDone
  try dsimp only
  repeat' first
    | with_reducible assumption
    | with_reducible apply State.retireUse_keeps
    | with_reducible apply State.noteFault_keeps
    | with_reducible apply State.modInker_keeps
    | with_reducible apply readChunk_keeps
    | with_reducible apply takeChunk_keeps
    | with_reducible apply inkFails_keeps
    | (rename_i e; with_reducible refine Keeps.ofFst ?_ e)
    | split
    | (with_reducible apply Keeps.update)
    | (show _ = _; rfl)

theorem dropOld_keeps {s t : State} (h : Keeps s t) (x0 : FormeId) (x1 : InkReq) : Keeps s (dropOld t x0 x1) := by
  unfold dropOld
  try dsimp only
  repeat' first
    | with_reducible assumption
    | with_reducible apply State.modBinding_keeps
    | with_reducible apply leaveShared_keeps
    | with_reducible apply inkLead_keeps
    | split
    | (with_reducible apply Keeps.update)
    | (show _ = _; rfl)

theorem deadChunk_keeps {s t : State} (h : Keeps s t) (x0 : Nat) (x1 : Nat) : Keeps s (deadChunk t x0 x1) := by
  unfold deadChunk
  try dsimp only
  repeat' first
    | with_reducible assumption
    | with_reducible apply State.modCopy_keeps
    | with_reducible apply State.failSlug_keeps
    | (with_reducible apply Keeps.foldlFst)
    | (with_reducible apply Keeps.foldl)
    | (intro _ _ _; try dsimp only)
    | (with_reducible apply Keeps.update)
    | (show _ = _; rfl)

theorem rewriteSheets_keeps {s t : State} (h : Keeps s t) (x0 : FormeId) (x1 : ImageCopy) (x2 : Nat) (x3 : List Byte) : Keeps s (rewriteSheets t x0 x1 x2 x3).1 := by
  unfold rewriteSheets
  try dsimp only
  repeat' first
    | with_reducible assumption
    | with_reducible apply writeTile_keeps
    | (with_reducible apply Keeps.foldlFst)
    | (with_reducible apply Keeps.foldl)
    | (intro _ _ _; try dsimp only)
    | split
    | (with_reducible apply Keeps.update)
    | (show _ = _; rfl)

theorem refetchDone_keeps {s t : State} (h : Keeps s t) (x0 : FormeId) (x1 : BindingId) (x2 : Nat) (x3 : Fetched Blob) : Keeps s (refetchDone t x0 x1 x2 x3) := by
  unfold refetchDone
  try dsimp only
  repeat' first
    | with_reducible assumption
    | with_reducible apply State.modCopy_keeps
    | with_reducible apply State.retireUse_keeps
    | with_reducible apply State.noteFault_keeps
    | with_reducible apply State.noteCode_keeps
    | with_reducible apply deadChunk_keeps
    | with_reducible apply rewriteSheets_keeps
    | (rename_i e; with_reducible refine Keeps.ofFst ?_ e)
    | split

end Sys2Proof.Machine
end

