-- ==== Sys2Proof/Laws/KeepsResets.lean ====
section
/-! SUPPORT. What the operations of Machine/Resets.lean keep (Safety.lean, `Keeps`): one lemma each. -/
namespace Sys2Proof.Machine

theorem finishPass_keeps {s t : State} (h : Keeps s t) (x0 : FormeId) (x1 : SlugTag) : Keeps s (finishPass t x0 x1) := by
  unfold finishPass
  try dsimp only
  repeat' first
    | with_reducible assumption
    | with_reducible apply landAll_keeps
    | with_reducible apply slugPassed_keeps
    | with_reducible apply writeFlag_keeps
    | with_reducible apply endCopy_keeps
    | (with_reducible apply Keeps.foldl)
    | (intro _ _ _; try dsimp only)
    | split
    | (with_reducible apply Keeps.update)
    | (show _ = _; rfl)

theorem flushResults_keeps {s t : State} (h : Keeps s t) (x0 : FormeId) (x1 : RingId) : Keeps s (flushResults x0 t x1) := by
  unfold flushResults
  try dsimp only
  repeat' first
    | with_reducible assumption
    | with_reducible apply State.formeDwr_keeps
    | (with_reducible apply Keeps.foldlFst)
    | (with_reducible apply Keeps.foldl)
    | (intro _ _ _; try dsimp only)

theorem flushRecords_keeps {s t : State} (h : Keeps s t) (x0 : FormeId) (x1 : RingId) : Keeps s (flushRecords x0 t x1) := by
  unfold flushRecords
  try dsimp only
  repeat' first
    | with_reducible assumption
    | with_reducible apply State.formeDwr_keeps
    | (with_reducible apply Keeps.foldlFst)
    | (with_reducible apply Keeps.foldl)
    | (intro _ _ _; try dsimp only)

theorem stopForme_keeps {s t : State} (h : Keeps s t) (x0 : FormeId) (x1 : Code) : Keeps s (stopForme t x0 x1) := by
  unfold stopForme
  try dsimp only
  repeat' first
    | with_reducible assumption
    | with_reducible apply State.modForme_keeps
    | with_reducible apply closeJobs_keeps
    | with_reducible apply finishPass_keeps
    | with_reducible apply flushResults_keeps
    | with_reducible apply flushRecords_keeps
    | (with_reducible apply Keeps.foldl)
    | (intro _ _ _; try dsimp only)

theorem purgeForme_keeps {s t : State} (h : Keeps s t) (x0 : FormeId) : Keeps s (purgeForme t x0) := by
  unfold purgeForme
  try dsimp only
  repeat' first
    | with_reducible assumption
    | (with_reducible apply Keeps.update)
    | (show _ = _; rfl)

theorem dropDomain_keeps {s t : State} (h : Keeps s t) (x0 : FormeId) : Keeps s (dropDomain t x0) := by
  unfold dropDomain
  try dsimp only
  repeat' first
    | with_reducible assumption
    | split
    | (with_reducible apply Keeps.update)
    | (show _ = _; rfl)

theorem clearCores_keeps {s t : State} (h : Keeps s t) (x0 : FormeId) (x1 : List CoreId) : Keeps s (clearCores t x0 x1) := by
  unfold clearCores
  try dsimp only
  repeat' first
    | with_reducible assumption
    | with_reducible apply State.modCore_keeps
    | with_reducible apply State.rampDown_keeps
    | with_reducible apply State.clearGalley_keeps
    | (with_reducible apply Keeps.foldl)
    | (intro _ _ _; try dsimp only)
    | (with_reducible apply Keeps.update)
    | (show _ = _; rfl)

theorem endCopies_keeps {s t : State} (h : Keeps s t) (x0 : FormeId) : Keeps s (endCopies t x0) := by
  unfold endCopies
  try dsimp only
  repeat' first
    | with_reducible assumption
    | with_reducible apply State.freshValue_keeps
    | with_reducible apply endCopy_keeps
    | (rename_i e; with_reducible refine Keeps.ofSnd ?_ e)
    | (with_reducible apply Keeps.foldlFst)
    | (with_reducible apply Keeps.foldl)
    | (intro _ _ _; try dsimp only)
    | split

theorem clearForme_keeps {s t : State} (h : Keeps s t) (x0 : FormeId) (x1 : Forme) : Keeps s (clearForme t x0 x1) := by
  unfold clearForme
  try dsimp only
  repeat' first
    | with_reducible assumption
    | with_reducible apply State.setForme_keeps
    | with_reducible apply trimShared_keeps
    | with_reducible apply leaveShared_keeps
    | with_reducible apply purgeForme_keeps
    | with_reducible apply dropDomain_keeps
    | with_reducible apply clearCores_keeps
    | with_reducible apply endCopies_keeps
    | (with_reducible apply Keeps.update)
    | (show _ = _; rfl)

theorem scrubForme_keeps {s t : State} (h : Keeps s t) (x0 : FormeId) : Keeps s (scrubForme t x0) := by
  unfold scrubForme
  try dsimp only
  repeat' first
    | with_reducible assumption
    | with_reducible apply State.scrubRegions_keeps
    | with_reducible apply State.scrubBytes_keeps
    | (with_reducible apply Keeps.foldl)
    | (intro _ _ _; try dsimp only)
    | split

theorem unassignForme_keeps {s t : State} (h : Keeps s t) (x0 : FormeId) : Keeps s (unassignForme t x0) := by
  unfold unassignForme
  try dsimp only
  repeat' first
    | with_reducible assumption
    | with_reducible apply State.modForme_keeps
    | with_reducible apply clearForme_keeps
    | with_reducible apply scrubForme_keeps
    | (with_reducible apply Keeps.update)
    | (show _ = _; rfl)

theorem keyDomain_keeps {s t : State} (h : Keeps s t) (x0 : Fin 16) : Keeps s (keyDomain t x0) := by
  unfold keyDomain
  try dsimp only
  repeat' first
    | with_reducible assumption
    | with_reducible apply State.draw_keeps
    | (rename_i e; with_reducible refine Keeps.ofSnd ?_ e)
    | split
    | (with_reducible apply Keeps.update)
    | (show _ = _; rfl)

theorem keyForme_keeps {s t : State} (h : Keeps s t) (x0 : FormeId) (x1 : Fin 16) : Keeps s (keyForme t x0 x1) := by
  unfold keyForme
  try dsimp only
  repeat' first
    | with_reducible assumption
    | with_reducible apply State.modForme_keeps
    | with_reducible apply State.draw_keeps
    | with_reducible apply keyDomain_keeps
    | (rename_i e; with_reducible refine Keeps.ofSnd ?_ e)
    | (with_reducible apply Keeps.update)
    | (show _ = _; rfl)

theorem writeJournal_keeps {s t : State} (h : Keeps s t) (x0 : JournalRec) : Keeps s (writeJournal t x0) := by
  unfold writeJournal
  try dsimp only
  repeat' first
    | with_reducible assumption
    | split
    | (with_reducible apply Keeps.update)
    | (show _ = _; rfl)

theorem rewriteJournal_keeps {s t : State} (h : Keeps s t) (x0 : JournalRec → JournalRec) : Keeps s (rewriteJournal t x0) := by
  unfold rewriteJournal
  try dsimp only
  repeat' first
    | with_reducible assumption
    | with_reducible apply writeJournal_keeps
    | split

theorem setWithheld_keeps {s t : State} (h : Keeps s t) (x0 : BitVec 16) : Keeps s (setWithheld t x0) := by
  unfold setWithheld
  try dsimp only
  repeat' first
    | with_reducible assumption
    | with_reducible apply rewriteJournal_keeps
    | (with_reducible apply Keeps.update)
    | (show _ = _; rfl)

theorem withholdForme_keeps {s t : State} (h : Keeps s t) (x0 : FormeId) (x1 : Code) : Keeps s (withholdForme t x0 x1) := by
  unfold withholdForme
  try dsimp only
  repeat' first
    | with_reducible assumption
    | with_reducible apply stopForme_keeps
    | with_reducible apply unassignForme_keeps
    | with_reducible apply setWithheld_keeps

theorem scrubStarts_keeps {s t : State} (h : Keeps s t) (x0 : BitVec 3) (x1 : Nat) (x2 : Nat) : Keeps s (scrubStarts t x0 x1 x2) := by
  unfold scrubStarts
  try dsimp only
  repeat' first
    | with_reducible assumption
    | (with_reducible apply Keeps.update)
    | (show _ = _; rfl)

theorem scrubEnds_keeps {s t : State} (h : Keeps s t)  : Keeps s (scrubEnds t) := by
  unfold scrubEnds
  try dsimp only
  repeat' first
    | with_reducible assumption
    | with_reducible apply scrubStarts_keeps
    | split
    | (with_reducible apply Keeps.update)
    | (show _ = _; rfl)

theorem functionReset_keeps {s t : State} (h : Keeps s t) (x0 : FormeId) : Keeps s (functionReset t x0) := by
  unfold functionReset
  try dsimp only
  repeat' first
    | with_reducible assumption
    | with_reducible apply State.modForme_keeps
    | with_reducible apply State.scrubBytes_keeps
    | with_reducible apply stopForme_keeps
    | with_reducible apply clearForme_keeps
    | with_reducible apply scrubStarts_keeps
    | split
    | (with_reducible apply Keeps.update)
    | (show _ = _; rfl)

theorem abandonForme_keeps {s t : State} (h : Keeps s t) (x0 : FormeId) : Keeps s (abandonForme t x0) := by
  unfold abandonForme
  try dsimp only
  repeat' first
    | with_reducible assumption
    | with_reducible apply stopForme_keeps
    | with_reducible apply unassignForme_keeps
    | (with_reducible apply Keeps.update)
    | (show _ = _; rfl)

theorem resetScrubDone_keeps {s t : State} (h : Keeps s t) (x0 : FormeId) (x1 : Bool) : Keeps s (resetScrubDone t x0 x1) := by
  unfold resetScrubDone
  try dsimp only
  repeat' first
    | with_reducible assumption
    | with_reducible apply State.modForme_keeps
    | with_reducible apply entropyFails_keeps
    | with_reducible apply scrubForme_keeps
    | with_reducible apply keyForme_keeps
    | with_reducible apply scrubEnds_keeps
    | split
    | (with_reducible apply Keeps.update)
    | (show _ = _; rfl)

end Sys2Proof.Machine
end

