-- ==== Sys2Proof/Laws/KeepsImposition.lean ====
section
/-! SUPPORT. What the operations of Machine/Imposition.lean keep (Safety.lean, `Keeps`): one lemma each. -/
namespace Sys2Proof.Machine

theorem impEnd_keeps {s t : State} (h : Keeps s t) (x0 : ImpRefusal) : Keeps s (impEnd t x0) := by
  unfold impEnd
  try dsimp only
  repeat' first
    | with_reducible assumption
    | with_reducible apply State.respond_keeps
    | split
    | (with_reducible apply Keeps.update)
    | (show _ = _; rfl)

theorem impRefuse_keeps {s t : State} (h : Keeps s t) (x0 : PortId) (x1 : BitVec 16) (x2 : Code) : Keeps s (impRefuse t x0 x1 x2) := by
  unfold impRefuse
  try dsimp only
  repeat' first
    | with_reducible assumption
    | with_reducible apply State.respond_keeps
    | (with_reducible apply Keeps.update)
    | (show _ = _; rfl)

theorem journalPhase_keeps {s t : State} (h : Keeps s t) (x0 : BitVec 3) (x1 : Reimp) : Keeps s (journalPhase t x0 x1) := by
  unfold journalPhase
  try dsimp only
  repeat' first
    | with_reducible assumption
    | with_reducible apply writeJournal_keeps
    | split
    | (with_reducible apply Keeps.update)
    | (show _ = _; rfl)

theorem reimpose_keeps {s t : State} (h : Keeps s t) (x0 : SignedImage) (x1 : Imposition) : Keeps s (reimpose t x0 x1) := by
  unfold reimpose
  try dsimp only
  repeat' first
    | with_reducible assumption
    | with_reducible apply State.mapFormes_keeps
    | with_reducible apply journalPhase_keeps
    | split
    | (with_reducible apply Keeps.update)
    | (show _ = _; rfl)

theorem judgeImage_keeps {s t : State} (h : Keeps s t) (x0 : SignedImage) : Keeps s (judgeImage t x0).2 := by
  unfold judgeImage
  try dsimp only
  repeat' first
    | with_reducible assumption
    | split
    | (with_reducible apply Keeps.update)
    | (show _ = _; rfl)

theorem impositionFetched_keeps {s t : State} (h : Keeps s t) (x0 : Fetched SignedImage) : Keeps s (impositionFetched t x0) := by
  unfold impositionFetched
  try dsimp only
  repeat' first
    | with_reducible assumption
    | with_reducible apply State.retire_keeps
    | with_reducible apply impEnd_keeps
    | with_reducible apply reimpose_keeps
    | with_reducible apply judgeImage_keeps
    | (rename_i e; with_reducible refine Keeps.ofSnd ?_ e)
    | split

theorem abandonReimp_keeps {s t : State} (h : Keeps s t) (x0 : Reimp) (x1 : ImpRefusal) : Keeps s (abandonReimp t x0 x1) := by
  unfold abandonReimp
  try dsimp only
  repeat' first
    | with_reducible assumption
    | with_reducible apply stopForme_keeps
    | with_reducible apply unassignForme_keeps
    | with_reducible apply rewriteJournal_keeps
    | with_reducible apply setWithheld_keeps
    | with_reducible apply impEnd_keeps
    | (with_reducible apply Keeps.foldl)
    | (intro _ _ _; try dsimp only)
    | split
    | (with_reducible apply Keeps.update)
    | (show _ = _; rfl)

theorem scrubNamed_keeps {s t : State} (h : Keeps s t) (x0 : FormeId) : Keeps s (scrubNamed t x0) := by
  unfold scrubNamed
  try dsimp only
  repeat' first
    | with_reducible assumption
    | with_reducible apply State.modForme_keeps
    | with_reducible apply closeJobs_keeps
    | with_reducible apply clearForme_keeps
    | split
    | (with_reducible apply Keeps.update)
    | (show _ = _; rfl)

theorem partitionForme_keeps {s t : State} (h : Keeps s t) (x0 : Imposition) (x1 : FormeId) : Keeps s (partitionForme x0 t x1) := by
  unfold partitionForme
  try dsimp only
  repeat' first
    | with_reducible assumption
    | with_reducible apply State.modForme_keeps
    | (with_reducible apply Keeps.update)
    | (show _ = _; rfl)

theorem sourceChange_keeps {s t : State} (h : Keeps s t) (x0 : Option Imposition) (x1 : Imposition) : Keeps s (sourceChange t x0 x1) := by
  unfold sourceChange
  try dsimp only
  repeat' first
    | with_reducible assumption
    | with_reducible apply sourceLost_keeps
    | split

theorem applyHeads_keeps {s t : State} (h : Keeps s t) (x0 : Reimp) : Keeps s (applyHeads t x0) := by
  unfold applyHeads
  try dsimp only
  repeat' first
    | with_reducible assumption
    | with_reducible apply sourceChange_keeps
    | split
    | (with_reducible apply Keeps.update)
    | (show _ = _; rfl)

theorem keyNamed_keeps {s t : State} (h : Keeps s t) (x0 : Reimp) (x1 : FormeId) : Keeps s (keyNamed x0 t x1) := by
  unfold keyNamed
  try dsimp only
  repeat' first
    | with_reducible assumption
    | with_reducible apply State.modForme_keeps
    | with_reducible apply keyForme_keeps
    | split
    | (with_reducible apply Keeps.update)
    | (show _ = _; rfl)

theorem reimpKey_keeps {s t : State} (h : Keeps s t) (x0 : Reimp) (x1 : Bool) : Keeps s (reimpKey t x0 x1) := by
  unfold reimpKey
  try dsimp only
  repeat' first
    | with_reducible assumption
    | with_reducible apply entropyFails_keeps
    | with_reducible apply scrubForme_keeps
    | with_reducible apply scrubEnds_keeps
    | with_reducible apply journalPhase_keeps
    | with_reducible apply abandonReimp_keeps
    | with_reducible apply partitionForme_keeps
    | with_reducible apply applyHeads_keeps
    | with_reducible apply keyNamed_keeps
    | (with_reducible apply Keeps.foldl)
    | (intro _ _ _; try dsimp only)
    | split
    | (with_reducible apply Keeps.update)
    | (show _ = _; rfl)

theorem dropNamed_keeps {s t : State} (h : Keeps s t) (x0 : Reimp) (x1 : FormeId) : Keeps s (dropNamed x0 t x1) := by
  unfold dropNamed
  try dsimp only
  repeat' first
    | with_reducible assumption
    | with_reducible apply State.modForme_keeps
    | with_reducible apply unassignForme_keeps
    | split
    | (with_reducible apply Keeps.update)
    | (show _ = _; rfl)

theorem withholdBoot_keeps {s t : State} (h : Keeps s t)  : Keeps s (withholdBoot t) := by
  unfold withholdBoot
  try dsimp only
  repeat' first
    | with_reducible assumption
    | with_reducible apply unassignForme_keeps
    | (with_reducible apply Keeps.foldl)
    | (intro _ _ _; try dsimp only)
    | split
    | (with_reducible apply Keeps.update)
    | (show _ = _; rfl)

theorem reimpCommit_keeps {s t : State} (h : Keeps s t) (x0 : Reimp) : Keeps s (reimpCommit t x0) := by
  unfold reimpCommit
  try dsimp only
  repeat' first
    | with_reducible assumption
    | with_reducible apply State.mapFormes_keeps
    | with_reducible apply writeJournal_keeps
    | with_reducible apply withholdForme_keeps
    | with_reducible apply impEnd_keeps
    | with_reducible apply dropNamed_keeps
    | with_reducible apply withholdBoot_keeps
    | (with_reducible apply Keeps.foldlFst)
    | (with_reducible apply Keeps.foldl)
    | (intro _ _ _; try dsimp only)
    | split
    | (with_reducible apply Keeps.update)
    | (show _ = _; rfl)

theorem fresetForme_keeps {s t : State} (h : Keeps s t) (x0 : FormeId) : Keeps s (fresetForme t x0) := by
  unfold fresetForme
  try dsimp only
  repeat' first
    | with_reducible assumption
    | with_reducible apply functionReset_keeps
    | with_reducible apply abandonForme_keeps
    | with_reducible apply reimpCommit_keeps
    | split

end Sys2Proof.Machine
end

