-- ==== Sys2Proof/Laws/KeepsMapout.lean ====
section
/-! SUPPORT. What the operations of Machine/Mapout.lean keep (Safety.lean, `Keeps`): one lemma each. -/
namespace Sys2Proof.Machine

theorem withdraw_keeps {s t : State} (h : Keeps s t)  : Keeps s (withdraw t) := by
  unfold withdraw
  try dsimp only
  repeat' first
    | with_reducible assumption
    | with_reducible apply State.bumpGen_keeps
    | with_reducible apply withholdForme_keeps
    | with_reducible apply abandonReimp_keeps
    | (with_reducible apply Keeps.foldl)
    | (intro _ _ _; try dsimp only)
    | split

theorem endRetired_keeps {s t : State} (h : Keeps s t)  : Keeps s (endRetired t) := by
  unfold endRetired
  try dsimp only
  repeat' first
    | with_reducible assumption
    | with_reducible apply State.retireUse_keeps
    | with_reducible apply rewriteJournal_keeps
    | with_reducible apply impEnd_keeps
    | split
    | (with_reducible apply Keeps.update)
    | (show _ = _; rfl)

theorem stopRetired_keeps {s t : State} (h : Keeps s t)  : Keeps s (stopRetired t) := by
  unfold stopRetired
  try dsimp only
  repeat' first
    | with_reducible assumption
    | with_reducible apply stopForme_keeps
    | with_reducible apply unassignForme_keeps
    | (with_reducible apply Keeps.foldl)
    | (intro _ _ _; try dsimp only)
    | split

theorem retireModule_keeps {s t : State} (h : Keeps s t)  : Keeps s (retireModule t) := by
  unfold retireModule
  try dsimp only
  repeat' first
    | with_reducible assumption
    | with_reducible apply setWithheld_keeps
    | with_reducible apply endRetired_keeps
    | with_reducible apply stopRetired_keeps
    | (with_reducible apply Keeps.update)
    | (show _ = _; rfl)

theorem badImages_keeps {s t : State} (h : Keeps s t)  : Keeps s (badImages t) := by
  unfold badImages
  try dsimp only
  repeat' first
    | with_reducible assumption
    | with_reducible apply declareBad_keeps
    | (with_reducible apply Keeps.foldl)
    | (intro _ _ _; try dsimp only)

theorem poisonChannel_keeps {s t : State} (h : Keeps s t) (x0 : ChannelId) (x1 : Nat) : Keeps s (poisonChannel t x0 x1) := by
  unfold poisonChannel
  try dsimp only
  repeat' first
    | with_reducible assumption
    | with_reducible apply badImages_keeps
    | (with_reducible apply Keeps.update)
    | (show _ = _; rfl)

theorem startMigration_keeps {s t : State} (h : Keeps s t) (x0 : ChannelId) (x1 : Bool) : Keeps s (startMigration t x0 x1) := by
  unfold startMigration
  try dsimp only
  repeat' first
    | with_reducible assumption
    | split
    | (with_reducible apply Keeps.update)
    | (show _ = _; rfl)

theorem mapOut_keeps {s t : State} (h : Keeps s t) (x0 : ChannelId) (x1 : Bool) : Keeps s (mapOut t x0 x1) := by
  unfold mapOut
  try dsimp only
  repeat' first
    | with_reducible assumption
    | with_reducible apply withdraw_keeps
    | with_reducible apply retireModule_keeps
    | with_reducible apply poisonChannel_keeps
    | with_reducible apply startMigration_keeps
    | split
    | (with_reducible apply Keeps.update)
    | (show _ = _; rfl)

theorem drainFails_keeps {s t : State} (h : Keeps s t) (x0 : ChannelId) : Keeps s (drainFails t x0) := by
  unfold drainFails
  try dsimp only
  repeat' first
    | with_reducible assumption
    | with_reducible apply State.freshValue_keeps
    | with_reducible apply poisonChannel_keeps
    | (rename_i e; with_reducible refine Keeps.ofSnd ?_ e)
    | split
    | (with_reducible apply Keeps.update)
    | (show _ = _; rfl)

end Sys2Proof.Machine
end

