-- ==== Sys2Proof/Laws/KeepsPlaten.lean ====
section
/-! SUPPORT. What the operations of Machine/Platen.lean keep (Safety.lean, `Keeps`): one lemma each. -/
namespace Sys2Proof.Machine

theorem keepAcross_keeps {s t : State} (h : Keeps s t) : Keeps s (keepAcross t State.reset) :=
  ⟨h.pending, h.fuses, h.draws, h.out, fun _ => ⟨rfl, rfl⟩⟩

theorem pwrgdFalls_keeps {s t : State} (h : Keeps s t)  : Keeps s (pwrgdFalls t) := by
  unfold pwrgdFalls
  try dsimp only
  repeat' first
    | with_reducible assumption
    | with_reducible apply State.setPwrgd_keeps

theorem removePower_keeps {s t : State} (h : Keeps s t) (x0 : PowerState) : Keeps s (removePower t x0) := by
  unfold removePower
  try dsimp only
  repeat' first
    | with_reducible assumption
    | with_reducible apply keepAcross_keeps
    | with_reducible apply pwrgdFalls_keeps
    | (with_reducible apply Keeps.update)
    | (show _ = _; rfl)

theorem startReset_keeps {s t : State} (h : Keeps s t) (x0 : BitVec 3) : Keeps s (startReset t x0) := by
  unfold startReset
  try dsimp only
  repeat' first
    | with_reducible assumption
    | with_reducible apply removePower_keeps
    | split
    | (with_reducible apply Keeps.update)
    | (show _ = _; rfl)

theorem measureInput_keeps {s t : State} (h : Keeps s t) (x0 : BitVec 16) : Keeps s (measureInput t x0) := by
  unfold measureInput
  try dsimp only
  repeat' first
    | with_reducible assumption
    | (with_reducible apply Keeps.update)
    | (show _ = _; rfl)

theorem haltBoot_keeps {s t : State} (h : Keeps s t) (x0 : Code) : Keeps s (haltBoot t x0) := by
  unfold haltBoot
  try dsimp only
  repeat' first
    | with_reducible assumption
    | (with_reducible apply Keeps.update)
    | (show _ = _; rfl)

theorem coldSteps_keeps {s t : State} (h : Keeps s t) (x0 : Bool) (x1 : BitVec 16) : Keeps s (coldSteps t x0 x1) := by
  unfold coldSteps
  try dsimp only
  repeat' first
    | with_reducible assumption
    | with_reducible apply keepAcross_keeps
    | with_reducible apply startReset_keeps
    | with_reducible apply measureInput_keeps
    | with_reducible apply haltBoot_keeps
    | split
    | (with_reducible apply Keeps.update)
    | (show _ = _; rfl)

theorem trainAndTest_keeps {s t : State} (h : Keeps s t) (x0 : BootEnv) : Keeps s (trainAndTest t x0) := by
  unfold trainAndTest
  try dsimp only
  repeat' first
    | with_reducible assumption
    | with_reducible apply mapOut_keeps
    | (with_reducible apply Keeps.update)
    | (show _ = _; rfl)

theorem raiseRails_keeps {s t : State} (h : Keeps s t) (x0 : BootEnv) : Keeps s (raiseRails t x0) := by
  unfold raiseRails
  try dsimp only
  repeat' first
    | with_reducible assumption
    | with_reducible apply State.setPwrgd_keeps
    | with_reducible apply trainAndTest_keeps
    | split
    | (with_reducible apply Keeps.update)
    | (show _ = _; rfl)

theorem moduleSteps_keeps {s t : State} (h : Keeps s t) (x0 : BootEnv) : Keeps s (moduleSteps t x0) := by
  unfold moduleSteps
  try dsimp only
  repeat' first
    | with_reducible assumption
    | with_reducible apply haltBoot_keeps
    | with_reducible apply raiseRails_keeps
    | split
    | (with_reducible apply Keeps.update)
    | (show _ = _; rfl)

theorem bootReady_keeps {s t : State} (h : Keeps s t)  : Keeps s (bootReady t) := by
  unfold bootReady
  try dsimp only
  repeat' first
    | with_reducible assumption
    | with_reducible apply State.rejectUndefined_keeps
    | (with_reducible apply Keeps.foldl)
    | (intro _ _ _; try dsimp only)
    | (with_reducible apply Keeps.update)
    | (show _ = _; rfl)

theorem bootWithheld_keeps {s t : State} (h : Keeps s t) (x0 : Option Imposition) (x1 : ImpRefusal) (x2 : Code) : Keeps s (bootWithheld t x0 x1 x2) := by
  unfold bootWithheld
  try dsimp only
  repeat' first
    | with_reducible assumption
    | with_reducible apply bootReady_keeps
    | (with_reducible apply Keeps.update)
    | (show _ = _; rfl)

theorem bootForme_keeps {s t : State} (h : Keeps s t) (x0 : Imposition) (x1 : List (Nat × Nat)) (x2 : BitVec 16) (x3 : Bool) (x4 : FormeId) : Keeps s (bootForme x0 x1 x2 x3 t x4) := by
  unfold bootForme
  try dsimp only
  repeat' first
    | with_reducible assumption
    | with_reducible apply State.modForme_keeps
    | with_reducible apply keyForme_keeps
    | split
    | (with_reducible apply Keeps.update)
    | (show _ = _; rfl)

theorem closeJournal_keeps {s t : State} (h : Keeps s t) (x0 : JournalRec) : Keeps s (closeJournal t x0) := by
  unfold closeJournal
  try dsimp only
  repeat' first
    | with_reducible assumption
    | with_reducible apply rewriteJournal_keeps
    | split
    | (with_reducible apply Keeps.update)
    | (show _ = _; rfl)

theorem bootEmpty_keeps {s t : State} (h : Keeps s t)  : Keeps s (bootEmpty t) := by
  unfold bootEmpty
  try dsimp only
  repeat' first
    | with_reducible assumption
    | with_reducible apply bootReady_keeps
    | with_reducible apply bootWithheld_keeps
    | split

theorem bootCommitted_keeps {s t : State} (h : Keeps s t) (x0 : JournalRec) : Keeps s (bootCommitted t x0) := by
  unfold bootCommitted
  try dsimp only
  repeat' first
    | with_reducible assumption
    | with_reducible apply State.freshValue_keeps
    | with_reducible apply bootReady_keeps
    | with_reducible apply bootWithheld_keeps
    | with_reducible apply bootForme_keeps
    | with_reducible apply closeJournal_keeps
    | (rename_i e; with_reducible refine Keeps.ofSnd ?_ e)
    | (with_reducible apply Keeps.foldlFst)
    | (with_reducible apply Keeps.foldl)
    | (intro _ _ _; try dsimp only)
    | split
    | (with_reducible apply Keeps.update)
    | (show _ = _; rfl)

theorem keyModule_keeps {s t : State} (h : Keeps s t)  : Keeps s (keyModule t) := by
  unfold keyModule
  try dsimp only
  repeat' first
    | with_reducible assumption
    | with_reducible apply State.draw_keeps
    | (rename_i e; with_reducible refine Keeps.ofSnd ?_ e)
    | (with_reducible apply Keeps.update)
    | (show _ = _; rfl)

theorem bringupScrubbed_keeps {s t : State} (h : Keeps s t) (x0 : Bool) : Keeps s (bringupScrubbed t x0) :=
  ⟨h.pending, h.fuses, h.draws, h.out, fun p => ⟨rfl, (h.memory p).2⟩⟩

theorem bringup_keeps {s t : State} (h : Keeps s t) (x0 : Bool) : Keeps s (bringup t x0) := by
  unfold bringup
  try dsimp only
  repeat' first
    | with_reducible assumption
    | with_reducible apply closeJournal_keeps
    | with_reducible apply bootEmpty_keeps
    | with_reducible apply bootCommitted_keeps
    | with_reducible apply keyModule_keeps
    | with_reducible apply bringupScrubbed_keeps
    | split

end Sys2Proof.Machine
end

