-- ==== Sys2Proof/Laws/KeepsLinks.lean ====
section
/-! SUPPORT. What the operations of Machine/Links.lean keep (Safety.lean, `Keeps`): one lemma each. -/
namespace Sys2Proof.Machine

theorem startTraining_keeps {s t : State} (h : Keeps s t) (x0 : LinkId) : Keeps s (startTraining t x0) := by
  unfold startTraining
  try dsimp only
  repeat' first
    | with_reducible assumption
    | with_reducible apply State.modLink_keeps
    | split
    | (with_reducible apply Keeps.update)
    | (show _ = _; rfl)

theorem resend_keeps {s t : State} (h : Keeps s t) (x0 : LinkId) : Keeps s (resend t x0) := by
  unfold resend
  try dsimp only
  repeat' first
    | with_reducible assumption
    | with_reducible apply State.emit_keeps
    | (with_reducible apply Keeps.foldlFst)
    | (with_reducible apply Keeps.foldl)
    | (intro _ _ _; try dsimp only)

theorem countLanes_keeps {s t u : State} (h : Keeps s t) (l : LinkId) : Keeps s (countLanes u t l) := by
  unfold countLanes
  split
  · exact h
  · exact State.bumpGen_keeps h

theorem writeSelf_keeps {s t : State} (h : Keeps s t) (x0 : Word) : Keeps s (writeSelf t x0) := by
  unfold writeSelf
  try dsimp only
  repeat' first
    | with_reducible assumption
    | with_reducible apply startTraining_keeps
    | (with_reducible apply Keeps.foldl)
    | (intro _ _ _; try dsimp only)
    | split
    | (with_reducible apply Keeps.update)
    | (show _ = _; rfl)

end Sys2Proof.Machine
end

