-- ==== Sys2Proof/Laws/KeepsPress.lean ====
section
/-! SUPPORT. What the operations of Machine/Press.lean keep (Safety.lean, `Keeps`): one lemma each. -/
namespace Sys2Proof.Machine

theorem onArray_keeps {s t : State} (h : Keeps s t) {α : Type} (x0 : FormeId) (x1 : SlugTag) (x2 : CoreId) (x3 : PressArray → PressArray × α) : Keeps s (onArray t x0 x1 x2 x3).1 := by
  unfold onArray
  try dsimp only
  repeat' first
    | with_reducible assumption
    | with_reducible apply State.modCore_keeps
    | with_reducible apply State.rampUp_keeps
    | with_reducible apply enterCore_keeps
    | (with_reducible apply Keeps.update)
    | (show _ = _; rfl)

theorem ProdRun.all_keeps {s t : State} (h : Keeps s t) (x0 : ProdRun) (x1 : FormeId) (x2 : SlugTag) (x3 : List Part) : Keeps s (ProdRun.all x0 t x1 x2 x3).1 := by
  unfold ProdRun.all
  try dsimp only
  repeat' first
    | with_reducible assumption
    | with_reducible apply State.charge_keeps
    | with_reducible apply onArray_keeps
    | (rename_i e; with_reducible refine Keeps.ofFst ?_ e)
    | (with_reducible apply Keeps.foldlFst)
    | (with_reducible apply Keeps.foldl)
    | (intro _ _ _; try dsimp only)
    | split

theorem ElemRun.all_keeps {s t : State} (h : Keeps s t) (x0 : ElemRun) (x1 : FormeId) (x2 : SlugTag) (x3 : List CoreId) : Keeps s (ElemRun.all x0 t x1 x2 x3).1 := by
  unfold ElemRun.all
  try dsimp only
  repeat' first
    | with_reducible assumption
    | with_reducible apply State.charge_keeps
    | with_reducible apply onArray_keeps
    | (rename_i e; with_reducible refine Keeps.ofFst ?_ e)
    | (with_reducible apply Keeps.foldlFst)
    | (with_reducible apply Keeps.foldl)
    | (intro _ _ _; try dsimp only)
    | split

end Sys2Proof.Machine
end

