-- ==== Sys2Proof/Laws/KeepsAttention.lean ====
section
/-! SUPPORT. What the operations of Machine/Attention.lean keep (Safety.lean, `Keeps`): one lemma each. -/
namespace Sys2Proof.Machine

theorem realRows_keeps {s t : State} (h : Keeps s t) (x0 : FormeId) (x1 : Slug) (x2 : Version) (x3 : BitVec 32) : GotKeeps s (realRows t x0 x1 x2 x3) := by
  unfold realRows
  try dsimp only
  repeat' first
    | with_reducible assumption
    | assumption
    | with_reducible apply recordDesc_keeps
    | with_reducible apply GotKeeps.ok
    | with_reducible apply GotKeeps.asked
    | with_reducible apply GotKeeps.fails
    | with_reducible apply GotKeeps.poisoned
    | (with_reducible refine GotKeeps.bind ?_ (fun _ => ?_); try dsimp only)
    | (rename_i e; with_reducible refine GotKeeps.get ?_ e)
    | split

theorem storeAs_keeps {s t : State} (h : Keeps s t) (x0 : FormeId) (x1 : Slug) (x2 : Version) (x3 : BitVec 32) (x4 : Option Nat) (x5 : List (List (BitVec 32))) : GotKeeps s (storeAs t x0 x1 x2 x3 x4 x5) := by
  unfold storeAs
  try dsimp only
  repeat' first
    | with_reducible assumption
    | assumption
    | with_reducible apply recordDesc_keeps
    | with_reducible apply GotKeeps.ok
    | with_reducible apply GotKeeps.asked
    | with_reducible apply GotKeeps.fails
    | with_reducible apply GotKeeps.poisoned
    | (with_reducible refine GotKeeps.bind ?_ (fun _ => ?_); try dsimp only)
    | (rename_i e; with_reducible refine GotKeeps.get ?_ e)
    | (with_reducible apply Keeps.foldlFst)
    | (with_reducible apply Keeps.foldl)
    | (intro _ _ _; try dsimp only)
    | split

theorem storeRows_keeps {s t : State} (h : Keeps s t) (x0 : FormeId) (x1 : Slug) (x2 : Version) (x3 : BitVec 32) (x4 : List (List (BitVec 32))) : GotKeeps s (storeRows t x0 x1 x2 x3 x4) := by
  unfold storeRows
  try dsimp only
  repeat' first
    | with_reducible assumption
    | assumption
    | with_reducible apply storeAs_keeps
    | with_reducible apply GotKeeps.ok
    | with_reducible apply GotKeeps.asked
    | with_reducible apply GotKeeps.fails
    | with_reducible apply GotKeeps.poisoned
    | (with_reducible refine GotKeeps.bind ?_ (fun _ => ?_); try dsimp only)
    | (rename_i e; with_reducible refine GotKeeps.get ?_ e)

theorem attnGather_keeps {s t : State} (h : Keeps s t) (x0 : FormeId) (x1 : Slug) (x2 : Version) (x3 : BitVec 56) : GotKeeps s (attnGather t x0 x1 x2 x3) := by
  unfold attnGather
  try dsimp only
  repeat' first
    | with_reducible assumption
    | assumption
    | with_reducible apply gatherWords_keeps
    | with_reducible apply ownGather_keeps
    | with_reducible apply ProdRun.all_keeps
    | with_reducible apply ElemRun.all_keeps
    | with_reducible apply GotKeeps.ok
    | with_reducible apply GotKeeps.asked
    | with_reducible apply GotKeeps.fails
    | with_reducible apply GotKeeps.poisoned
    | (with_reducible refine GotKeeps.bind ?_ (fun _ => ?_); try dsimp only)
    | (rename_i e; with_reducible refine GotKeeps.get ?_ e)
    | (rename_i e; with_reducible refine Keeps.ofFst ?_ e)
    | split

end Sys2Proof.Machine
end

