-- ==== Sys2Proof/Laws/KeepsFinishing.lean ====
section
/-! SUPPORT. What the operations of Machine/Finishing.lean keep (Safety.lean, `Keeps`): one lemma each. -/
namespace Sys2Proof.Machine

theorem readMask_keeps {s t : State} (h : Keeps s t) (x0 : FormeId) (x1 : Slug) (x2 : UpdateDesc) : GotKeeps s (readMask t x0 x1 x2) := by
  unfold readMask
  try dsimp only
  repeat' first
    | with_reducible assumption
    | assumption
    | with_reducible apply gather_keeps
    | with_reducible apply GotKeeps.ok
    | with_reducible apply GotKeeps.asked
    | with_reducible apply GotKeeps.fails
    | with_reducible apply GotKeeps.poisoned
    | (with_reducible refine GotKeeps.bind ?_ (fun _ => ?_); try dsimp only)
    | (rename_i e; with_reducible refine GotKeeps.get ?_ e)
    | split

theorem readPrev_keeps {s t : State} (h : Keeps s t) (x0 : FormeId) (x1 : Slug) (x2 : Launch) (x3 : BitVec 56) : GotKeeps s (readPrev t x0 x1 x2 x3) := by
  unfold readPrev
  try dsimp only
  repeat' first
    | with_reducible assumption
    | assumption
    | with_reducible apply gather_keeps
    | with_reducible apply GotKeeps.ok
    | with_reducible apply GotKeeps.asked
    | with_reducible apply GotKeeps.fails
    | with_reducible apply GotKeeps.poisoned
    | (with_reducible refine GotKeeps.bind ?_ (fun _ => ?_); try dsimp only)
    | (rename_i e; with_reducible refine GotKeeps.get ?_ e)
    | split

theorem updateInput_keeps {s t : State} (h : Keeps s t) (x0 : FormeId) (x1 : Slug) (x2 : Launch) (x3 : BitVec 56) (x4 : BitVec 56) : GotKeeps s (updateInput t x0 x1 x2 x3 x4) := by
  unfold updateInput
  try dsimp only
  repeat' first
    | with_reducible assumption
    | assumption
    | with_reducible apply gather_keeps
    | with_reducible apply ownGather_keeps
    | with_reducible apply readMask_keeps
    | with_reducible apply readPrev_keeps
    | with_reducible apply GotKeeps.ok
    | with_reducible apply GotKeeps.asked
    | with_reducible apply GotKeeps.fails
    | with_reducible apply GotKeeps.poisoned
    | (with_reducible refine GotKeeps.bind ?_ (fun _ => ?_); try dsimp only)
    | (rename_i e; with_reducible refine GotKeeps.get ?_ e)
    | split

theorem rungOf_keeps {s t : State} (h : Keeps s t) (x0 : FormeId) (x1 : Slug) (x2 : Option FinWork) : GotKeeps s (rungOf t x0 x1 x2) := by
  unfold rungOf
  try dsimp only
  repeat' first
    | with_reducible assumption
    | assumption
    | with_reducible apply gatherWords_keeps
    | with_reducible apply GotKeeps.ok
    | with_reducible apply GotKeeps.asked
    | with_reducible apply GotKeeps.fails
    | with_reducible apply GotKeeps.poisoned
    | (with_reducible refine GotKeeps.bind ?_ (fun _ => ?_); try dsimp only)
    | (rename_i e; with_reducible refine GotKeeps.get ?_ e)
    | split

theorem rungProofs_keeps {s t : State} (h : Keeps s t) (x0 : FormeId) (x1 : Slug) (x2 : Option (BitVec 56 × Word)) (x3 : List (List (BitVec 32))) : GotKeeps s (rungProofs t x0 x1 x2 x3) := by
  unfold rungProofs
  try dsimp only
  repeat' first
    | with_reducible assumption
    | assumption
    | with_reducible apply writeProof_keeps
    | with_reducible apply GotKeeps.ok
    | with_reducible apply GotKeeps.asked
    | with_reducible apply GotKeeps.fails
    | with_reducible apply GotKeeps.poisoned
    | (with_reducible refine GotKeeps.bind ?_ (fun _ => ?_); try dsimp only)
    | (rename_i e; with_reducible refine GotKeeps.get ?_ e)
    | split

theorem learnable_keeps {s t : State} (h : Keeps s t) (x0 : FormeId) (x1 : Slug) (x2 : Version) (x3 : Nat) : GotKeeps s (learnable t x0 x1 x2 x3) := by
  unfold learnable
  try dsimp only
  repeat' first
    | with_reducible assumption
    | assumption
    | with_reducible apply descRecord_keeps
    | with_reducible apply descVals_keeps
    | with_reducible apply GotKeeps.ok
    | with_reducible apply GotKeeps.asked
    | with_reducible apply GotKeeps.fails
    | with_reducible apply GotKeeps.poisoned
    | (with_reducible refine GotKeeps.bind ?_ (fun _ => ?_); try dsimp only)
    | (rename_i e; with_reducible refine GotKeeps.get ?_ e)
    | split

theorem relearn_keeps {s t : State} (h : Keeps s t) (x0 : FormeId) (x1 : Slug) (x2 : Version) (x3 : Nat) (x4 : BitVec 56) (x5 : BitVec 56) : GotKeeps s (relearn t x0 x1 x2 x3 x4 x5) := by
  unfold relearn
  try dsimp only
  repeat' first
    | with_reducible assumption
    | assumption
    | with_reducible apply gather_keeps
    | with_reducible apply learnable_keeps
    | with_reducible apply GotKeeps.ok
    | with_reducible apply GotKeeps.asked
    | with_reducible apply GotKeeps.fails
    | with_reducible apply GotKeeps.poisoned
    | (with_reducible refine GotKeeps.bind ?_ (fun _ => ?_); try dsimp only)
    | (rename_i e; with_reducible refine GotKeeps.get ?_ e)
    | split
    | (with_reducible apply Keeps.update)
    | (show _ = _; rfl)

theorem relearnAll_keeps {s t : State} (h : Keeps s t) (f : FormeId) (sl : Slug) (v : Version) (a : BitVec 56) (l : List (Nat × BitVec 56)) :
    GotKeeps s (relearnAll t f sl v a l) := by
  induction l generalizing a with
  | nil => exact .ok
  | cons e l ih =>
    obtain ⟨i, b⟩ := e
    exact (relearn_keeps h _ _ _ _ _ _).bind (fun r => (ih _).bind (fun _ => .ok))

theorem secondDesc_keeps {s t : State} (h : Keeps s t) (x0 : FormeId) (x1 : Slug) (x2 : List Relearned) (x3 : Nat) (x4 : Nat) : GotKeeps s (secondDesc t x0 x1 x2 x3 x4) := by
  unfold secondDesc
  try dsimp only
  repeat' first
    | with_reducible assumption
    | assumption
    | with_reducible apply descAt_keeps
    | with_reducible apply GotKeeps.ok
    | with_reducible apply GotKeeps.asked
    | with_reducible apply GotKeeps.fails
    | with_reducible apply GotKeeps.poisoned
    | (with_reducible refine GotKeeps.bind ?_ (fun _ => ?_); try dsimp only)
    | (rename_i e; with_reducible refine GotKeeps.get ?_ e)
    | split

theorem rebuildCorr_keeps {s t : State} (h : Keeps s t) (f : FormeId) (sl : Slug) (rs : List Relearned) (a : BitVec 56)
    (l : List (Version × OpRec)) (done : List (BitVec 56)) : GotKeeps s (rebuildCorr t f sl rs a l done) := by
  induction l generalizing a done with
  | nil => exact .ok
  | cons e l ih =>
    obtain ⟨v, o⟩ := e
    unfold rebuildCorr
    dsimp only
    split
    · exact ih _ _
    · split
      · exact ih _ _
      · exact (secondDesc_keeps h _ _ _ _ _).bind (fun _ => (secondDesc_keeps h _ _ _ _ _).bind (fun _ => (ih _ _).bind (fun _ => .ok)))

theorem setRecords_keeps {s t : State} (h : Keeps s t) (f : FormeId) (sl : Slug) (n : Nat) : GotKeeps s (setRecords t f sl n) := by
  induction n with
  | zero => exact .ok
  | succ n ih => exact ih.bind (fun _ => (descRecord_keeps h _ _ _).bind (fun _ => .ok))

theorem standing_keeps {s t : State} (h : Keeps s t) (f : FormeId) (sl : Slug) (v : Version) (i : Nat) (l : List QDesc) :
    GotKeeps s (standing t f sl v i l) := by
  induction l generalizing i with
  | nil => exact .ok
  | cons q l ih => exact (descVals_keeps h _ _ _ _).bind (fun _ => (ih _).bind (fun _ => .ok))

theorem secondSet_keeps {s t : State} (h : Keeps s t) (x0 : FormeId) (x1 : Slug) (x2 : Version) (x3 : CalibSet) : GotKeeps s (secondSet t x0 x1 x2 x3) := by
  unfold secondSet
  try dsimp only
  repeat' first
    | with_reducible assumption
    | assumption
    | with_reducible apply ProdRun.all_keeps
    | with_reducible apply ElemRun.all_keeps
    | with_reducible apply relearnAll_keeps
    | with_reducible apply rebuildCorr_keeps
    | with_reducible apply setRecords_keeps
    | with_reducible apply standing_keeps
    | with_reducible apply GotKeeps.ok
    | with_reducible apply GotKeeps.asked
    | with_reducible apply GotKeeps.fails
    | with_reducible apply GotKeeps.poisoned
    | (with_reducible refine GotKeeps.bind ?_ (fun _ => ?_); try dsimp only)
    | (rename_i e; with_reducible refine Keeps.ofFst ?_ e)
    | split

theorem commitProofs_keeps {s t : State} (h : Keeps s t) (x0 : FormeId) (x1 : Slug) (x2 : Version) (x3 : CalibSet) (x4 : BitVec 56) (x5 : BitVec 56) : GotKeeps s (commitProofs t x0 x1 x2 x3 x4 x5) := by
  unfold commitProofs
  try dsimp only
  repeat' first
    | with_reducible assumption
    | assumption
    | with_reducible apply gather_keeps
    | with_reducible apply secondSet_keeps
    | with_reducible apply GotKeeps.ok
    | with_reducible apply GotKeeps.asked
    | with_reducible apply GotKeeps.fails
    | with_reducible apply GotKeeps.poisoned
    | (with_reducible refine GotKeeps.bind ?_ (fun _ => ?_); try dsimp only)
    | (rename_i e; with_reducible refine GotKeeps.get ?_ e)
    | split

end Sys2Proof.Machine
end

