-- ==== Sys2Proof/Laws/KeepsOpSteps.lean ====
section
/-! SUPPORT. What the operations of Machine/OpSteps.lean keep (Safety.lean, `Keeps`): one lemma each. -/
namespace Sys2Proof.Machine

theorem State.chargeGalley_keeps {s t : State} (h : Keeps s t) (x0 : FormeId) (x1 : Nat) : Keeps s (State.chargeGalley t x0 x1) := by
  unfold State.chargeGalley
  try dsimp only
  repeat' first
    | with_reducible assumption
    | with_reducible apply State.charge_keeps

theorem productCorr_keeps {s t : State} (h : Keeps s t) (x0 : FormeId) (x1 : Slug) (x2 : OpRec) (x3 : Nat) : GotKeeps s (productCorr t x0 x1 x2 x3) := by
  unfold productCorr
  try dsimp only
  repeat' first
    | with_reducible assumption
    | assumption
    | with_reducible apply gatherWords_keeps
    | with_reducible apply GotKeeps.ok
    | with_reducible apply GotKeeps.asked
    | with_reducible apply GotKeeps.fails
    | with_reducible apply GotKeeps.poisoned
    | (with_reducible refine GotKeeps.bind ?_ (fun _ => ?_); try dsimp only)
    | (rename_i e; with_reducible refine GotKeeps.get ?_ e)
    | split

theorem prodInput_keeps {s t : State} (h : Keeps s t) (x0 : FormeId) (x1 : Slug) (x2 : Version) (x3 : OpRec) (x4 : Option FinWork) : GotKeeps s (prodInput t x0 x1 x2 x3 x4) := by
  unfold prodInput
  try dsimp only
  repeat' first
    | with_reducible assumption
    | assumption
    | with_reducible apply prodDescs_keeps
    | with_reducible apply rungOf_keeps
    | with_reducible apply productCorr_keeps
    | with_reducible apply GotKeeps.ok
    | with_reducible apply GotKeeps.asked
    | with_reducible apply GotKeeps.fails
    | with_reducible apply GotKeeps.poisoned
    | (with_reducible refine GotKeeps.bind ?_ (fun _ => ?_); try dsimp only)
    | (rename_i e; with_reducible refine GotKeeps.get ?_ e)
    | split

theorem productRun_keeps {s t : State} (h : Keeps s t) (x0 : FormeId) (x1 : Slug) (x2 : Version) (x3 : OpRec) (x4 : ProdInput) : Keeps s (productRun t x0 x1 x2 x3 x4) := by
  unfold productRun
  try dsimp only
  repeat' first
    | with_reducible assumption
    | with_reducible apply opDone_keeps
    | with_reducible apply detect_keeps
    | with_reducible apply Got.finish_keeps
    | with_reducible apply ProdRun.all_keeps
    | with_reducible apply ElemRun.all_keeps
    | with_reducible apply rungProofs_keeps
    | with_reducible apply State.chargeGalley_keeps
    | with_reducible apply GotKeeps.ok
    | with_reducible apply GotKeeps.asked
    | with_reducible apply GotKeeps.fails
    | with_reducible apply GotKeeps.poisoned
    | (with_reducible refine GotKeeps.bind ?_ (fun _ => ?_); try dsimp only)
    | (intro _ _ _; try dsimp only)
    | (intro _; try dsimp only)
    | (rename_i e; with_reducible refine GotKeeps.get ?_ e)
    | (rename_i e; with_reducible refine Keeps.ofFst ?_ e)
    | split
    | (with_reducible apply Keeps.update)
    | (show _ = _; rfl)

theorem elementRun_keeps {s t : State} (h : Keeps s t) (x0 : FormeId) (x1 : Slug) (x2 : Version) (x3 : OpRec) (x4 : ProdInput) : Keeps s (elementRun t x0 x1 x2 x3 x4) := by
  unfold elementRun
  try dsimp only
  repeat' first
    | with_reducible assumption
    | with_reducible apply opDone_keeps
    | with_reducible apply detect_keeps
    | with_reducible apply ProdRun.all_keeps
    | with_reducible apply ElemRun.all_keeps
    | with_reducible apply State.chargeGalley_keeps
    | (rename_i e; with_reducible refine Keeps.ofFst ?_ e)
    | split

theorem productDone_keeps {s t : State} (h : Keeps s t) (x0 : FormeId) (x1 : Slug) (x2 : Version) (x3 : OpRec) (x4 : Option FinWork) : Keeps s (productDone t x0 x1 x2 x3 x4) := by
  unfold productDone
  try dsimp only
  repeat' first
    | with_reducible assumption
    | with_reducible apply Got.finish_keeps
    | with_reducible apply prodInput_keeps
    | with_reducible apply productRun_keeps
    | with_reducible apply elementRun_keeps
    | with_reducible apply GotKeeps.ok
    | with_reducible apply GotKeeps.asked
    | with_reducible apply GotKeeps.fails
    | with_reducible apply GotKeeps.poisoned
    | (with_reducible refine GotKeeps.bind ?_ (fun _ => ?_); try dsimp only)
    | (intro _ _ _; try dsimp only)
    | (intro _; try dsimp only)
    | (rename_i e; with_reducible refine GotKeeps.get ?_ e)
    | split

theorem attentionRun_keeps {s t : State} (h : Keeps s t) (x0 : FormeId) (x1 : Slug) (x2 : Version) (x3 : OpRec) (x4 : Context) (x5 : AttnStep) (x6 : RealRows) : Keeps s (attentionRun t x0 x1 x2 x3 x4 x5 x6) := by
  unfold attentionRun
  try dsimp only
  repeat' first
    | with_reducible assumption
    | with_reducible apply State.failSlug_keeps
    | with_reducible apply opDone_keeps
    | with_reducible apply Got.finish_keeps
    | with_reducible apply storeRows_keeps
    | with_reducible apply State.chargeGalley_keeps
    | with_reducible apply GotKeeps.ok
    | with_reducible apply GotKeeps.asked
    | with_reducible apply GotKeeps.fails
    | with_reducible apply GotKeeps.poisoned
    | (with_reducible refine GotKeeps.bind ?_ (fun _ => ?_); try dsimp only)
    | (intro _ _ _; try dsimp only)
    | (intro _; try dsimp only)
    | (rename_i e; with_reducible refine GotKeeps.get ?_ e)
    | split
    | (with_reducible apply Keeps.update)
    | (show _ = _; rfl)

theorem attentionDone_keeps {s t : State} (h : Keeps s t) (x0 : FormeId) (x1 : Slug) (x2 : Version) (x3 : OpRec) : Keeps s (attentionDone t x0 x1 x2 x3) := by
  unfold attentionDone
  try dsimp only
  repeat' first
    | with_reducible assumption
    | with_reducible apply Got.finish_keeps
    | with_reducible apply realRows_keeps
    | with_reducible apply attnGather_keeps
    | with_reducible apply attentionRun_keeps
    | with_reducible apply GotKeeps.ok
    | with_reducible apply GotKeeps.asked
    | with_reducible apply GotKeeps.fails
    | with_reducible apply GotKeeps.poisoned
    | (with_reducible refine GotKeeps.bind ?_ (fun _ => ?_); try dsimp only)
    | (intro _ _ _; try dsimp only)
    | (intro _; try dsimp only)
    | (rename_i e; with_reducible refine GotKeeps.get ?_ e)
    | split

theorem backRows_keeps {s t : State} (h : Keeps s t) (x0 : FormeId) (x1 : Slug) (x2 : Version) (x3 : AttnBack) : GotKeeps s (backRows t x0 x1 x2 x3) := by
  unfold backRows
  try dsimp only
  repeat' first
    | with_reducible assumption
    | assumption
    | with_reducible apply realRows_keeps
    | with_reducible apply GotKeeps.ok
    | with_reducible apply GotKeeps.asked
    | with_reducible apply GotKeeps.fails
    | with_reducible apply GotKeeps.poisoned
    | (with_reducible refine GotKeeps.bind ?_ (fun _ => ?_); try dsimp only)
    | (rename_i e; with_reducible refine GotKeeps.get ?_ e)
    | split

theorem attnBackDone_keeps {s t : State} (h : Keeps s t) (x0 : FormeId) (x1 : Slug) (x2 : Version) (x3 : AttnBack) : Keeps s (attnBackDone t x0 x1 x2 x3) := by
  unfold attnBackDone
  try dsimp only
  repeat' first
    | with_reducible assumption
    | with_reducible apply opDone_keeps
    | with_reducible apply Got.finish_keeps
    | with_reducible apply storeRows_keeps
    | with_reducible apply attnGather_keeps
    | with_reducible apply State.chargeGalley_keeps
    | with_reducible apply backRows_keeps
    | with_reducible apply GotKeeps.ok
    | with_reducible apply GotKeeps.asked
    | with_reducible apply GotKeeps.fails
    | with_reducible apply GotKeeps.poisoned
    | (with_reducible refine GotKeeps.bind ?_ (fun _ => ?_); try dsimp only)
    | (intro _ _ _; try dsimp only)
    | (intro _; try dsimp only)
    | (rename_i e; with_reducible refine GotKeeps.get ?_ e)
    | split

theorem rowsOf_keeps {s t : State} (h : Keeps s t) (x0 : FormeId) (x1 : Slug) (x2 : Version) (x3 : Option (BitVec 32)) : GotKeeps s (rowsOf t x0 x1 x2 x3) := by
  unfold rowsOf
  try dsimp only
  repeat' first
    | with_reducible assumption
    | assumption
    | with_reducible apply realRows_keeps
    | with_reducible apply GotKeeps.ok
    | with_reducible apply GotKeeps.asked
    | with_reducible apply GotKeeps.fails
    | with_reducible apply GotKeeps.poisoned
    | (with_reducible refine GotKeeps.bind ?_ (fun _ => ?_); try dsimp only)
    | (rename_i e; with_reducible refine GotKeeps.get ?_ e)
    | split

theorem normInput_keeps {s t : State} (h : Keeps s t) (x0 : FormeId) (x1 : Slug) (x2 : Version) (x3 : OpRec) (x4 : Option FinWork) : GotKeeps s (normInput t x0 x1 x2 x3 x4) := by
  unfold normInput
  try dsimp only
  repeat' first
    | with_reducible assumption
    | assumption
    | with_reducible apply gather_keeps
    | with_reducible apply gatherWords_keeps
    | with_reducible apply realRows_keeps
    | with_reducible apply rungOf_keeps
    | with_reducible apply rowsOf_keeps
    | with_reducible apply GotKeeps.ok
    | with_reducible apply GotKeeps.asked
    | with_reducible apply GotKeeps.fails
    | with_reducible apply GotKeeps.poisoned
    | (with_reducible refine GotKeeps.bind ?_ (fun _ => ?_); try dsimp only)
    | (rename_i e; with_reducible refine GotKeeps.get ?_ e)
    | split

theorem normDone_keeps {s t : State} (h : Keeps s t) (x0 : FormeId) (x1 : Slug) (x2 : Version) (x3 : OpRec) (x4 : Option FinWork) : Keeps s (normDone t x0 x1 x2 x3 x4) := by
  unfold normDone
  try dsimp only
  repeat' first
    | with_reducible assumption
    | with_reducible apply opDone_keeps
    | with_reducible apply Got.finish_keeps
    | with_reducible apply storeAs_keeps
    | with_reducible apply storeRows_keeps
    | with_reducible apply rungProofs_keeps
    | with_reducible apply State.chargeGalley_keeps
    | with_reducible apply normInput_keeps
    | with_reducible apply GotKeeps.ok
    | with_reducible apply GotKeeps.asked
    | with_reducible apply GotKeeps.fails
    | with_reducible apply GotKeeps.poisoned
    | (with_reducible refine GotKeeps.bind ?_ (fun _ => ?_); try dsimp only)
    | (intro _ _ _; try dsimp only)
    | (intro _; try dsimp only)
    | (rename_i e; with_reducible refine GotKeeps.get ?_ e)
    | split
    | (with_reducible apply Keeps.update)
    | (show _ = _; rfl)

theorem gatherF32_keeps {s t : State} (h : Keeps s t) (x0 : FormeId) (x1 : Slug) (x2 : BitVec 56) : GotKeeps s (gatherF32 t x0 x1 x2) := by
  unfold gatherF32
  try dsimp only
  repeat' first
    | with_reducible assumption
    | assumption
    | with_reducible apply gather_keeps
    | with_reducible apply GotKeeps.ok
    | with_reducible apply GotKeeps.asked
    | with_reducible apply GotKeeps.fails
    | with_reducible apply GotKeeps.poisoned
    | (with_reducible refine GotKeeps.bind ?_ (fun _ => ?_); try dsimp only)
    | (rename_i e; with_reducible refine GotKeeps.get ?_ e)

theorem lossDone_keeps {s t : State} (h : Keeps s t) (x0 : FormeId) (x1 : Slug) (x2 : Version) (x3 : OpRec) (x4 : Nat) (x5 : BitVec 56) : GotKeeps s (lossDone t x0 x1 x2 x3 x4 x5) := by
  unfold lossDone
  try dsimp only
  repeat' first
    | with_reducible assumption
    | assumption
    | with_reducible apply writeProof_keeps
    | with_reducible apply realRows_keeps
    | with_reducible apply storeAs_keeps
    | with_reducible apply gatherF32_keeps
    | with_reducible apply GotKeeps.ok
    | with_reducible apply GotKeeps.asked
    | with_reducible apply GotKeeps.fails
    | with_reducible apply GotKeeps.poisoned
    | (with_reducible refine GotKeeps.bind ?_ (fun _ => ?_); try dsimp only)
    | (rename_i e; with_reducible refine GotKeeps.get ?_ e)

theorem scaleGradsDone_keeps {s t : State} (h : Keeps s t) (x0 : FormeId) (x1 : Slug) (x2 : Version) (x3 : OpRec) (x4 : Nat) (x5 : BitVec 32) (x6 : BitVec 56) (x7 : CalibParams) : GotKeeps s (scaleGradsDone t x0 x1 x2 x3 x4 x5 x6 x7) := by
  unfold scaleGradsDone
  try dsimp only
  repeat' first
    | with_reducible assumption
    | assumption
    | with_reducible apply gather_keeps
    | with_reducible apply writeProof_keeps
    | with_reducible apply realRows_keeps
    | with_reducible apply storeAs_keeps
    | with_reducible apply learnable_keeps
    | with_reducible apply GotKeeps.ok
    | with_reducible apply GotKeeps.asked
    | with_reducible apply GotKeeps.fails
    | with_reducible apply GotKeeps.poisoned
    | (with_reducible refine GotKeeps.bind ?_ (fun _ => ?_); try dsimp only)
    | (rename_i e; with_reducible refine GotKeeps.get ?_ e)
    | split
    | (with_reducible apply Keeps.update)
    | (show _ = _; rfl)

theorem learnDone_keeps {s t : State} (h : Keeps s t) (x0 : FormeId) (x1 : Slug) (x2 : Version) (x3 : Nat) (x4 : BitVec 56) (x5 : CalibParams) : GotKeeps s (learnDone t x0 x1 x2 x3 x4 x5) := by
  unfold learnDone
  try dsimp only
  repeat' first
    | with_reducible assumption
    | assumption
    | with_reducible apply gather_keeps
    | with_reducible apply writeProof_keeps
    | with_reducible apply learnable_keeps
    | with_reducible apply GotKeeps.ok
    | with_reducible apply GotKeeps.asked
    | with_reducible apply GotKeeps.fails
    | with_reducible apply GotKeeps.poisoned
    | (with_reducible refine GotKeeps.bind ?_ (fun _ => ?_); try dsimp only)
    | (rename_i e; with_reducible refine GotKeeps.get ?_ e)

theorem selfTestDone_keeps {s t : State} (h : Keeps s t) (x0 : FormeId) (x1 : Slug) (x2 : Version) (x3 : BitVec 56) (x4 : Nat) (x5 : BitVec 56) : GotKeeps s (selfTestDone t x0 x1 x2 x3 x4 x5) := by
  unfold selfTestDone
  try dsimp only
  repeat' first
    | with_reducible assumption
    | assumption
    | with_reducible apply writeProof_keeps
    | with_reducible apply gatherF32_keeps
    | with_reducible apply GotKeeps.ok
    | with_reducible apply GotKeeps.asked
    | with_reducible apply GotKeeps.fails
    | with_reducible apply GotKeeps.poisoned
    | (with_reducible refine GotKeeps.bind ?_ (fun _ => ?_); try dsimp only)
    | (rename_i e; with_reducible refine GotKeeps.get ?_ e)

theorem gradientDone_keeps {s t : State} (h : Keeps s t) (x0 : FormeId) (x1 : Slug) (x2 : Version) (x3 : OpRec) (x4 : Option FinWork) : GotKeeps s (gradientDone t x0 x1 x2 x3 x4) := by
  unfold gradientDone
  try dsimp only
  repeat' first
    | with_reducible assumption
    | assumption
    | with_reducible apply realRows_keeps
    | with_reducible apply storeAs_keeps
    | with_reducible apply rungOf_keeps
    | with_reducible apply rungProofs_keeps
    | with_reducible apply GotKeeps.ok
    | with_reducible apply GotKeeps.asked
    | with_reducible apply GotKeeps.fails
    | with_reducible apply GotKeeps.poisoned
    | (with_reducible refine GotKeeps.bind ?_ (fun _ => ?_); try dsimp only)
    | (rename_i e; with_reducible refine GotKeeps.get ?_ e)

theorem deliverDone_keeps {s t : State} (h : Keeps s t) (x0 : FormeId) (x1 : Slug) (x2 : OpRec) (x3 : Version) (x4 : BitVec 56) : GotKeeps s (deliverDone t x0 x1 x2 x3 x4) := by
  unfold deliverDone
  try dsimp only
  repeat' first
    | with_reducible assumption
    | assumption
    | with_reducible apply writeProof_keeps
    | with_reducible apply GotKeeps.ok
    | with_reducible apply GotKeeps.asked
    | with_reducible apply GotKeeps.fails
    | with_reducible apply GotKeeps.poisoned
    | (with_reducible refine GotKeeps.bind ?_ (fun _ => ?_); try dsimp only)
    | (rename_i e; with_reducible refine GotKeeps.get ?_ e)
    | split

theorem openFunction_keeps {s t : State} (h : Keeps s t) (x0 : FormeId) (x1 : Slug) (x2 : Version) (x3 : OpRec) : GotKeeps s (openFunction t x0 x1 x2 x3) := by
  unfold openFunction
  try dsimp only
  repeat' first
    | with_reducible assumption
    | assumption
    | with_reducible apply realRows_keeps
    | with_reducible apply storeRows_keeps
    | with_reducible apply GotKeeps.ok
    | with_reducible apply GotKeeps.asked
    | with_reducible apply GotKeeps.fails
    | with_reducible apply GotKeeps.poisoned
    | (with_reducible refine GotKeeps.bind ?_ (fun _ => ?_); try dsimp only)
    | (rename_i e; with_reducible refine GotKeeps.get ?_ e)
    | split

theorem finResult_keeps {s t : State} (h : Keeps s t) (x0 : FormeId) (x1 : Slug) (x2 : Version) (x3 : OpRec) (x4 : Option FinWork) : GotKeeps s (finResult t x0 x1 x2 x3 x4) := by
  unfold finResult
  try dsimp only
  repeat' first
    | with_reducible assumption
    | assumption
    | with_reducible apply secondSet_keeps
    | with_reducible apply commitProofs_keeps
    | with_reducible apply lossDone_keeps
    | with_reducible apply scaleGradsDone_keeps
    | with_reducible apply learnDone_keeps
    | with_reducible apply selfTestDone_keeps
    | with_reducible apply gradientDone_keeps
    | with_reducible apply deliverDone_keeps
    | with_reducible apply openFunction_keeps
    | with_reducible apply GotKeeps.ok
    | with_reducible apply GotKeeps.asked
    | with_reducible apply GotKeeps.fails
    | with_reducible apply GotKeeps.poisoned
    | (with_reducible refine GotKeeps.bind ?_ (fun _ => ?_); try dsimp only)
    | (rename_i e; with_reducible refine GotKeeps.get ?_ e)
    | split

theorem finFails_keeps {s t : State} (h : Keeps s t) (x0 : FormeId) (x1 : Slug) (x2 : Code) : Keeps s (finFails t x0 x1 x2) := by
  unfold finFails
  try dsimp only
  repeat' first
    | with_reducible assumption
    | with_reducible apply State.faultSlug_keeps
    | with_reducible apply State.failSlug_keeps
    | split

theorem finishingDone_keeps {s t : State} (h : Keeps s t) (x0 : FormeId) (x1 : Slug) (x2 : Version) (x3 : OpRec) (x4 : Option FinWork) : Keeps s (finishingDone t x0 x1 x2 x3 x4) := by
  unfold finishingDone
  try dsimp only
  repeat' first
    | with_reducible assumption
    | with_reducible apply opDone_keeps
    | with_reducible apply Got.finish_keeps
    | with_reducible apply State.chargeGalley_keeps
    | with_reducible apply attnBackDone_keeps
    | with_reducible apply finResult_keeps
    | with_reducible apply finFails_keeps
    | with_reducible apply GotKeeps.ok
    | with_reducible apply GotKeeps.asked
    | with_reducible apply GotKeeps.fails
    | with_reducible apply GotKeeps.poisoned
    | (with_reducible refine GotKeeps.bind ?_ (fun _ => ?_); try dsimp only)
    | (intro _ _ _; try dsimp only)
    | (intro _; try dsimp only)
    | (rename_i e; with_reducible refine GotKeeps.get ?_ e)
    | split
    | (with_reducible apply Keeps.update)
    | (show _ = _; rfl)

theorem updateGrad_keeps {s t : State} (h : Keeps s t) (x0 : FormeId) (x1 : Slug) (x2 : Version) (x3 : OpRec) : GotKeeps s (updateGrad t x0 x1 x2 x3) := by
  unfold updateGrad
  try dsimp only
  repeat' first
    | with_reducible assumption
    | assumption
    | with_reducible apply realRows_keeps
    | with_reducible apply GotKeeps.ok
    | with_reducible apply GotKeeps.asked
    | with_reducible apply GotKeeps.fails
    | with_reducible apply GotKeeps.poisoned
    | (with_reducible refine GotKeeps.bind ?_ (fun _ => ?_); try dsimp only)
    | (rename_i e; with_reducible refine GotKeeps.get ?_ e)
    | split

theorem updateFinish_keeps {s t : State} (h : Keeps s t) (x0 : FormeId) (x1 : Slug) (x2 : BitVec 56) (x3 : BitVec 56) (x4 : Launch) (x5 : UpdateInput) (x6 : List (BitVec 32)) : Keeps s (updateFinish t x0 x1 x2 x3 x4 x5 x6) := by
  unfold updateFinish
  try dsimp only
  repeat' first
    | with_reducible assumption
    | with_reducible apply State.modForme_keeps
    | with_reducible apply State.faultSlug_keeps
    | with_reducible apply opDone_keeps
    | with_reducible apply State.chargeGalley_keeps
    | split
    | (with_reducible apply Keeps.update)
    | (show _ = _; rfl)

theorem updateDone_keeps {s t : State} (h : Keeps s t) (x0 : FormeId) (x1 : Slug) (x2 : Version) (x3 : OpRec) : Keeps s (updateDone t x0 x1 x2 x3) := by
  unfold updateDone
  try dsimp only
  repeat' first
    | with_reducible assumption
    | with_reducible apply Got.finish_keeps
    | with_reducible apply updateInput_keeps
    | with_reducible apply updateGrad_keeps
    | with_reducible apply updateFinish_keeps
    | with_reducible apply GotKeeps.ok
    | with_reducible apply GotKeeps.asked
    | with_reducible apply GotKeeps.fails
    | with_reducible apply GotKeeps.poisoned
    | (with_reducible refine GotKeeps.bind ?_ (fun _ => ?_); try dsimp only)
    | (intro _ _ _; try dsimp only)
    | (intro _; try dsimp only)
    | (rename_i e; with_reducible refine GotKeeps.get ?_ e)
    | split

theorem nameLength_keeps {s t : State} (h : Keeps s t) (x0 : FormeId) (x1 : SlugTag) (x2 : Nat) : Keeps s (nameLength t x0 x1 x2) := by
  unfold nameLength
  try dsimp only
  repeat' first
    | with_reducible assumption
    | with_reducible apply State.modForme_keeps
    | (with_reducible apply Keeps.foldl)
    | (intro _ _ _; try dsimp only)
    | split
    | (with_reducible apply Keeps.update)
    | (show _ = _; rfl)

theorem demandReads_keeps {s t : State} (h : Keeps s t) (x0 : FormeId) (x1 : Slug) (x2 : OpInput) : Keeps s (demandReads t x0 x1 x2) := by
  unfold demandReads
  try dsimp only
  repeat' first
    | with_reducible assumption
    | with_reducible apply State.stackFetch_keeps
    | (with_reducible apply Keeps.foldl)
    | (intro _ _ _; try dsimp only)
    | split

theorem opRun_keeps {s t : State} (h : Keeps s t) (x0 : FormeId) (x1 : Slug) (x2 : Version) (x3 : OpRec) (x4 : Option FinWork) : Keeps s (opRun t x0 x1 x2 x3 x4) := by
  unfold opRun
  try dsimp only
  repeat' first
    | with_reducible assumption
    | with_reducible apply opDone_keeps
    | with_reducible apply productDone_keeps
    | with_reducible apply attentionDone_keeps
    | with_reducible apply normDone_keeps
    | with_reducible apply finishingDone_keeps
    | with_reducible apply updateDone_keeps
    | split

theorem opStart_keeps {s t : State} (h : Keeps s t) (x0 : FormeId) (x1 : Slug) (x2 : Version) (x3 : OpRec) (x4 : Option FinWork) : Keeps s (opStart t x0 x1 x2 x3 x4) := by
  unfold opStart
  try dsimp only
  repeat' first
    | with_reducible assumption
    | with_reducible apply State.modForme_keeps
    | with_reducible apply detect_keeps
    | with_reducible apply Got.finish_keeps
    | with_reducible apply spillNeeds_keeps
    | with_reducible apply demandReads_keeps
    | with_reducible apply opRun_keeps
    | with_reducible apply GotKeeps.ok
    | with_reducible apply GotKeeps.asked
    | with_reducible apply GotKeeps.fails
    | with_reducible apply GotKeeps.poisoned
    | (with_reducible refine GotKeeps.bind ?_ (fun _ => ?_); try dsimp only)
    | (intro _ _ _; try dsimp only)
    | (intro _; try dsimp only)
    | (rename_i e; with_reducible refine GotKeeps.get ?_ e)
    | split
    | (with_reducible apply Keeps.update)
    | (show _ = _; rfl)

theorem opStep_keeps {s t : State} (h : Keeps s t) (x0 : FormeId) (x1 : SlugTag) (x2 : Option FinWork) : Keeps s (opStep t x0 x1 x2) := by
  unfold opStep
  try dsimp only
  repeat' first
    | with_reducible assumption
    | with_reducible apply opDone_keeps
    | with_reducible apply opStart_keeps
    | split

end Sys2Proof.Machine
end

