-- ==== Sys2Proof/Laws/KeepsCollectives.lean ====
section
/-! SUPPORT. What the operations of Machine/Collectives.lean keep (Safety.lean, `Keeps`): one lemma each. -/
namespace Sys2Proof.Machine

theorem State.modColl_keeps {s t : State} (h : Keeps s t) (x0 : FormeId) (x1 : JobSlot) (x2 : Coll → Coll) : Keeps s (State.modColl t x0 x1 x2) := by
  unfold State.modColl
  try dsimp only
  repeat' first
    | with_reducible assumption
    | with_reducible apply State.modJob_keeps
    | (with_reducible apply Keeps.update)
    | (show _ = _; rfl)

theorem sendRing_keeps {s t : State} (h : Keeps s t) (x0 : FormeId) (x1 : JobSlot) (x2 : Nat) (x3 : Nat) (x4 : Nat) (x5 : Nat) (x6 : Nat) (x7 : List (BitVec 32)) : Keeps s (sendRing t x0 x1 x2 x3 x4 x5 x6 x7) := by
  unfold sendRing
  try dsimp only
  repeat' first
    | with_reducible assumption
    | with_reducible apply enqueue_keeps
    | with_reducible apply jobPacket_keeps
    | with_reducible apply collFault_keeps
    | (rename_i e; with_reducible refine OptKeeps.get ?_ e)
    | split
    | (with_reducible apply Keeps.update)
    | (show _ = _; rfl)

theorem sendRuns_keeps {s t : State} (h : Keeps s t) (x0 : FormeId) (x1 : JobSlot) (x2 : Nat) (x3 : Nat) (x4 : List (Nat × BitVec 32)) : Keeps s (sendRuns t x0 x1 x2 x3 x4) := by
  unfold sendRuns
  try dsimp only
  repeat' first
    | with_reducible assumption
    | with_reducible apply sendRing_keeps
    | (with_reducible apply Keeps.foldlFst)
    | (with_reducible apply Keeps.foldl)
    | (intro _ _ _; try dsimp only)
    | split

theorem putOut_keeps {s t : State} (h : Keeps s t) (x0 : FormeId) (x1 : JobSlot) (x2 : List (Nat × BitVec 32)) : Keeps s (putOut t x0 x1 x2) := by
  unfold putOut
  try dsimp only
  repeat' first
    | with_reducible assumption
    | with_reducible apply State.modColl_keeps
    | (with_reducible apply Keeps.update)
    | (show _ = _; rfl)

theorem collReady_keeps {s t : State} (h : Keeps s t) (x0 : Nat) (x1 : FormeId) (x2 : JobSlot) (x3 : Nat) (x4 : List (Nat × BitVec 32)) : Keeps s (collReady x0 t x1 x2 x3 x4) := by
  induction x0 generalizing t x3 x4 with
  | zero => exact h
  | succ n ih =>
    unfold collReady
    split
    · exact h
    · split
      · exact h
      · split
        · dsimp only
          split
          · exact ih h _ _
          · exact sendRuns_keeps (State.modColl_keeps h _ _ _) _ _ _ _ _
        · split
          · dsimp only
            split
            · exact putOut_keeps h _ _ _
            · exact ih (putOut_keeps h _ _ _) _ _
          · split
            · dsimp only
              split
              · exact ih h _ _
              · exact ih (sendRuns_keeps h _ _ _ _ _) _ _
            · exact h

theorem holdPacket_keeps {s t : State} (h : Keeps s t) (x0 : FormeId) (x1 : JobSlot) (x2 : PacketBody) : Keeps s (holdPacket t x0 x1 x2) := by
  unfold holdPacket
  try dsimp only
  repeat' first
    | with_reducible assumption
    | with_reducible apply State.modColl_keeps
    | (with_reducible apply Keeps.update)
    | (show _ = _; rfl)

theorem collPacket_keeps {s t : State} (h : Keeps s t) (x0 : FormeId) (x1 : JobSlot) (x2 : PacketBody) : Keeps s (collPacket t x0 x1 x2) := by
  unfold collPacket
  try dsimp only
  repeat' first
    | with_reducible assumption
    | with_reducible apply State.modColl_keeps
    | with_reducible apply sendRing_keeps
    | with_reducible apply putOut_keeps
    | with_reducible apply collReady_keeps
    | with_reducible apply holdPacket_keeps
    | split
    | (with_reducible apply Keeps.update)
    | (show _ = _; rfl)

theorem drainHeld_keeps {s t : State} (h : Keeps s t) (x0 : Nat) (x1 : FormeId) (x2 : JobSlot) : Keeps s (drainHeld x0 t x1 x2) := by
  induction x0 generalizing t with
  | zero => exact h
  | succ n ih =>
    unfold drainHeld
    split
    · exact h
    · rename_i c e
      have h1 := (State.modColl_keeps h x1 x2 (fun c => { c with held := [] })).foldl
        (g := fun t b => collPacket t x1 x2 b) (l := c.held) (fun u b k => collPacket_keeps k _ _ _)
      dsimp only
      split
      · split
        · exact ih h1
        · exact h1
      · exact h1

theorem resumeHeld_keeps {s t : State} (h : Keeps s t) (x0 : FormeId) (x1 : JobSlot) : Keeps s (resumeHeld t x0 x1) := by
  unfold resumeHeld
  try dsimp only
  repeat' first
    | with_reducible assumption
    | with_reducible apply drainHeld_keeps
    | split

theorem rerouteHalf_keeps {s t : State} (h : Keeps s t) (x0 : FormeId) (x1 : JobSlot) (x2 : Nat) (x3 : Nat) (x4 : Bool) : Keeps s (rerouteHalf t x0 x1 x2 x3 x4) := by
  unfold rerouteHalf
  try dsimp only
  repeat' first
    | with_reducible assumption
    | with_reducible apply sendAll_keeps
    | with_reducible apply collFault_keeps
    | with_reducible apply State.modColl_keeps
    | with_reducible apply collReady_keeps
    | with_reducible apply resumeHeld_keeps
    | split
    | (with_reducible apply Keeps.update)
    | (show _ = _; rfl)

theorem rerouteColls_keeps {s t : State} (h : Keeps s t) (x0 : LinkId) : Keeps s (rerouteColls t x0) := by
  unfold rerouteColls
  try dsimp only
  repeat' first
    | with_reducible assumption
    | with_reducible apply rerouteHalf_keeps
    | (with_reducible apply Keeps.foldl)
    | (intro _ _ _; try dsimp only)
    | split

theorem turnMissing_keeps {s t : State} (h : Keeps s t) (x0 : FormeId) (x1 : JobSlot) : Keeps s (turnMissing t x0 x1) := by
  unfold turnMissing
  try dsimp only
  repeat' first
    | with_reducible assumption
    | with_reducible apply rerouteHalf_keeps
    | (with_reducible apply Keeps.foldl)
    | (intro _ _ _; try dsimp only)
    | split

theorem sendBlock_keeps {s t : State} (h : Keeps s t) (x0 : FormeId) (x1 : JobSlot) (x2 : BitVec 12) (x3 : List (Nat × BitVec 32)) : Keeps s (sendBlock t x0 x1 x2 x3) := by
  unfold sendBlock
  try dsimp only
  repeat' first
    | with_reducible assumption
    | with_reducible apply sendJob_keeps
    | with_reducible apply collFault_keeps
    | (with_reducible apply Keeps.foldlFst)
    | (with_reducible apply Keeps.foldl)
    | (intro _ _ _; try dsimp only)
    | split

theorem startMoving_keeps {s t : State} (h : Keeps s t) (x0 : FormeId) (x1 : JobSlot) : Keeps s (startMoving t x0 x1) := by
  unfold startMoving
  try dsimp only
  repeat' first
    | with_reducible assumption
    | with_reducible apply State.modColl_keeps
    | with_reducible apply putOut_keeps
    | with_reducible apply collReady_keeps
    | with_reducible apply resumeHeld_keeps
    | with_reducible apply turnMissing_keeps
    | with_reducible apply sendBlock_keeps
    | (with_reducible apply Keeps.foldl)
    | (intro _ _ _; try dsimp only)
    | split
    | (with_reducible apply Keeps.update)
    | (show _ = _; rfl)

theorem maybeMove_keeps {s t : State} (h : Keeps s t) (x0 : FormeId) (x1 : JobSlot) : Keeps s (maybeMove t x0 x1) := by
  unfold maybeMove
  try dsimp only
  repeat' first
    | with_reducible assumption
    | with_reducible apply startMoving_keeps
    | split

theorem takeJoin_keeps {s t : State} (h : Keeps s t) (x0 : FormeId) (x1 : JobSlot) (x2 : Nat) (x3 : BitVec 128) : Keeps s (takeJoin t x0 x1 x2 x3) := by
  unfold takeJoin
  try dsimp only
  repeat' first
    | with_reducible assumption
    | with_reducible apply collFault_keeps
    | with_reducible apply State.modColl_keeps
    | with_reducible apply maybeMove_keeps
    | split
    | (with_reducible apply Keeps.update)
    | (show _ = _; rfl)

theorem beginColl_keeps {s t : State} (h : Keeps s t) (x0 : FormeId) (x1 : Slug) (x2 : OpRec) (x3 : JobSlot) (x4 : Job) (x5 : Word) (x6 : Nat) : Keeps s (beginColl t x0 x1 x2 x3 x4 x5 x6) := by
  unfold beginColl
  try dsimp only
  repeat' first
    | with_reducible assumption
    | with_reducible apply State.modForme_keeps
    | with_reducible apply State.modJob_keeps
    | with_reducible apply sendAll_keeps
    | with_reducible apply collFault_keeps
    | with_reducible apply ProdRun.all_keeps
    | with_reducible apply ElemRun.all_keeps
    | with_reducible apply maybeMove_keeps
    | with_reducible apply takeJoin_keeps
    | (rename_i e; with_reducible refine Keeps.ofFst ?_ e)
    | (with_reducible apply Keeps.foldlFst)
    | (with_reducible apply Keeps.foldl)
    | (intro _ _ _; try dsimp only)
    | split
    | (with_reducible apply Keeps.update)
    | (show _ = _; rfl)

end Sys2Proof.Machine
end

