-- ==== Sys2Proof/Laws/KeepsJobs.lean ====
section
/-! SUPPORT. What the operations of Machine/Jobs.lean keep (Safety.lean, `Keeps`): one lemma each. -/
namespace Sys2Proof.Machine

theorem sendJk_keeps {s t : State} (h : Keeps s t) (x0 : Word) (x1 : BitVec 12) (x2 : BitVec 16) (x3 : List Byte) : Keeps s (sendJk t x0 x1 x2 x3) := by
  unfold sendJk
  try dsimp only
  repeat' first
    | with_reducible assumption
    | with_reducible apply State.take_keeps
    | with_reducible apply forward_keeps
    | (rename_i e; with_reducible refine OptKeeps.get ?_ e)
    | (with_reducible apply Keeps.foldl)
    | (intro _ _ _; try dsimp only)

theorem jobEnds_keeps {s t : State} (h : Keeps s t) (x0 : FormeId) (x1 : JobSlot) (x2 : Code) : Keeps s (jobEnds t x0 x1 x2) := by
  unfold jobEnds
  try dsimp only
  repeat' first
    | with_reducible assumption
    | with_reducible apply State.modForme_keeps
    | with_reducible apply State.answer_keeps
    | split

theorem jobFails_keeps {s t : State} (h : Keeps s t) (x0 : FormeId) (x1 : JobSlot) : Keeps s (jobFails t x0 x1) := by
  unfold jobFails
  try dsimp only
  repeat' first
    | with_reducible assumption
    | with_reducible apply jobEnds_keeps

theorem jobOpens_keeps {s t : State} (h : Keeps s t) (x0 : FormeId) (x1 : JobSlot) : Keeps s (jobOpens t x0 x1) := by
  unfold jobOpens
  try dsimp only
  repeat' first
    | with_reducible assumption
    | with_reducible apply State.modJob_keeps
    | with_reducible apply State.answer_keeps
    | split
    | (with_reducible apply Keeps.update)
    | (show _ = _; rfl)

theorem sendRejects_keeps {s t : State} (h : Keeps s t) (x0 : Job) : Keeps s (sendRejects t x0) := by
  unfold sendRejects
  try dsimp only
  repeat' first
    | with_reducible assumption
    | with_reducible apply State.take_keeps
    | with_reducible apply sendJk_keeps
    | (rename_i e; with_reducible refine OptKeeps.get ?_ e)
    | (with_reducible apply Keeps.foldl)
    | (intro _ _ _; try dsimp only)
    | split

theorem jobRejects_keeps {s t : State} (h : Keeps s t) (x0 : FormeId) (x1 : JobSlot) (x2 : Job) : Keeps s (jobRejects t x0 x1 x2) := by
  unfold jobRejects
  try dsimp only
  repeat' first
    | with_reducible assumption
    | with_reducible apply jobFails_keeps
    | with_reducible apply sendRejects_keeps

theorem jobDelivers_keeps {s t : State} (h : Keeps s t) (x0 : FormeId) (x1 : JobSlot) : Keeps s (jobDelivers t x0 x1) := by
  unfold jobDelivers
  try dsimp only
  repeat' first
    | with_reducible assumption
    | with_reducible apply State.draw_keeps
    | with_reducible apply entropyFails_keeps
    | with_reducible apply ProdRun.all_keeps
    | with_reducible apply ElemRun.all_keeps
    | with_reducible apply sendJk_keeps
    | with_reducible apply jobEnds_keeps
    | with_reducible apply jobOpens_keeps
    | with_reducible apply sendRejects_keeps
    | (rename_i e; with_reducible refine Keeps.ofFst ?_ e)
    | (rename_i e; with_reducible refine Keeps.ofSnd ?_ e)
    | (with_reducible apply Keeps.foldl)
    | (intro _ _ _; try dsimp only)
    | split

theorem takeOffer_keeps {s t : State} (h : Keeps s t) (x0 : FormeId) (x1 : JobSlot) (x2 : JobKeyMsg) : Keeps s (takeOffer t x0 x1 x2) := by
  unfold takeOffer
  try dsimp only
  repeat' first
    | with_reducible assumption
    | with_reducible apply State.modJob_keeps
    | with_reducible apply jobRejects_keeps
    | with_reducible apply jobDelivers_keeps
    | split
    | (with_reducible apply Keeps.update)
    | (show _ = _; rfl)

theorem jobOffers_keeps {s t : State} (h : Keeps s t) (x0 : FormeId) (x1 : JobSlot) (x2 : Job) : Keeps s (jobOffers t x0 x1 x2) := by
  unfold jobOffers
  try dsimp only
  repeat' first
    | with_reducible assumption
    | with_reducible apply State.draw_keeps
    | with_reducible apply entropyFails_keeps
    | with_reducible apply sendJk_keeps
    | with_reducible apply jobEnds_keeps
    | (rename_i e; with_reducible refine Keeps.ofSnd ?_ e)
    | split

theorem jobBegins_keeps {s t : State} (h : Keeps s t) (x0 : FormeId) (x1 : JobSlot) (x2 : Job) : Keeps s (jobBegins t x0 x1 x2) := by
  unfold jobBegins
  try dsimp only
  repeat' first
    | with_reducible assumption
    | with_reducible apply State.modForme_keeps
    | with_reducible apply jobDelivers_keeps
    | with_reducible apply takeOffer_keeps
    | with_reducible apply jobOffers_keeps
    | (with_reducible apply Keeps.foldl)
    | (intro _ _ _; try dsimp only)
    | split
    | (with_reducible apply Keeps.update)
    | (show _ = _; rfl)

end Sys2Proof.Machine
end

