-- ==== Sys2Proof/Laws/KeepsAczia.lean ====
section
/-! SUPPORT. What the operations of Machine/Aczia.lean keep (Safety.lean, `Keeps`): one lemma each. -/
namespace Sys2Proof.Machine

theorem nackBack_keeps {s t : State} (h : Keeps s t) (x0 : Packet) : Keeps s (nackBack t x0) := by
  unfold nackBack
  try dsimp only
  repeat' first
    | with_reducible assumption
    | with_reducible apply forward_keeps
    | split
    | (with_reducible apply Keeps.update)
    | (show _ = _; rfl)

theorem serveLoad_keeps {s t : State} (h : Keeps s t) (x0 : FormeId) (x1 : JobSlot) (x2 : Packet) (x3 : BitVec 16) (x4 : BitVec 40) (x5 : Nat) : Keeps s (serveLoad t x0 x1 x2 x3 x4 x5) := by
  unfold serveLoad
  try dsimp only
  repeat' first
    | with_reducible assumption
    | with_reducible apply formeFetch_keeps
    | with_reducible apply countPoison_keeps
    | with_reducible apply sendJob_keeps
    | with_reducible apply nackBack_keeps
    | split

theorem serveStore_keeps {s t : State} (h : Keeps s t) (x0 : FormeId) (x1 : JobSlot) (x2 : Packet) (x3 : BitVec 16) (x4 : BitVec 40) (x5 : List Byte) : Keeps s (serveStore t x0 x1 x2 x3 x4 x5) := by
  unfold serveStore
  try dsimp only
  repeat' first
    | with_reducible assumption
    | with_reducible apply watchedWrite_keeps
    | with_reducible apply sendJob_keeps
    | with_reducible apply nackBack_keeps
    | split

theorem slugHas_keeps {s t : State} (h : Keeps s t) (x0 : FormeId) (x1 : SlugTag) (x2 : BitVec 56) (x3 : List Byte) : Keeps s (slugHas t x0 x1 x2 x3) := by
  unfold slugHas
  try dsimp only
  repeat' first
    | with_reducible assumption
    | with_reducible apply State.modForme_keeps
    | split
    | (with_reducible apply Keeps.update)
    | (show _ = _; rfl)

theorem remoteCached_keeps {s t : State} (h : Keeps s t) (x0 : FormeId) (x1 : BitVec 12) (x2 : Nat) (x3 : Nat) : Keeps s (remoteCached t x0 x1 x2 x3) := by
  unfold remoteCached
  try dsimp only
  repeat' first
    | with_reducible assumption
    | (with_reducible apply Keeps.foldl)
    | (intro _ _ _; try dsimp only)
    | split
    | (with_reducible apply Keeps.update)
    | (show _ = _; rfl)

theorem takeLoad_keeps {s t : State} (h : Keeps s t) (x0 : FormeId) (x1 : BitVec 12) (x2 : SlugTag) (x3 : BitVec 40) (x4 : List Byte) : Keeps s (takeLoad t x0 x1 x2 x3 x4) := by
  unfold takeLoad
  try dsimp only
  repeat' first
    | with_reducible assumption
    | with_reducible apply State.modForme_keeps
    | with_reducible apply State.take_keeps
    | with_reducible apply pollFlag_keeps
    | with_reducible apply slugHas_keeps
    | with_reducible apply remoteCached_keeps
    | (rename_i e; with_reducible refine OptKeeps.get ?_ e)
    | split
    | (with_reducible apply Keeps.update)
    | (show _ = _; rfl)

theorem storeLost_keeps {s t : State} (h : Keeps s t) (x0 : FormeId) (x1 : SlugTag) (x2 : List (BitVec 12)) : Keeps s (storeLost t x0 x1 x2) := by
  unfold storeLost
  try dsimp only
  repeat' first
    | with_reducible assumption
    | with_reducible apply State.modForme_keeps
    | with_reducible apply State.noteCode_keeps
    | (with_reducible apply Keeps.update)
    | (show _ = _; rfl)

theorem takeNack_keeps {s t : State} (h : Keeps s t) (x0 : FormeId) (x1 : JobSlot) (x2 : BitVec 4) (x3 : SlugTag) (x4 : BitVec 12) : Keeps s (takeNack t x0 x1 x2 x3 x4) := by
  unfold takeNack
  try dsimp only
  repeat' first
    | with_reducible assumption
    | with_reducible apply State.failSlug_keeps
    | with_reducible apply collFault_keeps
    | with_reducible apply storeLost_keeps
    | split

theorem takePeerJoin_keeps {s t : State} (h : Keeps s t) (f : FormeId) (k : JobSlot) (j : Job) (src : BitVec 12) (n : Nat) (w : Word)
    (d : BitVec 128) : Keeps s (takePeerJoin t f k j src n w d) := by
  have early : ∀ m, Keeps s (takePeerJoin.early t f k j n w d m) := by
    intro m
    unfold takePeerJoin.early
    dsimp only
    split <;> split
    all_goals first
      | exact State.modJob_keeps h _ _ _
      | exact h
  unfold takePeerJoin
  dsimp only
  split
  · split
    · exact takeJoin_keeps h _ _ _ _
    · exact early _
  · exact early _

theorem actPacket_keeps {s t : State} (h : Keeps s t) (x0 : FormeId) (x1 : JobSlot) (x2 : Packet) : Keeps s (actPacket t x0 x1 x2) := by
  unfold actPacket
  try dsimp only
  repeat' first
    | with_reducible assumption
    | with_reducible apply State.modForme_keeps
    | with_reducible apply countPoison_keeps
    | with_reducible apply collFault_keeps
    | with_reducible apply collPacket_keeps
    | with_reducible apply resumeHeld_keeps
    | with_reducible apply rerouteHalf_keeps
    | with_reducible apply nackBack_keeps
    | with_reducible apply serveLoad_keeps
    | with_reducible apply serveStore_keeps
    | with_reducible apply takeLoad_keeps
    | with_reducible apply takeNack_keeps
    | with_reducible apply takePeerJoin_keeps
    | split
    | (with_reducible apply Keeps.update)
    | (show _ = _; rfl)

theorem putReorder_keeps {s t : State} (h : Keeps s t) (x0 : FormeId) (x1 : JobSlot) (x2 : Reorder) : Keeps s (putReorder t x0 x1 x2) := by
  unfold putReorder
  try dsimp only
  repeat' first
    | with_reducible assumption
    | with_reducible apply State.modJob_keeps
    | (with_reducible apply Keeps.update)
    | (show _ = _; rfl)

theorem deliverNext_keeps {s t : State} (h : Keeps s t) (x0 : Nat) (x1 : FormeId) (x2 : JobSlot) (x3 : BitVec 12) : Keeps s (deliverNext x0 t x1 x2 x3) := by
  induction x0 generalizing t with
  | zero => exact h
  | succ n ih =>
    unfold deliverNext
    split
    · exact h
    · dsimp only
      split
      · exact h
      · exact ih (actPacket_keeps (putReorder_keeps h _ _ _) _ _ _)

theorem endpoint_keeps {s t : State} (h : Keeps s t) (x0 : Packet) : Keeps s (endpoint t x0) := by
  unfold endpoint
  try dsimp only
  repeat' first
    | with_reducible assumption
    | with_reducible apply State.modForme_keeps
    | with_reducible apply collFault_keeps
    | with_reducible apply nackBack_keeps
    | with_reducible apply actPacket_keeps
    | with_reducible apply putReorder_keeps
    | with_reducible apply deliverNext_keeps
    | split
    | (with_reducible apply Keeps.update)
    | (show _ = _; rfl)

theorem arrive_keeps {s t : State} (h : Keeps s t) (x0 : Option LinkId) (x1 : Packet) : Keeps s (arrive t x0 x1) := by
  unfold arrive
  try dsimp only
  repeat' first
    | with_reducible assumption
    | with_reducible apply forward_keeps
    | with_reducible apply endpoint_keeps
    | split

theorem packetCommand_keeps {s t : State} (h : Keeps s t) (x0 : List (BitVec 4)) (x1 : Packet) : KeepsRes s (packetCommand t x0 x1) := by
  unfold packetCommand
  try dsimp only
  repeat' first
    | with_reducible assumption
    | with_reducible apply endpoint_keeps
    | with_reducible apply KeepsRes.next
    | with_reducible apply KeepsRes.fault
    | with_reducible apply KeepsRes.refused
    | split

theorem ctrlCommand_keeps {s t : State} (h : Keeps s t) (x0 : Ctrl) (x1 : Packet) : KeepsRes s (ctrlCommand t x0 x1) := by
  unfold ctrlCommand
  try dsimp only
  repeat' first
    | with_reducible assumption
    | with_reducible apply packetCommand_keeps
    | with_reducible apply KeepsRes.next
    | with_reducible apply KeepsRes.fault
    | with_reducible apply KeepsRes.refused
    | split

theorem rejectFlit_keeps {s t : State} (h : Keeps s t) (x0 : LinkId) : Keeps s (rejectFlit t x0) := by
  unfold rejectFlit
  try dsimp only
  repeat' first
    | with_reducible assumption
    | with_reducible apply State.modLink_keeps
    | with_reducible apply State.emit_keeps
    | split
    | (with_reducible apply Keeps.update)
    | (show _ = _; rfl)

theorem dataFlit_keeps {s t : State} (h : Keeps s t) (x0 : LinkId) (x1 : AczFlit) : Keeps s (dataFlit t x0 x1) := by
  unfold dataFlit
  try dsimp only
  repeat' first
    | with_reducible assumption
    | with_reducible apply State.modLink_keeps
    | with_reducible apply State.emit_keeps
    | with_reducible apply arrive_keeps
    | with_reducible apply rejectFlit_keeps
    | (with_reducible apply Keeps.foldl)
    | (intro _ _ _; try dsimp only)
    | split
    | (with_reducible apply Keeps.update)
    | (show _ = _; rfl)

theorem goodFlit_keeps {s t : State} (h : Keeps s t) (x0 : LinkId) (x1 : AczFlit) : Keeps s (goodFlit t x0 x1) := by
  unfold goodFlit
  try dsimp only
  repeat' first
    | with_reducible assumption
    | with_reducible apply State.modLink_keeps
    | with_reducible apply drainQueue_keeps
    | with_reducible apply resend_keeps
    | with_reducible apply dataFlit_keeps
    | split
    | (with_reducible apply Keeps.update)
    | (show _ = _; rfl)

theorem sendElse_keeps {s t : State} (h : Keeps s t) (x0 : LinkId) (x1 : Packet) : Keeps s (sendElse t x0 x1) := by
  unfold sendElse
  try dsimp only
  repeat' first
    | with_reducible assumption
    | with_reducible apply forward_keeps
    | with_reducible apply endpoint_keeps
    | split
    | (with_reducible apply Keeps.update)
    | (show _ = _; rfl)

theorem rerouteAll_keeps {s t : State} (h : Keeps s t) (x0 : LinkId) : Keeps s (rerouteAll t x0) := by
  unfold rerouteAll
  try dsimp only
  repeat' first
    | with_reducible assumption
    | with_reducible apply State.modLink_keeps
    | with_reducible apply sendElse_keeps
    | (with_reducible apply Keeps.foldl)
    | (intro _ _ _; try dsimp only)
    | (with_reducible apply Keeps.update)
    | (show _ = _; rfl)

theorem linkGone_keeps {s t : State} (h : Keeps s t) (x0 : LinkId) (x1 : LinkState) : Keeps s (linkGone t x0 x1) := by
  unfold linkGone
  try dsimp only
  repeat' first
    | with_reducible assumption
    | with_reducible apply State.modLink_keeps
    | with_reducible apply State.bumpGen_keeps
    | with_reducible apply sourceGone_keeps
    | with_reducible apply rerouteColls_keeps
    | with_reducible apply rerouteAll_keeps
    | (with_reducible apply Keeps.update)
    | (show _ = _; rfl)

theorem trainingDone_keeps {s t : State} (h : Keeps s t) (x0 : LinkId) (x1 : BitVec 12) (x2 : BitVec 24) : Keeps s (trainingDone t x0 x1 x2) := by
  unfold trainingDone
  try dsimp only
  repeat' first
    | with_reducible assumption
    | with_reducible apply State.modLink_keeps
    | with_reducible apply drainQueue_keeps
    | with_reducible apply resend_keeps
    | with_reducible apply countLanes_keeps
    | with_reducible apply linkGone_keeps
    | split
    | (with_reducible apply Keeps.update)
    | (show _ = _; rfl)

theorem writeLinkCtrl_keeps {s t : State} (h : Keeps s t) (x0 : LinkId) (x1 : Word) : Keeps s (writeLinkCtrl t x0 x1) := by
  unfold writeLinkCtrl
  try dsimp only
  repeat' first
    | with_reducible assumption
    | with_reducible apply State.modLink_keeps
    | with_reducible apply startTraining_keeps
    | with_reducible apply linkGone_keeps
    | split
    | (with_reducible apply Keeps.update)
    | (show _ = _; rfl)

end Sys2Proof.Machine
end

