-- ==== Sys2Proof/Laws/KeepsHostRegs.lean ====
section
/-! SUPPORT. What the operations of Machine/HostRegs.lean keep (Safety.lean, `Keeps`): one lemma each. -/
namespace Sys2Proof.Machine

theorem spillInval_keeps {s t : State} (h : Keeps s t) (x0 : FormeId) (x1 : Word) : Keeps s (spillInval t x0 x1) := by
  unfold spillInval
  try dsimp only
  repeat' first
    | with_reducible assumption
    | with_reducible apply State.modForme_keeps
    | with_reducible apply State.modPort_keeps
    | split
    | (with_reducible apply Keeps.update)
    | (show _ = _; rfl)

theorem writeSpillMap_keeps {s t : State} (h : Keeps s t) (x0 : FormeId) (x1 : Word) : Keeps s (writeSpillMap t x0 x1) := by
  unfold writeSpillMap
  try dsimp only
  repeat' first
    | with_reducible assumption
    | with_reducible apply State.modForme_keeps
    | with_reducible apply spillInval_keeps
    | split
    | (with_reducible apply Keeps.update)
    | (show _ = _; rfl)

theorem mboxSend_keeps {s t : State} (h : Keeps s t) (x0 : Chan) : Keeps s (mboxSend t x0) := by
  unfold mboxSend
  try dsimp only
  repeat' first
    | with_reducible assumption
    | with_reducible apply State.modMbox_keeps
    | with_reducible apply State.rejectUndefined_keeps
    | (with_reducible apply Keeps.update)
    | (show _ = _; rfl)

theorem mboxFree_keeps {s t : State} (h : Keeps s t) (x0 : Chan) : Keeps s (mboxFree t x0) := by
  unfold mboxFree
  try dsimp only
  repeat' first
    | with_reducible assumption
    | with_reducible apply State.modMbox_keeps
    | with_reducible apply State.respond_keeps
    | with_reducible apply State.rejectUndefined_keeps
    | split
    | (with_reducible apply Keeps.update)
    | (show _ = _; rfl)

theorem writeInCtrl_keeps {s t : State} (h : Keeps s t) (x0 : HostReq) (x1 : Chan) (x2 : Word) : Keeps s (writeInCtrl t x0 x1 x2) := by
  unfold writeInCtrl
  try dsimp only
  repeat' first
    | with_reducible assumption
    | with_reducible apply State.busError_keeps
    | with_reducible apply mboxSend_keeps
    | split

theorem writeOutCtrl_keeps {s t : State} (h : Keeps s t) (x0 : Chan) (x1 : Word) : Keeps s (writeOutCtrl t x0 x1) := by
  unfold writeOutCtrl
  try dsimp only
  repeat' first
    | with_reducible assumption
    | with_reducible apply State.modMbox_keeps
    | with_reducible apply mboxFree_keeps
    | split
    | (with_reducible apply Keeps.update)
    | (show _ = _; rfl)

theorem writeMbox_keeps {s t : State} (h : Keeps s t) (x0 : HostReq) (x1 : Chan) (x2 : Nat) (x3 : Nat) (x4 : Word) : Keeps s (writeMbox t x0 x1 x2 x3 x4) := by
  unfold writeMbox
  try dsimp only
  repeat' first
    | with_reducible assumption
    | with_reducible apply State.modMbox_keeps
    | with_reducible apply State.busError_keeps
    | with_reducible apply writeInCtrl_keeps
    | with_reducible apply writeOutCtrl_keeps
    | split
    | (with_reducible apply Keeps.update)
    | (show _ = _; rfl)

theorem writeRingState_keeps {s t : State} (h : Keeps s t) (x0 : FormeId) (x1 : RingId) (x2 : Word) : Keeps s (writeRingState t x0 x1 x2) := by
  unfold writeRingState
  try dsimp only
  repeat' first
    | with_reducible assumption
    | with_reducible apply State.modRing_keeps
    | with_reducible apply ringReplay_keeps
    | split
    | (with_reducible apply Keeps.update)
    | (show _ = _; rfl)

theorem writeFeeder_keeps {s t : State} (h : Keeps s t) (x0 : FormeId) (x1 : Nat) (x2 : Word) : Keeps s (writeFeeder t x0 x1 x2) := by
  unfold writeFeeder
  try dsimp only
  repeat' first
    | with_reducible assumption
    | with_reducible apply State.modForme_keeps
    | with_reducible apply writeRingState_keeps
    | split

theorem writeEcp_keeps {s t : State} (h : Keeps s t) (x0 : FormeId) (x1 : Nat) (x2 : Word) : Keeps s (writeEcp t x0 x1 x2) := by
  unfold writeEcp
  try dsimp only
  repeat' first
    | with_reducible assumption
    | with_reducible apply State.modForme_keeps
    | with_reducible apply fresetForme_keeps
    | with_reducible apply spillInval_keeps
    | with_reducible apply writeSpillMap_keeps
    | split
    | (with_reducible apply Keeps.update)
    | (show _ = _; rfl)

theorem writeFormeReg_keeps {s t : State} (h : Keeps s t) (x0 : HostReq) (x1 : FormeId) (x2 : Nat) (x3 : Word) : Keeps s (writeFormeReg t x0 x1 x2 x3) := by
  unfold writeFormeReg
  try dsimp only
  repeat' first
    | with_reducible assumption
    | with_reducible apply State.modForme_keeps
    | with_reducible apply writeMbox_keeps
    | with_reducible apply writeFeeder_keeps
    | with_reducible apply writeEcp_keeps
    | split
    | (with_reducible apply Keeps.update)
    | (show _ = _; rfl)

theorem portTrains_keeps {s t : State} (h : Keeps s t) (x0 : PortId) : Keeps s (portTrains t x0) := by
  unfold portTrains
  try dsimp only
  repeat' first
    | with_reducible assumption
    | with_reducible apply State.modPort_keeps
    | (with_reducible apply Keeps.update)
    | (show _ = _; rfl)

theorem writePort_keeps {s t : State} (h : Keeps s t) (x0 : PortId) (x1 : Nat) (x2 : Word) : Keeps s (writePort t x0 x1 x2) := by
  unfold writePort
  try dsimp only
  repeat' first
    | with_reducible assumption
    | with_reducible apply State.modPort_keeps
    | with_reducible apply portTrains_keeps
    | split
    | (with_reducible apply Keeps.update)
    | (show _ = _; rfl)

theorem writeLinks_keeps {s t : State} (h : Keeps s t) (x0 : Nat) (x1 : Word) : Keeps s (writeLinks t x0 x1) := by
  unfold writeLinks
  try dsimp only
  repeat' first
    | with_reducible assumption
    | with_reducible apply writeSelf_keeps
    | with_reducible apply writeLinkCtrl_keeps
    | split

theorem writeMgmtReg_keeps {s t : State} (h : Keeps s t) (x0 : HostReq) (x1 : Nat) (x2 : Word) : Keeps s (writeMgmtReg t x0 x1 x2) := by
  unfold writeMgmtReg
  try dsimp only
  repeat' first
    | with_reducible assumption
    | with_reducible apply writeMbox_keeps
    | with_reducible apply writePort_keeps
    | with_reducible apply writeLinks_keeps
    | split

theorem performWrite_keeps {s t : State} (h : Keeps s t) (x0 : HostReq) (x1 : Access) (x2 : State) (k3 : Keeps s x2) : Keeps s (performWrite t x0 x1 x2) := by
  unfold performWrite
  try dsimp only
  repeat' first
    | with_reducible assumption
    | with_reducible apply State.busError_keeps
    | with_reducible apply k3
    | split

theorem sendData_keeps {s t : State} (h : Keeps s t) (x0 : HostReq) (x1 : List Byte) : Keeps s (sendData t x0 x1) := by
  unfold sendData
  try dsimp only
  repeat' first
    | with_reducible assumption
    | with_reducible apply State.ecpOut_keeps

theorem memoryRead_keeps {s t : State} (h : Keeps s t) (x0 : HostReq) (x1 : FormeId) (x2 : Fin 6) (x3 : Nat) (x4 : Nat) : Keeps s (memoryRead t x0 x1 x2 x3 x4) := by
  unfold memoryRead
  try dsimp only
  repeat' first
    | with_reducible assumption
    | with_reducible apply formeFetch_keeps
    | with_reducible apply State.busError_keeps
    | with_reducible apply countPoison_keeps
    | with_reducible apply sendData_keeps
    | split
    | (with_reducible apply Keeps.update)
    | (show _ = _; rfl)

theorem memoryWrite_keeps {s t : State} (h : Keeps s t) (x0 : HostReq) (x1 : FormeId) (x2 : Fin 6) (x3 : Nat) (x4 : List Byte) : Keeps s (memoryWrite t x0 x1 x2 x3 x4) := by
  unfold memoryWrite
  try dsimp only
  repeat' first
    | with_reducible assumption
    | with_reducible apply State.galleyWrite_keeps
    | with_reducible apply State.busError_keeps
    | with_reducible apply watchedWrite_keeps
    | split

end Sys2Proof.Machine
end

