-- ==== Sys2Proof/Laws/KeepsAttest.lean ====
section
/-! SUPPORT. What the operations of Machine/Attest.lean keep (Safety.lean, `Keeps`): one lemma each. -/
namespace Sys2Proof.Machine

theorem secureExchange_keeps {s t : State} (h : Keeps s t) (x0 : PortId) (x1 : Nat) (x2 : Vector Word 16 → State → State) (k3 : ∀ (y0 : Vector Word 16) (y1 : State), Keeps s y1 → Keeps s (x2 y0 y1)) : Keeps s (secureExchange t x0 x1 x2) := by
  unfold secureExchange
  try dsimp only
  repeat' first
    | with_reducible assumption
    | with_reducible apply exchange_keeps
    | with_reducible apply k3
    | (intro _ _ _; try dsimp only)
    | (intro _; try dsimp only)
    | split

theorem colophonAnswer_keeps {s t : State} (h : Keeps s t) (x0 : PortId) (x1 : Nat) (x2 : BitVec 16) (x3 : Code) (x4 : List Word) : Keeps s (colophonAnswer t x0 x1 x2 x3 x4) := by
  unfold colophonAnswer
  try dsimp only
  repeat' first
    | with_reducible assumption
    | with_reducible apply State.respond_keeps
    | (with_reducible apply Keeps.update)
    | (show _ = _; rfl)

theorem colophonRead_keeps {s t : State} (h : Keeps s t) (x0 : PortId) (x1 : Word) (x2 : Nat) : Keeps s (colophonRead t x0 x1 x2) := by
  unfold colophonRead
  try dsimp only
  repeat' first
    | with_reducible assumption
    | with_reducible apply State.sendDrd_keeps
    | with_reducible apply State.retireUse_keeps

theorem colophonWrite_keeps {s t : State} (h : Keeps s t) (x0 : PortId) (x1 : Word) (x2 : List Byte) : Keeps s (colophonWrite t x0 x1 x2) := by
  unfold colophonWrite
  try dsimp only
  repeat' first
    | with_reducible assumption
    | with_reducible apply State.sendDwr_keeps
    | with_reducible apply State.retireUse_keeps

theorem reportAnswer_keeps {s t : State} (h : Keeps s t) (x0 : PortId) (x1 : List Word) (x2 : Option EcpStatus) : Keeps s (reportAnswer t x0 x1 x2) := by
  unfold reportAnswer
  try dsimp only
  repeat' first
    | with_reducible assumption
    | with_reducible apply State.take_keeps
    | with_reducible apply colophonAnswer_keeps
    | with_reducible apply colophonWrite_keeps
    | (rename_i e; with_reducible refine OptKeeps.get ?_ e)
    | split

theorem dropNonce_keeps {s t : State} (h : Keeps s t)  : Keeps s (dropNonce t) := by
  unfold dropNonce
  try dsimp only
  repeat' first
    | with_reducible assumption
    | (with_reducible apply Keeps.update)
    | (show _ = _; rfl)

theorem challenge_keeps {s t : State} (h : Keeps s t) (x0 : PortId) (x1 : BitVec 16) (x2 : Bool) : Keeps s (challenge t x0 x1 x2) := by
  unfold challenge
  try dsimp only
  repeat' first
    | with_reducible assumption
    | with_reducible apply State.draw_keeps
    | with_reducible apply entropyFails_keeps
    | with_reducible apply colophonAnswer_keeps
    | (rename_i e; with_reducible refine Keeps.ofSnd ?_ e)
    | split
    | (with_reducible apply Keeps.update)
    | (show _ = _; rfl)

theorem openingClears_keeps {s t : State} (h : Keeps s t)  : Keeps s (openingClears t) := by
  unfold openingClears
  try dsimp only
  repeat' first
    | with_reducible assumption
    | with_reducible apply State.clearGalley_keeps
    | with_reducible apply stopForme_keeps
    | with_reducible apply clearForme_keeps
    | (with_reducible apply Keeps.foldl)
    | (intro _ _ _; try dsimp only)
    | (with_reducible apply Keeps.update)
    | (show _ = _; rfl)

theorem openingStarts_keeps {s t : State} (h : Keeps s t) (x0 : PortId) (x1 : BitVec 16) (x2 : BitVec 3) : Keeps s (openingStarts t x0 x1 x2) := by
  unfold openingStarts
  try dsimp only
  repeat' first
    | with_reducible assumption
    | with_reducible apply scrubStarts_keeps
    | with_reducible apply openingClears_keeps
    | (with_reducible apply Keeps.update)
    | (show _ = _; rfl)

theorem quoinOpen_keeps {s t : State} (h : Keeps s t) (x0 : PortId) (x1 : Vector Word 16) (x2 : Fetched QuoinRequest) : Keeps s (quoinOpen t x0 x1 x2) := by
  unfold quoinOpen
  try dsimp only
  repeat' first
    | with_reducible assumption
    | with_reducible apply colophonAnswer_keeps
    | with_reducible apply colophonRead_keeps
    | with_reducible apply dropNonce_keeps
    | with_reducible apply openingStarts_keeps
    | split

theorem openingScrub_keeps {s t : State} (h : Keeps s t)  : Keeps s (openingScrub t) := by
  unfold openingScrub
  try dsimp only
  repeat' first
    | with_reducible assumption
    | with_reducible apply State.scrubRegions_keeps

theorem openingKeys_keeps {s t : State} (h : Keeps s t) (x0 : FormeId) : Keeps s (openingKeys t x0) := by
  unfold openingKeys
  try dsimp only
  repeat' first
    | with_reducible assumption
    | with_reducible apply State.modForme_keeps
    | with_reducible apply keyForme_keeps
    | split
    | (with_reducible apply Keeps.update)
    | (show _ = _; rfl)

theorem answerHeld_keeps {s t : State} (h : Keeps s t)  : Keeps s (answerHeld t) := by
  unfold answerHeld
  try dsimp only
  repeat' first
    | with_reducible assumption
    | with_reducible apply reportAnswer_keeps
    | (with_reducible apply Keeps.foldlFst)
    | (with_reducible apply Keeps.foldl)
    | (intro _ _ _; try dsimp only)
    | (with_reducible apply Keeps.update)
    | (show _ = _; rfl)

theorem openingEnds_keeps {s t : State} (h : Keeps s t) (x0 : Opening) (x1 : Bool) : Keeps s (openingEnds t x0 x1) := by
  unfold openingEnds
  try dsimp only
  repeat' first
    | with_reducible assumption
    | with_reducible apply entropyFails_keeps
    | with_reducible apply scrubEnds_keeps
    | with_reducible apply keyModule_keeps
    | with_reducible apply colophonAnswer_keeps
    | with_reducible apply openingScrub_keeps
    | with_reducible apply openingKeys_keeps
    | with_reducible apply answerHeld_keeps
    | (with_reducible apply Keeps.foldl)
    | (intro _ _ _; try dsimp only)
    | split
    | (with_reducible apply Keeps.update)
    | (show _ = _; rfl)

theorem programSlot_grows {v : Vector HashSlot 4} {n : Nat} {x : BitVec 256} {ok : Bool} (hn : n = blankSlot v) (m : Nat) (hm : m < 4) :
    SlotGrows v[m] (programSlot v n x ok)[m] := by
  by_cases h : n = m
  · subst h
    have hb : v[n].programmed = false := by
      have hn' : List.findIdx (fun k => !k.programmed) v.toList = n := hn.symm
      have hx := List.findIdx_getElem (xs := v.toList) (p := fun k => !k.programmed) (w := by rw [hn']; simpa using hm)
      simp only [hn', Vector.getElem_toList, Bool.not_eq_true'] at hx
      exact hx
    have hr : v.toList[n]? = some v[n] := by simp [hm]
    simp only [programSlot, Vector.getElem_setIfInBounds_self, hr]
    exact ⟨fun p => absurd p (by simp [hb]), fun p => by simp [p]⟩
  · simp only [programSlot, Vector.getElem_setIfInBounds_ne _ h]
    exact SlotGrows.refl _

theorem revokeSlot_grows {v : Vector HashSlot 4} {n : Nat} {ok : Bool} (m : Nat) (hm : m < 4) : SlotGrows v[m] (revokeSlot v n ok)[m] := by
  unfold revokeSlot
  split
  · rename_i k hk
    by_cases h : n = m
    · subst h
      have hr : v.toList[n]? = some v[n] := by simp [hm]
      rw [hr] at hk
      cases hk
      simp only [Vector.getElem_setIfInBounds_self]
      exact ⟨fun p => ⟨p, rfl⟩, fun p => by simp [p]⟩
    · simp only [Vector.getElem_setIfInBounds_ne _ h]
      exact SlotGrows.refl _
  · exact SlotGrows.refl _

/-- An action that R359 allows takes no blown fuse back. -/
theorem blowFuses_grows {s : State} {r : FuseRequest} (n : Nat) (h : fuseAllowed s r = true) : FusesGrow s.fuses (blowFuses s.fuses r n) := by
  unfold fuseAllowed at h
  unfold blowFuses
  dsimp only at h ⊢
  split at h
  all_goals rename_i hf
  all_goals (try rw [hf]); (try dsimp only)
  · split
    · exact ⟨rfl, fun k hk => by simp [hk], Nat.le_refl _, fun _ _ => .refl _, fun _ _ => .refl _⟩
    · exact .refl _
  · simp only [Bool.and_eq_true, decide_eq_true_eq] at h
    refine ⟨rfl, fun _ hk => hk, ?_, fun _ _ => .refl _, fun _ _ => .refl _⟩
    dsimp only
    split <;> omega
  · simp only [Bool.and_eq_true, beq_iff_eq] at h
    exact ⟨rfl, fun _ hk => hk, Nat.le_refl _, programSlot_grows h.2, fun _ _ => .refl _⟩
  · exact ⟨rfl, fun _ hk => hk, Nat.le_refl _, revokeSlot_grows, fun _ _ => .refl _⟩
  · simp only [Bool.and_eq_true, beq_iff_eq] at h
    exact ⟨rfl, fun _ hk => hk, Nat.le_refl _, fun _ _ => .refl _, programSlot_grows h.2⟩
  · exact ⟨rfl, fun _ hk => hk, Nat.le_refl _, fun _ _ => .refl _, revokeSlot_grows⟩
  · cases h

theorem Keeps.fuses' {s t : State} {u : Fuses} (h : Keeps s t) (hu : FusesGrow t.fuses u) (n : Nat) : Keeps s { t with fuses := u, free := n } :=
  ⟨h.pending, h.fuses.trans hu, h.draws, h.out, h.memory⟩

theorem fuseCheck_allowed {s : State} {r : FuseRequest} (h : fuseCheck s r = 0) : fuseAllowed s r = true := by
  unfold fuseCheck at h
  repeat' split at h
  all_goals first
    | (cases h; done)
    | simp_all

theorem fuseProgram_keeps {s t : State} (h : Keeps s t) (p : PortId) (m : Vector Word 16) (req : Fetched FuseRequest) :
    Keeps s (fuseProgram t p m req) := by
  unfold fuseProgram
  dsimp only
  have h1 := colophonRead_keeps h p m[1] 5309
  split
  · exact dropNonce_keeps (colophonAnswer_keeps h1 _ _ _ _ _)
  · split
    · rename_i hc
      exact dropNonce_keeps (colophonAnswer_keeps (h1.fuses' (blowFuses_grows _ (fuseCheck_allowed hc)) _) _ _ _ _ _)
    · exact dropNonce_keeps (colophonAnswer_keeps h1 _ _ _ _ _)

end Sys2Proof.Machine
end

