-- ==== Sys2Proof/Laws/KeepsPins.lean ====
section
/-! SUPPORT. What the operations of Machine/Pins.lean keep (Safety.lean, `Keeps`): one lemma each. -/
namespace Sys2Proof.Machine

theorem setTap_keeps {s t : State} (h : Keeps s t) (x0 : Tap) : Keeps s (setTap t x0) := by
  unfold setTap
  try dsimp only
  repeat' first
    | with_reducible assumption
    | with_reducible apply State.emit_keeps
    | split
    | (with_reducible apply Keeps.update)
    | (show _ = _; rfl)

theorem tapBypass_keeps {s t : State} (h : Keeps s t)  : Keeps s (tapBypass t) := by
  unfold tapBypass
  try dsimp only
  repeat' first
    | with_reducible assumption
    | with_reducible apply State.emit_keeps
    | with_reducible apply setTap_keeps
    | (with_reducible apply Keeps.update)
    | (show _ = _; rfl)

end Sys2Proof.Machine
end

