-- ==== Sys2Proof/Laws/KeepsPorts.lean ====
section
/-! SUPPORT. What the operations of Machine/Ports.lean keep (Safety.lean, `Keeps`): one lemma each. -/
namespace Sys2Proof.Machine

theorem resultFaulted_keeps {s t : State} (h : Keeps s t) (x0 : FormeId) (x1 : RingId) (x2 : Seq) : Keeps s (resultFaulted t x0 x1 x2) := by
  unfold resultFaulted
  try dsimp only
  repeat' first
    | with_reducible assumption
    | with_reducible apply State.modForme_keeps
    | split
    | (with_reducible apply Keeps.update)
    | (show _ = _; rfl)

theorem flagLost_keeps {s t : State} (h : Keeps s t) (x0 : FormeId) (x1 : SlugTag) (x2 : Code) : Keeps s (flagLost t x0 x1 x2) := by
  unfold flagLost
  try dsimp only
  repeat' first
    | with_reducible assumption
    | with_reducible apply State.modForme_keeps
    | with_reducible apply State.noteCode_keeps
    | (with_reducible apply Keeps.update)
    | (show _ = _; rfl)

theorem slugReadFaults_keeps {s t : State} (h : Keeps s t) (x0 : FormeId) (x1 : SlugTag) (x2 : Code) : Keeps s (slugReadFaults t x0 x1 x2) := by
  unfold slugReadFaults
  try dsimp only
  repeat' first
    | with_reducible assumption
    | with_reducible apply State.failSlug_keeps
    | with_reducible apply endCopy_keeps
    | split

theorem passEntryFaults_keeps {s t : State} (h : Keeps s t) (x0 : FormeId) (x1 : Nat) (x2 : Code) : Keeps s (passEntryFaults t x0 x1 x2) := by
  unfold passEntryFaults
  try dsimp only
  repeat' first
    | with_reducible assumption
    | with_reducible apply landProofs_keeps
    | with_reducible apply passFaults_keeps
    | with_reducible apply endCopy_keeps
    | (with_reducible apply Keeps.foldlFst)
    | (with_reducible apply Keeps.foldl)
    | (intro _ _ _; try dsimp only)
    | split

theorem requestFaults_keeps {s t : State} (h : Keeps s t) (x0 : PortId) (x1 : EcpReq) (x2 : EcpStatus) : Keeps s (requestFaults t x0 x1 x2) := by
  unfold requestFaults
  try dsimp only
  repeat' first
    | with_reducible assumption
    | with_reducible apply State.noteFault_keeps
    | with_reducible apply State.failSlug_keeps
    | with_reducible apply sheetWrite_keeps
    | with_reducible apply entryReadFault_keeps
    | with_reducible apply matterReadFault_keeps
    | with_reducible apply recordFaulted_keeps
    | with_reducible apply planEntryFaults_keeps
    | with_reducible apply inkHeaderDone_keeps
    | with_reducible apply inkChunkDone_keeps
    | with_reducible apply refetchDone_keeps
    | with_reducible apply impositionFetched_keeps
    | with_reducible apply resultFaulted_keeps
    | with_reducible apply flagLost_keeps
    | with_reducible apply slugReadFaults_keeps
    | with_reducible apply passEntryFaults_keeps
    | (with_reducible apply Keeps.foldl)
    | (intro _ _ _; try dsimp only)
    | split

theorem allFault_keeps {s t : State} (h : Keeps s t) (x0 : PortId) (x1 : EcpStatus) (x2 : List EcpReq) : Keeps s (allFault x0 x1 t x2) := by
  unfold allFault
  try dsimp only
  repeat' first
    | with_reducible assumption
    | with_reducible apply State.retire_keeps
    | with_reducible apply requestFaults_keeps
    | (with_reducible apply Keeps.foldl)
    | (intro _ _ _; try dsimp only)

theorem copyHas_keeps {s t : State} (h : Keeps s t) (x0 : FormeId) (x1 : SlugTag) (x2 : BitVec 56) (x3 : List Byte) : Keeps s (copyHas t x0 x1 x2 x3) := by
  unfold copyHas
  try dsimp only
  repeat' first
    | with_reducible assumption
    | with_reducible apply State.modForme_keeps
    | (with_reducible apply Keeps.update)
    | (show _ = _; rfl)

theorem slugReadData_keeps {s t : State} (h : Keeps s t) (x0 : FormeId) (x1 : SlugTag) (x2 : List Byte) : Keeps s (slugReadData t x0 x1 x2) := by
  unfold slugReadData
  try dsimp only
  repeat' first
    | with_reducible assumption
    | with_reducible apply State.take_keeps
    | with_reducible apply pollFlag_keeps
    | with_reducible apply slugHas_keeps
    | with_reducible apply copyHas_keeps
    | (rename_i e; with_reducible refine OptKeeps.get ?_ e)
    | split

theorem spillOn_keeps {s t : State} (h : Keeps s t) (x0 : FormeId) (x1 : Word) (x2 : Slug) : Keeps s (spillOn t x0 x1 x2) := by
  unfold spillOn
  try dsimp only
  repeat' first
    | with_reducible assumption
    | with_reducible apply State.spillDrd_keeps
    | with_reducible apply State.failSlug_keeps
    | split

theorem spillEntryData_keeps {s t : State} (h : Keeps s t) (x0 : PortId) (x1 : EcpReq) (x2 : FormeId) (x3 : Nat) (x4 : Word) : Keeps s (spillEntryData t x0 x1 x2 x3 x4) := by
  unfold spillEntryData
  try dsimp only
  repeat' first
    | with_reducible assumption
    | with_reducible apply State.modForme_keeps
    | with_reducible apply State.modPort_keeps
    | with_reducible apply askEntry_keeps
    | with_reducible apply spillOn_keeps
    | (with_reducible apply Keeps.foldlFst)
    | (with_reducible apply Keeps.foldl)
    | (intro _ _ _; try dsimp only)
    | split
    | (with_reducible apply Keeps.update)
    | (show _ = _; rfl)

theorem pageData_keeps {s t : State} (h : Keeps s t) (x0 : FormeId) (x1 : EcpReq) (x2 : Nat) (x3 : List Byte) : Keeps s (pageData t x0 x1 x2 x3) := by
  unfold pageData
  try dsimp only
  repeat' first
    | with_reducible assumption
    | with_reducible apply State.modForme_keeps
    | split
    | (with_reducible apply Keeps.update)
    | (show _ = _; rfl)

theorem requestData_keeps {s t : State} (h : Keeps s t) (x0 : PortId) (x1 : EcpReq) (x2 : List Byte) : Keeps s (requestData t x0 x1 x2) := by
  unfold requestData
  try dsimp only
  repeat' first
    | with_reducible assumption
    | with_reducible apply State.take_keeps
    | with_reducible apply sheetWrite_keeps
    | with_reducible apply slugReadData_keeps
    | with_reducible apply spillEntryData_keeps
    | with_reducible apply pageData_keeps
    | (rename_i e; with_reducible refine OptKeeps.get ?_ e)
    | split

theorem writeReached_keeps {s t : State} (h : Keeps s t) (x0 : EcpReq) : Keeps s (writeReached t x0) := by
  unfold writeReached
  try dsimp only
  repeat' first
    | with_reducible assumption
    | with_reducible apply State.modRing_keeps
    | with_reducible apply sheetWrite_keeps
    | with_reducible apply replayNext_keeps
    | with_reducible apply recordWritten_keeps
    | split
    | (with_reducible apply Keeps.update)
    | (show _ = _; rfl)

theorem snoop_keeps {s t : State} (h : Keeps s t) (x0 : PortId) (x1 : BitVec 40) : Keeps s (snoop t x0 x1) := by
  unfold snoop
  try dsimp only
  repeat' first
    | with_reducible assumption
    | with_reducible apply State.modPort_keeps
    | with_reducible apply State.mapFormes_keeps
    | with_reducible apply State.ecpOut_keeps
    | split
    | (with_reducible apply Keeps.update)
    | (show _ = _; rfl)

theorem portFalls_keeps {s t : State} (h : Keeps s t) (x0 : PortId) : Keeps s (portFalls t x0) := by
  unfold portFalls
  try dsimp only
  repeat' first
    | with_reducible assumption
    | with_reducible apply State.modPort_keeps
    | with_reducible apply releaseHeld_keeps
    | with_reducible apply allFault_keeps
    | (with_reducible apply Keeps.update)
    | (show _ = _; rfl)

theorem portRises_keeps {s t : State} (h : Keeps s t) (x0 : PortId) (x1 : BitVec 3) : Keeps s (portRises t x0 x1) := by
  unfold portRises
  try dsimp only
  repeat' first
    | with_reducible assumption
    | with_reducible apply State.modPort_keeps
    | with_reducible apply State.emit_keeps
    | split
    | (with_reducible apply Keeps.update)
    | (show _ = _; rfl)

theorem portTrained_keeps {s t : State} (h : Keeps s t) (x0 : PortId) (x1 : BitVec 16) : Keeps s (portTrained t x0 x1) := by
  unfold portTrained
  try dsimp only
  repeat' first
    | with_reducible assumption
    | with_reducible apply State.modPort_keeps
    | with_reducible apply portFalls_keeps
    | with_reducible apply portRises_keeps
    | split
    | (with_reducible apply Keeps.update)
    | (show _ = _; rfl)

theorem laneFails_keeps {s t : State} (h : Keeps s t) (x0 : PortId) (x1 : Fin 16) : Keeps s (laneFails t x0 x1) := by
  unfold laneFails
  try dsimp only
  repeat' first
    | with_reducible assumption
    | with_reducible apply State.modPort_keeps
    | with_reducible apply portFalls_keeps
    | split
    | (with_reducible apply Keeps.update)
    | (show _ = _; rfl)

theorem ecpRejects_keeps {s t : State} (h : Keeps s t) (x0 : PortId) : Keeps s (ecpRejects t x0) := by
  unfold ecpRejects
  try dsimp only
  repeat' first
    | with_reducible assumption
    | with_reducible apply State.modPort_keeps
    | with_reducible apply State.emit_keeps
    | split
    | (with_reducible apply Keeps.update)
    | (show _ = _; rfl)

theorem ecpDataFlit_keeps {s t : State} (h : Keeps s t) (x0 : PortId) (x1 : EcpFlit) : Keeps s (ecpDataFlit t x0 x1) := by
  unfold ecpDataFlit
  try dsimp only
  repeat' first
    | with_reducible assumption
    | with_reducible apply State.modPort_keeps
    | with_reducible apply State.emit_keeps
    | with_reducible apply ecpRejects_keeps
    | split
    | (with_reducible apply Keeps.update)
    | (show _ = _; rfl)

theorem ecpGoodFlit_keeps {s t : State} (h : Keeps s t) (x0 : PortId) (x1 : EcpFlit) : Keeps s (ecpGoodFlit t x0 x1) := by
  unfold ecpGoodFlit
  try dsimp only
  repeat' first
    | with_reducible assumption
    | with_reducible apply State.modPort_keeps
    | with_reducible apply State.emit_keeps
    | with_reducible apply ecpDataFlit_keeps
    | split

end Sys2Proof.Machine
end

