-- ==== Sys2Proof/Laws/State.lean ====
section
/-! SUPPORT. What each named update of the state does to each field, by definition, and what reading a part gives after a part
was written. -/
namespace Sys2Proof.Machine

variable (s : State)

@[simp] theorem State.setForme_pending (f : FormeId) (x : Forme) : (s.setForme f x).pending = s.pending := rfl
@[simp] theorem State.setForme_boot (f : FormeId) (x : Forme) : (s.setForme f x).boot = s.boot := rfl
@[simp] theorem State.setForme_fuses (f : FormeId) (x : Forme) : (s.setForme f x).fuses = s.fuses := rfl
@[simp] theorem State.setForme_flash (f : FormeId) (x : Forme) : (s.setForme f x).flash = s.flash := rfl
@[simp] theorem State.setForme_time (f : FormeId) (x : Forme) : (s.setForme f x).time = s.time := rfl
@[simp] theorem State.setForme_platen (f : FormeId) (x : Forme) : (s.setForme f x).platen = s.platen := rfl
@[simp] theorem State.setForme_colo (f : FormeId) (x : Forme) : (s.setForme f x).colo = s.colo := rfl
@[simp] theorem State.setForme_stack (f : FormeId) (x : Forme) : (s.setForme f x).stack = s.stack := rfl
@[simp] theorem State.setForme_galley (f : FormeId) (x : Forme) : (s.setForme f x).galley = s.galley := rfl
@[simp] theorem State.setForme_formes (f : FormeId) (x : Forme) : (s.setForme f x).formes = s.formes.set f.val x f.isLt := rfl
@[simp] theorem State.setForme_cores (f : FormeId) (x : Forme) : (s.setForme f x).cores = s.cores := rfl
@[simp] theorem State.setForme_comps (f : FormeId) (x : Forme) : (s.setForme f x).comps = s.comps := rfl
@[simp] theorem State.setForme_ports (f : FormeId) (x : Forme) : (s.setForme f x).ports = s.ports := rfl
@[simp] theorem State.setForme_links (f : FormeId) (x : Forme) : (s.setForme f x).links = s.links := rfl
@[simp] theorem State.setForme_selfReg (f : FormeId) (x : Forme) : (s.setForme f x).selfReg = s.selfReg := rfl
@[simp] theorem State.setForme_index (f : FormeId) (x : Forme) : (s.setForme f x).index = s.index := rfl
@[simp] theorem State.setForme_poolQueue (f : FormeId) (x : Forme) : (s.setForme f x).poolQueue = s.poolQueue := rfl
@[simp] theorem State.setForme_orphans (f : FormeId) (x : Forme) : (s.setForme f x).orphans = s.orphans := rfl
@[simp] theorem State.setForme_engines (f : FormeId) (x : Forme) : (s.setForme f x).engines = s.engines := rfl
@[simp] theorem State.setForme_tap (f : FormeId) (x : Forme) : (s.setForme f x).tap = s.tap := rfl
@[simp] theorem State.setForme_i3c (f : FormeId) (x : Forme) : (s.setForme f x).i3c = s.i3c := rfl
@[simp] theorem State.setForme_verdicts (f : FormeId) (x : Forme) : (s.setForme f x).verdicts = s.verdicts := rfl
@[simp] theorem State.setForme_draws (f : FormeId) (x : Forme) : (s.setForme f x).draws = s.draws := rfl
@[simp] theorem State.setForme_free (f : FormeId) (x : Forme) : (s.setForme f x).free = s.free := rfl
@[simp] theorem State.setForme_out (f : FormeId) (x : Forme) : (s.setForme f x).out = s.out := rfl

@[simp] theorem State.modForme_pending (f : FormeId) (g : Forme → Forme) : (s.modForme f g).pending = s.pending := rfl
@[simp] theorem State.modForme_boot (f : FormeId) (g : Forme → Forme) : (s.modForme f g).boot = s.boot := rfl
@[simp] theorem State.modForme_fuses (f : FormeId) (g : Forme → Forme) : (s.modForme f g).fuses = s.fuses := rfl
@[simp] theorem State.modForme_flash (f : FormeId) (g : Forme → Forme) : (s.modForme f g).flash = s.flash := rfl
@[simp] theorem State.modForme_time (f : FormeId) (g : Forme → Forme) : (s.modForme f g).time = s.time := rfl
@[simp] theorem State.modForme_platen (f : FormeId) (g : Forme → Forme) : (s.modForme f g).platen = s.platen := rfl
@[simp] theorem State.modForme_colo (f : FormeId) (g : Forme → Forme) : (s.modForme f g).colo = s.colo := rfl
@[simp] theorem State.modForme_stack (f : FormeId) (g : Forme → Forme) : (s.modForme f g).stack = s.stack := rfl
@[simp] theorem State.modForme_galley (f : FormeId) (g : Forme → Forme) : (s.modForme f g).galley = s.galley := rfl
@[simp] theorem State.modForme_formes (f : FormeId) (g : Forme → Forme) : (s.modForme f g).formes = s.formes.set f.val (g (s.forme f)) f.isLt := rfl
@[simp] theorem State.modForme_cores (f : FormeId) (g : Forme → Forme) : (s.modForme f g).cores = s.cores := rfl
@[simp] theorem State.modForme_comps (f : FormeId) (g : Forme → Forme) : (s.modForme f g).comps = s.comps := rfl
@[simp] theorem State.modForme_ports (f : FormeId) (g : Forme → Forme) : (s.modForme f g).ports = s.ports := rfl
@[simp] theorem State.modForme_links (f : FormeId) (g : Forme → Forme) : (s.modForme f g).links = s.links := rfl
@[simp] theorem State.modForme_selfReg (f : FormeId) (g : Forme → Forme) : (s.modForme f g).selfReg = s.selfReg := rfl
@[simp] theorem State.modForme_index (f : FormeId) (g : Forme → Forme) : (s.modForme f g).index = s.index := rfl
@[simp] theorem State.modForme_poolQueue (f : FormeId) (g : Forme → Forme) : (s.modForme f g).poolQueue = s.poolQueue := rfl
@[simp] theorem State.modForme_orphans (f : FormeId) (g : Forme → Forme) : (s.modForme f g).orphans = s.orphans := rfl
@[simp] theorem State.modForme_engines (f : FormeId) (g : Forme → Forme) : (s.modForme f g).engines = s.engines := rfl
@[simp] theorem State.modForme_tap (f : FormeId) (g : Forme → Forme) : (s.modForme f g).tap = s.tap := rfl
@[simp] theorem State.modForme_i3c (f : FormeId) (g : Forme → Forme) : (s.modForme f g).i3c = s.i3c := rfl
@[simp] theorem State.modForme_verdicts (f : FormeId) (g : Forme → Forme) : (s.modForme f g).verdicts = s.verdicts := rfl
@[simp] theorem State.modForme_draws (f : FormeId) (g : Forme → Forme) : (s.modForme f g).draws = s.draws := rfl
@[simp] theorem State.modForme_free (f : FormeId) (g : Forme → Forme) : (s.modForme f g).free = s.free := rfl
@[simp] theorem State.modForme_out (f : FormeId) (g : Forme → Forme) : (s.modForme f g).out = s.out := rfl

@[simp] theorem State.modRing_pending (f : FormeId) (r : RingId) (g : Ring → Ring) : (s.modRing f r g).pending = s.pending := rfl
@[simp] theorem State.modRing_boot (f : FormeId) (r : RingId) (g : Ring → Ring) : (s.modRing f r g).boot = s.boot := rfl
@[simp] theorem State.modRing_fuses (f : FormeId) (r : RingId) (g : Ring → Ring) : (s.modRing f r g).fuses = s.fuses := rfl
@[simp] theorem State.modRing_flash (f : FormeId) (r : RingId) (g : Ring → Ring) : (s.modRing f r g).flash = s.flash := rfl
@[simp] theorem State.modRing_time (f : FormeId) (r : RingId) (g : Ring → Ring) : (s.modRing f r g).time = s.time := rfl
@[simp] theorem State.modRing_platen (f : FormeId) (r : RingId) (g : Ring → Ring) : (s.modRing f r g).platen = s.platen := rfl
@[simp] theorem State.modRing_colo (f : FormeId) (r : RingId) (g : Ring → Ring) : (s.modRing f r g).colo = s.colo := rfl
@[simp] theorem State.modRing_stack (f : FormeId) (r : RingId) (g : Ring → Ring) : (s.modRing f r g).stack = s.stack := rfl
@[simp] theorem State.modRing_galley (f : FormeId) (r : RingId) (g : Ring → Ring) : (s.modRing f r g).galley = s.galley := rfl
@[simp] theorem State.modRing_formes (f : FormeId) (r : RingId) (g : Ring → Ring) : (s.modRing f r g).formes = s.formes.set f.val ((s.forme f).setRing r (g ((s.forme f).ring r))) f.isLt := rfl
@[simp] theorem State.modRing_cores (f : FormeId) (r : RingId) (g : Ring → Ring) : (s.modRing f r g).cores = s.cores := rfl
@[simp] theorem State.modRing_comps (f : FormeId) (r : RingId) (g : Ring → Ring) : (s.modRing f r g).comps = s.comps := rfl
@[simp] theorem State.modRing_ports (f : FormeId) (r : RingId) (g : Ring → Ring) : (s.modRing f r g).ports = s.ports := rfl
@[simp] theorem State.modRing_links (f : FormeId) (r : RingId) (g : Ring → Ring) : (s.modRing f r g).links = s.links := rfl
@[simp] theorem State.modRing_selfReg (f : FormeId) (r : RingId) (g : Ring → Ring) : (s.modRing f r g).selfReg = s.selfReg := rfl
@[simp] theorem State.modRing_index (f : FormeId) (r : RingId) (g : Ring → Ring) : (s.modRing f r g).index = s.index := rfl
@[simp] theorem State.modRing_poolQueue (f : FormeId) (r : RingId) (g : Ring → Ring) : (s.modRing f r g).poolQueue = s.poolQueue := rfl
@[simp] theorem State.modRing_orphans (f : FormeId) (r : RingId) (g : Ring → Ring) : (s.modRing f r g).orphans = s.orphans := rfl
@[simp] theorem State.modRing_engines (f : FormeId) (r : RingId) (g : Ring → Ring) : (s.modRing f r g).engines = s.engines := rfl
@[simp] theorem State.modRing_tap (f : FormeId) (r : RingId) (g : Ring → Ring) : (s.modRing f r g).tap = s.tap := rfl
@[simp] theorem State.modRing_i3c (f : FormeId) (r : RingId) (g : Ring → Ring) : (s.modRing f r g).i3c = s.i3c := rfl
@[simp] theorem State.modRing_verdicts (f : FormeId) (r : RingId) (g : Ring → Ring) : (s.modRing f r g).verdicts = s.verdicts := rfl
@[simp] theorem State.modRing_draws (f : FormeId) (r : RingId) (g : Ring → Ring) : (s.modRing f r g).draws = s.draws := rfl
@[simp] theorem State.modRing_free (f : FormeId) (r : RingId) (g : Ring → Ring) : (s.modRing f r g).free = s.free := rfl
@[simp] theorem State.modRing_out (f : FormeId) (r : RingId) (g : Ring → Ring) : (s.modRing f r g).out = s.out := rfl

@[simp] theorem State.mapFormes_pending (g : FormeId → Forme → Forme) : (s.mapFormes g).pending = s.pending := rfl
@[simp] theorem State.mapFormes_boot (g : FormeId → Forme → Forme) : (s.mapFormes g).boot = s.boot := rfl
@[simp] theorem State.mapFormes_fuses (g : FormeId → Forme → Forme) : (s.mapFormes g).fuses = s.fuses := rfl
@[simp] theorem State.mapFormes_flash (g : FormeId → Forme → Forme) : (s.mapFormes g).flash = s.flash := rfl
@[simp] theorem State.mapFormes_time (g : FormeId → Forme → Forme) : (s.mapFormes g).time = s.time := rfl
@[simp] theorem State.mapFormes_platen (g : FormeId → Forme → Forme) : (s.mapFormes g).platen = s.platen := rfl
@[simp] theorem State.mapFormes_colo (g : FormeId → Forme → Forme) : (s.mapFormes g).colo = s.colo := rfl
@[simp] theorem State.mapFormes_stack (g : FormeId → Forme → Forme) : (s.mapFormes g).stack = s.stack := rfl
@[simp] theorem State.mapFormes_galley (g : FormeId → Forme → Forme) : (s.mapFormes g).galley = s.galley := rfl
@[simp] theorem State.mapFormes_formes (g : FormeId → Forme → Forme) : (s.mapFormes g).formes = s.formes.mapFinIdx (fun i x h => g ⟨i, h⟩ x) := rfl
@[simp] theorem State.mapFormes_cores (g : FormeId → Forme → Forme) : (s.mapFormes g).cores = s.cores := rfl
@[simp] theorem State.mapFormes_comps (g : FormeId → Forme → Forme) : (s.mapFormes g).comps = s.comps := rfl
@[simp] theorem State.mapFormes_ports (g : FormeId → Forme → Forme) : (s.mapFormes g).ports = s.ports := rfl
@[simp] theorem State.mapFormes_links (g : FormeId → Forme → Forme) : (s.mapFormes g).links = s.links := rfl
@[simp] theorem State.mapFormes_selfReg (g : FormeId → Forme → Forme) : (s.mapFormes g).selfReg = s.selfReg := rfl
@[simp] theorem State.mapFormes_index (g : FormeId → Forme → Forme) : (s.mapFormes g).index = s.index := rfl
@[simp] theorem State.mapFormes_poolQueue (g : FormeId → Forme → Forme) : (s.mapFormes g).poolQueue = s.poolQueue := rfl
@[simp] theorem State.mapFormes_orphans (g : FormeId → Forme → Forme) : (s.mapFormes g).orphans = s.orphans := rfl
@[simp] theorem State.mapFormes_engines (g : FormeId → Forme → Forme) : (s.mapFormes g).engines = s.engines := rfl
@[simp] theorem State.mapFormes_tap (g : FormeId → Forme → Forme) : (s.mapFormes g).tap = s.tap := rfl
@[simp] theorem State.mapFormes_i3c (g : FormeId → Forme → Forme) : (s.mapFormes g).i3c = s.i3c := rfl
@[simp] theorem State.mapFormes_verdicts (g : FormeId → Forme → Forme) : (s.mapFormes g).verdicts = s.verdicts := rfl
@[simp] theorem State.mapFormes_draws (g : FormeId → Forme → Forme) : (s.mapFormes g).draws = s.draws := rfl
@[simp] theorem State.mapFormes_free (g : FormeId → Forme → Forme) : (s.mapFormes g).free = s.free := rfl
@[simp] theorem State.mapFormes_out (g : FormeId → Forme → Forme) : (s.mapFormes g).out = s.out := rfl

@[simp] theorem State.modPort_pending (p : PortId) (g : Port → Port) : (s.modPort p g).pending = s.pending := rfl
@[simp] theorem State.modPort_boot (p : PortId) (g : Port → Port) : (s.modPort p g).boot = s.boot := rfl
@[simp] theorem State.modPort_fuses (p : PortId) (g : Port → Port) : (s.modPort p g).fuses = s.fuses := rfl
@[simp] theorem State.modPort_flash (p : PortId) (g : Port → Port) : (s.modPort p g).flash = s.flash := rfl
@[simp] theorem State.modPort_time (p : PortId) (g : Port → Port) : (s.modPort p g).time = s.time := rfl
@[simp] theorem State.modPort_platen (p : PortId) (g : Port → Port) : (s.modPort p g).platen = s.platen := rfl
@[simp] theorem State.modPort_colo (p : PortId) (g : Port → Port) : (s.modPort p g).colo = s.colo := rfl
@[simp] theorem State.modPort_stack (p : PortId) (g : Port → Port) : (s.modPort p g).stack = s.stack := rfl
@[simp] theorem State.modPort_galley (p : PortId) (g : Port → Port) : (s.modPort p g).galley = s.galley := rfl
@[simp] theorem State.modPort_formes (p : PortId) (g : Port → Port) : (s.modPort p g).formes = s.formes := rfl
@[simp] theorem State.modPort_cores (p : PortId) (g : Port → Port) : (s.modPort p g).cores = s.cores := rfl
@[simp] theorem State.modPort_comps (p : PortId) (g : Port → Port) : (s.modPort p g).comps = s.comps := rfl
@[simp] theorem State.modPort_ports (p : PortId) (g : Port → Port) : (s.modPort p g).ports = s.ports.set p.val (g (s.port p)) p.isLt := rfl
@[simp] theorem State.modPort_links (p : PortId) (g : Port → Port) : (s.modPort p g).links = s.links := rfl
@[simp] theorem State.modPort_selfReg (p : PortId) (g : Port → Port) : (s.modPort p g).selfReg = s.selfReg := rfl
@[simp] theorem State.modPort_index (p : PortId) (g : Port → Port) : (s.modPort p g).index = s.index := rfl
@[simp] theorem State.modPort_poolQueue (p : PortId) (g : Port → Port) : (s.modPort p g).poolQueue = s.poolQueue := rfl
@[simp] theorem State.modPort_orphans (p : PortId) (g : Port → Port) : (s.modPort p g).orphans = s.orphans := rfl
@[simp] theorem State.modPort_engines (p : PortId) (g : Port → Port) : (s.modPort p g).engines = s.engines := rfl
@[simp] theorem State.modPort_tap (p : PortId) (g : Port → Port) : (s.modPort p g).tap = s.tap := rfl
@[simp] theorem State.modPort_i3c (p : PortId) (g : Port → Port) : (s.modPort p g).i3c = s.i3c := rfl
@[simp] theorem State.modPort_verdicts (p : PortId) (g : Port → Port) : (s.modPort p g).verdicts = s.verdicts := rfl
@[simp] theorem State.modPort_draws (p : PortId) (g : Port → Port) : (s.modPort p g).draws = s.draws := rfl
@[simp] theorem State.modPort_free (p : PortId) (g : Port → Port) : (s.modPort p g).free = s.free := rfl
@[simp] theorem State.modPort_out (p : PortId) (g : Port → Port) : (s.modPort p g).out = s.out := rfl

@[simp] theorem State.modLink_pending (l : LinkId) (g : Link → Link) : (s.modLink l g).pending = s.pending := rfl
@[simp] theorem State.modLink_boot (l : LinkId) (g : Link → Link) : (s.modLink l g).boot = s.boot := rfl
@[simp] theorem State.modLink_fuses (l : LinkId) (g : Link → Link) : (s.modLink l g).fuses = s.fuses := rfl
@[simp] theorem State.modLink_flash (l : LinkId) (g : Link → Link) : (s.modLink l g).flash = s.flash := rfl
@[simp] theorem State.modLink_time (l : LinkId) (g : Link → Link) : (s.modLink l g).time = s.time := rfl
@[simp] theorem State.modLink_platen (l : LinkId) (g : Link → Link) : (s.modLink l g).platen = s.platen := rfl
@[simp] theorem State.modLink_colo (l : LinkId) (g : Link → Link) : (s.modLink l g).colo = s.colo := rfl
@[simp] theorem State.modLink_stack (l : LinkId) (g : Link → Link) : (s.modLink l g).stack = s.stack := rfl
@[simp] theorem State.modLink_galley (l : LinkId) (g : Link → Link) : (s.modLink l g).galley = s.galley := rfl
@[simp] theorem State.modLink_formes (l : LinkId) (g : Link → Link) : (s.modLink l g).formes = s.formes := rfl
@[simp] theorem State.modLink_cores (l : LinkId) (g : Link → Link) : (s.modLink l g).cores = s.cores := rfl
@[simp] theorem State.modLink_comps (l : LinkId) (g : Link → Link) : (s.modLink l g).comps = s.comps := rfl
@[simp] theorem State.modLink_ports (l : LinkId) (g : Link → Link) : (s.modLink l g).ports = s.ports := rfl
@[simp] theorem State.modLink_links (l : LinkId) (g : Link → Link) : (s.modLink l g).links = s.links.set l.val (g (s.link l)) l.isLt := rfl
@[simp] theorem State.modLink_selfReg (l : LinkId) (g : Link → Link) : (s.modLink l g).selfReg = s.selfReg := rfl
@[simp] theorem State.modLink_index (l : LinkId) (g : Link → Link) : (s.modLink l g).index = s.index := rfl
@[simp] theorem State.modLink_poolQueue (l : LinkId) (g : Link → Link) : (s.modLink l g).poolQueue = s.poolQueue := rfl
@[simp] theorem State.modLink_orphans (l : LinkId) (g : Link → Link) : (s.modLink l g).orphans = s.orphans := rfl
@[simp] theorem State.modLink_engines (l : LinkId) (g : Link → Link) : (s.modLink l g).engines = s.engines := rfl
@[simp] theorem State.modLink_tap (l : LinkId) (g : Link → Link) : (s.modLink l g).tap = s.tap := rfl
@[simp] theorem State.modLink_i3c (l : LinkId) (g : Link → Link) : (s.modLink l g).i3c = s.i3c := rfl
@[simp] theorem State.modLink_verdicts (l : LinkId) (g : Link → Link) : (s.modLink l g).verdicts = s.verdicts := rfl
@[simp] theorem State.modLink_draws (l : LinkId) (g : Link → Link) : (s.modLink l g).draws = s.draws := rfl
@[simp] theorem State.modLink_free (l : LinkId) (g : Link → Link) : (s.modLink l g).free = s.free := rfl
@[simp] theorem State.modLink_out (l : LinkId) (g : Link → Link) : (s.modLink l g).out = s.out := rfl

@[simp] theorem State.modCore_pending (c : CoreId) (g : Core → Core) : (s.modCore c g).pending = s.pending := rfl
@[simp] theorem State.modCore_boot (c : CoreId) (g : Core → Core) : (s.modCore c g).boot = s.boot := rfl
@[simp] theorem State.modCore_fuses (c : CoreId) (g : Core → Core) : (s.modCore c g).fuses = s.fuses := rfl
@[simp] theorem State.modCore_flash (c : CoreId) (g : Core → Core) : (s.modCore c g).flash = s.flash := rfl
@[simp] theorem State.modCore_time (c : CoreId) (g : Core → Core) : (s.modCore c g).time = s.time := rfl
@[simp] theorem State.modCore_platen (c : CoreId) (g : Core → Core) : (s.modCore c g).platen = s.platen := rfl
@[simp] theorem State.modCore_colo (c : CoreId) (g : Core → Core) : (s.modCore c g).colo = s.colo := rfl
@[simp] theorem State.modCore_stack (c : CoreId) (g : Core → Core) : (s.modCore c g).stack = s.stack := rfl
@[simp] theorem State.modCore_galley (c : CoreId) (g : Core → Core) : (s.modCore c g).galley = s.galley := rfl
@[simp] theorem State.modCore_formes (c : CoreId) (g : Core → Core) : (s.modCore c g).formes = s.formes := rfl
@[simp] theorem State.modCore_cores (c : CoreId) (g : Core → Core) : (s.modCore c g).cores = s.cores.set c.val (g (s.core c)) c.isLt := rfl
@[simp] theorem State.modCore_comps (c : CoreId) (g : Core → Core) : (s.modCore c g).comps = s.comps := rfl
@[simp] theorem State.modCore_ports (c : CoreId) (g : Core → Core) : (s.modCore c g).ports = s.ports := rfl
@[simp] theorem State.modCore_links (c : CoreId) (g : Core → Core) : (s.modCore c g).links = s.links := rfl
@[simp] theorem State.modCore_selfReg (c : CoreId) (g : Core → Core) : (s.modCore c g).selfReg = s.selfReg := rfl
@[simp] theorem State.modCore_index (c : CoreId) (g : Core → Core) : (s.modCore c g).index = s.index := rfl
@[simp] theorem State.modCore_poolQueue (c : CoreId) (g : Core → Core) : (s.modCore c g).poolQueue = s.poolQueue := rfl
@[simp] theorem State.modCore_orphans (c : CoreId) (g : Core → Core) : (s.modCore c g).orphans = s.orphans := rfl
@[simp] theorem State.modCore_engines (c : CoreId) (g : Core → Core) : (s.modCore c g).engines = s.engines := rfl
@[simp] theorem State.modCore_tap (c : CoreId) (g : Core → Core) : (s.modCore c g).tap = s.tap := rfl
@[simp] theorem State.modCore_i3c (c : CoreId) (g : Core → Core) : (s.modCore c g).i3c = s.i3c := rfl
@[simp] theorem State.modCore_verdicts (c : CoreId) (g : Core → Core) : (s.modCore c g).verdicts = s.verdicts := rfl
@[simp] theorem State.modCore_draws (c : CoreId) (g : Core → Core) : (s.modCore c g).draws = s.draws := rfl
@[simp] theorem State.modCore_free (c : CoreId) (g : Core → Core) : (s.modCore c g).free = s.free := rfl
@[simp] theorem State.modCore_out (c : CoreId) (g : Core → Core) : (s.modCore c g).out = s.out := rfl

@[simp] theorem State.modComp_pending (c : CompId) (g : Compositor → Compositor) : (s.modComp c g).pending = s.pending := rfl
@[simp] theorem State.modComp_boot (c : CompId) (g : Compositor → Compositor) : (s.modComp c g).boot = s.boot := rfl
@[simp] theorem State.modComp_fuses (c : CompId) (g : Compositor → Compositor) : (s.modComp c g).fuses = s.fuses := rfl
@[simp] theorem State.modComp_flash (c : CompId) (g : Compositor → Compositor) : (s.modComp c g).flash = s.flash := rfl
@[simp] theorem State.modComp_time (c : CompId) (g : Compositor → Compositor) : (s.modComp c g).time = s.time := rfl
@[simp] theorem State.modComp_platen (c : CompId) (g : Compositor → Compositor) : (s.modComp c g).platen = s.platen := rfl
@[simp] theorem State.modComp_colo (c : CompId) (g : Compositor → Compositor) : (s.modComp c g).colo = s.colo := rfl
@[simp] theorem State.modComp_stack (c : CompId) (g : Compositor → Compositor) : (s.modComp c g).stack = s.stack := rfl
@[simp] theorem State.modComp_galley (c : CompId) (g : Compositor → Compositor) : (s.modComp c g).galley = s.galley := rfl
@[simp] theorem State.modComp_formes (c : CompId) (g : Compositor → Compositor) : (s.modComp c g).formes = s.formes := rfl
@[simp] theorem State.modComp_cores (c : CompId) (g : Compositor → Compositor) : (s.modComp c g).cores = s.cores := rfl
@[simp] theorem State.modComp_comps (c : CompId) (g : Compositor → Compositor) : (s.modComp c g).comps = s.comps.set c.val (g (s.comp c)) c.isLt := rfl
@[simp] theorem State.modComp_ports (c : CompId) (g : Compositor → Compositor) : (s.modComp c g).ports = s.ports := rfl
@[simp] theorem State.modComp_links (c : CompId) (g : Compositor → Compositor) : (s.modComp c g).links = s.links := rfl
@[simp] theorem State.modComp_selfReg (c : CompId) (g : Compositor → Compositor) : (s.modComp c g).selfReg = s.selfReg := rfl
@[simp] theorem State.modComp_index (c : CompId) (g : Compositor → Compositor) : (s.modComp c g).index = s.index := rfl
@[simp] theorem State.modComp_poolQueue (c : CompId) (g : Compositor → Compositor) : (s.modComp c g).poolQueue = s.poolQueue := rfl
@[simp] theorem State.modComp_orphans (c : CompId) (g : Compositor → Compositor) : (s.modComp c g).orphans = s.orphans := rfl
@[simp] theorem State.modComp_engines (c : CompId) (g : Compositor → Compositor) : (s.modComp c g).engines = s.engines := rfl
@[simp] theorem State.modComp_tap (c : CompId) (g : Compositor → Compositor) : (s.modComp c g).tap = s.tap := rfl
@[simp] theorem State.modComp_i3c (c : CompId) (g : Compositor → Compositor) : (s.modComp c g).i3c = s.i3c := rfl
@[simp] theorem State.modComp_verdicts (c : CompId) (g : Compositor → Compositor) : (s.modComp c g).verdicts = s.verdicts := rfl
@[simp] theorem State.modComp_draws (c : CompId) (g : Compositor → Compositor) : (s.modComp c g).draws = s.draws := rfl
@[simp] theorem State.modComp_free (c : CompId) (g : Compositor → Compositor) : (s.modComp c g).free = s.free := rfl
@[simp] theorem State.modComp_out (c : CompId) (g : Compositor → Compositor) : (s.modComp c g).out = s.out := rfl

@[simp] theorem State.emit_pending (o : Output) : (s.emit o).pending = s.pending := rfl
@[simp] theorem State.emit_boot (o : Output) : (s.emit o).boot = s.boot := rfl
@[simp] theorem State.emit_fuses (o : Output) : (s.emit o).fuses = s.fuses := rfl
@[simp] theorem State.emit_flash (o : Output) : (s.emit o).flash = s.flash := rfl
@[simp] theorem State.emit_time (o : Output) : (s.emit o).time = s.time := rfl
@[simp] theorem State.emit_platen (o : Output) : (s.emit o).platen = s.platen := rfl
@[simp] theorem State.emit_colo (o : Output) : (s.emit o).colo = s.colo := rfl
@[simp] theorem State.emit_stack (o : Output) : (s.emit o).stack = s.stack := rfl
@[simp] theorem State.emit_galley (o : Output) : (s.emit o).galley = s.galley := rfl
@[simp] theorem State.emit_formes (o : Output) : (s.emit o).formes = s.formes := rfl
@[simp] theorem State.emit_cores (o : Output) : (s.emit o).cores = s.cores := rfl
@[simp] theorem State.emit_comps (o : Output) : (s.emit o).comps = s.comps := rfl
@[simp] theorem State.emit_ports (o : Output) : (s.emit o).ports = s.ports := rfl
@[simp] theorem State.emit_links (o : Output) : (s.emit o).links = s.links := rfl
@[simp] theorem State.emit_selfReg (o : Output) : (s.emit o).selfReg = s.selfReg := rfl
@[simp] theorem State.emit_index (o : Output) : (s.emit o).index = s.index := rfl
@[simp] theorem State.emit_poolQueue (o : Output) : (s.emit o).poolQueue = s.poolQueue := rfl
@[simp] theorem State.emit_orphans (o : Output) : (s.emit o).orphans = s.orphans := rfl
@[simp] theorem State.emit_engines (o : Output) : (s.emit o).engines = s.engines := rfl
@[simp] theorem State.emit_tap (o : Output) : (s.emit o).tap = s.tap := rfl
@[simp] theorem State.emit_i3c (o : Output) : (s.emit o).i3c = s.i3c := rfl
@[simp] theorem State.emit_verdicts (o : Output) : (s.emit o).verdicts = s.verdicts := rfl
@[simp] theorem State.emit_draws (o : Output) : (s.emit o).draws = s.draws := rfl
@[simp] theorem State.emit_free (o : Output) : (s.emit o).free = s.free := rfl
@[simp] theorem State.emit_out (o : Output) : (s.emit o).out = s.out ++ [o] := rfl

@[simp] theorem State.charge_pending (f : FormeId) (n : Nat) : (s.charge f n).pending = s.pending := rfl
@[simp] theorem State.charge_boot (f : FormeId) (n : Nat) : (s.charge f n).boot = s.boot := rfl
@[simp] theorem State.charge_fuses (f : FormeId) (n : Nat) : (s.charge f n).fuses = s.fuses := rfl
@[simp] theorem State.charge_flash (f : FormeId) (n : Nat) : (s.charge f n).flash = s.flash := rfl
@[simp] theorem State.charge_time (f : FormeId) (n : Nat) : (s.charge f n).time = s.time := rfl
@[simp] theorem State.charge_colo (f : FormeId) (n : Nat) : (s.charge f n).colo = s.colo := rfl
@[simp] theorem State.charge_stack (f : FormeId) (n : Nat) : (s.charge f n).stack = s.stack := rfl
@[simp] theorem State.charge_galley (f : FormeId) (n : Nat) : (s.charge f n).galley = s.galley := rfl
@[simp] theorem State.charge_formes (f : FormeId) (n : Nat) : (s.charge f n).formes = s.formes := rfl
@[simp] theorem State.charge_cores (f : FormeId) (n : Nat) : (s.charge f n).cores = s.cores := rfl
@[simp] theorem State.charge_comps (f : FormeId) (n : Nat) : (s.charge f n).comps = s.comps := rfl
@[simp] theorem State.charge_ports (f : FormeId) (n : Nat) : (s.charge f n).ports = s.ports := rfl
@[simp] theorem State.charge_links (f : FormeId) (n : Nat) : (s.charge f n).links = s.links := rfl
@[simp] theorem State.charge_selfReg (f : FormeId) (n : Nat) : (s.charge f n).selfReg = s.selfReg := rfl
@[simp] theorem State.charge_index (f : FormeId) (n : Nat) : (s.charge f n).index = s.index := rfl
@[simp] theorem State.charge_poolQueue (f : FormeId) (n : Nat) : (s.charge f n).poolQueue = s.poolQueue := rfl
@[simp] theorem State.charge_orphans (f : FormeId) (n : Nat) : (s.charge f n).orphans = s.orphans := rfl
@[simp] theorem State.charge_engines (f : FormeId) (n : Nat) : (s.charge f n).engines = s.engines := rfl
@[simp] theorem State.charge_tap (f : FormeId) (n : Nat) : (s.charge f n).tap = s.tap := rfl
@[simp] theorem State.charge_i3c (f : FormeId) (n : Nat) : (s.charge f n).i3c = s.i3c := rfl
@[simp] theorem State.charge_verdicts (f : FormeId) (n : Nat) : (s.charge f n).verdicts = s.verdicts := rfl
@[simp] theorem State.charge_draws (f : FormeId) (n : Nat) : (s.charge f n).draws = s.draws := rfl
@[simp] theorem State.charge_free (f : FormeId) (n : Nat) : (s.charge f n).free = s.free := rfl
@[simp] theorem State.charge_out (f : FormeId) (n : Nat) : (s.charge f n).out = s.out := rfl

@[simp] theorem State.draw_pending : (s.draw.2).pending = s.pending := rfl
@[simp] theorem State.draw_boot : (s.draw.2).boot = s.boot := rfl
@[simp] theorem State.draw_fuses : (s.draw.2).fuses = s.fuses := rfl
@[simp] theorem State.draw_flash : (s.draw.2).flash = s.flash := rfl
@[simp] theorem State.draw_time : (s.draw.2).time = s.time := rfl
@[simp] theorem State.draw_platen : (s.draw.2).platen = s.platen := rfl
@[simp] theorem State.draw_colo : (s.draw.2).colo = s.colo := rfl
@[simp] theorem State.draw_stack : (s.draw.2).stack = s.stack := rfl
@[simp] theorem State.draw_galley : (s.draw.2).galley = s.galley := rfl
@[simp] theorem State.draw_formes : (s.draw.2).formes = s.formes := rfl
@[simp] theorem State.draw_cores : (s.draw.2).cores = s.cores := rfl
@[simp] theorem State.draw_comps : (s.draw.2).comps = s.comps := rfl
@[simp] theorem State.draw_ports : (s.draw.2).ports = s.ports := rfl
@[simp] theorem State.draw_links : (s.draw.2).links = s.links := rfl
@[simp] theorem State.draw_selfReg : (s.draw.2).selfReg = s.selfReg := rfl
@[simp] theorem State.draw_index : (s.draw.2).index = s.index := rfl
@[simp] theorem State.draw_poolQueue : (s.draw.2).poolQueue = s.poolQueue := rfl
@[simp] theorem State.draw_orphans : (s.draw.2).orphans = s.orphans := rfl
@[simp] theorem State.draw_engines : (s.draw.2).engines = s.engines := rfl
@[simp] theorem State.draw_tap : (s.draw.2).tap = s.tap := rfl
@[simp] theorem State.draw_i3c : (s.draw.2).i3c = s.i3c := rfl
@[simp] theorem State.draw_verdicts : (s.draw.2).verdicts = s.verdicts := rfl
@[simp] theorem State.draw_draws : (s.draw.2).draws = s.draws + 1 := rfl
@[simp] theorem State.draw_free : (s.draw.2).free = s.free := rfl
@[simp] theorem State.draw_out : (s.draw.2).out = s.out := rfl

@[simp] theorem State.freshValue_pending : (s.freshValue.2).pending = s.pending := rfl
@[simp] theorem State.freshValue_boot : (s.freshValue.2).boot = s.boot := rfl
@[simp] theorem State.freshValue_fuses : (s.freshValue.2).fuses = s.fuses := rfl
@[simp] theorem State.freshValue_flash : (s.freshValue.2).flash = s.flash := rfl
@[simp] theorem State.freshValue_time : (s.freshValue.2).time = s.time := rfl
@[simp] theorem State.freshValue_platen : (s.freshValue.2).platen = s.platen := rfl
@[simp] theorem State.freshValue_colo : (s.freshValue.2).colo = s.colo := rfl
@[simp] theorem State.freshValue_stack : (s.freshValue.2).stack = s.stack := rfl
@[simp] theorem State.freshValue_galley : (s.freshValue.2).galley = s.galley := rfl
@[simp] theorem State.freshValue_formes : (s.freshValue.2).formes = s.formes := rfl
@[simp] theorem State.freshValue_cores : (s.freshValue.2).cores = s.cores := rfl
@[simp] theorem State.freshValue_comps : (s.freshValue.2).comps = s.comps := rfl
@[simp] theorem State.freshValue_ports : (s.freshValue.2).ports = s.ports := rfl
@[simp] theorem State.freshValue_links : (s.freshValue.2).links = s.links := rfl
@[simp] theorem State.freshValue_selfReg : (s.freshValue.2).selfReg = s.selfReg := rfl
@[simp] theorem State.freshValue_index : (s.freshValue.2).index = s.index := rfl
@[simp] theorem State.freshValue_poolQueue : (s.freshValue.2).poolQueue = s.poolQueue := rfl
@[simp] theorem State.freshValue_orphans : (s.freshValue.2).orphans = s.orphans := rfl
@[simp] theorem State.freshValue_engines : (s.freshValue.2).engines = s.engines := rfl
@[simp] theorem State.freshValue_tap : (s.freshValue.2).tap = s.tap := rfl
@[simp] theorem State.freshValue_i3c : (s.freshValue.2).i3c = s.i3c := rfl
@[simp] theorem State.freshValue_verdicts : (s.freshValue.2).verdicts = s.verdicts := rfl
@[simp] theorem State.freshValue_draws : (s.freshValue.2).draws = s.draws := rfl
@[simp] theorem State.freshValue_free : (s.freshValue.2).free = s.free + 1 := rfl
@[simp] theorem State.freshValue_out : (s.freshValue.2).out = s.out := rfl

@[simp] theorem State.withFront_pending (c : Instr) : (s.withFront c).pending = c :: s.pending := rfl
@[simp] theorem State.withFront_boot (c : Instr) : (s.withFront c).boot = s.boot := rfl
@[simp] theorem State.withFront_fuses (c : Instr) : (s.withFront c).fuses = s.fuses := rfl
@[simp] theorem State.withFront_flash (c : Instr) : (s.withFront c).flash = s.flash := rfl
@[simp] theorem State.withFront_time (c : Instr) : (s.withFront c).time = s.time := rfl
@[simp] theorem State.withFront_platen (c : Instr) : (s.withFront c).platen = s.platen := rfl
@[simp] theorem State.withFront_colo (c : Instr) : (s.withFront c).colo = s.colo := rfl
@[simp] theorem State.withFront_stack (c : Instr) : (s.withFront c).stack = s.stack := rfl
@[simp] theorem State.withFront_galley (c : Instr) : (s.withFront c).galley = s.galley := rfl
@[simp] theorem State.withFront_formes (c : Instr) : (s.withFront c).formes = s.formes := rfl
@[simp] theorem State.withFront_cores (c : Instr) : (s.withFront c).cores = s.cores := rfl
@[simp] theorem State.withFront_comps (c : Instr) : (s.withFront c).comps = s.comps := rfl
@[simp] theorem State.withFront_ports (c : Instr) : (s.withFront c).ports = s.ports := rfl
@[simp] theorem State.withFront_links (c : Instr) : (s.withFront c).links = s.links := rfl
@[simp] theorem State.withFront_selfReg (c : Instr) : (s.withFront c).selfReg = s.selfReg := rfl
@[simp] theorem State.withFront_index (c : Instr) : (s.withFront c).index = s.index := rfl
@[simp] theorem State.withFront_poolQueue (c : Instr) : (s.withFront c).poolQueue = s.poolQueue := rfl
@[simp] theorem State.withFront_orphans (c : Instr) : (s.withFront c).orphans = s.orphans := rfl
@[simp] theorem State.withFront_engines (c : Instr) : (s.withFront c).engines = s.engines := rfl
@[simp] theorem State.withFront_tap (c : Instr) : (s.withFront c).tap = s.tap := rfl
@[simp] theorem State.withFront_i3c (c : Instr) : (s.withFront c).i3c = s.i3c := rfl
@[simp] theorem State.withFront_verdicts (c : Instr) : (s.withFront c).verdicts = s.verdicts := rfl
@[simp] theorem State.withFront_draws (c : Instr) : (s.withFront c).draws = s.draws := rfl
@[simp] theorem State.withFront_free (c : Instr) : (s.withFront c).free = s.free := rfl
@[simp] theorem State.withFront_out (c : Instr) : (s.withFront c).out = s.out := rfl

/-! ### A part read after it was written -/

@[simp] theorem State.forme_setForme_self (f : FormeId) (x : Forme) : (s.setForme f x).forme f = x := by simp [State.forme]

theorem State.forme_setForme_of_ne (f g : FormeId) (x : Forme) (h : f ≠ g) : (s.setForme f x).forme g = s.forme g := by
  have : f.val ≠ g.val := fun e => h (Fin.ext e)
  simp [State.forme, this]

@[simp] theorem State.forme_modForme_self (a : FormeId) (g : Forme → Forme) : (s.modForme a g).forme a = g (s.forme a) := by
  simp [State.forme]

theorem State.forme_modForme_of_ne (a b : FormeId) (g : Forme → Forme) (h : a ≠ b) : (s.modForme a g).forme b = s.forme b := by
  have : a.val ≠ b.val := fun e => h (Fin.ext e)
  simp [State.forme, this]

@[simp] theorem State.port_modPort_self (a : PortId) (g : Port → Port) : (s.modPort a g).port a = g (s.port a) := by
  simp [State.port]

theorem State.port_modPort_of_ne (a b : PortId) (g : Port → Port) (h : a ≠ b) : (s.modPort a g).port b = s.port b := by
  have : a.val ≠ b.val := fun e => h (Fin.ext e)
  simp [State.port, this]

@[simp] theorem State.link_modLink_self (a : LinkId) (g : Link → Link) : (s.modLink a g).link a = g (s.link a) := by
  simp [State.link]

theorem State.link_modLink_of_ne (a b : LinkId) (g : Link → Link) (h : a ≠ b) : (s.modLink a g).link b = s.link b := by
  have : a.val ≠ b.val := fun e => h (Fin.ext e)
  simp [State.link, this]

@[simp] theorem State.core_modCore_self (a : CoreId) (g : Core → Core) : (s.modCore a g).core a = g (s.core a) := by
  simp [State.core]

theorem State.core_modCore_of_ne (a b : CoreId) (g : Core → Core) (h : a ≠ b) : (s.modCore a g).core b = s.core b := by
  have : a.val ≠ b.val := fun e => h (Fin.ext e)
  simp [State.core, this]

@[simp] theorem State.comp_modComp_self (a : CompId) (g : Compositor → Compositor) : (s.modComp a g).comp a = g (s.comp a) := by
  simp [State.comp]

theorem State.comp_modComp_of_ne (a b : CompId) (g : Compositor → Compositor) (h : a ≠ b) : (s.modComp a g).comp b = s.comp b := by
  have : a.val ≠ b.val := fun e => h (Fin.ext e)
  simp [State.comp, this]

@[simp] theorem Forme.ring_setRing_self (x : Forme) (r : RingId) (y : Ring) : (x.setRing r y).ring r = y := by
  simp [Forme.ring, Forme.setRing]

theorem Forme.ring_setRing_of_ne (x : Forme) (r q : RingId) (y : Ring) (h : r ≠ q) : (x.setRing r y).ring q = x.ring q := by
  have : r.val ≠ q.val := fun e => h (Fin.ext e)
  simp [Forme.ring, Forme.setRing, this]

@[simp] theorem State.forme_mapFormes (g : FormeId → Forme → Forme) (f : FormeId) : (s.mapFormes g).forme f = g f (s.forme f) := by
  simp [State.forme]

@[simp] theorem State.forme_modPort (p0 : PortId) (g : Port → Port) (f : FormeId) : (s.modPort p0 g).forme f = s.forme f := rfl
@[simp] theorem State.forme_modLink (l0 : LinkId) (g : Link → Link) (f : FormeId) : (s.modLink l0 g).forme f = s.forme f := rfl
@[simp] theorem State.forme_modCore (c0 : CoreId) (g : Core → Core) (f : FormeId) : (s.modCore c0 g).forme f = s.forme f := rfl
@[simp] theorem State.forme_modComp (c0 : CompId) (g : Compositor → Compositor) (f : FormeId) : (s.modComp c0 g).forme f = s.forme f := rfl
@[simp] theorem State.forme_emit (o : Output) (f : FormeId) : (s.emit o).forme f = s.forme f := rfl
@[simp] theorem State.forme_charge (f0 : FormeId) (n : Nat) (f : FormeId) : (s.charge f0 n).forme f = s.forme f := rfl
@[simp] theorem State.forme_draw (f : FormeId) : (s.draw.2).forme f = s.forme f := rfl
@[simp] theorem State.forme_freshValue (f : FormeId) : (s.freshValue.2).forme f = s.forme f := rfl
@[simp] theorem State.forme_withFront (c0 : Instr) (f : FormeId) : (s.withFront c0).forme f = s.forme f := rfl

@[simp] theorem State.port_setForme (f0 : FormeId) (x : Forme) (p : PortId) : (s.setForme f0 x).port p = s.port p := rfl
@[simp] theorem State.port_modForme (f0 : FormeId) (g : Forme → Forme) (p : PortId) : (s.modForme f0 g).port p = s.port p := rfl
@[simp] theorem State.port_modRing (f0 : FormeId) (r : RingId) (g : Ring → Ring) (p : PortId) : (s.modRing f0 r g).port p = s.port p := rfl
@[simp] theorem State.port_mapFormes (g : FormeId → Forme → Forme) (p : PortId) : (s.mapFormes g).port p = s.port p := rfl
@[simp] theorem State.port_modLink (l0 : LinkId) (g : Link → Link) (p : PortId) : (s.modLink l0 g).port p = s.port p := rfl
@[simp] theorem State.port_modCore (c0 : CoreId) (g : Core → Core) (p : PortId) : (s.modCore c0 g).port p = s.port p := rfl
@[simp] theorem State.port_modComp (c0 : CompId) (g : Compositor → Compositor) (p : PortId) : (s.modComp c0 g).port p = s.port p := rfl
@[simp] theorem State.port_emit (o : Output) (p : PortId) : (s.emit o).port p = s.port p := rfl
@[simp] theorem State.port_charge (f0 : FormeId) (n : Nat) (p : PortId) : (s.charge f0 n).port p = s.port p := rfl
@[simp] theorem State.port_draw (p : PortId) : (s.draw.2).port p = s.port p := rfl
@[simp] theorem State.port_freshValue (p : PortId) : (s.freshValue.2).port p = s.port p := rfl
@[simp] theorem State.port_withFront (c0 : Instr) (p : PortId) : (s.withFront c0).port p = s.port p := rfl

@[simp] theorem State.link_setForme (f0 : FormeId) (x : Forme) (l : LinkId) : (s.setForme f0 x).link l = s.link l := rfl
@[simp] theorem State.link_modForme (f0 : FormeId) (g : Forme → Forme) (l : LinkId) : (s.modForme f0 g).link l = s.link l := rfl
@[simp] theorem State.link_modRing (f0 : FormeId) (r : RingId) (g : Ring → Ring) (l : LinkId) : (s.modRing f0 r g).link l = s.link l := rfl
@[simp] theorem State.link_mapFormes (g : FormeId → Forme → Forme) (l : LinkId) : (s.mapFormes g).link l = s.link l := rfl
@[simp] theorem State.link_modPort (p0 : PortId) (g : Port → Port) (l : LinkId) : (s.modPort p0 g).link l = s.link l := rfl
@[simp] theorem State.link_modCore (c0 : CoreId) (g : Core → Core) (l : LinkId) : (s.modCore c0 g).link l = s.link l := rfl
@[simp] theorem State.link_modComp (c0 : CompId) (g : Compositor → Compositor) (l : LinkId) : (s.modComp c0 g).link l = s.link l := rfl
@[simp] theorem State.link_emit (o : Output) (l : LinkId) : (s.emit o).link l = s.link l := rfl
@[simp] theorem State.link_charge (f0 : FormeId) (n : Nat) (l : LinkId) : (s.charge f0 n).link l = s.link l := rfl
@[simp] theorem State.link_draw (l : LinkId) : (s.draw.2).link l = s.link l := rfl
@[simp] theorem State.link_freshValue (l : LinkId) : (s.freshValue.2).link l = s.link l := rfl
@[simp] theorem State.link_withFront (c0 : Instr) (l : LinkId) : (s.withFront c0).link l = s.link l := rfl

@[simp] theorem State.core_setForme (f0 : FormeId) (x : Forme) (c : CoreId) : (s.setForme f0 x).core c = s.core c := rfl
@[simp] theorem State.core_modForme (f0 : FormeId) (g : Forme → Forme) (c : CoreId) : (s.modForme f0 g).core c = s.core c := rfl
@[simp] theorem State.core_modRing (f0 : FormeId) (r : RingId) (g : Ring → Ring) (c : CoreId) : (s.modRing f0 r g).core c = s.core c := rfl
@[simp] theorem State.core_mapFormes (g : FormeId → Forme → Forme) (c : CoreId) : (s.mapFormes g).core c = s.core c := rfl
@[simp] theorem State.core_modPort (p0 : PortId) (g : Port → Port) (c : CoreId) : (s.modPort p0 g).core c = s.core c := rfl
@[simp] theorem State.core_modLink (l0 : LinkId) (g : Link → Link) (c : CoreId) : (s.modLink l0 g).core c = s.core c := rfl
@[simp] theorem State.core_modComp (c0 : CompId) (g : Compositor → Compositor) (c : CoreId) : (s.modComp c0 g).core c = s.core c := rfl
@[simp] theorem State.core_emit (o : Output) (c : CoreId) : (s.emit o).core c = s.core c := rfl
@[simp] theorem State.core_charge (f0 : FormeId) (n : Nat) (c : CoreId) : (s.charge f0 n).core c = s.core c := rfl
@[simp] theorem State.core_draw (c : CoreId) : (s.draw.2).core c = s.core c := rfl
@[simp] theorem State.core_freshValue (c : CoreId) : (s.freshValue.2).core c = s.core c := rfl
@[simp] theorem State.core_withFront (c0 : Instr) (c : CoreId) : (s.withFront c0).core c = s.core c := rfl

@[simp] theorem State.comp_setForme (f0 : FormeId) (x : Forme) (c : CompId) : (s.setForme f0 x).comp c = s.comp c := rfl
@[simp] theorem State.comp_modForme (f0 : FormeId) (g : Forme → Forme) (c : CompId) : (s.modForme f0 g).comp c = s.comp c := rfl
@[simp] theorem State.comp_modRing (f0 : FormeId) (r : RingId) (g : Ring → Ring) (c : CompId) : (s.modRing f0 r g).comp c = s.comp c := rfl
@[simp] theorem State.comp_mapFormes (g : FormeId → Forme → Forme) (c : CompId) : (s.mapFormes g).comp c = s.comp c := rfl
@[simp] theorem State.comp_modPort (p0 : PortId) (g : Port → Port) (c : CompId) : (s.modPort p0 g).comp c = s.comp c := rfl
@[simp] theorem State.comp_modLink (l0 : LinkId) (g : Link → Link) (c : CompId) : (s.modLink l0 g).comp c = s.comp c := rfl
@[simp] theorem State.comp_modCore (c0 : CoreId) (g : Core → Core) (c : CompId) : (s.modCore c0 g).comp c = s.comp c := rfl
@[simp] theorem State.comp_emit (o : Output) (c : CompId) : (s.emit o).comp c = s.comp c := rfl
@[simp] theorem State.comp_charge (f0 : FormeId) (n : Nat) (c : CompId) : (s.charge f0 n).comp c = s.comp c := rfl
@[simp] theorem State.comp_draw (c : CompId) : (s.draw.2).comp c = s.comp c := rfl
@[simp] theorem State.comp_freshValue (c : CompId) : (s.freshValue.2).comp c = s.comp c := rfl
@[simp] theorem State.comp_withFront (c0 : Instr) (c : CompId) : (s.withFront c0).comp c = s.comp c := rfl

end Sys2Proof.Machine
end

