-- ==== Sys2Proof/Tests/Slice0.lean ====
section
/-! SUPPORT. The model's own tests: ill-formed commands that WellFormed refuses, worked values of the manual, and for every
statement a state and operands that meet the hypotheses of each of its clauses. -/
namespace Sys2Proof.Tests
open Sys2Proof Sys2Proof.Machine

-- The kernel checks these one after another: side by side, the stacks of the checking threads would fill the memory.
set_option Elab.async false

/-! ### Small states -/

def fw (n : BitVec 512) : FwImage := { a := { svn := 0, sigOk := true, measure := n }, b := { svn := 0, sigOk := true, measure := n + 1 } }

/-- No copy of this image is accepted. -/
def badFw : FwImage := { a := { svn := 0, sigOk := false, measure := 0 }, b := { svn := 0, sigOk := false, measure := 0 } }

def flash0 : Flash := { Flash.reset with platen := fw 1, loader := fw 3, colophon := fw 5, compositor := fw 7 }

/-- A cold part with known firmware and stepping. -/
def cold : State := { State.reset with flash := flash0, fuses := { Fuses.reset with stepping := 0 } }

def cfg0 : FormeCfg :=
  { octets := 1, compositor := 0, clientTag := 5, domain := 0, galleyMib := 16, proofMib := 4, swapMib := 4,
    regions := [{ base := 64, len := 32 }], port := 0, fn := 0, spillGib := 1, linkMask := 0b111111, remoteLoad := true,
    remoteStore := true, collective := true, remoteBase := 0, remoteCount := 100, maxJobs := 4, weight := 1, capShare := 100,
    localTime := false, rings := 64, allot := 65536 }

/-- The module runs, ready, with its ports up. -/
def base : State :=
  { cold with boot := { Boot.reset with power := .on, pwrgd := true, platenUp := true, phase := 0, ready := true },
              ports := Vector.replicate 4 { Port.reset with link := 2 },
              comps := Vector.replicate 16 { Compositor.reset with powered := true } }

/-- Image bytes: 64-bit words at rising offsets. -/
def image (n : Nat) (ws : List (Nat × Nat)) : SignedImage :=
  { blob := { length := n, cells := ws.flatMap (fun w => (List.range 8).filterMap (fun i =>
      let b := BitVec.ofNat 8 (w.2 / 256 ^ i)
      if b = 0 then none else some (w.1 + i, b))) }, sigOk := true }

/-- A partial imposition of one forme: header, section table, and the seven sections, one record each (R28 to R30). -/
def image1 : SignedImage :=
  image 65536 [(0, 0x24100001_4F504D49), (8, 0x0001_0007_00010000), (0x10, 2), (0x18, 0x0001_00_01_00000000),
    (0x40, 0x0000010000010001), (0x48, 0x0001001000000020), (0x50, 0x0000020000010002), (0x58, 0x0001000800000018),
    (0x60, 0x0000030000010003), (0x68, 0x0001000800000018), (0x70, 0x0000040000010004), (0x78, 0x0001001000000020),
    (0x80, 0x0000050000010005), (0x88, 0x0001000800000018), (0x90, 0x0000060000010006), (0x98, 0x0001000800000018),
    (0xA0, 0x0000070000010007), (0xA8, 0x0001000800000018),
    (0x110, 0x00000005_00000100), (0x118, 0x0000002000100600), (0x210, 0x0000002000400000), (0x310, 0x00010000),
    (0x410, 0x0000006400001FF0), (0x418, 4), (0x510, 0x10000), (0x600, 1200), (0x610, 100 * 65536), (0x700, 0x000003E8_00000010),
    (0xE000, 0x0041_47495349)]

def imp1 : Imposition := { impParse image1.blob with sequence := 1 }

def forme0 : Forme :=
  { Forme.reset with cfg := some cfg0, live := true, kStack := some 0, inkKey := some 1, ringsHeld := 64 }

/-- The module with one forme, number 0, after 5,000 locked strokes. -/
def one : State :=
  { base.setForme 0 forme0 with
    colo := { base.colo with committed := some imp1, seq := 1 }
    time := { base.time with stroke := 5000, ticks := 5000, localCount := 5000, state := .locked, active := 0, lastLocked := 5000 } }

/-- … with the forme changed. -/
def onF (g : Forme → Forme) : State := one.modForme 0 g

/-- … with its time base, colophon or boot changed. -/
def onT (g : TimeBase → TimeBase) : State := { one with time := g one.time }
def onC (g : Colophon → Colophon) : State := { one with colo := g one.colo }
def onB (g : Boot → Boot) : State := { one with boot := g one.boot }

/-- Words written at an offset of forme 0's stack space. -/
def inStack (s : State) (off : Nat) (ws : List Nat) : State :=
  { s with stack := { s.stack with mem := memPutAll none s.stack.mem (64 * 2 ^ 30 + off) (ws.flatMap (leBytes 8)) } }

/-- A request to the window of forme 0, and one to the management window. -/
def hf : HostReq := { port := 0, fn := 0, sec := false, tag := 2 }
def hm : HostReq := { port := 0, fn := 16, sec := true, tag := 1 }
def js (x : BitVec 8) : Vector (BitVec 8) 10 := (Vector.replicate 10 0).set 3 x

def env0 : BootEnv := { failingChannels := [], failingCores := [5], entropyOk := true }

def seven : State := { cold with boot := { base.boot with phase := 2 } }

/-- A message with words 0 (OPCODE, TAG 7), 1 and 2. -/
def msg (op a b : Nat) : Vector Word 16 :=
  ((Vector.replicate 16 0).set 0 (BitVec.ofNat 64 (op + 65536 * 7))).set 1 (BitVec.ofNat 64 a) |>.set 2 (BitVec.ofNat 64 b)

/-- The module with a message waiting on port 0's secure channel. -/
def asked (s : State) (m : Vector Word 16) : State :=
  s.modPort 0 (fun p => { p with mbox := { p.mbox with inData := m, full := true } })

def fetching (x : Colophon) : Colophon := { x with phase := 1, requester := some (0, 7) }

def opening0 : Opening := { scope := 1, port := 0, tag := 7, domainsOff := true, offSince := 4900 }


def reimp0 : Reimp := { image := image1, imp := imp1, hash := 9, full := false, named := 1, done := 0, abandoned := 0 }

/-- One stroke frame of the input pair: the marker, 64 bits of number, 16 of CRC, and zeros (R42, R43). -/
def frame (n : Nat) : Vector PairEdge 128 :=
  let body := (List.range 64).map (fun i => Nat.testBit n (63 - i))
  let crc := (crc16 body).toNat
  Vector.ofFn (fun i => { periodPs := 1000000, highNs :=
    if i.val = 0 then 800
    else if (body ++ (List.range 16).map (fun i => Nat.testBit crc (15 - i))).getD (i.val - 1) false then 500 else 200 })

def mark0 (n : Word) : MarkFlit := { stroke := n, hops := 14, locked := true, delayPs := 0, crcOk := true }

/-- Link 0 is up. -/
def linkUp (s : State) : State := s.modLink 0 (fun k => { k with state := .up, groups := 15, credits := Vector.replicate 8 16 })

def ent (kind a w2 w3 : Nat) : MrtEntry :=
  { w0 := BitVec.ofNat 64 a, w1 := BitVec.ofNat 64 (kind * 2 ^ 48), w2 := BitVec.ofNat 64 w2, w3 := BitVec.ofNat 64 w3 }

def onM (g : Mrt → Mrt) : State := onF (fun x => { x with mrt := g x.mrt })

/-- A table of one step-boundary entry in stack space. -/
def tabled (st : Word) : State :=
  inStack (onM (fun m => { m with sampled := some (0x8000, 1, st) })) 0x100000 [6000, 2 ^ 48, 0, 0]

def window0 (e : MrtEntry) : OpenWindow := { entry := 0, words := e, opened := 4990, last := 4999 }

/-- A job of the modules 0 to 3 in the X direction. -/
def job0 : Job := { (default : Job) with jobId := 9, nxj := 4, nyj := 1, podMask := 1, isOpen := true, keyed := true }

def onJ (j : Job) : State := onF (fun x => { x with jobs := x.jobs.set 0 (some j) })

def ringUp : Ring := { Ring.reset with enable := true, state := 1, depth := 4 }
def onR (g : Ring) : State := onF (fun x => x.setRing 0 g)

/-- The read of entry 0 is outstanding, its doorbell a hundred ticks old. -/
def ringWaits : Ring := { ringUp with tail := 1, fetching := true, bells := [(1, 4900)] }

/-- A ring entry: words 0, 1 and 2, then SEQUENCES and POSITIONS, NEW_POSITIONS, SOURCE and LENGTH. -/
def entry (a b q : Nat) (c : Nat := 0) (d : Nat := 0) (x : Nat := 0) (n : Nat := 0) : RingEntry :=
  { hdr := ⟨#[BitVec.ofNat 64 a, BitVec.ofNat 64 b, BitVec.ofNat 64 q, 0, BitVec.ofNat 64 c, BitVec.ofNat 64 d, BitVec.ofNat 64 x,
      BitVec.ofNat 64 n], rfl⟩, consts := List.replicate 192 0 }

def launch0 (e : RingEntry) : Launch :=
  { ring := 0, seq := 0, entry := e, phase := .running, fetched := 4900, timer := 4900, version := 1, order := 0, frame := [],
    passed := 0, flags := 0, fault := none, imposedStatus := none, ended := none, result := [], chunkFirst := 0, chunkLen := 0,
    chunkLast := false, chunkSlugs := [], cutDone := false, matched := 0, norm2 := none, powers := [], image := none, record := none }

def rec0 : Record := { (default : Record) with seq := 0, status := 0x8000 }

/-- A standing-matter image of one slug of one RELEASE op (R258, R259). -/
def matter1 : SignedImage :=
  image 4096 [(0, 0x24100001_54414D53), (8, 4096), (0x10, 256), (0x40, 0x0000010000010001), (0x48, 0x0010000100000020),
    (0x50, 0x0000020000010002), (0x58, 0x0000002000000010), (0x60, 0x0000030000010003), (0x68, 0x0001001000000020),
    (0x70, 0x0000040000010004), (0x78, 0x0001004000000050), (0x80, 0x0000050000010005), (0x88, 0x0000000100000010),
    (0x310, 1), (0x318, 0x10000), (0x410, 9), (0x418, 0x200000), (0x420, 0x55)]

def ver0 : Version :=
  { number := 1, length := 4096, entry := 0, frame := 256, explicitNeed := 0, binding := 0, tensors := [],
    slugs := [{ ctrl := 1, firstOp := 0, opCount := 1 }], ops := [], image := { length := 4096, cells := [] }, since := 10 }

def ver1 : Version := (parseMatter matter1.blob 4096).getD ver0

def matterOf (v : Version) : Matter := { id := 7, newest := some v.number, versions := [v] }

/-- A forme whose ring 0 waits for an entry, with matter 7 stored, an image attached, and a context table. -/
def admits : State :=
  inStack (onF (fun x => { (x.setRing 0 ringWaits) with
    matters := [matterOf { ver1 with number := 1, since := 10 }]
    sched := { x.sched with ctxTable := 0x20000 }
    inker := { x.inker with bindings := x.inker.bindings.set 0 { Binding.reset with attached := some (1, 0), attachedGen := 1 } } }))
    0x100008 [1]

def op (ws : List Nat) : OpRec := { w := Vector.ofFn (fun i => BitVec.ofNat 64 (ws.getD i.val 0)) }

def ten (h : BitVec 32) (fmt : BitVec 8) (rows cols : Nat) : TensorRec :=
  { handle := h, format := fmt, cls := 2, scaleSeq := false, pin := false, isLocal := false, binding := 0, qdesc := 0xFFFF,
    rows := rows, cols := cols, uses := 1, offset := 0 }

def verOf (ops : List OpRec) (ts : List TensorRec) : Version :=
  { ver0 with ops := ops, tensors := ts, slugs := [{ ctrl := 1, firstOp := 0, opCount := ops.length }] }

/-- A slug of the launch of entry 0. -/
def slug0 : Slug := { (default : Slug) with tag := 3, ctx := 1, matter := 7, version := 1, proofKib := 1, state := .running }

def token : Launch := launch0 (entry 0x7_00010001 0 0 1 1)

def ctx0 : Context := { (default : Context) with num := 1, weight := 1, matter := 7, version := 1, shape := (1, 1) }

/-- A launch of a version of these ops runs, with one slug. -/
def runs (ops : List OpRec) (ts : List TensorRec) (sl : Slug) : State :=
  onF (fun x => { (x.setRing 0 { ringUp with tail := 1, head := 1 }) with
    matters := [matterOf (verOf ops ts)], launches := [token], slugs := [sl], ctxs := [ctx0] })

/-- A RELEASE that sets the flag at 0x200000 to 0x55. -/
def opRelease : OpRec := op [9, 0x200000, 0x55]

/-- An ACQUIRE_WAIT for the flag at 0x200000 to reach 0x55. -/
def opAcquire : OpRec := op [10, 0x200000, 0x55]

/-- A product of 4-bit integers: two weights by two activations. -/
def opProduct : OpRec := op [0x30242401, 12 * 2 ^ 32 + 11, 13, 2 * 2 ^ 24, 0, 0, 0xFFFFFFFFFFFF]

def planned (cfg : FormeCfg) (reserve : Nat) : State :=
  (runs [opRelease] [ten 11 0x30 64 64] slug0).modForme 0 (fun x => { x with
    cfg := some cfg, makeup := { x.makeup with keyMaker := some (0, 0), reserve := reserve } })

def noSpace : FormeCfg := { cfg0 with regions := [], spillGib := 0 }

def sheet0 : SheetId := { ctx := 1, handle := 11, index := 0 }

def plan0 : PlanRec := { sheet := sheet0, cls := 2, pages := 1, core := 0, home := .stackPage 5, src := none, spill := none, once := false }

/-- Context 2 is swapped out, with a launch of its own. -/
def swaps (maxRes pages : Nat) : State :=
  onF (fun x => { x with
    matters := [matterOf (verOf [opRelease] [])]
    launches := [launch0 (entry 0x7_00020001 0 0 1 1)], slugs := [{ slug0 with ctx := 2, state := .queued }]
    ctxs := [ctx0, { ctx0 with num := 2, state := .swapped }]
    makeup := { x.makeup with plan := [{ plan0 with pages := pages, home := .galley 0 0 }] }
    sched := { x.sched with residentMax := maxRes } })

def onW (g : Swap → Swap) : State := (swaps 1 1).modForme 0 (fun x => { x with sched := { x.sched with swap := g x.sched.swap } })

theorem all_cfgs {s : State} {p : FormeCfg → Prop} [DecidablePred p]
    (h : ∀ f : FormeId, (s.forme f).cfg.all (fun c => decide (p c)) = true) : ∀ (f : FormeId) (c : FormeCfg), (s.forme f).cfg = some c → p c := by
  intro f c e
  have := h f
  rw [e] at this
  exact of_decide_eq_true this

theorem link_quiet {s : State} {l : LinkId} (h : (s.link l).queue = [] ∧ (s.link l).replay = [] ∧
    ∀ (f : FormeId) (k : JobSlot), ((s.forme f).job k).bind (·.coll) = none) : LinkQuiet s l := by
  refine ⟨h.1, h.2.1, fun f k j e => ?_⟩
  have := h.2.2 f k
  rw [e] at this
  exact this

/-- The forme's one region ends where usable memory will once a channel is gone. -/
def edge : State := onF (fun x => { x with cfg := some { cfg0 with regions := [{ base := 916, len := 32 }] } })

/-- Sixteen lines of channel 9 have detected. -/
def worn (s : State) : State :=
  { s with stack := { s.stack with detects := (List.range 16).map (fun n => ((9 : ChannelId), n, (4000 : Word))) } }

/-- A message waits in the forme's own mailbox. -/
def told (s : State) (m : Vector Word 16) : State :=
  s.modForme 0 (fun x => { x with mbox := { x.mbox with inData := m, full := true } })

def copy0 : ImageCopy := { (default : ImageCopy) with gen := 5, chunks := 2, pages := 4, shareMask := 1, bad := [1] }

def onI (g : Inker → Inker) : State := onF (fun x => { x with inker := g x.inker })

def bound (i : ImageCopy) : State :=
  onI (fun k => { k with bindings := k.bindings.set 0 { Binding.reset with image := some i } })

def inkMsg : Vector Word 16 := msg 1 0x400000 0

def inking (c : Option ImageCopy) (st : BitVec 3) (done : BitVec 32) : State :=
  onI (fun k => { k with req := some { inkReq inkMsg with copy := c }, state := st, done := done })

def req0 (c : Option ImageCopy) : InkReq := { inkReq inkMsg with copy := c }

def dir0 : ImageDir :=
  { tensors := [{ handle := 1, format := 0x24, rows := 64, cols := 64, offset := 0, qdesc := 0 }], descriptors := [default], parts := [] }

def inkHead (n : Nat) : InkHeader :=
  { blob := (image 4096 [(0, 0x24100001_4B4E494B), (8, n)]).blob, lead := .data [] }

/-- A torus of four modules by one, this one at its origin. -/
def torus (s : State) : State := { s with selfReg := 0x01040000 }

def onL (g : Link → Link) : State := (torus one).modLink 0 g

def flit0 : AczFlit := { seq := 0, ack := 0, nak := false, type := 0, credits := Vector.replicate 8 255, packets := [], crcOk := true }

/-- The module has job 9 open and link 0 up. -/
def jobs (j : Job) : State := linkUp (torus (onJ j))

def packet0 (t : BitVec 4) (b : PacketBody) : Packet :=
  { (default : Packet) with ptype := t, src := 1, dst := 0, jobId := 9, arg := 1, body := b, tagOk := true }

/-- The job's slug waits for what another module holds, or has stored there. -/
def remotes : State :=
  (jobs job0).modForme 0 (fun x => { (x.setRing 0 { ringUp with tail := 1, head := 1 }) with
    matters := [matterOf (verOf [opRelease] [])], launches := [token], ctxs := [ctx0]
    slugs := [{ slug0 with wait := .remote, asked := [(0x80010000000000, 64)], askedAt := 4000, storesAt := 4000, remoteDue := [1] }] })

def slugR : Slug :=
  { slug0 with wait := .remote, asked := [(0x80010000000000, 64)], askedAt := 4000, storesAt := 4000, remoteDue := [1] }

/-- A job of this module and its neighbour. -/
def pair : Job := { job0 with nxj := 2, window := some (4990, 5000, 8, 1, 0) }

/-- A gather of two elements. -/
def opColl : OpRec := op [0x810107, 0, 2]

def coll0 : Coll := { (default : Coll) with tag := 3, k := 1, op := opWord opColl 0, elements := 2, joinAt := 4992, stroke := 4990, input := [0, 0] }

def colls (j : Job) (sl : Slug) : State :=
  (jobs j).modForme 0 (fun x => { (x.setRing 0 { ringUp with tail := 1, head := 1 }) with
    matters := [matterOf (verOf [opColl] [])], launches := [token], ctxs := [ctx0], slugs := [sl] })

theorem only_job {s : State} {f : FormeId} {k : JobSlot} {j0 : Job} {P : Job → Prop} (h : (s.forme f).job k = some j0) (hp : P j0) :
    ∀ j, (s.forme f).job k = some j → P j := fun _ e => Option.some.inj (h.symm.trans e) ▸ hp

def moving (c : Coll) : Job := { pair with coll := some { c with moving := true } }

/-- A JOB_OPEN of modules 0 and 1 in slot 0. -/
def openMsg (id : Nat) : Vector Word 16 := (msg 3 id 0x01002000).set 3 1

def jobW : Job := { job0 with nxj := 2, isOpen := false, keyed := false, waiting := some 7, since := 0 }

def offer (ok : Bool) : JobKeyMsg :=
  { jobId := 9, member := 1, certOk := true, sigOk := ok, signerHash := 0, fwSvn := 0, unwrapOk := true }

def onP (g : Port → Port) : State := one.modPort 0 g

def later (s : State) (n : Word) : State := { s with time := { s.time with ticks := n } }

def ask (use : EcpUse) (write : Bool) : EcpReq := { (default : EcpReq) with tag := 9, use := use, addr := 0x1000, write := write }

/-- A slug that waits for two bytes of host memory, and the port's request for them. -/
def slugH : Slug := { slug0 with wait := .remote, asked := [(0x40000000001000, 2)] }

def hosts : State :=
  (runs [opRelease] [] slugH).modPort 0 (fun p => { p with reqs := [ask (.slugRead 0 3) false] })

def writes : State :=
  (runs [opRelease] [] slugH).modPort 0 (fun p => { p with reqs := [ask (.slugWrite 0 3) true] })

def eflit : EcpFlit := { seq := 0, ack := 0, nak := false, type := 0, credits := Vector.replicate 4 255, crcOk := true }

def explicit1 : State := onF (fun x => { x with makeup := { x.makeup with explicitActive := 1 } })

/-- An operator's key is fused, the imposition allows every scope, and a nonce is on its last tick. -/
def trusted (m : Vector Word 16) : State :=
  asked { later one 1000000 with
    fuses := { one.fuses with operator := one.fuses.operator.set 0 { hash := 5, programmed := true, revoked := false } }
    colo := { one.colo with committed := some { imp1 with debugScopes := 7 }, nonce := some (1, 1) } } m

def fuse (ok : Bool) : FuseRequest := { field := 3, slot := 0, value := 77, keyHash := 5, sigOk := true, blown := ok }

/-- The plan in force is the one the key of the state asks for. -/
def keyed (s : State) : State :=
  let k := keyWith s 0 (tuneWord (s.forme 0).makeup)
  s.modForme 0 (fun x => { x with makeup := { x.makeup with key := some k } })

/-- The step reads sheet 0 of tensor 11, at home in page 5 of stack space. -/
def stages : State :=
  (runs [opProduct] [ten 11 0x24 2 1, ten 12 0x24 1 2, ten 13 0x30 1 1] { slug0 with inStep := true }).modForme 0 (fun x => { x with
    sched := { x.sched with stepOn := true }, makeup := { x.makeup with plan := [plan0] } })

/-- Context 1 leaves for context 2, its one sheet in page 0 of core 0. -/
def leaves : State :=
  (onW (fun w => { w with state := 1, incoming := some 2, victim := some 1, toCopy := [(0, 0, 0)] })).modForme 0 (fun x => { x with
    ctxs := [{ ctx0 with state := .swappingOut }, { ctx0 with num := 2, state := .swapped }] })

/-- Context 2 comes in: its one sheet is in page 3 of the save area, and its home is page 5 of core 0. -/
def comesIn : State :=
  (onW (fun w => { w with state := 2, incoming := some 2 })).modForme 0 (fun x => { x with
    ctxs := [{ ctx0 with num := 2, state := .swapped, image := 1, imageAt := .save [3], saved := [{ plan0 with sheet := { plan0.sheet with ctx := 2 } }] }],
    makeup := { x.makeup with plan := [{ plan0 with sheet := { plan0.sheet with ctx := 2 }, home := .galley 0 5 }] } })

/-- The last page of context 1's image is in core 0's slice, for page 3 of the save area. -/
def drains : State :=
  (onW (fun w => { w with state := 2, incoming := some 2, victim := some 1, slice := [(0, 0, 3056)] })).modForme 0 (fun x => { x with
    ctxs := [{ ctx0 with state := .swapped, imageAt := .save [3] }] })

/-! ### Witnesses of the hypotheses -/

theorem test_StepRunsFrontCommand_2 :
    ∃ (s : State), s.pending = [] :=
  ⟨one, by decide +kernel⟩

theorem test_StepKeepsMemoryCanonical_1 :
    ∃ (s : State) (t : State), step s = .next t ∧ MemoryOk s :=
  ⟨one.withFront .currentLimitEngage, _, rfl, by decide +kernel⟩

theorem test_FusesOnlyBlow_1 :
    ∃ (i : Instr) (s : State) (t : State), exec i s = .next t :=
  ⟨.currentLimitEngage, one, _, rfl⟩

theorem test_OutputsAndDrawsOnlyGrow_1 :
    ∃ (i : Instr) (s : State) (t : State), exec i s = .next t :=
  ⟨.currentLimitEngage, one, _, rfl⟩

theorem test_ColdResetRuns_1 :
    ∃ (s : State) (v : BitVec 16) (c : FwCopy) (b : Bool), (s.boot.power = .standby ∨ s.boot.power = .absent) ∧ s.boot.platenUp
    = false ∧ s.boot.code = 0 ∧ 2000 < v.toNat ∧ acceptFw s s.flash.platen = some (c, b) :=
  ⟨cold, 4800, (fw 1).a, false, by decide +kernel⟩

theorem test_ColdResetRuns_2 :
    ∃ (s : State) (v : BitVec 16), (s.boot.power = .standby ∨ s.boot.power = .absent) ∧ s.boot.platenUp = false ∧ s.boot.code =
    0 ∧ 2000 < v.toNat ∧ acceptFw s s.flash.platen = none :=
  ⟨{ cold with flash := { flash0 with platen := badFw } }, 2001, by decide +kernel⟩

theorem test_ColdResetRuns_3 :
    ∃ (v : BitVec 16), v.toNat ≤ 2000 :=
  ⟨2000, by decide +kernel⟩

theorem test_SupplyAndResetInput_1 :
    ∃ (s : State) (v : BitVec 16) (us : Nat), s.boot.platenUp = true ∧ 2000 < v.toNat ∧ ((v.toNat < 4600 ∧ 10 ≤ us) ∨ 6000 <
    v.toNat) ∧ (s.boot.power = .on ∨ s.boot.power = .resetHeld ∨ s.boot.power = .standby) :=
  ⟨one, 4599, 10, by decide +kernel⟩

theorem test_SupplyAndResetInput_2 :
    ∃ (s : State) (v : BitVec 16) (us : Nat), s.boot.platenUp = true ∧ 2000 < v.toNat ∧ (4600 ≤ v.toNat ∨ us < 10) ∧ v.toNat ≤
    6000 :=
  ⟨one, 6000, 10, by decide +kernel⟩

theorem test_SupplyAndResetInput_3 :
    ∃ (s : State) (v : BitVec 16) (ms : Nat), s.boot.power = .supplyFault ∧ s.boot.rstHigh = true ∧ 4800 ≤ v.toNat ∧ v.toNat ≤
    5800 ∧ 100 ≤ ms :=
  ⟨onB (fun x => { x with power := .supplyFault }), 4800, 100, by decide +kernel⟩

theorem test_SupplyAndResetInput_4 :
    ∃ (s : State) (us : Nat), s.boot.platenUp = true ∧ 100 ≤ us ∧ s.boot.power = .on :=
  ⟨one, 100, by decide +kernel⟩

theorem test_SupplyAndResetInput_5 :
    ∃ (us : Nat), us < 100 :=
  ⟨99, by decide +kernel⟩

theorem test_SupplyAndResetInput_6 :
    ∃ (s : State), s.boot.platenUp = true ∧ s.boot.rstHigh = false ∧ s.boot.power = .resetHeld :=
  ⟨onB (fun x => { x with power := .resetHeld, rstHigh := false }), by decide +kernel⟩

theorem test_BootSteps_1 :
    ∃ (s : State) (l : FwCopy) (c : FwCopy) (k : FwCopy) (lb : Bool) (cb : Bool) (kb : Bool), s.boot.power = .on ∧ s.boot.phase
    = 2 ∧ acceptFw s s.flash.loader = some (l, lb) ∧ acceptFw s s.flash.colophon = some (c, cb) ∧ acceptFw s s.flash.compositor
    = some (k, kb) :=
  ⟨seven, (fw 3).a, (fw 5).a, (fw 7).a, false, false, false, by decide +kernel⟩

theorem test_BootSteps_2 :
    ∃ (s : State), s.boot.power = .on ∧ s.boot.phase = 2 ∧ acceptFw s s.flash.loader = none :=
  ⟨{ seven with flash := { flash0 with loader := badFw } }, by decide +kernel⟩

theorem test_BootSteps_3 :
    ∃ (s : State) (l : FwCopy) (lb : Bool), s.boot.power = .on ∧ s.boot.phase = 2 ∧ acceptFw s s.flash.loader = some (l, lb) ∧
    acceptFw s s.flash.colophon = none :=
  ⟨{ seven with flash := { flash0 with colophon := badFw } }, (fw 3).a, false, by decide +kernel⟩

theorem test_BootSteps_4 :
    ∃ (s : State) (l : FwCopy) (c : FwCopy) (lb : Bool) (cb : Bool), s.boot.power = .on ∧ s.boot.phase = 2 ∧ acceptFw s
    s.flash.loader = some (l, lb) ∧ acceptFw s s.flash.colophon = some (c, cb) ∧ acceptFw s s.flash.compositor = none :=
  ⟨{ seven with flash := { flash0 with compositor := badFw } }, (fw 3).a, (fw 5).a, false, false, by decide +kernel⟩

theorem test_BootSteps_5 :
    ∃ (s : State), s.boot.power = .on ∧ s.boot.phase = 6 ∧ standingRecord s = none ∧ s.stack.retired = false ∧ s.boot.code ≠
    0x1504 :=
  ⟨{ seven with boot := { seven.boot with phase := 6 } }, by decide +kernel⟩

theorem test_ThermalAndEnergy_1 :
    ∃ (s : State) (js : Vector (BitVec 8) 10), s.boot.platenUp = true ∧ s.time.ticks.toNat % 1000 = 0 ∧ (∀ k : Fin 10,
    js[k.val].toNat < 105) :=
  ⟨one, js 104, by decide +kernel⟩

theorem test_ThermalAndEnergy_2 :
    ∃ (s : State) (js : Vector (BitVec 8) 10), s.boot.platenUp = true ∧ s.time.ticks.toNat % 1000 = 0 ∧ s.boot.power = .on ∧ (∃
    k : Fin 10, 105 ≤ js[k.val].toNat) :=
  ⟨one, js 105, by decide +kernel⟩

theorem test_ThermalAndEnergy_3 :
    ∃ (s : State), s.boot.power = .on ∧ s.time.ticks.toNat % 1000 = 0 ∧ s.time.ticks ≠ s.platen.lastClose :=
  ⟨one, by decide +kernel⟩

theorem test_ThermalAndEnergy_4 :
    ∃ (s : State), s.boot.power = .on :=
  ⟨one, by decide +kernel⟩

theorem test_FunctionReset_1 :
    ∃ (s : State) (h : HostReq) (f : FormeId) (c : FormeCfg), hostTarget s h = .forme f ∧ (s.forme f).cfg = some c ∧
    s.colo.opening = none ∧ s.colo.reimp = none :=
  ⟨one, hf, 0, cfg0, by decide +kernel⟩

theorem test_FunctionReset_2 :
    ∃ (s : State) (f : FormeId), (s.forme f).domainsOff = true ∧ 100 ≤ (s.time.ticks - (s.forme f).offSince).toNat :=
  ⟨onF (fun x => { x with domainsOff := true, offSince := 4900 }), 0, by decide +kernel⟩

theorem test_FunctionReset_3 :
    ∃ (s : State) (o : Opening), s.colo.opening = some o ∧ o.domainsOff = true ∧ 100 ≤ (s.time.ticks - o.offSince).toNat :=
  ⟨onC (fun x => { x with opening := some opening0 }), opening0, by decide +kernel⟩

theorem test_FunctionReset_4 :
    ∃ (s : State) (f : FormeId) (c : FormeCfg), (s.forme f).cfg = some c ∧ (s.forme f).ecp.phase = 4 ∧ s.colo.mgmtOnly = false :=
  ⟨onF (fun x => { x with ecp := { x.ecp with phase := 4 } }), 0, cfg0, by decide +kernel⟩

theorem test_FunctionReset_5 :
    ∃ (s : State) (f : FormeId) (c : FormeCfg), (s.forme f).cfg = some c ∧ (s.forme f).ecp.phase = 4 :=
  ⟨onF (fun x => { x with ecp := { x.ecp with phase := 4 } }), 0, cfg0, by decide +kernel⟩

theorem test_Impose_1 :
    ∃ (s : State) (p : PortId) (m : Vector Word 16), Delivered s (.secure p) 0x0101 m ∧ impBusy s = false ∧ s.stack.retired =
    false ∧ m[2] = 65536 :=
  ⟨asked one (msg 0x0101 0x1000 65536), 0, msg 0x0101 0x1000 65536, by decide +kernel⟩

theorem test_Impose_2 :
    ∃ (s : State) (p : PortId) (m : Vector Word 16), Delivered s (.secure p) 0x0101 m ∧ (impBusy s = true ∨ s.stack.retired =
    true) :=
  ⟨asked (onC (fun x => { x with phase := 1 })) (msg 0x0101 0x1000 65536), 0, msg 0x0101 0x1000 65536, by decide +kernel⟩

theorem test_Impose_3 :
    ∃ (s : State) (p : PortId) (tag : BitVec 16), s.colo.phase = 1 ∧ s.colo.requester = some (p, tag) :=
  ⟨onC fetching, 0, 7, by decide +kernel⟩

theorem test_Impose_4 :
    ∃ (s : State) (p : PortId) (tag : BitVec 16) (img : SignedImage) (e : ImpRefusal), s.colo.phase = 1 ∧ s.colo.requester =
    some (p, tag) ∧ impCheck s s.colo.committed { img with sigOk := signatureVerdict s img } = some e :=
  ⟨onC fetching, 0, 7, image 65536 [], (1, 0, 0), by decide +kernel⟩

theorem test_Impose_5 :
    ∃ (s : State) (p : PortId) (tag : BitVec 16) (img : SignedImage), s.colo.phase = 1 ∧ s.colo.requester = some (p, tag) ∧
    impCheck s s.colo.committed { img with sigOk := signatureVerdict s img } = none ∧ s.colo.seq.toNat < (impParse
    img.blob).sequence.toNat :=
  ⟨onC fetching, 0, 7, image1, by decide +kernel⟩

theorem test_ImpositionBusy_1 :
    ∃ (s : State) (p : PortId) (m : Vector Word 16), Delivered s (.secure p) 0x0101 m ∧ s.colo.phase ≠ 0 :=
  ⟨asked (onC (fun x => { x with phase := 2 })) (msg 0x0101 0x1000 65536), 0, msg 0x0101 0x1000 65536, by decide +kernel⟩

theorem test_ReimpositionPhases_1 :
    ∃ (s : State) (r : Reimp), s.colo.reimp = some r ∧ s.colo.phase = 2 ∧ (∀ f ∈ stillNamed r, (∀ l ∈ (s.forme f).launches,
    launchOpen l = false) ∧ ∀ g : RingId, ((s.forme f).ring g).fetching = false) :=
  ⟨onC (fun x => { x with phase := 2, reimp := some reimp0 }), reimp0, by decide +kernel⟩

theorem test_ReimpositionPhases_2 :
    ∃ (s : State) (r : Reimp), s.colo.reimp = some r ∧ s.colo.phase = 3 ∧ (∀ f ∈ stillNamed r, (s.forme f).domainsOff = false) ∧
    (∀ f ∈ stillNamed r, pastUsable s r.imp f.val = false) ∧ s.colo.mgmtOnly = false :=
  ⟨onC (fun x => { x with phase := 3, reimp := some reimp0 }), reimp0, by decide +kernel⟩

theorem test_ReimpositionPhases_3 :
    ∃ (s : State) (r : Reimp), s.colo.reimp = some r ∧ s.colo.phase = 6 ∧ (∀ f : FormeId, pastUsable s r.imp f.val = false) :=
  ⟨onC (fun x => { x with phase := 6, reimp := some reimp0 }), reimp0, by decide +kernel⟩

theorem test_StrokeCounters_1 :
    ∃ (s : State), s.boot.platenUp = true :=
  ⟨one, by decide +kernel⟩

theorem test_StrokeCounters_2 :
    ∃ (s : State), s.boot.platenUp = true :=
  ⟨one, by decide +kernel⟩

theorem test_StrokeSources_1 :
    ∃ (s : State) (edges : Vector PairEdge 128) (n : Word), s.time.state = .unlocked ∧ s.time.active = 7 ∧ sourceNamed s 0 =
    true ∧ frameNumber edges.toList = some n ∧ 1 ≤ (s.source 0).run ∧ n = (s.source 0).last + 128 :=
  ⟨(onT (fun x => { x with state := .unlocked, active := 7 })).modSource 0 (fun m => { m with run := 1, last := 256 }), frame
  384, 384, by decide +kernel⟩

theorem test_StrokeSources_2 :
    ∃ (s : State) (edges : Vector PairEdge 128), s.time.active = 0 ∧ s.time.state = .locked ∧ frameNumber edges.toList = none ∧
    (s.source 0).bad = 0 :=
  ⟨one, Vector.replicate 128 { periodPs := 1000000, highNs := 200 }, by decide +kernel⟩

theorem test_StrokeSources_3 :
    ∃ (s : State) (edges : Vector PairEdge 128), s.time.active = 0 ∧ s.time.state = .locked ∧ frameNumber edges.toList = some
    s.time.stroke :=
  ⟨one, frame 5000, by decide +kernel⟩

theorem test_StrokeSources_4 :
    ∃ (s : State) (l : LinkId) (m : MarkFlit), s.time.state = .unlocked ∧ s.time.active = 7 ∧ sourceNamed s (markSource l) =
    true ∧ markOk s l m = true ∧ 15 ≤ (s.source (markSource l)).run ∧ m.stroke = (s.source (markSource l)).last + 1 :=
  ⟨(linkUp (onT (fun x => { x with state := .unlocked, active := 7 }))).modSource 1 (fun m =>
  { m with run := 15, last := 255 }), 0, mark0 256, by decide +kernel⟩

theorem test_StrokeSources_5 :
    ∃ (s : State) (l : LinkId) (m : MarkFlit), s.time.state = .locked ∧ s.time.active.toNat = l.val + 1 ∧ markOk s l m = true ∧
    m.stroke = s.time.stroke :=
  ⟨linkUp (onT (fun x => { x with active := 1 })), 0, mark0 5000, by decide +kernel⟩

theorem test_StrokeSources_6 :
    ∃ (s : State), s.time.state = .locked ∧ s.time.active ≠ 7 ∧ (∀ i : Fin 7, sourceNamed s i = true → i.val =
    s.time.active.toNat ∨ (s.source i).locked = false) :=
  ⟨one, by decide +kernel⟩

theorem test_StrokeSources_7 :
    ∃ (s : State), s.time.state = .holdover ∧ s.time.lastLocked.toNat + 1000000 ≤ s.time.stroke.toNat :=
  ⟨onT (fun x => { x with state := .holdover, stroke := 1005000 }), by decide +kernel⟩

theorem test_StrokeSources_8 :
    ∃ (s : State), s.time.stroke.toNat < s.time.lastLocked.toNat + 1000000 :=
  ⟨onT (fun x => { x with state := .holdover, stroke := 1004999 }), by decide +kernel⟩

theorem test_TableAndWindows_1 :
    ∃ (s : State) (h : HostReq) (f : FormeId), hostTarget s h = .forme f ∧ (s.forme f).mrt.sampled = none :=
  ⟨one, hf, 0, by decide +kernel⟩

theorem test_TableAndWindows_2 :
    ∃ (s : State) (h : HostReq) (f : FormeId), hostTarget s h = .forme f ∧ (s.forme f).mrt.sampled.isSome = true :=
  ⟨tabled 5064, hf, 0, by decide +kernel⟩

theorem test_TableAndWindows_3 :
    ∃ (s : State) (f : FormeId) (a : BitVec 51) (n : BitVec 9) (st : Word) (es : List MrtEntry), (s.forme f).mrt.sampled = some
    (a, n, st) ∧ mrtStatus s f ((mrtRead s f (a.zeroExtend 56 <<< 5) n.toNat).map (·.1)) st = .ok es :=
  ⟨tabled 5064, 0, 0x8000, 1, 5064, [ent 1 6000 0 0], by decide +kernel, rfl⟩

theorem test_TableAndWindows_4 :
    ∃ (s : State) (f : FormeId) (a : BitVec 51) (n : BitVec 9) (st : Word) (c : Code) (i : Nat), (s.forme f).mrt.sampled = some
    (a, n, st) ∧ mrtStatus s f ((mrtRead s f (a.zeroExtend 56 <<< 5) n.toNat).map (·.1)) st = .error (c, i) :=
  ⟨tabled 5063, 0, 0x8000, 1, 5063, 0x0301, 0, by decide +kernel, rfl⟩

theorem test_TableAndWindows_5 :
    ∃ (s : State) (f : FormeId) (es : List MrtEntry) (st : Word), (s.forme f).mrt.armed = some (es, st) ∧ st.toNat ≤ (formeCount
    s f).toNat :=
  ⟨onM (fun m => { m with armed := some ([ent 1 6000 0 0], 5000) }), 0, [ent 1 6000 0 0], 5000, by decide +kernel⟩

theorem test_TableAndWindows_6 :
    ∃ (s : State) (f : FormeId) (es : List MrtEntry) (st : Word), (s.forme f).mrt.armed = some (es, st) ∧ (formeCount s f).toNat
    < st.toNat :=
  ⟨onM (fun m => { m with armed := some ([ent 1 6000 0 0], 5001) }), 0, [ent 1 6000 0 0], 5001, by decide +kernel⟩

theorem test_TableAndWindows_7 :
    ∃ (s : State) (f : FormeId) (i : BitVec 8) (e : MrtEntry), (tableNow s f)[i.toNat]? = some e ∧ mrtKind e = 3 ∧ occursAt e
    (formeCount s f) = true ∧ (s.forme f).mrt.windows = [] :=
  ⟨onM (fun m => { m with table := [ent 3 5000 10 1] }), 0, 0, ent 3 5000 10 1, by decide +kernel⟩

theorem test_TableAndWindows_8 :
    ∃ (s : State) (f : FormeId) (i : BitVec 8) (w : OpenWindow), (s.forme f).mrt.windows = [w] ∧ w.entry = i.toNat ∧ mrtKind
    w.words = 3 ∧ w.last.toNat < (formeCount s f).toNat :=
  ⟨onM (fun m => { m with windows := [window0 (ent 3 4990 10 1)] }), 0, 0, window0 (ent 3 4990 10 1), by decide +kernel⟩

theorem test_TableAndWindows_9 :
    ∃ (s : State) (f : FormeId) (i : BitVec 8) (e : MrtEntry) (j : Job), (tableNow s f)[i.toNat]? = some e ∧ mrtKind e = 2 ∧
    occursAt e (formeCount s f) = true ∧ (s.forme f).mrt.windows = [] ∧ (s.time.state = .locked ∨ s.time.state = .holdover) ∧
    (s.forme f).job (Fin.ofNat 64 (fld e.w3 5 0)) = some j ∧ j.isOpen = true :=
  ⟨(onJ job0).modForme 0 (fun x => { x with mrt := { x.mrt with table := [ent 2 5000 10 0x01000800] } }), 0, 0, ent 2 5000 10
  0x01000800, job0, by decide +kernel⟩

theorem test_TableAndWindows_10 :
    ∃ (s : State) (f : FormeId) (i : BitVec 8) (w : OpenWindow) (j : Job), (s.forme f).mrt.windows = [w] ∧ w.entry = i.toNat ∧
    mrtKind w.words = 2 ∧ w.last.toNat < (formeCount s f).toNat ∧ (s.forme f).job (Fin.ofNat 64 (fld w.words.w3 5 0)) = some j ∧
    j.window.map (·.1) = some w.opened ∧ j.coll = none ∧ (s.forme f).slugs = [] :=
  ⟨(onJ { job0 with window := some (4990, 5000, 8, 1, 0) }).modForme 0 (fun x =>
  { x with mrt := { x.mrt with windows := [window0 (ent 2 4990 10 0x01000800)] } }), 0, 0, window0 (ent 2 4990 10 0x01000800),
  { job0 with window := some (4990, 5000, 8, 1, 0) }, by decide +kernel⟩

theorem test_BoundariesAndShares_1 :
    ∃ (s : State) (f : FormeId) (arg : Word), (s.forme f).cfg.isSome = true ∧ (s.forme f).live = true ∧ (s.forme f).domainsOff =
    false ∧ boundaryArg s f = some arg :=
  ⟨one, 0, 0, by decide +kernel⟩

theorem test_BoundariesAndShares_2 :
    ∃ (s : State) (f : FormeId) (arg : Word), (s.forme f).cfg.isSome = true ∧ (s.forme f).live = true ∧ (s.forme f).domainsOff =
    false ∧ boundaryArg s f = some arg ∧ (s.forme f).sched.stepOn = true ∧ (s.forme f).sched.tuneReg.getLsbD 32 = false :=
  ⟨onF (fun x => { x with sched := { x.sched with stepOn := true }, mrt := { x.mrt with table := [ent 1 5000 10 0] } }), 0, 0,
  by decide +kernel⟩

theorem test_BoundariesAndShares_3 :
    ∃ (s : State) (f : FormeId) (arg : Word), (s.forme f).cfg.isSome = true ∧ (s.forme f).live = true ∧ (s.forme f).domainsOff =
    false ∧ boundaryArg s f = some arg ∧ (s.forme f).sched.stepOn = false ∧ arg.getLsbD 24 = false ∧ accountOver s f = false ∧
    (let s2 := bindingBoundary (s.modForme f (fun x =>
    { x with sched := { latchSched x.sched with lastBoundary := some (s.time.ticks, formeCount s f) } })) f; startBarred s2 f =
    false ∧ planDue s2 f = false ∧ (s2.liveCores f).isEmpty = false ∧ (candidates (s2.forme f)).isEmpty = false) :=
  ⟨keyed (runs [opRelease] [] { slug0 with state := .queued }), 0, 0, by decide +kernel⟩

theorem test_BoundariesAndShares_4 :
    ∃ (s : State) (f : FormeId) (c : FormeCfg), (s.forme f).cfg = some c ∧ (s.forme f).sched.periodInForce ≤ (s.time.ticks -
    (s.forme f).sched.periodStart).toNat :=
  ⟨onF (fun x => { x with sched := { x.sched with periodStart := 4000 } }), 0, cfg0, by decide +kernel⟩

theorem test_StepFormationBounds_1 :
    ∃ (eighths : Nat), eighths ≤ 8 :=
  ⟨8, by decide +kernel⟩

theorem test_Doorbells_1 :
    ∃ (s : State) (h : HostReq) (f : FormeId) (r : RingId) (v : Word), hostTarget s h = .forme f ∧ ringExists (s.forme f) r =
    true ∧ ((s.forme f).ring r).state ≠ 0 ∧ (((s.forme f).ring r).head - ((s.forme f).ring r).done).toNat ≤ ((v.truncate 48 :
    Seq) - ((s.forme f).ring r).done).toNat ∧ ((v.truncate 48 : Seq) - ((s.forme f).ring r).done).toNat ≤ 2 ^ ((s.forme f).ring
    r).depth.toNat :=
  ⟨onR ringUp, hf, 0, 0, 16, by decide +kernel⟩

theorem test_Doorbells_2 :
    ∃ (s : State) (h : HostReq) (f : FormeId) (r : RingId) (v : Word), hostTarget s h = .forme f ∧ ringExists (s.forme f) r =
    true ∧ (((s.forme f).ring r).state = 0 ∨ ((v.truncate 48 : Seq) - ((s.forme f).ring r).done).toNat < (((s.forme f).ring
    r).head - ((s.forme f).ring r).done).toNat ∨ 2 ^ ((s.forme f).ring r).depth.toNat < ((v.truncate 48 : Seq) - ((s.forme
    f).ring r).done).toNat) :=
  ⟨onR ringUp, hf, 0, 0, 17, by decide +kernel⟩

theorem test_Doorbells_3 :
    ∃ (s : State) (h : HostReq) (f : FormeId) (r : RingId), hostTarget s h = .forme f ∧ ringExists (s.forme f) r = true :=
  ⟨one, hf, 0, 63, by decide +kernel⟩

theorem test_RingControl_1 :
    ∃ (s : State) (h : HostReq) (f : FormeId) (r : RingId), hostTarget s h = .forme f ∧ ringExists (s.forme f) r = true ∧
    ((s.forme f).ring r).enable = false :=
  ⟨one, hf, 0, 0, by decide +kernel⟩

theorem test_RingControl_2 :
    ∃ (s : State) (h : HostReq) (f : FormeId) (r : RingId), hostTarget s h = .forme f ∧ ringExists (s.forme f) r = true ∧
    ((s.forme f).ring r).enable = true ∧ ((s.forme f).ring r).state ≠ 2 ∧ ((s.forme f).ring r).held = [] ∧ ((s.forme f).ring
    r).fetching = false ∧ ((s.forme f).ring r).written = [] ∧ (∀ l ∈ (s.forme f).launches, l.ring ≠ r) :=
  ⟨onR ringUp, hf, 0, 0, by decide +kernel⟩

theorem test_RingControl_3 :
    ∃ (s : State) (h : HostReq) (f : FormeId) (r : RingId), hostTarget s h = .forme f ∧ ringExists (s.forme f) r = true ∧
    ((s.forme f).ring r).enable = true ∧ ((s.forme f).ring r).state ≠ 2 ∧ (∃ l ∈ (s.forme f).launches, l.ring = r) :=
  ⟨(onR ringUp).modForme 0 (fun x => { x with launches := [launch0 (entry 1 0 0)] }), hf, 0, 0, by decide +kernel⟩

theorem test_RingControl_4 :
    ∃ (s : State) (h : HostReq) (f : FormeId) (r : RingId), hostTarget s h = .forme f ∧ ringExists (s.forme f) r = true ∧
    ((s.forme f).ring r).enable = true ∧ ((s.forme f).ring r).state = 2 :=
  ⟨onR { ringUp with state := 2 }, hf, 0, 0, by decide +kernel⟩

theorem test_RingControl_5 :
    ∃ (s : State) (h : HostReq) (f : FormeId) (r : RingId) (c : FormeCfg) (k : Record) (ks : List Record), hostTarget s h =
    .forme f ∧ ringExists (s.forme f) r = true ∧ ((s.forme f).ring r).state = 2 ∧ holdWriteOut s f r = false ∧ (s.forme f).cfg =
    some c ∧ ((s.forme f).ring r).heldResults = [] ∧ ((s.forme f).ring r).held = k :: ks :=
  ⟨onR { ringUp with state := 2, held := [rec0] }, hf, 0, 0, cfg0, rec0, [], by decide +kernel⟩

theorem test_RingControl_6 :
    ∃ (s : State) (h : HostReq) (f : FormeId) (r : RingId), hostTarget s h = .forme f ∧ ringExists (s.forme f) r = true ∧
    ((s.forme f).ring r).state = 2 ∧ holdWriteOut s f r = false ∧ ((s.forme f).ring r).heldResults = [] ∧ ((s.forme f).ring
    r).held = [] ∧ ((s.forme f).ring r).written = [] ∧ ((s.forme f).ring r).disableMemo = false :=
  ⟨onR { ringUp with state := 2 }, hf, 0, 0, by decide +kernel⟩

theorem test_RingControl_7 :
    ∃ (s : State) (h : HostReq) (f : FormeId) (r : RingId), hostTarget s h = .forme f ∧ ((s.forme f).ring r).state ≠ 2 :=
  ⟨onR ringUp, hf, 0, 0, by decide +kernel⟩

theorem test_EntriesFetchAndArrive_1 :
    ∃ (s : State) (f : FormeId) (c : FormeCfg) (r : RingId), (s.forme f).cfg = some c ∧ formeBusy (s.forme f) < guarantee c ∧
    (visitOrder (s.forme f)).find? (ringCanFetch (s.forme f)) = some r :=
  ⟨onR { ringUp with tail := 1 }, 0, cfg0, 0, by decide +kernel⟩

theorem test_EntriesFetchAndArrive_2 :
    ∃ (s : State) (f : FormeId), (∀ r : RingId, ringCanFetch (s.forme f) r = false) :=
  ⟨one, 0, by decide +kernel⟩

theorem test_EntriesFetchAndArrive_3 :
    ∃ (s : State) (f : FormeId) (r : RingId), ((s.forme f).ring r).fetching = true :=
  ⟨onR ringWaits, 0, 0, by decide +kernel⟩

theorem test_EntriesFetchAndArrive_4 :
    ∃ (s : State) (f : FormeId) (r : RingId), ((s.forme f).ring r).fetching = true :=
  ⟨onR ringWaits, 0, 0, by decide +kernel⟩

theorem test_EntryOpcodes_1 :
    ∃ (s : State) (f : FormeId) (r : RingId) (e : RingEntry) (c : FormeCfg), ((s.forme f).ring r).fetching = true ∧ (s.forme
    f).cfg = some c ∧ ((s.forme f).ring r).state ≠ 2 ∧ (∀ l ∈ (s.forme f).launches, l.ring ≠ r) ∧ timerExpired s (bellTick
    ((s.forme f).ring r) ((s.forme f).ring r).head) = false ∧ entryOpcode e = 0 :=
  ⟨onR ringWaits, 0, 0, entry 0 0 0, cfg0, by decide +kernel⟩

theorem test_EntryOpcodes_2 :
    ∃ (s : State) (f : FormeId) (r : RingId) (e : RingEntry) (c : FormeCfg), ((s.forme f).ring r).fetching = true ∧ (s.forme
    f).cfg = some c ∧ ((s.forme f).ring r).state ≠ 2 ∧ (∀ l ∈ (s.forme f).launches, l.ring ≠ r) ∧ timerExpired s (bellTick
    ((s.forme f).ring r) ((s.forme f).ring r).head) = false ∧ entryOpcode e = 1 ∧ entrySeq e ≠ ((s.forme f).ring r).head :=
  ⟨onR ringWaits, 0, 0, entry 1 0 5, cfg0, by decide +kernel⟩

theorem test_EntryOpcodes_3 :
    ∃ (s : State) (f : FormeId) (r : RingId) (e : RingEntry) (v : Version), ((s.forme f).ring r).fetching = true ∧ (∀ l ∈
    (s.forme f).launches, l.ring ≠ r) ∧ timerExpired s (bellTick ((s.forme f).ring r) ((s.forme f).ring r).head) = false ∧
    entryOpcode e = 1 ∧ entryStatus (s.forme f) s.time.ticks ((s.forme f).ring r).head e = none ∧ pinVersion (s.forme f)
    s.time.ticks e = some v ∧ entryPositions e + entryNewPositions e ≤ 4194304 ∧ contextStatus s f e ((contextRecord s f
    (entryContext e)).map (·.1)) = none ∧ launchRefusal s f v e = none :=
  ⟨admits, 0, 0, entry 0x7_00010101 0 0 0x3FFFF00001 16, { ver1 with number := 1, since := 10 }, by decide +kernel⟩

theorem test_EntryOpcodes_4 :
    ∃ (s : State) (f : FormeId) (r : RingId) (e : RingEntry) (c : FormeCfg), ((s.forme f).ring r).fetching = true ∧ (s.forme
    f).cfg = some c ∧ (∀ l ∈ (s.forme f).launches, l.ring ≠ r) ∧ timerExpired s (bellTick ((s.forme f).ring r) ((s.forme f).ring
    r).head) = false ∧ entryStatus (s.forme f) s.time.ticks ((s.forme f).ring r).head e = none ∧ ((entryOpcode e = 2 ∧
    findMatter (s.forme f) (entryMatter e) = none) ∨ entryOpcode e = 3) :=
  ⟨onR ringWaits, 0, 0, entry 0x7_00000002 0 0 0 0 0x300000 4096, cfg0, by decide +kernel⟩

theorem test_EntryOpcodes_5 :
    ∃ (s : State) (f : FormeId) (r : RingId) (e : RingEntry), ((s.forme f).ring r).fetching = true ∧ (∀ l ∈ (s.forme
    f).launches, l.ring ≠ r) ∧ timerExpired s (bellTick ((s.forme f).ring r) ((s.forme f).ring r).head) = false ∧ entryStatus
    (s.forme f) s.time.ticks ((s.forme f).ring r).head e = none ∧ entryOpcode e = 4 :=
  ⟨admits, 0, 0, entry 0x7_00000004 0 0, by decide +kernel⟩

theorem test_ImagesAndReleases_1 :
    ∃ (s : State) (f : FormeId) (r : RingId) (q : Seq) (b : Blob) (l : Launch) (v : Version), findLaunch (s.forme f) r q = some
    l ∧ l.phase = .reading ∧ l.imposedStatus = none ∧ l.fault = none ∧ entryOpcode l.entry = 2 ∧ parseMatter b (entryLength
    l.entry) = some v ∧ findMatter (s.forme f) (entryMatter l.entry) = none ∧ matterRoomEver (s.forme f) (entryMatter l.entry)
    v.length = true ∧ matterRoom (s.forme f) (entryMatter l.entry) v.length = true :=
  ⟨onF (fun x => { x with launches := [{ launch0 (entry 0x7_00000002 0 0 0 0 0x300000 4096) with phase := .reading }] }), 0, 0,
  0, matter1.blob, { launch0 (entry 0x7_00000002 0 0 0 0 0x300000 4096) with phase := .reading }, ver1, by decide +kernel⟩

theorem test_ImagesAndReleases_2 :
    ∃ (s : State) (f : FormeId) (r : RingId) (q : Seq) (c : FormeCfg) (l : Launch), findLaunch (s.forme f) r q = some l ∧
    l.phase = .reading ∧ l.imposedStatus = none ∧ l.fault = none ∧ l.seq = q ∧ (s.forme f).cfg = some c ∧ ((s.forme f).ring
    r).state ≠ 2 :=
  ⟨onF (fun x => { x with launches := [{ launch0 (entry 0x7_00000002 0 0 0 0 0x300000 4096) with phase := .reading }] }), 0, 0,
  0, cfg0, { launch0 (entry 0x7_00000002 0 0 0 0 0x300000 4096) with phase := .reading }, by decide +kernel⟩

theorem test_ImagesAndReleases_3 :
    ∃ (s : State) (f : FormeId) (r : RingId) (c : FormeCfg) (l : Launch), (s.forme f).launches.find? (fun l => l.ring == r &&
    l.phase == .held) = some l ∧ findLaunch (s.forme f) r l.seq = some l ∧ mustHold (s.forme f) l = false ∧ timerExpired s
    l.timer = false ∧ entryOpcode l.entry = 0 ∧ entryStatus (s.forme f) s.time.ticks l.seq l.entry = none ∧ l.imposedStatus =
    none ∧ l.fault = none ∧ (s.forme f).cfg = some c ∧ ((s.forme f).ring r).state ≠ 2 :=
  ⟨(onR ringUp).modForme 0 (fun x => { x with launches := [{ launch0 (entry 0 0 0) with phase := .held }] }), 0, 0, cfg0,
  { launch0 (entry 0 0 0) with phase := .held }, by decide +kernel⟩

theorem test_ImagesAndReleases_4 :
    ∃ (s : State) (f : FormeId) (r : RingId) (l : Launch), (s.forme f).launches.find? (fun l => l.ring == r && l.phase == .held)
    = some l ∧ mustHold (s.forme f) l = true :=
  ⟨(onR ringUp).modForme 0 (fun x =>
  { x with launches := [launch0 (entry 1 0 0), { launch0 (entry 0x400 0 1) with phase := .held, seq := 1 }] }), 0, 0,
  { launch0 (entry 0x400 0 1) with phase := .held, seq := 1 }, by decide +kernel⟩

theorem test_LaunchesComplete_1 :
    ∃ (s : State) (f : FormeId) (r : RingId) (q : Seq) (c : FormeCfg) (l : Launch), findLaunch (s.forme f) r q = some l ∧
    launchReady (s.forme f) l = true ∧ (s.forme f).cfg = some c ∧ ((s.forme f).ring r).state ≠ 2 ∧ l.seq = q :=
  ⟨(runs [opRelease] [] { slug0 with state := .passed }).modForme 0 (fun x =>
  { x with launches := [{ token with ended := some 0 }] }), 0, 0, 0, cfg0, { token with ended := some 0 }, by decide +kernel⟩

theorem test_LaunchesComplete_2 :
    ∃ (s : State) (f : FormeId) (r : RingId) (q : Seq) (l : Launch), findLaunch (s.forme f) r q = some l ∧ launchReady (s.forme
    f) l = true ∧ ((s.forme f).ring r).state = 2 :=
  ⟨((runs [opRelease] [] { slug0 with state := .passed }).modForme 0 (fun x =>
  { (x.setRing 0 { ringUp with state := 2 }) with launches := [{ token with ended := some 0 }] })), 0, 0, 0,
  { token with ended := some 0 }, by decide +kernel⟩

theorem test_LaunchesComplete_3 :
    ∃ (s : State) (f : FormeId) (r : RingId) (q : Seq) (l : Launch), findLaunch (s.forme f) r q = some l ∧ l.phase = .writing ∧
    ((s.forme f).ring r).held = [] ∧ ((s.forme f).ring r).written = [] ∧ ((s.forme f).ring r).done = q :=
  ⟨(onR { ringUp with head := 1, tail := 1 }).modForme 0 (fun x =>
  { x with launches := [{ token with phase := .writing, record := some rec0 }] }), 0, 0, 0,
  { token with phase := .writing, record := some rec0 }, by decide +kernel⟩

theorem test_LaunchesComplete_4 :
    ∃ (s : State) (f : FormeId) (r : RingId) (q : Seq) (st : EcpStatus) (l : Launch) (k : Record), st ≠ .ok ∧ findLaunch
    (s.forme f) r q = some l ∧ l.phase = .writing ∧ l.record = some k ∧ k.seq = q ∧ ((s.forme f).ring r).written = [] ∧
    ((s.forme f).ring r).done = q ∧ ((s.forme f).ring r).entryFault = false :=
  ⟨(onR { ringUp with head := 1, tail := 1 }).modForme 0 (fun x =>
  { x with launches := [{ token with phase := .writing, record := some rec0 }] }), 0, 0, 0, .denied,
  { token with phase := .writing, record := some rec0 }, rec0, by decide +kernel⟩

theorem test_LaunchesComplete_5 :
    ∃ (s : State) (f : FormeId) (r : RingId) (q : Seq) (l : Launch), findLaunch (s.forme f) r q = some l ∧ l.phase = .running ∧
    timerExpired s l.timer = true ∧ launchReady (s.forme f) l = false ∧ ((s.forme f).ring r).heldResults = [] ∧ l.imposedStatus
    = none :=
  ⟨(runs [opRelease] [] slug0).modForme 0 (fun x => { x with launches := [{ token with timer := 4000 }] }), 0, 0, 0,
  { token with timer := 4000 }, by decide +kernel⟩

theorem test_ProgramsIssueAndEnd_1 :
    ∃ (s : State) (f : FormeId) (r : RingId) (q : Seq) (n : BitVec 16) (a : SlugTag) (l : Launch) (v : Version) (k : SlugRec),
    programLaunch s f r q = some l ∧ slugsInFlight (s.forme f) < 64 ∧ findVersion (s.forme f) (entryMatter l.entry) l.version =
    some v ∧ v.slugs[n.toNat]? = some k ∧ issueStatus s f l (slugOps v n.toNat) a = none :=
  ⟨runs [opRelease] [] slug0, 0, 0, 0, 0, 0xFFFF, token, verOf [opRelease] [], { ctrl := 1, firstOp := 0, opCount := 1 },
  by decide +kernel⟩

theorem test_ProgramsIssueAndEnd_2 :
    ∃ (s : State) (f : FormeId) (t : SlugTag) (sl : Slug), findSlug (s.forme f) t = some sl ∧ slugEnded sl = true :=
  ⟨runs [opRelease] [] { slug0 with state := .passed }, 0, 3, { slug0 with state := .passed }, by decide +kernel⟩

theorem test_ProgramsIssueAndEnd_3 :
    ∃ (s : State) (f : FormeId) (t : SlugTag) (sl : Slug), findSlug (s.forme f) t = some sl ∧ sl.state = .proved :=
  ⟨runs [opRelease] [] { slug0 with state := .proved }, 0, 3, { slug0 with state := .proved }, by decide +kernel⟩

theorem test_ProgramsIssueAndEnd_4 :
    ∃ (s : State) (f : FormeId) (r : RingId) (q : Seq) (st : Code) (a : Nat) (l : Launch) (v : Version), programLaunch s f r q =
    some l ∧ findVersion (s.forme f) (entryMatter l.entry) l.version = some v ∧ (st = 0 ∨ 0x8000 ≤ st.toNat) ∧ a + 32 ≤ (v.frame
    + 255) / 256 * 256 :=
  ⟨runs [opRelease] [] slug0, 0, 0, 0, 0x8000, 224, token, verOf [opRelease] [], by decide +kernel⟩

theorem test_ProgramsIssueAndEnd_5 :
    ∃ (s : State) (f : FormeId) (r : RingId) (q : Seq) (st : Code) (l : Launch), programLaunch s f r q = some l ∧ st ≠ 0 ∧
    st.toNat < 0x8000 :=
  ⟨runs [opRelease] [] slug0, 0, 0, 0, 0x7FFF, token, by decide +kernel⟩

theorem test_ProgramsIssueAndEnd_6 :
    ∃ (s : State) (f : FormeId) (r : RingId) (q : Seq) (l : Launch), programLaunch s f r q = some l :=
  ⟨runs [opRelease] [] slug0, 0, 0, 0, token, by decide +kernel⟩

theorem test_ResolveAndDetect_1 :
    ∃ (s : State) (f : FormeId) (t : SlugTag) (cut : Nat) (sl : Slug), (s.forme f).slugs = [sl] ∧ sl.tag = t ∧ sl.speculative =
    true ∧ sl.resolved = none ∧ sl.state = .proved ∧ 1 ≤ cut :=
  ⟨runs [opRelease] [] { slug0 with state := .proved, speculative := true }, 0, 3, 1,
  { slug0 with state := .proved, speculative := true }, by decide +kernel⟩

theorem test_ResolveAndDetect_2 :
    ∃ (s : State) (f : FormeId) (t : SlugTag) (sl : Slug), (s.forme f).slugs = [sl] ∧ sl.tag = t ∧ sl.resolved = none ∧
    (sl.state = .queued ∨ sl.state = .running ∨ sl.state = .proved) :=
  ⟨runs [opRelease] [] { slug0 with state := .proved, speculative := true }, 0, 3,
  { slug0 with state := .proved, speculative := true }, by decide +kernel⟩

theorem test_ResolveAndDetect_3 :
    ∃ (s : State) (f : FormeId) (t : SlugTag) (sl : Slug), (s.forme f).slugs = [sl] ∧ sl.tag = t ∧ sl.state = .running ∧ sl.wait
    ≠ .collective ∧ sl.sealed = none ∧ sl.inStep = false ∧ (s.liveCores f).isEmpty = false ∧ sl.runs < 2 :=
  ⟨runs [opRelease] [] { slug0 with runs := 1 }, 0, 3, { slug0 with runs := 1 }, by decide +kernel⟩

theorem test_ResolveAndDetect_4 :
    ∃ (s : State) (f : FormeId) (t : SlugTag) (sl : Slug), (s.forme f).slugs = [sl] ∧ sl.tag = t ∧ sl.state = .running ∧ sl.wait
    ≠ .collective ∧ (s.liveCores f).isEmpty = false ∧ 2 ≤ sl.runs :=
  ⟨runs [opRelease] [] { slug0 with runs := 2 }, 0, 3, { slug0 with runs := 2 }, by decide +kernel⟩

theorem test_ResolveAndDetect_5 :
    ∃ (s : State) (f : FormeId) (t : SlugTag) (sl : Slug), findSlug (s.forme f) t = some sl ∧ sl.state = .running ∧ sl.wait =
    .collective ∧ sl.heldDetect = none :=
  ⟨runs [opRelease] [] { slug0 with wait := .collective }, 0, 3, { slug0 with wait := .collective }, by decide +kernel⟩

theorem test_SlugsPassAndLand_1 :
    ∃ (s : State) (f : FormeId) (t : SlugTag) (sl : Slug), findSlug (s.forme f) t = some sl ∧ mayPass (s.forme f) sl = true ∧
    readsBad s f sl = false ∧ sl.matched = 0 ∧ hostProofs sl = [] :=
  ⟨runs [opRelease] [] { slug0 with state := .proved }, 0, 3, { slug0 with state := .proved }, by decide +kernel⟩

theorem test_SlugsPassAndLand_2 :
    ∃ (s : State) (f : FormeId) (t : SlugTag) (sl : Slug) (l : Launch) (a : Nat) (d : List Byte), MemoryOk s ∧ findSlug (s.forme
    f) t = some sl ∧ sl.state = .passing ∧ sl.wait = .none ∧ sl.written = false ∧ sl.proofs = [.galley a d] ∧ sl.matched = 0 ∧
    sl.appended = 0 ∧ sl.remoteDue = [] ∧ sl.released = 0 ∧ releaseOps (s.forme f) sl = [] ∧ useOut s (.result f sl.ring sl.seq)
    = false ∧ useOut s (.slugWrite f t) = false ∧ ((s.forme f).ring sl.ring).heldResults = [] ∧ findLaunch (s.forme f) sl.ring
    sl.seq = some l :=
  ⟨runs [op [1]] [] { slug0 with state := .passing, proofs := [.galley 64 [1, 0]] }, 0, 3,
  { slug0 with state := .passing, proofs := [.galley 64 [1, 0]] }, token, 64, [1, 0], by decide +kernel⟩

theorem test_FlagsReleaseAndAcquire_1 :
    ∃ (s : State) (f : FormeId) (t : SlugTag) (sl : Slug) (o : OpRec) (c : FormeCfg) (g : Region) (off : Nat), findSlug (s.forme
    f) t = some sl ∧ sl.state = .passing ∧ drained s f sl = true ∧ (releaseOps (s.forme f) sl)[sl.released]? = some o ∧ (s.forme
    f).cfg = some c ∧ c.regions = [g] ∧ fld (opWord o 0) 9 8 < 2 ∧ place? s f (devAddr (opWord o 1)) 8 = .stack off :=
  ⟨inStack (runs [op [0x109, 0x200000, 0x55]] [] { slug0 with state := .passing, written := true }) 0x200000 [1], 0, 3,
  { slug0 with state := .passing, written := true }, op [0x109, 0x200000, 0x55], cfg0, { base := 64, len := 32 }, 0x200000,
  by decide +kernel⟩

theorem test_FlagsReleaseAndAcquire_2 :
    ∃ (s : State) (f : FormeId) (t : SlugTag) (sl : Slug) (o : OpRec) (off : Nat), findSlug (s.forme f) t = some sl ∧ acquireOp
    (s.forme f) sl = some o ∧ sl.state = .queued ∧ sl.inStep = false ∧ (acquireNoFlag o = true ∨ (place? s f (devAddr (opWord o
    1)) 8 = .stack off ∧ s.poisonedLine f off 8 = none ∧ flagHolds s f o off = true)) :=
  ⟨inStack (runs [opAcquire] [] { slug0 with state := .queued }) 0x200000 [0x55], 0, 3, { slug0 with state := .queued },
  opAcquire, 0x200000, by decide +kernel⟩

theorem test_FlagsReleaseAndAcquire_3 :
    ∃ (s : State) (f : FormeId) (t : SlugTag) (sl : Slug) (o : OpRec) (off : Nat), findSlug (s.forme f) t = some sl ∧ acquireOp
    (s.forme f) sl = some o ∧ acquireNoFlag o = false ∧ place? s f (devAddr (opWord o 1)) 8 = .stack off ∧ s.poisonedLine f off
    8 = none ∧ flagHolds s f o off = false :=
  ⟨inStack (runs [opAcquire] [] { slug0 with state := .queued }) 0x200000 [0x54], 0, 3, { slug0 with state := .queued },
  opAcquire, 0x200000, by decide +kernel⟩

theorem test_OpsComplete_1 :
    ∃ (s : State) (f : FormeId) (t : SlugTag) (sl : Slug) (o : OpRec) (v : Version), currentOp s f t = some (sl, o) ∧
    slugVersion (s.forme f) sl = some v ∧ (∀ k ∈ s.copies, k.dead = []) ∧ opKind o = 9 ∧ (∀ c : Context, findCtx (s.forme f)
    sl.ctx = some c → c.state = .resident) ∧ proofLines sl.proofs ≤ sl.proofKib * 4 :=
  ⟨runs [opRelease] [] slug0, 0, 3, slug0, opRelease, verOf [opRelease] [], by decide +kernel⟩

theorem test_PromptsMatch_1 :
    ∃ (s : State) (f : FormeId) (t : SlugTag) (sl : Slug) (o : OpRec) (c : FormeCfg) (ctx : Context), currentOp s f t = some
    (sl, o) ∧ (∀ k ∈ s.copies, k.dead = []) ∧ opKind o = 8 ∧ (s.forme f).cfg = some c ∧ findCtx (s.forme f) sl.ctx = some ctx ∧
    ctx.length = 0 ∧ proofLines sl.proofs ≤ sl.proofKib * 4 :=
  ⟨runs [op [8, 11, 256]] [ten 11 0x30 1 256] slug0, 0, 3, slug0, op [8, 11, 256], cfg0, ctx0, by decide +kernel⟩

theorem test_PromptsMatch_2 :
    ∃ (s : State) (f : FormeId) (t : SlugTag) (sl : Slug) (h : FormeId × List Nat), findSlug (s.forme f) t = some sl ∧ sl.state
    = .passing ∧ sl.wait = .matchCopy ∧ sl.asked = [] ∧ foreignHit f sl = some h ∧ copyReads s f sl = false ∧ spillWaits s f
    (copyHomes s f h.1 sl).flatten = false :=
  ⟨runs [opRelease] [] { slug0 with state := .passing, wait := .matchCopy, matched := 4, hit := some (1, [1, 2, 3, 4]) }, 0, 3,
  { slug0 with state := .passing, wait := .matchCopy, matched := 4, hit := some (1, [1, 2, 3, 4]) }, (1, [1, 2, 3, 4]),
  by decide +kernel⟩

theorem test_PlansAndStaging_1 :
    ∃ (s : State) (f : FormeId) (ps : List Placed), planMayEnd s f = true ∧ makePlan s f = some ps ∧ (∀ m ∈ planMoves (s.forme
    f) ps, spillPagesOf m.src m.pages = [] ∧ spillPagesOf m.dst m.pages = []) :=
  ⟨planned cfg0 256, 0, (makePlan (planned cfg0 256) 0).getD [], by decide +kernel⟩

theorem test_PlansAndStaging_2 :
    ∃ (s : State) (f : FormeId) (r : RingId) (q : Seq) (l : Launch) (c : FormeCfg), planMayEnd s f = true ∧ makePlan s f = none
    ∧ (s.forme f).makeup.keyMaker = some (r, q) ∧ findLaunch (s.forme f) r q = some l ∧ l.phase = .running ∧ l.imposedStatus =
    none ∧ l.fault = none ∧ l.seq = q ∧ (s.forme f).cfg = some c ∧ ((s.forme f).ring r).state ≠ 2 :=
  ⟨planned noSpace 65535, 0, 0, 0, token, noSpace, by decide +kernel⟩

theorem test_PlansAndStaging_3 :
    ∃ (s : State) (f : FormeId), planMayEnd s f = false :=
  ⟨one, 0, by decide +kernel⟩

theorem test_PlansAndStaging_4 :
    ∃ (s : State) (f : FormeId) (c : CoreId) (h : SheetId) (p : PlanRec) (a : Nat), (s.forme f).makeup.plan.find? (·.sheet == h)
    = some p ∧ (s.forme f).makeup.stale.contains h = false ∧ p.home = .stackPage a ∧ mayStage s f c p = true ∧ (fetchLines s f
    p).any s.stack.isPoisoned = false :=
  ⟨stages, 0, 0, sheet0, plan0, 5, by decide +kernel⟩

theorem test_PlansAndStaging_5 :
    ∃ (s : State) (f : FormeId), (s.forme f).makeup.explicitDue = true ∧ formeInflight (s.forme f) = 0 :=
  ⟨onF (fun x => { x with makeup := { x.makeup with explicitDue := true, explicitMib := 64 } }), 0, by decide +kernel⟩

theorem test_Swaps_1 :
    ∃ (s : State) (f : FormeId) (inc : Context), ((s.forme f).sched.swap.state = 0 ∨ (s.forme f).sched.swap.state = 3) ∧
    swapIncoming (s.forme f) = some inc ∧ residentPlaces (s.forme f) < (s.forme f).sched.residentMax :=
  ⟨swaps 2 1, 0, { ctx0 with num := 2, state := .swapped }, by decide +kernel⟩

theorem test_Swaps_2 :
    ∃ (s : State) (f : FormeId) (inc : Context) (v : Context) (ms : List (BitVec 16 × ImageAt)), ((s.forme f).sched.swap.state =
    0 ∨ (s.forme f).sched.swap.state = 3) ∧ swapIncoming (s.forme f) = some inc ∧ (s.forme f).sched.residentMax ≤ residentPlaces
    (s.forme f) ∧ swapVictim s f = some v ∧ saveRoom (s.forme f) (imageSize (imageSheets (s.forme f) v)) = some ms ∧ moveSpill
    (s.forme f) ms = [] :=
  ⟨swaps 1 1, 0, { ctx0 with num := 2, state := .swapped }, ctx0, [], by decide +kernel⟩

theorem test_Swaps_3 :
    ∃ (s : State) (f : FormeId) (inc : Context) (v : Context), ((s.forme f).sched.swap.state = 0 ∨ (s.forme f).sched.swap.state
    = 3) ∧ swapIncoming (s.forme f) = some inc ∧ (s.forme f).sched.residentMax ≤ residentPlaces (s.forme f) ∧ swapVictim s f =
    some v ∧ saveRoom (s.forme f) (imageSize (imageSheets (s.forme f) v)) = none :=
  ⟨swaps 1 24577, 0, { ctx0 with num := 2, state := .swapped }, ctx0, by decide +kernel⟩

theorem test_Swaps_4 :
    ∃ (s : State) (f : FormeId) (c : CoreId) (v : BitVec 16) (i : BitVec 16) (ps : List (Nat × CoreId × Nat)) (kv : Context) (ki
    : Context), MemoryOk s ∧ (s.forme f).sched.swap.state = 1 ∧ (s.forme f).sched.swap.victim = some v ∧ (s.forme
    f).sched.swap.incoming = some i ∧ v ≠ i ∧ (s.forme f).sched.swap.incomingIn = false ∧ (s.forme f).sched.swap.toCopy = ps ∧
    (s.forme f).sched.swap.slice = [] ∧ ps ≠ [] ∧ (∀ p ∈ ps, p.2.1 = c ∧ p.2.2 < sliceBase (s.forme f)) ∧ ps.length ≤ swapSlice
    (s.forme f) ∧ findCtx (s.forme f) v = some kv ∧ kv.state = .swappingOut ∧ findCtx (s.forme f) i = some ki :=
  ⟨leaves, 0, 0, 1, 2, [(0, 0, 0)], { ctx0 with state := .swappingOut }, { ctx0 with num := 2, state := .swapped },
  by decide +kernel⟩

theorem test_Swaps_5 :
    ∃ (s : State) (f : FormeId) (i : BitVec 16) (k : Context), MemoryOk s ∧ (s.forme f).sched.swap.state = 2 ∧ (s.forme
    f).sched.swap.incoming = some i ∧ findCtx (s.forme f) i = some k ∧ planDue s f = false ∧ imageHomed (s.forme f) k = true ∧
    imageSpill k = [] ∧ restoreSpill (s.forme f) k = [] ∧ s.stack.poisoned = [] ∧ s.stack.poisonSets = [] :=
  ⟨keyed comesIn, 0, 2,
  { ctx0 with num := 2, state := .swapped, image := 1, imageAt := .save [3], saved := [{ plan0 with sheet := { plan0.sheet with ctx := 2 } }] },
  by decide +kernel⟩

theorem test_Swaps_6 :
    ∃ (s : State) (f : FormeId) (c : CoreId) (n : Nat) (g : Nat) (j : Nat) (v : BitVec 16) (k : Context) (js : List Nat) (cfg :
    FormeCfg) (key : Nat), MemoryOk s ∧ (s.forme f).sched.swap.slice = [(n, c, g)] ∧ (s.forme f).sched.swap.victim = some v ∧
    findCtx (s.forme f) v = some k ∧ k.imageAt = .save js ∧ js[n]? = some j ∧ (s.forme f).cfg = some cfg ∧ (s.forme f).kStack =
    some key :=
  ⟨drains, 0, 0, 0, 3056, 3, 1, { ctx0 with state := .swapped, imageAt := .save [3] }, [3], cfg0, 0, by decide +kernel⟩

theorem test_ChannelsLeaveService_1 :
    ∃ (s : State) (ch : ChannelId) (failed : Bool), s.boot.power = .on ∧ s.stack.retired = false ∧ ch ∉ s.flash.mapOut ∧
    s.flash.mapOut.length < 32 ∧ s.colo.reimp = none ∧ s.stack.migrating = none ∧ s.copies = [] ∧ (failed = false → 16 ≤
    linesDetected s ch) ∧ (∀ (f : FormeId) (c : FormeCfg), (s.forme f).cfg = some c → ∀ r ∈ c.regions, r.base + r.len + 4 ≤
    s.usableGib) :=
  ⟨worn edge, 9, false, by refine ⟨?_, ?_, ?_, ?_, ?_, ?_, ?_, ?_, all_cfgs ?_⟩ <;> decide +kernel⟩

theorem test_ChannelsLeaveService_2 :
    ∃ (s : State) (ch : ChannelId) (n : Nat) (up : Bool), s.boot.power = .on ∧ s.stack.retired = false ∧ ch ∉ s.flash.mapOut ∧
    s.flash.mapOut.length < 32 ∧ s.colo.reimp = none ∧ s.stack.migrating = none ∧ s.copies = [] ∧ (4 ≤ n ∨ up = false) ∧ (∀ (f :
    FormeId) (c : FormeCfg), (s.forme f).cfg = some c → ∀ r ∈ c.regions, r.base + r.len + 4 ≤ s.usableGib) :=
  ⟨edge, 255, 4, true, by refine ⟨?_, ?_, ?_, ?_, ?_, ?_, ?_, ?_, all_cfgs ?_⟩ <;> decide +kernel⟩

theorem test_ChannelsLeaveService_3 :
    ∃ (n : Nat), n < 4 :=
  ⟨3, by decide +kernel⟩

theorem test_ChannelsLeaveService_4 :
    ∃ (s : State) (ch : ChannelId), s.boot.power = .on ∧ s.stack.retired = false ∧ ch ∉ s.flash.mapOut ∧ s.flash.mapOut.length =
    32 ∧ s.colo.phase = 0 ∧ (∀ f : FormeId, (s.forme f).cfg = none) :=
  ⟨{ base with flash := { base.flash with mapOut := (List.finRange 256).take 32 } }, 32, by decide +kernel⟩

theorem test_ChannelsLeaveService_5 :
    ∃ (s : State) (ch : ChannelId) (failed : Bool), s.stack.migrating = some (ch, failed) :=
  ⟨{ one with stack := { one.stack with migrating := some (9, true) } }, 9, true, by decide +kernel⟩

theorem test_InkRequests_1 :
    ∃ (s : State) (f : FormeId) (m : Vector Word 16) (c : FormeCfg), Delivered s (.plain f) 1 m ∧ (s.forme f).inker.req = none ∧
    (s.forme f).cfg = some c ∧ modeFits ((s.forme f).binding (inkReq m).binding) (inkReq m).mode.toNat = true :=
  ⟨told one inkMsg, 0, inkMsg, cfg0, by decide +kernel⟩

theorem test_InkRequests_2 :
    ∃ (s : State) (f : FormeId) (m : Vector Word 16), Delivered s (.plain f) 1 m ∧ (s.forme f).inker.req = none ∧ modeFits
    ((s.forme f).binding (inkReq m).binding) (inkReq m).mode.toNat = false :=
  ⟨told (bound copy0) inkMsg, 0, inkMsg, by decide +kernel⟩

theorem test_InkRequests_3 :
    ∃ (s : State) (f : FormeId) (m : Vector Word 16) (q : InkReq), Delivered s (.plain f) 1 m ∧ (s.forme f).inker.req = some q ∧
    q.binding = (inkReq m).binding :=
  ⟨told (inking none 1 0) inkMsg, 0, inkMsg, req0 none, by decide +kernel⟩

theorem test_InkRequests_4 :
    ∃ (s : State) (f : FormeId) (q : InkReq) (h : InkHeader), (s.forme f).inker.req = some q ∧ q.copy = none ∧ q.shareMask = 0 ∧
    inkHeaderOk h.blob = true :=
  ⟨inking none 1 0, 0, req0 none, inkHead 1, by decide +kernel⟩

theorem test_InkRequests_5 :
    ∃ (s : State) (f : FormeId) (q : InkReq) (h : InkHeader), (s.forme f).inker.req = some q ∧ q.copy = none ∧ inkHeaderOk
    h.blob = false :=
  ⟨inking none 1 0, 0, req0 none, inkHead 0, by decide +kernel⟩

theorem test_InkCopiesAndChunks_1 :
    ∃ (s : State) (f : FormeId) (q : InkReq) (i : ImageCopy) (c : FormeCfg), (s.forme f).inker.req = some q ∧ q.copy = some i ∧
    (s.forme f).inker.state = 1 ∧ (s.forme f).inker.done.toNat < i.chunks ∧ (s.forme f).cfg = some c :=
  ⟨inking (some copy0) 1 1, 0, req0 (some copy0), copy0, cfg0, by decide +kernel⟩

theorem test_InkCopiesAndChunks_2 :
    ∃ (s : State) (f : FormeId) (q : InkReq) (i : ImageCopy), (s.forme f).inker.req = some q ∧ q.copy = some i ∧ (s.forme
    f).inker.state = 1 ∧ (s.forme f).inker.done.toNat < i.chunks :=
  ⟨inking (some copy0) 1 1, 0, req0 (some copy0), copy0, by decide +kernel⟩

theorem test_InkCopiesAndChunks_3 :
    ∃ (s : State) (f : FormeId) (q : InkReq) (i : ImageCopy), (s.forme f).inker.req = some q ∧ q.copy = some i ∧ ((s.forme
    f).inker.state = 1 ∨ (s.forme f).inker.state = 3) ∧ (s.forme f).inker.done.toNat = i.chunks :=
  ⟨inking (some copy0) 3 2, 0, req0 (some copy0), copy0, by decide +kernel⟩

theorem test_InkCopiesAndChunks_4 :
    ∃ (s : State) (f : FormeId) (q : InkReq) (i : ImageCopy) (o : ImageCopy) (c : FormeCfg), (s.forme f).inker.req = some q ∧
    q.copy = some i ∧ q.dropped = false ∧ (s.forme f).inker.state = 3 ∧ formeInflight (s.forme f) = 0 ∧ (s.forme f).cfg = some c
    ∧ ((s.forme f).binding q.binding).image = some o ∧ o.shared = false :=
  ⟨(inking (some copy0) 3 0).modForme 0 (fun x =>
  { x with inker := { x.inker with bindings := x.inker.bindings.set 0 { Binding.reset with image := some copy0 } } }), 0, req0
  (some copy0), copy0, copy0, cfg0, by decide +kernel⟩

theorem test_InkCopiesAndChunks_5 :
    ∃ (s : State) (f : FormeId) (b : BindingId) (n : Nat) (i : ImageCopy), refetchCopy s f b n = some i :=
  ⟨bound copy0, 0, 0, 1, copy0, by decide +kernel⟩

theorem test_InkCopiesAndChunks_6 :
    ∃ (s : State) (f : FormeId) (b : BindingId) (n : Nat) (i : ImageCopy), refetchCopy s f b n = some i :=
  ⟨bound copy0, 0, 0, 1, copy0, by decide +kernel⟩

theorem test_AttachDetach_1 :
    ∃ (s : State) (f : FormeId) (g : FormeId) (gb : BindingId) (b : BindingId) (m : Vector Word 16), Delivered s (.plain f) 2 m
    ∧ g.val = fld m[1] 3 0 ∧ gb.val = fld m[1] 6 4 ∧ b.val = fld m[2] 2 0 :=
  ⟨(told one (msg 2 1 0)).setForme 1 ((bound { copy0 with shared := true }).forme 0), 0, 1, 0, 0, msg 2 1 0, by decide +kernel⟩

theorem test_AttachDetach_2 :
    ∃ (s : State) (f : FormeId) (b : BindingId) (m : Vector Word 16), Delivered s (.plain f) 5 m ∧ b.val = fld m[1] 2 0 ∧
    bindingFull ((s.forme f).binding b) = true ∧ ((s.forme f).binding b).detaching = none ∧ (s.forme f).inker.req = none :=
  ⟨told (bound copy0) (msg 5 0 0), 0, 0, msg 5 0 0, by decide +kernel⟩

theorem test_AttachDetach_3 :
    ∃ (s : State) (f : FormeId) (b : BindingId) (m : Vector Word 16), Delivered s (.plain f) 5 m ∧ b.val = fld m[1] 2 0 ∧
    bindingFull ((s.forme f).binding b) = false :=
  ⟨told one (msg 5 0 0), 0, 0, msg 5 0 0, by decide +kernel⟩

theorem test_LinksTrainAndNarrow_1 :
    ∃ (s : State) (l : LinkId) (peer : BitVec 12), (s.link l).state = .training ∧ selfValid s.selfReg = true ∧ (s.link
    l).disable = false ∧ (∀ n, neighbour s l = some n → n = peer) ∧ (s.link l).replay = [] ∧ (s.link l).queue = [] :=
  ⟨onL (fun k => { k with state := .training }), 0, 1,
  by refine ⟨?_, ?_, ?_, fun n h => Option.some.inj (h.symm.trans ?_), ?_, ?_⟩ <;> decide +kernel⟩

theorem test_LinksTrainAndNarrow_2 :
    ∃ (s : State) (l : LinkId) (peer : BitVec 12), (s.link l).state = .retraining ∧ (s.link l).wider = true ∧ selfValid
    s.selfReg = true ∧ (s.link l).disable = false ∧ (∀ n, neighbour s l = some n → n = peer) ∧ (s.link l).replay = [] ∧ (s.link
    l).queue = [] :=
  ⟨onL (fun k => { k with state := .retraining, groups := 8, wider := true }), 0, 1,
  by refine ⟨?_, ?_, ?_, ?_, fun n h => Option.some.inj (h.symm.trans ?_), ?_, ?_⟩ <;> decide +kernel⟩

theorem test_LinksTrainAndNarrow_3 :
    ∃ (s : State) (l : LinkId) (peer : BitVec 12) (n : BitVec 12), (s.link l).state = .training ∧ selfValid s.selfReg = true ∧
    (s.link l).disable = false ∧ neighbour s l = some n ∧ n ≠ peer :=
  ⟨onL (fun k => { k with state := .training }), 0, 2, 1, by decide +kernel⟩

theorem test_LinksTrainAndNarrow_4 :
    ∃ (s : State) (l : LinkId), (s.link l).state = .training ∧ 100000 ≤ (s.time.ticks - (s.link l).since).toNat :=
  ⟨{ onL (fun k => { k with state := .training }) with time := { one.time with ticks := 100000 } }, 0, by decide +kernel⟩

theorem test_LinksTrainAndNarrow_5 :
    ∃ (s : State) (l : LinkId), (s.link l).state = .down ∧ 1000000 ≤ (s.time.ticks - (s.link l).since).toNat ∧ selfValid
    s.selfReg = true ∧ (s.link l).disable = false :=
  ⟨{ torus one with time := { one.time with ticks := 1000000 } }, 5, by decide +kernel⟩

theorem test_LinksTrainAndNarrow_6 :
    ∃ (s : State) (l : LinkId), s.boot.power = .on ∧ ((s.link l).state = .down ∨ (s.link l).state = .lost ∨ (s.link l).state =
    .refused) ∧ selfValid s.selfReg = true ∧ (s.link l).disable = false :=
  ⟨onL (fun k => { k with state := .refused }), 0, by decide +kernel⟩

theorem test_LinksTrainAndNarrow_7 :
    ∃ (s : State) (h : HostReq), hostTarget s h = .management ∧ (∀ l : LinkId, (s.link l).state ≠ .up ∧ (s.link l).state ≠
    .retraining) :=
  ⟨one, hm, by decide +kernel⟩

theorem test_LinksTrainAndNarrow_8 :
    ∃ (s : State) (h : HostReq) (l : LinkId), hostTarget s h = .management ∧ (s.link l).state = .up :=
  ⟨linkUp one, hm, 0, by decide +kernel⟩

theorem test_LinksTrainAndNarrow_9 :
    ∃ (s : State) (h : HostReq) (v : Word) (l : LinkId), hostTarget s h = .management ∧ (s.link l).state = .up ∧ v.getLsbD 1 =
    false ∧ selfValid s.selfReg = true :=
  ⟨linkUp (torus one), hm, 1, 0, by decide +kernel⟩

theorem test_LinksTrainAndNarrow_10 :
    ∃ (s : State) (h : HostReq) (l : LinkId), hostTarget s h = .management ∧ (s.link l).state = .up ∧ LinkQuiet s l ∧
    s.time.active.toNat ≠ l.val + 1 :=
  ⟨linkUp one, hm, 0, by refine ⟨?_, ?_, link_quiet ?_, ?_⟩ <;> decide +kernel⟩

theorem test_LinksTrainAndNarrow_11 :
    ∃ (s : State) (l : LinkId) (lane : Fin 16), (s.link l).state = .up ∧ (s.link l).groups.getLsbD (lane.val / 4) = true ∧
    (s.link l).groups &&& ~~~ oneBit 4 (lane.val / 4) ≠ 0 :=
  ⟨linkUp one, 0, 15, by decide +kernel⟩

theorem test_LinksTrainAndNarrow_12 :
    ∃ (s : State) (l : LinkId) (lane : Fin 16), (s.link l).state = .up ∧ (s.link l).groups.getLsbD (lane.val / 4) = true ∧
    (s.link l).groups &&& ~~~ oneBit 4 (lane.val / 4) = 0 ∧ LinkQuiet s l ∧ s.time.active.toNat ≠ l.val + 1 :=
  ⟨(linkUp one).modLink 0 (fun k => { k with groups := 8 }), 0, 12,
  by refine ⟨?_, ?_, ?_, link_quiet ?_, ?_⟩ <;> decide +kernel⟩

theorem test_LinksTrainAndNarrow_13 :
    ∃ (s : State) (l : LinkId), ((s.link l).state = .up ∨ (s.link l).state = .retraining) ∧ LinkQuiet s l ∧ s.time.active.toNat
    ≠ l.val + 1 :=
  ⟨linkUp one, 0, by refine ⟨?_, link_quiet ?_, ?_⟩ <;> decide +kernel⟩

theorem test_FlitsInOrder_1 :
    ∃ (s : State) (l : LinkId) (x : AczFlit), (s.link l).state = .up ∧ (s.link l).disable = false ∧ x.crcOk = true ∧ x.type = 0
    ∧ x.nak = false ∧ x.packets = [] ∧ (s.link l).replay = [] ∧ (s.link l).queue = [] ∧ x.seq = (s.link l).rxExpect :=
  ⟨linkUp one, 0, flit0, by decide +kernel⟩

theorem test_FlitsInOrder_2 :
    ∃ (s : State) (l : LinkId) (x : AczFlit), (s.link l).state = .up ∧ (s.link l).disable = false ∧ x.crcOk = false :=
  ⟨linkUp one, 0, { flit0 with crcOk := false }, by decide +kernel⟩

theorem test_FlitsInOrder_3 :
    ∃ (s : State) (l : LinkId) (x : AczFlit), (s.link l).state = .up ∧ (s.link l).disable = false ∧ x.crcOk = true ∧ x.type = 0
    ∧ x.nak = false ∧ (s.link l).replay = [] ∧ (s.link l).queue = [] ∧ x.seq ≠ (s.link l).rxExpect ∧ (s.link l).nakSent = false :=
  ⟨linkUp one, 0, { flit0 with seq := 1 }, by decide +kernel⟩

theorem test_RemoteServed_1 :
    ∃ (s : State) (f : FormeId) (k : JobSlot) (j : Job) (p : Packet) (tag : BitVec 16) (off : BitVec 40) (n : Nat) (l : LinkId)
    (rev : Bool), InOrder s f k j p ∧ p.ptype = 1 ∧ p.body = .loadReq tag off n ∧ n ≤ 4 ∧ route s p.src false none = some (l,
    rev) ∧ LinkReady s l ∧ servesRemote s f off.toNat (64 * n) = true ∧ s.stackPoisoned f off.toNat (64 * n) = false :=
  ⟨jobs job0, 0, 0, job0, packet0 1 (.loadReq 3 0 4), 3, 0, 4, 0, false, by decide +kernel⟩

theorem test_RemoteServed_2 :
    ∃ (s : State) (f : FormeId) (k : JobSlot) (j : Job) (p : Packet) (tag : BitVec 16) (off : BitVec 40) (n : Nat) (l : LinkId)
    (rev : Bool), InOrder s f k j p ∧ p.ptype = 1 ∧ p.body = .loadReq tag off n ∧ route s p.src false none = some (l, rev) ∧
    LinkReady s l ∧ servesRemote s f off.toNat (64 * n) = false :=
  ⟨jobs job0, 0, 0, job0, packet0 1 (.loadReq 3 (2 ^ 40 - 1) 4), 3, 2 ^ 40 - 1, 4, 0, false, by decide +kernel⟩

theorem test_RemoteServed_3a :
    ∃ (s : State) (f : FormeId) (k : JobSlot) (j : Job) (p : Packet) (tag : BitVec 16) (off : BitVec 40) (d : List Byte) (l :
    LinkId) (rev : Bool) (c : FormeCfg) (g : Region), InOrder s f k j p ∧ p.ptype = 3 ∧ (p.body = .store tag off d ∨ (∃ v,
    p.body = .flagAdd tag off v ∧ d = leBytes 8 ((s.stackWord f off.toNat).getD 0 + v).toNat)) ∧ route s p.src false none = some
    (l, rev) ∧ LinkReady s l ∧ servesRemote s f off.toNat d.length = true ∧ (s.forme f).cfg = some c ∧ c.regions = [g] :=
  ⟨jobs job0, 0, 0, job0, packet0 3 (.store 3 64 [1, 2]), 3, 64, [1, 2], 0, false, cfg0, { base := 64, len := 32 },
  by refine ⟨?_, ?_, Or.inl rfl, ?_⟩ <;> decide +kernel⟩

theorem test_RemoteServed_3b :
    ∃ (s : State) (f : FormeId) (k : JobSlot) (j : Job) (p : Packet) (tag : BitVec 16) (off : BitVec 40) (d : List Byte) (l :
    LinkId) (rev : Bool) (c : FormeCfg) (g : Region), InOrder s f k j p ∧ p.ptype = 3 ∧ (p.body = .store tag off d ∨ (∃ v,
    p.body = .flagAdd tag off v ∧ d = leBytes 8 ((s.stackWord f off.toNat).getD 0 + v).toNat)) ∧ route s p.src false none = some
    (l, rev) ∧ LinkReady s l ∧ servesRemote s f off.toNat d.length = true ∧ (s.forme f).cfg = some c ∧ c.regions = [g] :=
  ⟨inStack (jobs job0) 64 [5], 0, 0, job0, packet0 3 (.flagAdd 3 64 1), 3, 64, leBytes 8 6, 0, false, cfg0,
  { base := 64, len := 32 }, by refine ⟨?_, ?_, Or.inr ⟨1, rfl, ?_⟩, ?_⟩ <;> decide +kernel⟩

theorem test_RemoteServed_4 :
    ∃ (s : State) (p : Packet) (l : LinkId) (rev : Bool), s.boot.power = .on ∧ p.dst = s.selfModule ∧ (p.ptype = 1 ∨ p.ptype =
    3) ∧ jobById s p.jobId = none ∧ route s p.src false none = some (l, rev) ∧ LinkReady s l :=
  ⟨linkUp (torus one), packet0 1 (.loadReq 3 0 4), 0, false, by decide +kernel⟩

theorem test_RemoteAnswers_1 :
    ∃ (s : State) (f : FormeId) (k : JobSlot) (j : Job) (p : Packet) (tag : SlugTag) (off : BitVec 40) (d : List Byte) (sl :
    Slug) (a : BitVec 56) (n : Nat) (rest : List (BitVec 56 × Nat)) (bs : List Byte), InOrder s f k j p ∧ p.ptype = 2 ∧ p.body =
    .loadResp tag off d ∧ findSlug (s.forme f) tag = some sl ∧ sl.asked = (a, n) :: rest ∧ acquireOp (s.forme f) sl = none ∧
    sl.wait = .remote ∧ pieceBytes (sl.fetched ++ [(BitVec.ofNat 56 (8 * 2 ^ 52 + p.src.toNat * 2 ^ 40 + off.toNat), d)])
    a.toNat n = some bs :=
  ⟨remotes, 0, 0, job0, packet0 2 (.loadResp 3 0 (List.replicate 64 7)), 3, 0, List.replicate 64 7, slugR, 0x80010000000000, 64,
  [], List.replicate 64 7, by decide +kernel⟩

theorem test_RemoteAnswers_2 :
    ∃ (s : State) (f : FormeId) (k : JobSlot) (j : Job) (p : Packet) (tag : SlugTag) (sl : Slug), InOrder s f k j p ∧ p.ptype =
    4 ∧ p.body = .storeAck tag ∧ findSlug (s.forme f) tag = some sl :=
  ⟨remotes, 0, 0, job0, packet0 4 (.storeAck 3), 3, slugR, by decide +kernel⟩

theorem test_RemoteAnswers_3 :
    ∃ (s : State) (f : FormeId) (k : JobSlot) (j : Job) (p : Packet) (tag : SlugTag) (who : BitVec 12) (sl : Slug), s.boot.power
    = .on ∧ p.dst = s.selfModule ∧ jobById s p.jobId = some (f, k, j) ∧ p.tagOk = true ∧ p.ptype = 8 ∧ p.body = .nack 1 tag who
    ∧ SoleSlug s f tag sl ∧ sl.state = .running ∧ remoteAsked sl = true :=
  ⟨remotes, 0, 0, job0, packet0 8 (.nack 1 3 1), 3, 1, slugR, by decide +kernel⟩

theorem test_RemoteAnswers_4 :
    ∃ (s : State) (f : FormeId) (k : JobSlot) (j : Job) (p : Packet) (tag : SlugTag) (who : BitVec 12) (sl : Slug), s.boot.power
    = .on ∧ p.dst = s.selfModule ∧ jobById s p.jobId = some (f, k, j) ∧ p.tagOk = true ∧ p.ptype = 8 ∧ p.body = .nack 3 tag who
    ∧ findSlug (s.forme f) tag = some sl ∧ who ∈ sl.remoteDue :=
  ⟨remotes, 0, 0, job0, packet0 8 (.nack 3 3 1), 3, 1, slugR, by decide +kernel⟩

theorem test_RemoteAnswers_5 :
    ∃ (s : State) (f : FormeId) (tag : SlugTag) (sl : Slug), SoleSlug s f tag sl ∧ sl.state = .running ∧ remoteAsked sl = true ∧
    1000 ≤ (s.time.ticks - sl.askedAt).toNat :=
  ⟨remotes, 0, 3, slugR, by decide +kernel⟩

theorem test_RemoteAnswers_6 :
    ∃ (s : State) (f : FormeId) (tag : SlugTag) (sl : Slug) (l : Launch), findSlug (s.forme f) tag = some sl ∧ sl.remoteDue ≠ []
    ∧ 1000 ≤ (s.time.ticks - sl.storesAt).toNat ∧ findLaunch (s.forme f) sl.ring sl.seq = some l ∧ l.fault = none :=
  ⟨remotes, 0, 3, slugR, token, by decide +kernel⟩

theorem test_CollectivesStart_1 :
    ∃ (s : State) (f : FormeId) (tag : SlugTag) (sl : Slug) (o : OpRec) (j : Job), findSlug (s.forme f) tag = some sl ∧ sl.state
    = .running ∧ sl.wait = .none ∧ (opsOf (s.forme f) sl)[sl.op]? = some o ∧ opKind o = 7 ∧ (s.forme f).job (collSlot o) = some
    j ∧ j.coll = none ∧ j.window = none ∧ collStopped s = false :=
  ⟨colls { pair with window := none } slug0, 0, 3, slug0, opColl, { pair with window := none }, by decide +kernel⟩

theorem test_CollectivesStart_2 :
    ∃ (s : State) (f : FormeId) (tag : SlugTag) (sl : Slug) (o : OpRec) (j : Job), SoleSlug s f tag sl ∧ sl.state = .running ∧
    sl.wait = .none ∧ (opsOf (s.forme f) sl)[sl.op]? = some o ∧ opKind o = 7 ∧ (s.forme f).job (collSlot o) = some j ∧ j.coll =
    none ∧ j.window = none ∧ collStopped s = true :=
  ⟨{ colls { pair with window := none } slug0 with time := { one.time with state := .lost } }, 0, 3, slug0, opColl,
  { pair with window := none }, by decide +kernel⟩

theorem test_CollectivesStart_3 :
    ∃ (s : State) (f : FormeId) (tag : SlugTag) (sl : Slug) (o : OpRec) (j : Job) (w : Word × Word × Nat × Nat × Nat), findSlug
    (s.forme f) tag = some sl ∧ sl.state = .running ∧ (sl.wait = .none ∨ sl.wait = .window) ∧ (opsOf (s.forme f) sl)[sl.op]? =
    some o ∧ opKind o = 7 ∧ (s.forme f).job (collSlot o) = some j ∧ j.isOpen = true ∧ j.coll = none ∧ j.window = some w ∧
    w.2.2.2.2 < w.2.2.2.1 ∧ firstAtColl s f sl (collSlot o) = true ∧ j.early = [] ∧ 2 ≤ (jobMembers j).length ∧ (∀ m ∈
    jobMembers j, m ≠ s.selfModule → reachable s f m = true) :=
  ⟨colls pair slug0, 0, 3, slug0, opColl, pair, (4990, 5000, 8, 1, 0), by decide +kernel⟩

theorem test_CollectivesStart_4 :
    ∃ (s : State) (f : FormeId) (k : JobSlot) (j : Job) (c : Coll) (w : Word × Word × Nat × Nat × Nat) (sl : Slug), (s.forme
    f).job k = some j ∧ j.coll = some c ∧ j.window = some w ∧ allJoined s j c = false ∧ c.joinAt.toNat + w.2.2.1 ≤
    s.time.stroke.toNat ∧ SoleSlug s f c.tag sl ∧ sl.state = .running :=
  ⟨colls { pair with coll := some coll0 } { slug0 with wait := .collective }, 0, 0, { pair with coll := some coll0 }, coll0,
  (4990, 5000, 8, 1, 0), { slug0 with wait := .collective }, by decide +kernel⟩

theorem test_CollectivesStart_5 :
    ∃ (s : State) (f : FormeId) (tag : SlugTag) (sl : Slug) (o : OpRec) (v : Version) (j : Job) (c : Coll), findSlug (s.forme f)
    tag = some sl ∧ (opsOf (s.forme f) sl)[sl.op]? = some o ∧ slugVersion (s.forme f) sl = some v ∧ opKind o = 7 ∧ (s.forme
    f).job (collSlot o) = some j ∧ j.coll = some c ∧ c.tag = tag ∧ sl.state = .running ∧ sl.wait = .collective ∧ outWhole j c =
    true ∧ sl.heldDetect = none ∧ (∀ k ∈ s.copies, k.dead = []) ∧ proofLines (sealSlug v o (collOutput j c) sl).proofs ≤
    sl.proofKib * 4 :=
  ⟨colls (moving { coll0 with output := [(0, 1), (1, 2)] }) { slug0 with wait := .collective }, 0, 3,
  { slug0 with wait := .collective }, opColl, verOf [opColl] [], moving { coll0 with output := [(0, 1), (1, 2)] },
  { coll0 with moving := true, output := [(0, 1), (1, 2)] }, by decide +kernel⟩

theorem test_CollectivesMove_1 :
    ∃ (s : State) (f : FormeId) (k : JobSlot) (j : Job) (c : Coll) (p : Packet) (n : Nat) (st : Word) (dg : BitVec 128), InOrder
    s f k j p ∧ (s.forme f).drained = false ∧ p.ptype = 6 ∧ p.body = .join n st dg ∧ j.coll = some c ∧ c.k = n ∧ c.stroke = st ∧
    c.digest = dg ∧ c.joined.contains ((jobMembers j).findIdx (· == p.src)) = false ∧ allJoined s j
    { c with joined := c.joined ++ [(jobMembers j).findIdx (· == p.src)] } = false :=
  ⟨colls { job0 with window := some (4990, 5000, 8, 1, 1), coll := some coll0 } { slug0 with wait := .collective }, 0, 0,
  { job0 with window := some (4990, 5000, 8, 1, 1), coll := some coll0 }, coll0, packet0 6 (.join 1 4990 0), 1, 4990, 0,
  by decide +kernel⟩

theorem test_CollectivesMove_2 :
    ∃ (s : State) (f : FormeId) (k : JobSlot) (j : Job) (c : Coll) (p : Packet) (n : Nat) (st : Word) (dg : BitVec 128) (sl :
    Slug), InOrder s f k j p ∧ (s.forme f).drained = false ∧ p.ptype = 6 ∧ p.body = .join n st dg ∧ j.coll = some c ∧ c.k = n ∧
    c.stroke = st ∧ c.digest ≠ dg ∧ SoleSlug s f c.tag sl ∧ sl.state = .running :=
  ⟨colls { job0 with window := some (4990, 5000, 8, 1, 1), coll := some coll0 } { slug0 with wait := .collective }, 0, 0,
  { job0 with window := some (4990, 5000, 8, 1, 1), coll := some coll0 }, coll0, packet0 6 (.join 1 4990 1), 1, 4990, 1,
  { slug0 with wait := .collective }, by decide +kernel⟩

theorem test_CollectivesMove_3 :
    ∃ (s : State) (f : FormeId) (k : JobSlot) (j : Job) (p : Packet) (n : Nat) (st : Word) (dg : BitVec 128) (w : Word × Word ×
    Nat × Nat × Nat), InOrder s f k j p ∧ (s.forme f).drained = false ∧ p.ptype = 6 ∧ p.body = .join n st dg ∧ j.coll = none ∧
    j.window = some w ∧ w.1 = st :=
  ⟨colls pair slug0, 0, 0, pair, packet0 6 (.join 1 4990 0), 1, 4990, 0, (4990, 5000, 8, 1, 0), by decide +kernel⟩

theorem test_CollectivesMove_4 :
    ∃ (s : State) (f : FormeId) (k : JobSlot) (j : Job) (c : Coll) (p : Packet) (half : Nat) (step : Nat) (first : Nat) (es :
    List (BitVec 32)), InOrder s f k j p ∧ (s.forme f).drained = false ∧ p.ptype = 5 ∧ j.coll = some c ∧ p.arg.toNat % 256 = c.k
    % 256 ∧ c.moving = true ∧ c.held = [] ∧ p.body = .collData (halfRun c half) 0 half step first es :=
  ⟨colls (moving coll0) { slug0 with wait := .collective }, 0, 0, moving coll0, { coll0 with moving := true }, packet0 5
  (.collData 0 0 0 0 0 [7]), 0, 0, 0, [7], by decide +kernel⟩

theorem test_CollectivesMove_5 :
    ∃ (s : State) (f : FormeId) (k : JobSlot) (j : Job) (c : Coll) (p : Packet) (half : Nat) (first : Nat) (es : List (BitVec
    32)) (own : List (BitVec 32)), InOrder s f k j p ∧ (s.forme f).drained = false ∧ p.ptype = 5 ∧ j.coll = some c ∧ p.arg.toNat
    % 256 = c.k % 256 ∧ c.moving = true ∧ c.held = [] ∧ c.opcode = 2 ∧ j.nxj = 2 ∧ j.nyj = 1 ∧ (bitsSet j.podMask).length = 1 ∧
    es ≠ [] ∧ p.body = .collData (halfRun c half) 1 half 0 first es ∧ ownVals c 1 first es.length = some own :=
  ⟨colls (moving { coll0 with op := 0x810207, vals := [(1, 0, 5)] }) { slug0 with wait := .collective }, 0, 0, moving
  { coll0 with op := 0x810207, vals := [(1, 0, 5)] },
  { { coll0 with op := 0x810207, vals := [(1, 0, 5)] } with moving := true }, packet0 5 (.collData 0 1 0 0 0 [7]), 0, 0, [7],
  [5], by decide +kernel⟩

theorem test_CollectivesMove_6 :
    ∃ (s : State) (f : FormeId) (k : JobSlot) (j : Job) (c : Coll) (p : Packet) (ax : Nat) (half : Nat), InOrder s f k j p ∧
    p.ptype = 6 ∧ p.body = .reroute ax half ∧ j.coll = some c ∧ p.arg.toNat % 256 = c.k % 256 ∧ c.moving = false ∧
    c.flips.contains (ax, half) = false :=
  ⟨colls { job0 with window := some (4990, 5000, 8, 1, 1), coll := some coll0 } { slug0 with wait := .collective }, 0, 0,
  { job0 with window := some (4990, 5000, 8, 1, 1), coll := some coll0 }, coll0, packet0 6 (.reroute 0 1), 0, 1,
  by decide +kernel⟩

theorem test_CollectivesMove_7 :
    ∃ (s : State) (f : FormeId) (k : JobSlot) (j : Job) (c : Coll) (p : Packet) (sl : Slug), InOrder s f k j p ∧ p.ptype = 6 ∧
    p.body = .abort ∧ j.coll = some c ∧ p.arg.toNat % 256 = c.k % 256 ∧ outWhole j c = false ∧ SoleSlug s f c.tag sl ∧ sl.state
    = .running :=
  ⟨colls { job0 with window := some (4990, 5000, 8, 1, 1), coll := some coll0 } { slug0 with wait := .collective }, 0, 0,
  { job0 with window := some (4990, 5000, 8, 1, 1), coll := some coll0 }, coll0, packet0 6 .abort,
  { slug0 with wait := .collective }, by decide +kernel⟩

theorem test_CollectivesMove_8 :
    ∃ (s : State) (f : FormeId) (k : JobSlot) (j : Job) (p : Packet) (l : LinkId) (rev : Bool), InOrder s f k j p ∧ (s.forme
    f).drained = true ∧ ((p.ptype = 5 ∧ ∃ r h n m e es, p.body = .collData r h n m e es) ∨ (p.ptype = 6 ∧ ∃ n st dg, p.body =
    .join n st dg)) ∧ route s p.src false none = some (l, rev) ∧ LinkReady s l :=
  ⟨(colls { job0 with window := some (4990, 5000, 8, 1, 1), coll := some coll0 } { slug0 with wait := .collective }).modForme 0
  (fun x => { x with drained := true }), 0, 0, { job0 with window := some (4990, 5000, 8, 1, 1), coll := some coll0 }, packet0 6
  (.join 1 4990 0), 0, false, by refine ⟨?_, ?_, Or.inr ⟨?_, 1, 4990, 0, ?_⟩, ?_, ?_⟩ <;> decide +kernel⟩

theorem test_Jobs_1 :
    ∃ (s : State) (f : FormeId) (k : JobSlot) (m : Vector Word 16), Delivered s (.plain f) 3 m ∧ k.val = fld m[2] 5 0 ∧
    jobRefused s f k (jobRequest m s.time.ticks) = true :=
  ⟨told (torus one) (openMsg 0), 0, 0, openMsg 0, by decide +kernel⟩

theorem test_Jobs_2 :
    ∃ (s : State) (f : FormeId) (k : JobSlot) (m : Vector Word 16), Delivered s (.plain f) 3 m ∧ k.val = fld m[2] 5 0 ∧
    jobRefused s f k (jobRequest m s.time.ticks) = false ∧ 2 ≤ (jobMembers (jobRequest m s.time.ticks)).length ∧ (∀ o ∈
    s.colo.offers, o.jobId ≠ m[1]) :=
  ⟨told (torus (onC (fun x => { x with identityUp := true }))) (openMsg 12), 0, 0, openMsg 12, by decide +kernel⟩

theorem test_Jobs_3 :
    ∃ (s : State) (f : FormeId) (k : JobSlot) (j : Job) (tag : BitVec 16), (s.forme f).job k = some j ∧ j.isOpen = false ∧
    j.waiting = some tag ∧ 1000000 ≤ (s.time.ticks - j.since).toNat :=
  ⟨later (jobs jobW) 1000000, 0, 0, jobW, 7, by decide +kernel⟩

theorem test_Jobs_4 :
    ∃ (s : State) (f : FormeId) (k : JobSlot) (m : Vector Word 16), Delivered s (.plain f) 4 m ∧ k.val = fld m[1] 5 0 ∧ (∀ j,
    (s.forme f).job k = some j → j.coll = none ∧ j.waiting = none) :=
  ⟨told (jobs job0) (msg 4 0 0), 0, 0, msg 4 0 0, by refine ⟨?_, ?_, only_job (j0 := job0) ?_ ⟨?_, ?_⟩⟩ <;> decide +kernel⟩

theorem test_Jobs_5 :
    ∃ (s : State) (f : FormeId) (k : JobSlot) (j : Job) (tag : BitVec 16) (m : JobKeyMsg), jobWaiting s m.jobId = some (f, k, j)
    ∧ j.waiting = some tag ∧ myIndex s j = 0 ∧ 0 < m.member.toNat ∧ m.member.toNat < (jobMembers j).length ∧ jkOk s m false =
    true ∧ (∀ i : Nat, 0 < i → i < (jobMembers j).length → i = m.member.toNat ∨ BitVec.ofNat 16 i ∈ j.offers) :=
  ⟨jobs jobW, 0, 0, jobW, 7, offer true,
  by refine ⟨?_, ?_, ?_, ?_, ?_, ?_, fun i h1 h2 => Or.inl (Nat.le_antisymm (Nat.le_of_lt_succ (show i < 2 from h2)) h1)⟩ <;> decide +kernel⟩

theorem test_Jobs_6 :
    ∃ (s : State) (f : FormeId) (k : JobSlot) (j : Job) (tag : BitVec 16) (m : JobKeyMsg), jobWaiting s m.jobId = some (f, k, j)
    ∧ j.waiting = some tag ∧ myIndex s j = 0 ∧ 0 < m.member.toNat ∧ m.member.toNat < (jobMembers j).length ∧ jkOk s m false =
    false :=
  ⟨jobs jobW, 0, 0, jobW, 7, offer false, by decide +kernel⟩

theorem test_Jobs_7 :
    ∃ (s : State) (m : JobKeyMsg), s.boot.power = .on ∧ jobWaiting s m.jobId = none ∧ jobIdHeld s m.jobId = false :=
  ⟨one, offer true, by decide +kernel⟩

theorem test_Jobs_8 :
    ∃ (s : State) (f : FormeId) (k : JobSlot) (j : Job) (tag : BitVec 16) (m : JobKeyMsg), jobWaiting s m.jobId = some (f, k, j)
    ∧ j.waiting = some tag ∧ myIndex s j ≠ 0 :=
  ⟨{ jobs jobW with selfReg := 0x01040001 }, 0, 0, jobW, 7, offer true, by decide +kernel⟩

theorem test_Jobs_9 :
    ∃ (s : State) (f : FormeId) (k : JobSlot) (j : Job) (tag : BitVec 16) (id : Word), jobWaiting s id = some (f, k, j) ∧
    j.waiting = some tag :=
  ⟨jobs jobW, 0, 0, jobW, 7, 9, by decide +kernel⟩

theorem test_PortsTrain_1 :
    ∃ (s : State) (p : PortId) (g : BitVec 16), (s.port p).link = 1 ∧ (s.time.ticks - (s.port p).since).toNat ≤ 20000 ∧ (lowHalf
    ((s.port p).goodLanes &&& g) = true ∨ highHalf ((s.port p).goodLanes &&& g) = true) :=
  ⟨later (onP (fun p => { p with link := 1 })) 20000, 0, 0x00FF, by decide +kernel⟩

theorem test_PortsTrain_2 :
    ∃ (s : State) (p : PortId) (g : BitVec 16), (s.port p).link = 1 ∧ (20000 < (s.time.ticks - (s.port p).since).toNat ∨
    (lowHalf ((s.port p).goodLanes &&& g) = false ∧ highHalf ((s.port p).goodLanes &&& g) = false)) ∧ (s.port p).reqs = [] ∧
    (s.port p).heldReads = [] :=
  ⟨later (onP (fun p => { p with link := 1 })) 20001, 0, 0x00FF, by decide +kernel⟩

theorem test_PortsTrain_3 :
    ∃ (s : State) (p : PortId), s.boot.power = .on ∧ s.boot.pwrgd = true ∧ (s.port p).link = 0 ∧ 1000000 ≤ (s.time.ticks -
    (s.port p).since).toNat :=
  ⟨later (onP (fun p => { p with link := 0 })) 1000000, 0, by decide +kernel⟩

theorem test_PortsTrain_4 :
    ∃ (s : State) (p : PortId) (f : FormeId) (q : EcpReq) (tag : SlugTag) (sl : Slug), (s.port p).link ≠ 0 ∧ (s.port p).reqs =
    [q] ∧ (s.port p).heldReads = [] ∧ q.use = .slugRead f tag ∧ SoleSlug s f tag sl ∧ sl.state = .running ∧ sl.wait ≠ .matchCopy :=
  ⟨hosts, 0, 0, ask (.slugRead 0 3) false, 3, slugH, by decide +kernel⟩

theorem test_PortsTrain_5 :
    ∃ (s : State) (p : PortId), (s.port p).reqs = [] ∧ (s.port p).heldReads = [] ∧ (s.port p).link ≠ 0 :=
  ⟨one, 0, by decide +kernel⟩

theorem test_PortsTrain_6 :
    ∃ (s : State) (h : HostReq), hostTarget s h = .management :=
  ⟨one, hm, by decide +kernel⟩

theorem test_PortsTrain_7 :
    ∃ (s : State) (p : PortId), s.portUp p = true ∧ (s.port p).goodLanes = 0xFFFF :=
  ⟨one, 0, by decide +kernel⟩

theorem test_PortFlitsAndInvalidations_1 :
    ∃ (s : State) (p : PortId) (x : EcpFlit), s.portUp p = true ∧ x.crcOk = true ∧ x.type = 0 ∧ x.nak = false ∧ x.seq = (s.port
    p).rxExpect :=
  ⟨one, 0, eflit, by decide +kernel⟩

theorem test_PortFlitsAndInvalidations_2 :
    ∃ (s : State) (p : PortId) (x : EcpFlit), s.portUp p = true ∧ (x.crcOk = false ∨ (x.crcOk = true ∧ x.type = 0 ∧ x.nak =
    false ∧ x.seq ≠ (s.port p).rxExpect)) ∧ (s.port p).nakSent = false :=
  ⟨one, 0, { eflit with seq := 1 }, by decide +kernel⟩

theorem test_PortFlitsAndInvalidations_3 :
    ∃ (s : State) (p : PortId), s.portUp p = true :=
  ⟨onP (fun p => { p with copies := [(0, 1), (0, 2)] }), 0, by decide +kernel⟩

theorem test_PortFlitsAndInvalidations_4 :
    ∃ (s : State) (h : HostReq) (f : FormeId), hostTarget s h = .forme f :=
  ⟨onF (fun x => { x with ecp := { x.ecp with spillMap := [(1, 1), (2, 1)] } }), hf, 0, by decide +kernel⟩

theorem test_HostAnswers_1 :
    ∃ (s : State) (p : PortId) (tag : BitVec 12) (d : List Byte) (q : EcpReq) (f : FormeId) (w : SlugTag) (sl : Slug) (a :
    BitVec 56) (rest : List (BitVec 56 × Nat)), s.portUp p = true ∧ (s.port p).request tag false = some q ∧ q.use = .slugRead f
    w ∧ (s.port p).heldReads = [] ∧ findSlug (s.forme f) w = some sl ∧ acquireOp (s.forme f) sl = none ∧ sl.wait = .remote ∧
    sl.asked = (a, d.length) :: rest :=
  ⟨hosts, 0, 9, [1, 2], ask (.slugRead 0 3) false, 0, 3, slugH, 0x40000000001000, [], by decide +kernel⟩

theorem test_HostAnswers_2 :
    ∃ (s : State) (p : PortId) (tag : BitVec 12) (st : EcpStatus) (q : EcpReq) (f : FormeId) (w : SlugTag) (sl : Slug), s.portUp
    p = true ∧ st ≠ .ok ∧ (s.port p).request tag false = some q ∧ q.use = .slugRead f w ∧ (s.port p).heldReads = [] ∧ SoleSlug s
    f w sl ∧ sl.state = .running ∧ sl.wait ≠ .matchCopy :=
  ⟨hosts, 0, 9, .busError, ask (.slugRead 0 3) false, 0, 3, slugH, by decide +kernel⟩

theorem test_HostAnswers_3 :
    ∃ (s : State) (p : PortId) (tag : BitVec 12) (q : EcpReq) (f : FormeId) (w : SlugTag), s.portUp p = true ∧ (s.port
    p).request tag true = some q ∧ q.use = .slugWrite f w ∧ (s.port p).heldReads = [] :=
  ⟨writes, 0, 9, ask (.slugWrite 0 3) true, 0, 3, by decide +kernel⟩

theorem test_HostAnswers_4 :
    ∃ (s : State) (p : PortId) (tag : BitVec 12) (st : EcpStatus) (q : EcpReq) (f : FormeId) (w : SlugTag) (sl : Slug), s.portUp
    p = true ∧ st ≠ .ok ∧ (s.port p).request tag true = some q ∧ q.use = .slugWrite f w ∧ (s.port p).heldReads = [] ∧ findSlug
    (s.forme f) w = some sl :=
  ⟨writes, 0, 9, .timeout, ask (.slugWrite 0 3) true, 0, 3, slugH, by decide +kernel⟩

theorem test_HostAnswers_5 :
    ∃ (s : State) (p : PortId) (tag : BitVec 12) (q : EcpReq) (f : FormeId) (w : SlugTag) (sl : Slug), (s.port p).link ≠ 0 ∧
    (s.port p).request tag false = some q ∧ q.use = .slugRead f w ∧ (s.port p).heldReads = [] ∧ 100000 ≤ (s.time.ticks -
    q.issued).toNat ∧ SoleSlug s f w sl ∧ sl.state = .running ∧ sl.wait ≠ .matchCopy :=
  ⟨later hosts 100000, 0, 9, ask (.slugRead 0 3) false, 0, 3, slugH, by decide +kernel⟩

theorem test_HostMemory_1 :
    ∃ (s : State) (h : HostReq) (f : FormeId) (b : Fin 6) (o : BitVec 40) (n : Nat) (a : Nat), hostTarget s h = .forme f ∧
    aperture s f b o.toNat n = some (.galley a) :=
  ⟨explicit1, hf, 0, 2, 1048320, 256, 1048320, by decide +kernel⟩

theorem test_HostMemory_2 :
    ∃ (s : State) (h : HostReq) (f : FormeId) (b : Fin 6) (o : BitVec 40) (n : Nat) (a : Nat), hostTarget s h = .forme f ∧
    aperture s f b o.toNat n = some (.stack a) ∧ s.poisonedLine f a n = none :=
  ⟨one, hf, 0, 4, 4294967040, 256, 4294967040, by decide +kernel⟩

theorem test_HostMemory_3 :
    ∃ (s : State) (h : HostReq) (f : FormeId) (b : Fin 6) (o : BitVec 40) (d : List Byte) (a : Nat), MemoryOk s ∧ hostTarget s h
    = .forme f ∧ aperture s f b o.toNat d.length = some (.galley a) :=
  ⟨explicit1, hf, 0, 2, 1048575, [5], 1048575, by decide +kernel⟩

theorem test_HostMemory_4 :
    ∃ (s : State) (h : HostReq) (f : FormeId) (b : Fin 6) (o : BitVec 40) (d : List Byte) (a : Nat) (c : FormeCfg) (g : Region),
    hostTarget s h = .forme f ∧ aperture s f b o.toNat d.length = some (.stack a) ∧ (s.forme f).cfg = some c ∧ c.regions = [g] :=
  ⟨one, hf, 0, 4, 64, [1, 2], 64, cfg0, { base := 64, len := 32 }, by decide +kernel⟩

theorem test_HostMemory_5a :
    ∃ (s : State) (h : HostReq) (f : FormeId) (b : Fin 6) (o : BitVec 40) (n : Nat), hostTarget s h = .forme f ∧ aperture s f b
    o.toNat n = none :=
  ⟨explicit1, hf, 0, 2, 1048321, 256, by decide +kernel⟩

theorem test_HostMemory_5b :
    ∃ (s : State) (h : HostReq) (f : FormeId) (b : Fin 6) (o : BitVec 40) (d : List Byte), hostTarget s h = .forme f ∧ aperture
    s f b o.toNat d.length = none :=
  ⟨explicit1, hf, 0, 3, 0, [1], by decide +kernel⟩

theorem test_RegisterAccess_1 :
    ∃ (s : State) (h : HostReq) (f : FormeId), hostTarget s h = .forme f ∧ (s.forme f).cfg.isSome = true :=
  ⟨one, hf, 0, by decide +kernel⟩

theorem test_RegisterAccess_2 :
    ∃ (s : State) (h : HostReq) (f : FormeId) (o : BitVec 20), hostTarget s h = .forme f ∧ o.toNat % 8 = 0 ∧ (o.toNat / 0x1000 ∈
    [4, 6, 7, 8, 9, 10, 11] ∨ formeReg s f o.toNat = none) :=
  ⟨one, hf, 0, 0x04000, by decide +kernel⟩

theorem test_RegisterAccess_3 :
    ∃ (s : State) (h : HostReq) (f : FormeId) (o : BitVec 20) (w : Word), hostTarget s h = .forme f ∧ invalOut (s.port h.port) f
    = false ∧ o.toNat % 8 = 0 ∧ formeReg s f o.toNat = some w :=
  ⟨one, hf, 0, 0x05080, 0, by decide +kernel⟩

theorem test_RegisterAccess_4 :
    ∃ (s : State) (h : HostReq) (f : FormeId) (o : BitVec 20) (n : Nat), hostTarget s h = .forme f ∧ invalOut (s.port h.port) f
    = false ∧ (n = 4 ∨ n = 8) ∧ o.toNat % n = 0 ∧ formeReg s f (o.toNat / 8 * 8) = none :=
  ⟨onF id, hf, 0, 0xFFFF8, 8, by decide +kernel⟩

theorem test_RegisterAccess_5 :
    ∃ (s : State) (h : HostReq) (f : FormeId) (o : BitVec 20) (n : Nat), hostTarget s h = .forme f ∧ ((n ≠ 4 ∧ n ≠ 8) ∨ o.toNat
    % n ≠ 0 ∨ (n = 4 ∧ (formeReg s f (o.toNat / 8 * 8)).isSome = true)) :=
  ⟨one, hf, 0, 0x05080, 4, by decide +kernel⟩

theorem test_RegisterAccess_6 :
    ∃ (s : State) (h : HostReq) (f : FormeId) (o : BitVec 20) (n : Nat), hostTarget s h = .resetting f ∧ ((n ≠ 4 ∧ n ≠ 8) ∨
    o.toNat % n ≠ 0) :=
  ⟨onF (fun x => { x with ecp := { x.ecp with phase := 5 } }), hf, 0, 4, 8, by decide +kernel⟩

theorem test_RegisterAccess_7 :
    ∃ (s : State) (h : HostReq) (o : BitVec 20) (n : Nat), hostTarget s h = .management ∧ ((n ≠ 4 ∧ n ≠ 8) ∨ o.toNat % n ≠ 0 ∨
    (n = 4 ∧ (mgmtReg s h.port (o.toNat / 8 * 8)).isSome = true)) :=
  ⟨one, hm, 0x00104, 4, by decide +kernel⟩

theorem test_RegisterAccess_8 :
    ∃ (s : State) (h : HostReq) (o : BitVec 20) (w : Word), hostTarget s h = .management ∧ o.toNat % 8 = 0 ∧ mgmtReg s h.port
    o.toNat = some w :=
  ⟨one, hm, 0x00100, (mgmtReg one 0 0x100).getD 0, by decide +kernel⟩

theorem test_DeniedRequests_1 :
    ∃ (s : State) (h : HostReq), s.portUp h.port = true ∧ h.fn.val = 16 ∧ h.sec = false :=
  ⟨one, { hm with sec := false }, by decide +kernel⟩

theorem test_DeniedRequests_2 :
    ∃ (s : State) (h : HostReq), s.portUp h.port = true ∧ h.fn.val ≠ 16 ∧ s.bound h.port h.fn = none :=
  ⟨one, { hf with fn := 15 }, by decide +kernel⟩

theorem test_DeniedRequests_3 :
    ∃ (s : State) (h : HostReq) (f : FormeId), s.bound h.port h.fn = some f :=
  ⟨one, hf, 0, by decide +kernel⟩

theorem test_DeniedRequests_4 :
    ∃ (s : State) (h : HostReq), s.portUp h.port = false :=
  ⟨onP (fun p => { p with link := 1 }), hf, by decide +kernel⟩

theorem test_DeniedRequests_5a :
    ∃ (s : State) (h : HostReq), hostTarget s h = .denied :=
  ⟨one, { hf with fn := 15 }, by decide +kernel⟩

theorem test_DeniedRequests_5b :
    ∃ (s : State) (h : HostReq), hostTarget s h = .absent :=
  ⟨onP (fun p => { p with link := 1 }), hf, by decide +kernel⟩

theorem test_Mailboxes_1 :
    ∃ (s : State) (h : HostReq) (f : FormeId), hostTarget s h = .forme f ∧ (s.forme f).mbox.full = false ∧ opcodeDefined (.plain
    f) (msgOpcode (s.forme f).mbox.inData) = true :=
  ⟨one.modForme 0 (fun x => { x with mbox := { x.mbox with inData := msg 5 0 0 } }), hf, 0, by decide +kernel⟩

theorem test_Mailboxes_2 :
    ∃ (s : State) (h : HostReq) (f : FormeId), hostTarget s h = .forme f ∧ (s.forme f).mbox.full = false ∧ opcodeDefined (.plain
    f) (msgOpcode (s.forme f).mbox.inData) = false ∧ s.receiverReady (.plain f) = true :=
  ⟨one.modForme 0 (fun x => { x with mbox := { x.mbox with inData := msg 6 0 0 } }), hf, 0, by decide +kernel⟩

theorem test_Mailboxes_3 :
    ∃ (s : State) (h : HostReq) (f : FormeId), hostTarget s h = .forme f ∧ (s.forme f).mbox.full = true :=
  ⟨told one (msg 1 0 0), hf, 0, by decide +kernel⟩

theorem test_Mailboxes_4 :
    ∃ (s : State) (h : HostReq) (f : FormeId), hostTarget s h = .forme f ∧ (s.forme f).mbox.valid = true ∧ (s.forme f).mbox.full
    = false :=
  ⟨onF (fun x => { x with mbox := { x.mbox with valid := true, waiting := [msg 1 0 0] } }), hf, 0, by decide +kernel⟩

theorem test_Mailboxes_5 :
    ∃ (s : State) (c : CompId), wakeDue s c = true :=
  ⟨told one (msg 1 0 0), 0, by decide +kernel⟩

theorem test_Mailboxes_6 :
    ∃ (s : State) (c : CompId) (f : FormeId) (k : FormeCfg), (s.forme f).cfg = some k ∧ k.compositor = c ∧ (s.comp c).powered =
    true ∧ 10000 ≤ (s.comp c).idle ∧ wakeDue s c = false :=
  ⟨one.modComp 0 (fun k => { k with idle := 10000 }), 0, 0, cfg0, by decide +kernel⟩

theorem test_ReportsAndIdentity_1 :
    ∃ (nonce : List Word), nonce.length = 4 :=
  ⟨[0, 0, 0, 0], by decide +kernel⟩

theorem test_ReportsAndIdentity_2 :
    ∃ (s : State) (p : PortId) (m : Vector Word 16), Delivered s (.secure p) 0x0102 m ∧ s.boot.ready = true ∧ s.colo.opening =
    none ∧ s.colo.phase ≠ 1 :=
  ⟨asked one (msg 0x0102 0 0), 0, msg 0x0102 0 0, by decide +kernel⟩

theorem test_ReportsAndIdentity_3 :
    ∃ (s : State) (p : PortId) (m : Vector Word 16), Delivered s (.secure p) 0x0102 m ∧ s.boot.ready = true ∧ s.colo.opening =
    none ∧ s.colo.phase = 1 :=
  ⟨asked (onC (fun x => { x with phase := 1 })) (msg 0x0102 0 0), 0, msg 0x0102 0 0, by decide +kernel⟩

theorem test_ReportsAndIdentity_4 :
    ∃ (s : State) (p : PortId) (m : Vector Word 16), Delivered s (.secure p) 0x0103 m :=
  ⟨asked one (msg 0x0103 0 0), 0, msg 0x0103 0 0, by decide +kernel⟩

theorem test_QuoinNonces_1 :
    ∃ (s : State) (p : PortId) (m : Vector Word 16), Delivered s (.secure p) 0x0104 m ∧ s.boot.ready = true ∧ s.colo.mgmtOnly =
    false :=
  ⟨asked one (msg 0x0104 0 0), 0, msg 0x0104 0 0, by decide +kernel⟩

theorem test_QuoinNonces_2 :
    ∃ (s : State) (p : PortId) (m : Vector Word 16), Delivered s (.secure p) 0x0104 m ∧ s.boot.ready = true :=
  ⟨asked one (msg 0x0104 0 0), 0, msg 0x0104 0 0, by decide +kernel⟩

theorem test_QuoinNonces_3 :
    ∃ (s : State) (n : Nat) (w : Word), s.colo.nonce = some (n, w) :=
  ⟨later (trusted (msg 0 0 0)) 1000001, 1, 1, by decide +kernel⟩

theorem test_QuoinNonces_5 :
    ∃ (s : State) (p : PortId) (m : Vector Word 16), Delivered s (.secure p) 0x0105 m ∧ s.boot.ready = true :=
  ⟨trusted (msg 0x0105 0 1), 0, msg 0x0105 0 1, by decide +kernel⟩

theorem test_QuoinNonces_6 :
    ∃ (s : State) (p : PortId) (m : Vector Word 16), Delivered s (.secure p) 0x0107 m ∧ s.boot.ready = true :=
  ⟨trusted (msg 0x0107 0 0), 0, msg 0x0107 0 0, by decide +kernel⟩

theorem test_QuoinOpenings_1 :
    ∃ (s : State) (p : PortId) (m : Vector Word 16) (r : QuoinRequest), Delivered s (.secure p) 0x0105 m ∧ s.boot.ready = true ∧
    quoinCheck s r (BitVec.ofNat 3 (fld m[2] 2 0)) ≠ 0 :=
  ⟨trusted (msg 0x0105 0 1), 0, msg 0x0105 0 1, { keyHash := 6, sigOk := true }, by decide +kernel⟩

theorem test_QuoinOpenings_2 :
    ∃ (s : State) (p : PortId) (m : Vector Word 16) (r : QuoinRequest), Delivered s (.secure p) 0x0105 m ∧ s.boot.ready = true ∧
    quoinCheck s r (BitVec.ofNat 3 (fld m[2] 2 0)) = 0 :=
  ⟨trusted (msg 0x0105 0 7), 0, msg 0x0105 0 7, { keyHash := 5, sigOk := true }, by decide +kernel⟩

theorem test_QuoinOpenings_3 :
    ∃ (s : State) (o : Opening), s.colo.opening = some o ∧ o.domainsOff = false ∧ s.colo.heldReports = [] :=
  ⟨onC (fun x => { x with opening := some { opening0 with domainsOff := false } }), { opening0 with domainsOff := false },
  by decide +kernel⟩

theorem test_QuoinOpenings_4 :
    ∃ (s : State) (p : PortId) (m : Vector Word 16), Delivered s (.secure p) 0x0106 m ∧ s.boot.ready = true :=
  ⟨asked one (msg 0x0106 0 0), 0, msg 0x0106 0 0, by decide +kernel⟩

theorem test_FusesProgram_1 :
    ∃ (s : State) (p : PortId) (m : Vector Word 16) (r : FuseRequest), Delivered s (.secure p) 0x0107 m ∧ s.boot.ready = true ∧
    fuseCheck s r ≠ 0 :=
  ⟨trusted (msg 0x0107 0 0), 0, msg 0x0107 0 0, { fuse true with slot := 1 }, by decide +kernel⟩

theorem test_FusesProgram_2 :
    ∃ (s : State) (p : PortId) (m : Vector Word 16) (r : FuseRequest), Delivered s (.secure p) 0x0107 m ∧ s.boot.ready = true ∧
    fuseCheck s r = 0 ∧ r.blown = true :=
  ⟨trusted (msg 0x0107 0 0), 0, msg 0x0107 0 0, fuse true, by decide +kernel⟩

theorem test_FusesProgram_3 :
    ∃ (s : State) (p : PortId) (m : Vector Word 16) (r : FuseRequest), Delivered s (.secure p) 0x0107 m ∧ s.boot.ready = true ∧
    fuseCheck s r = 0 ∧ r.blown = false :=
  ⟨trusted (msg 0x0107 0 0), 0, msg 0x0107 0 0, fuse false, by decide +kernel⟩

theorem test_I3cAccess_1 :
    ∃ (s : State), i3cAnswers s = true :=
  ⟨one, by decide +kernel⟩

theorem test_I3cAccess_3 :
    ∃ (s : State), i3cAnswers s = true :=
  ⟨one, by decide +kernel⟩

theorem test_I3cAccess_4 :
    ∃ (s : State), i3cAnswers s = true :=
  ⟨one, by decide +kernel⟩

theorem test_I3cAccess_5 :
    ∃ (s : State), i3cAnswers s = false :=
  ⟨{ one with boot := { one.boot with power := .absent } }, by decide +kernel⟩

theorem test_I3cAccess_6a :
    ∃ (a : Nat), a < 0x138 :=
  ⟨0x137, by decide +kernel⟩

theorem test_I3cAccess_6b :
    ∃ (a : Nat), 0x138 ≤ a :=
  ⟨0x138, by decide +kernel⟩

theorem test_TestAccess_1a :
    ∃ (s : State) (op : PrivateTap), tapOn s = true ∧ s.colo.scopes.getLsbD (tapScope op) = false :=
  ⟨{ one with tap := { one.tap with inReset := false } }, .memorySelfTest, by decide +kernel⟩

theorem test_TestAccess_1b :
    ∃ (s : State) (op : PrivateTap), tapOn s = true ∧ s.colo.scopes.getLsbD (tapScope op) = true :=
  ⟨{ onC (fun x => { x with scopes := 7 }) with tap := { one.tap with inReset := false } }, .analogueMonitors,
  by decide +kernel⟩

theorem test_PlanesSumToProduct_1 :
    ∃ (planes : Nat) (passes : Nat) (signed : Bool) (ms : List (List Int)) (j : Nat), 1 ≤ planes ∧ (passes = 1 ∨ passes = 2) ∧ j
    < 1024 ∧ (∀ r ∈ ms, r.length ≤ 1024 ∧ ∀ w ∈ r, if signed then -(2 ^ (planes - 1) : Int) ≤ w ∧ w < 2 ^ (planes - 1) else 0 ≤
    w ∧ w < (2 ^ planes : Int)) :=
  ⟨3, 2, true, [[-4, 3]], 1, by decide +kernel⟩

theorem test_PlanesSumToProduct_3 :
    ∃ (rows : List (List Bool)) (cols : Nat), cols ≤ 1024 ∧ (∀ r ∈ rows, r.length ≤ cols) :=
  ⟨[[true, false]], 2, by decide +kernel⟩

theorem test_LinesRelocateAndDetect_1 :
    ∃ (out : List ChannelId) (l : Nat), ¬(out.contains (channelOf (256 * l)) = true ∧ outsideRelocation out l = true) :=
  ⟨[9], 0, by decide +kernel⟩

theorem test_LinesRelocateAndDetect_2 :
    ∃ (out : List ChannelId) (l : Nat), out.Nodup ∧ 1 ≤ out.length ∧ out.length ≤ 32 ∧ l < 1024 * 2 ^ 22 ∧ out.contains
    (channelOf (256 * l)) = true ∧ outsideRelocation out l = true :=
  ⟨[9], 9, by decide +kernel⟩

theorem test_EveryCommandCompletes_68 :
    ∃ (s : State) (a : PrivateTap), (tapOn s = false ∨ s.colo.scopes.getLsbD (tapScope a) = false) :=
  ⟨one, .memorySelfTest, by decide +kernel⟩


/-! ### Commands that nothing outside the module can send -/

def stripe (n : Nat) : RingEntry := { hdr := Vector.replicate 8 0, consts := List.replicate n 0 }

def pkt (t : BitVec 4) (b : PacketBody) : Packet :=
  { ptype := t, vc := 0, src := 1, dst := 0, len := 0, cls := false, reversed := false, hops := 0, jobId := 1, pktNum := 1, dseq := 1,
    arg := 0, body := b, tagOk := true }

/-- A byte outside its length. -/
def badBlob : Blob := { length := 4, cells := [(4, 1)] }

theorem test_wf_blob_bounds : badBlob.wf = false ∧ Blob.wf { length := 4, cells := [(1, 1), (1, 2)] } = false := by decide

theorem test_wf_bootenv_repeats : (Instr.moduleResetSteps { failingChannels := [3, 3], failingCores := [], entropyOk := true }).wf = false ∧
    (Instr.moduleResetSteps { failingChannels := [], failingCores := [9, 9], entropyOk := true }).wf = false := by decide

theorem test_wf_imposition_image : (Instr.impositionFetched (.data { blob := badBlob, sigOk := true })).wf = false ∧
    (Instr.impositionFetched (.fault .ok 0)).wf = false := by decide

theorem test_wf_pair_edge : PairEdge.wf { periodPs := 0, highNs := 0 } = false ∧ PairEdge.wf { periodPs := 1000000, highNs := 1000 } = false := by
  decide

theorem test_wf_strokeFrame : (Instr.strokeFrame (Vector.replicate 128 { periodPs := 0, highNs := 0 }) 0).wf = false := by decide +kernel

theorem test_wf_faults_are_not_ok : (Instr.entryReadFault 0 0 .ok).wf = false ∧ (Instr.report 0 (some .ok)).wf = false ∧
    (Instr.identity 0 (some .ok)).wf = false ∧ (Instr.quoinOpen 0 (.fault .ok 0)).wf = false ∧
    (Instr.fuseProgram 0 (.fault .ok 0)).wf = false ∧ (Instr.inkHeaderReadDone 0 (.fault .ok 0)).wf = false := by decide

theorem test_wf_entry_is_256_bytes : (Instr.nop 0 0 (stripe 191)).wf = false ∧ (Instr.launch 0 0 (stripe 193)).wf = false ∧
    (Instr.store 0 0 (stripe 0)).wf = false ∧ (Instr.patch 0 0 (stripe 191)).wf = false ∧ (Instr.free 0 0 (stripe 191)).wf = false := by
  decide +kernel

theorem test_wf_images : (Instr.matterImageReadDone 0 0 0 (.data badBlob)).wf = false ∧
    (Instr.inkHeaderReadDone 0 (.data { blob := badBlob, lead := .fault .timeout 0 })).wf = false ∧
    (Instr.inkHeaderReadDone 0 (.data { blob := { length := 0, cells := [] }, lead := .fault .ok 0 })).wf = false := by decide

theorem test_wf_fetched_bytes : (Instr.inkChunkDone 0 (.data badBlob)).wf = false ∧ (Instr.chunkRefetchDone 0 0 0 (.data badBlob)).wf = false ∧
    (Instr.inkChunkDone 0 (.fault .ok 0)).wf = false := by decide

theorem test_wf_packets : (Instr.loadReq (pkt 2 (.loadReq 0 0 1))).wf = false ∧ (Instr.loadResp (pkt 1 (.loadResp 0 0 []))).wf = false ∧
    (Instr.storePacket (pkt 4 (.store 0 0 []))).wf = false ∧ (Instr.storePacket (pkt 1 (.flagAdd 0 0 1))).wf = false ∧
    (Instr.storeAck (pkt 3 (.storeAck 0))).wf = false ∧ (Instr.nackRemote (pkt 7 (.nack 1 0 1))).wf = false ∧
    (Instr.collData (pkt 6 (.collData 0 1 0 0 0 []))).wf = false ∧ (Instr.join (pkt 5 (.join 0 0 0))).wf = false ∧
    (Instr.reroute (pkt 5 (.reroute 0 0))).wf = false ∧ (Instr.abort (pkt 7 .abort)).wf = false ∧
    (Packet.wf (pkt 6 (.job 0 0 1 []))) = false := by decide

theorem test_wf_packet_of_another_command : (Instr.loadReq (pkt 4 (.storeAck 0))).wf = false ∧ (Instr.join (pkt 3 (.store 0 0 []))).wf = false := by
  decide

theorem test_wf_flit_packets :
    (Instr.flitReceive 0 { seq := 0, ack := 0, nak := false, type := 0, credits := Vector.replicate 8 0, packets := [pkt 1 .abort], crcOk := true }).wf = false := by
  decide

theorem test_wf_host_data : (Instr.hostMemoryRead hf 2 0 257).wf = false ∧ (Instr.hostMemoryWrite hf 2 0 (List.replicate 257 0)).wf = false ∧
    (Instr.dcpl 0 0 .timeout [1]).wf = false := by decide +kernel

/-! ### Worked values of the manual -/

/-- The signals of R397's IDCODE: the stepping above 0x2410B87. -/
theorem test_idcode : idcode { cold with fuses := { cold.fuses with stepping := 3 } } = 0x32410B87 := by decide +kernel

/-- 05, the worked example: MXFP4 weights and FP8 E4M3 activations over two blocks. -/
theorem test_decode_weights_mxfp4 : (decodeWeight 0x42 0 (fun _ => 0) (fun _ => 0) [(3, 127), (13, 127)]).ms = [3, -6] ∧
    (decodeWeight 0x42 0 (fun _ => 0) (fun _ => 0) [(3, 127), (13, 127)]).e = some (-1) ∧
    (decodeWeight 0x42 0 (fun _ => 0) (fun _ => 0) [(7, 124)]).ms = [12] ∧
    (decodeWeight 0x42 0 (fun _ => 0) (fun _ => 0) [(7, 124)]).e = some (-4) := by decide +kernel

theorem test_decode_activations_e4m3 : (decodeActivation 0x45 0 (fun _ => 0) [(0x42, 0), (0x3E, 0)]).ms = [80, 56] ∧
    (decodeActivation 0x45 0 (fun _ => 0) [(0x42, 0), (0x3E, 0)]).e = some (-5) ∧
    (decodeActivation 0x45 0 (fun _ => 0) [(0x34, 0)]).ms = [96] ∧ (decodeActivation 0x45 0 (fun _ => 0) [(0x34, 0)]).e = some (-7) := by
  decide +kernel

/-- A tile of one column and the row that meets it. -/
def tileOf (planes : Nat) (signed : Bool) (ms : List Int) (das : List Nat) : Tile :=
  { handle := 1, index := 0, planes := planes, signed := signed, cols := 1, ms := ms.map (fun m => [m]), offsets := [das] }

/-- Load a tile, start the slot and accumulate one row: the slot, and whether the checks held. -/
def runOf (t : Tile) (start : Int) (row : TileRow) : AccSlot × Bool :=
  let r := (((default : PressArray).load t [row]).setAcc 0 0 (accStart start)).run t 1 [row]
  (r.1.accAt 0 0, r.2)

/-- The same example's shifts, 15 and 10, in its slot. -/
theorem test_accumulate_two_blocks :
    runOf (tileOf 5 true ([3, -6] ++ List.replicate 30 0 ++ [12]) [0, 3]) 0
      { lanes := [80, 56] ++ List.replicate 30 0 ++ [96], offsets := [0, 2] } = ({ v := -1966080, sat := false, res := 0 }, true) := by
  decide +kernel

/-- … and its output −0.9375 in FP8 E5M2: −1.0 to nearest, −0.875 toward zero, and either under a random word; BF16 exactly. -/
theorem test_output_e5m2 : (scalarOut 0x85 0 0 false true { m := -1966080, e := -21 }).code = 0xBC ∧
    (scalarOut 0x85 1 0 false true { m := -1966080, e := -21 }).code = 0xBB ∧
    (scalarOut 0x85 2 0x7FFFFFFF false true { m := -1966080, e := -21 }).code = 0xBC ∧
    (scalarOut 0x85 2 0x80000000 false true { m := -1966080, e := -21 }).code = 0xBB ∧
    (scalarOut 0x82 0 0 false true { m := -1966080, e := -21 }).code = 0xBF70 := by decide +kernel

/-- R84: BF16 1.9921875 in 8 planes rounds to 128 and is limited to 127. -/
theorem test_mantissa_limit : (decodeFloat 8 0 (fun _ => 0) [bf16.read 0x3FFF]).ms = [127] := by decide +kernel

/-- 06, the worked example: the slot, its row term and the output code in the three modes. -/
theorem test_quantised_slot :
    ((runOf (tileOf 4 false [3, 12, 7, 0] [0]) (-9175040) { lanes := [22, -38, 72, -28], offsets := [0] }).1.add (-224 * 32768)
      (res3 (-224 * 32768))).v = -12779520 ∧
    (scalarOut 0x08 0 0 false false (Dy.add { m := -12779520, e := -18 } { m := 128, e := 0 })).code = 79 ∧
    (scalarOut 0x08 2 0x3FFFFFFF false false (Dy.add { m := -12779520, e := -18 } { m := 128, e := 0 })).code = 80 ∧
    (scalarOut 0x08 2 0x40000000 false false (Dy.add { m := -12779520, e := -18 } { m := 128, e := 0 })).code = 79 := by decide +kernel

/-- … and in Octavo mode, where a stored zero point of 8 is subtracted. -/
theorem test_octavo : (decodeWeight 0x64 0 (fun _ => 0) (fun _ => 8) [(3, 0), (12, 0), (7, 0), (0, 0)]).ms = [-5, 4, -1, -8] ∧
    (runOf (tileOf 5 true [-5, 4, -1, -8] [0]) 0 { lanes := [22, -38, 72, -28], offsets := [0] }).1.v = -110 * 32768 := by decide +kernel

/-- R65: a cell of the array that reads wrong shows at its group's check column. -/
theorem test_check_column : checksEqual { (loadPlane [[true, false], [true, true]]) with bits := [1, 1] } 2 [5, 7] = false ∧
    checksEqual (loadPlane [[true, false], [true, true]]) 2 [5, 7] = true := by decide +kernel

/-- 11, the worked KIND 0 row: x = (2, −2, 2, 2), dy = (1, 0, 0, 0). -/
theorem test_norm_backward :
    let x := [0x40000000, 0xC0000000, 0x40000000, 0x40000000]
    normStats 0 0 x = (0, 0x3F000000) ∧
    normBackward 0 (List.replicate 4 one32) x [one32, 0, 0, 0] (normStats 0 0 x) = [0x3EC00000, 0x3E000000, 0xBE000000, 0xBE000000] := by
  decide +kernel

/-- R52 to R54: the example's collective entry of 03 occurs at 9,200,000,400 and 42 periods later, at 9,201,024,360. -/
theorem test_entry_occurs :
    let e : MrtEntry := { w0 := 9200000400, w1 := 0x0002000000005F3C, w2 := 20, w3 := 0 }
    occursAt e 9200000400 = true ∧ occursAt e 9201024360 = true ∧ occursAt e 9201024361 = false := by decide +kernel

/-- 02, the worked imposition of four formes: it passes the checks on its records, and with forme 3's compositor moved to
compositor 12, which forme 2 holds, check 14 refuses it. -/
def clients (comp3 : Nat) : SignedImage :=
  image 65536 [(0, 0x24100001_4F504D49), (8, 0x0000_0007_00010000), (0x10, 7), (0x18, 0x0000_00_04_00000003),
    (0x40, 0x0000010000010001), (0x48, 0x0004001000000050), (0x50, 0x0000015000010002), (0x58, 0x0004000800000030),
    (0x60, 0x0000018000010003), (0x68, 0x0004000800000030), (0x70, 0x000001B000010004), (0x78, 0x0004001000000050),
    (0x80, 0x0000020000010005), (0x88, 0x0004000800000030), (0x90, 0x0000023000010006), (0x98, 0x0004000800000030),
    (0xA0, 0x0000026000010007), (0xA8, 0x0004000800000030),
    (0x110, 0x00000A01_0000FF00), (0x118, 0x0000_0200_0400_3000), (0x120, 0x00010B02_08070001), (0x128, 0x0000_0100_0100_1200),
    (0x130, 0x00020C03_0C380002), (0x138, 0x0000_0100_0100_1200), (0x140, 0x00020C03_00C00003 + comp3 * 2 ^ 24), (0x148, 0x0000_0200_0100_0C00),
    (0x160, 0x01C0_0000_0000), (0x168, 0x00A0_01C0_0001), (0x170, 0x00A0_0260_0002), (0x178, 0x0078_0300_0003),
    (0x190, 0x0040_0000), (0x198, 0x0000_0011), (0x1A0, 0x0000_0022), (0x1A8, 0x0020_0033),
    (0x1C0, 0x0000_0002_0000_1C30), (0x1C8, 4), (0x1D0, 1), (0x1E0, 2), (0x1F0, 3),
    (0x210, 0x1000_0000), (0x218, 0x0600_0001), (0x220, 0x0600_0002), (0x228, 0x0400_0003),
    (0x230, 2400), (0x240, 0x04B0_0000), (0x248, 0x01C2_0001), (0x250, 0x01C2_0002), (0x258, 0x012C_0003),
    (0x260, 30000000 * 2 ^ 32 + 0x10), (0x270, 0), (0x278, 1), (0x280, 2), (0x288, 0x13)]

theorem test_worked_imposition :
    impSectionCheck (clients 14).blob = none ∧ impFormeCheck (impParse (clients 14).blob) = none ∧
    impRecordCheck base (impParse (clients 14).blob) = none ∧
    (impRecordCheck base (impParse (clients 12).blob)).map (·.1) = some 0x0016 := by decide +kernel


/-! ### Witnesses that a lemma carries -/

theorem header_again {s : State} {img : SignedImage} {n : Word} (h : impHeaderCheck { s with colo := { s.colo with seq := n } } img = none)
    (hs : (impParse img.blob).sequence = s.colo.seq) (hh : impositionHash img.blob = s.colo.hash) : impHeaderCheck s img = none := by
  have hr : ruleBlown { s with colo := { s.colo with seq := n } } 0 = ruleBlown s 0 := rfl
  have ha : signerAccepted { s with colo := { s.colo with seq := n } } img.blob = signerAccepted s img.blob := rfl
  have hi : identityHash { s with colo := { s.colo with seq := n } } = identityHash s := rfl
  unfold impHeaderCheck at h ⊢
  dsimp only at h ⊢
  rw [ha, hr, hi] at h
  rw [hs, hh] 
  have he : (!(decide (s.colo.seq.toNat < s.colo.seq.toNat) || (s.colo.seq == s.colo.seq && s.colo.hash == s.colo.hash))) = false := by simp
  repeat' split at h
  all_goals try (cases h; done)
  rename_i a b c d e f
  rw [if_neg a, if_neg b, if_neg c, if_neg d, if_neg (by rw [he]; exact Bool.false_ne_true), if_neg f]

/-- The imposition in force presented again: its hash is the image's. -/
def again : State := onC (fun x => { fetching x with seq := 2, hash := impositionHash image1.blob })

theorem check_again {s : State} {old : Option Imposition} {img : SignedImage} {n : Word}
    (h : impCheck { s with colo := { s.colo with seq := n } } old img = none) (hs : (impParse img.blob).sequence = s.colo.seq)
    (hh : impositionHash img.blob = s.colo.hash) : impCheck s old img = none := by
  have hd : impHeaderCheck { s with colo := { s.colo with seq := n } } img = none := by
    unfold impCheck at h
    dsimp only at h
    split at h
    · cases h
    · assumption
  have hr : impRecordCheck { s with colo := { s.colo with seq := n } } (impParse img.blob) = impRecordCheck s (impParse img.blob) := rfl
  have hp : impPartialCheck { s with colo := { s.colo with seq := n } } old (impParse img.blob) =
      impPartialCheck s old (impParse img.blob) := rfl
  unfold impCheck at h ⊢
  dsimp only at h ⊢
  rw [hd, hr, hp] at h
  rw [header_again hd hs hh]
  exact h

theorem test_Impose_6 : ∃ (s : State) (p : PortId) (tag : BitVec 16) (img : SignedImage), s.colo.phase = 1 ∧ s.colo.requester = some (p, tag) ∧
    impCheck s s.colo.committed { img with sigOk := signatureVerdict s img } = none ∧
    (impParse img.blob).sequence = s.colo.seq ∧ impositionHash img.blob = s.colo.hash :=
  ⟨again, 0, 7, image1, rfl, rfl, check_again (n := 1) (by decide +kernel) (by decide +kernel) rfl, by decide +kernel, rfl⟩

/-- A product whose operands stand in slug-local tensors, on core 0. -/
def prodSlug : Slug := { slug0 with cores := [0], locals := [(11, [0x01]), (12, [0xF1])] }
def prodTens : List TensorRec := [ten 11 0x01 2 1, ten 12 0x24 1 2, ten 13 0x30 1 1]
def opBits : OpRec := op [0x30240101, 12 * 2 ^ 32 + 11, 13, 2 * 2 ^ 24, 0, 0, 0xFFFFFFFFFFFF]
def prods : State := runs [opBits] prodTens prodSlug

theorem read_ok {g : Got (Option ProdInput)} {p : ProdInput → Bool}
    (h : (match g with | .ok (some x) => p x | _ => false) = true) : ∃ x, g = .ok (some x) ∧ p x = true := by
  split at h
  · exact ⟨_, rfl, h⟩
  · cases h

/-- The op finds everything at hand. -/
theorem at_hand {s : State} {f : FormeId} {sl : Slug} {v : Version} {o : OpRec} {w : Option FinWork} (c : Context)
    (hv : slugVersion (s.forme f) sl = some v) (ha : awaitsFetch s f sl (opInput o w) = false) (hc : findCtx (s.forme f) sl.ctx = some c)
    (hr : c.state = .resident) (hs : (match spillNeeds s f sl (opInput o w) (opWrites o) with | .ok _ => true | _ => false) = true)
    (hp : poisonHit s f sl (opInput o w) = none) :
    AtHand s f sl v o w ((demandReads s f sl (opInput o w)).modForme f (fun x => modSlug x sl.tag (fun y =>
      { y with snaps := (noteWeights s f v (opInput o w) (snapOperands s f sl o)).snaps,
               reads := (noteWeights s f v (opInput o w) (snapOperands s f sl o)).reads })))
      (noteWeights s f v (opInput o w) (snapOperands s f sl o)) where
  version := hv
  fetched := ha
  resident := fun d h => by rw [hc] at h; cases h; exact hr
  spill := by split at hs; · assumption
              · cases hs
  clean := hp
  slug := rfl
  state := rfl

def prodVer : Version := verOf [opBits] prodTens
def prodZ : Slug := noteWeights prods 0 prodVer (opInput opBits none) (snapOperands prods 0 prodSlug opBits)
def prodS : State := (demandReads prods 0 prodSlug (opInput opBits none)).modForme 0 (fun x => modSlug x prodSlug.tag (fun y =>
  { y with snaps := prodZ.snaps, reads := prodZ.reads }))

/-- What the witness of the product asks of what it reads. -/
def prodGood (s1 : State) (z : Slug) (x : ProdInput) : Bool :=
  x.rung.isNone &&
  (let r := rowInput (prodOp opBits x.q) z x.as x.own none
   let run := prodRun opBits z x r
   let y := run.all s1 0 3 (run.jobs z.cores (tileHome (s1.forme 0) z (handleLo opBits 1) (turns r.p.wRev)))
   let rows := (run.drained y.2.1).mapIdx (fun i d => drainRow r.p (fun j => r.p.outWord z (i * x.out.cols + j)) d)
   let bytes := tensorBytes r.p.oFmt x.out.cols { codes := rows.flatMap (·.1), scales := rows.flatMap (·.2.1) }
   y.2.2.isNone && decide (bytes = [1, 0]) && decide (proofLines (addProof prodSlug.proofs (.tensor (handleLo opBits 2) bytes)) ≤ prodSlug.proofKib * 4))

def prodRead : Bool := match prodInput prodS 0 prodZ prodVer opBits none with | .ok (some x) => prodGood prodS prodZ x | _ => false

theorem prod_reads : prodRead = true := by decide +kernel

theorem prod_read : ∃ x, prodInput prodS 0 prodZ prodVer opBits none = .ok (some x) ∧ prodGood prodS prodZ x = true := read_ok prod_reads

theorem test_OpsComplete_2 : ∃ (s s1 : State) (f : FormeId) (t : SlugTag) (sl z : Slug) (o : OpRec) (v : Version) (x : ProdInput) (tr : TensorRec),
    currentOp s f t = some (sl, o) ∧ AtHand s f sl v o none s1 z ∧ (∀ k ∈ s.copies, k.dead = []) ∧ opKind o = 1 ∧
    prodInput s1 f z v o none = .ok (some x) ∧ findTensor v (handleLo o 2) = some tr ∧ tr.isLocal = false ∧ drained? v z = false ∧
    f = 0 ∧ t = 3 ∧ o = opBits ∧ sl = prodSlug ∧ prodGood s1 z x = true := by
  have ha : AtHand prods 0 prodSlug prodVer opBits none prodS prodZ :=
    at_hand ctx0 (by decide +kernel) (by decide +kernel) (by decide +kernel) (by decide +kernel) (by decide +kernel) (by decide +kernel)
  obtain ⟨x, hx, hg⟩ := prod_read
  exact ⟨prods, prodS, 0, 3, prodSlug, prodZ, opBits, prodVer, x, ten 13 0x30 1 1, by decide +kernel, ha, by decide +kernel,
    by decide +kernel, hx, by decide +kernel, rfl, by decide +kernel, rfl, rfl, rfl, rfl, hg⟩

theorem fails_of {α : Type} {g : Got α} {c : Code} (h : (match g with | .fails d => d == c | _ => false) = true) : g = .fails c := by
  split at h
  · exact congrArg _ (eq_of_beq h)
  · cases h

/-- What the descriptor checks of an op of kind 3 or 6 ask. -/
theorem test_OpsComplete_3 : ∀ o ∈ [op [3, 2 ^ 53, 0, 13], op [6, 2 ^ 53]],
    let s := runs [o] [ten 13 0x30 1 1] { slug0 with cores := [0] }
    let v := verOf [o] [ten 13 0x30 1 1]
    ∃ (s1 : State) (sl z : Slug) (c : Context) (l : Launch), SoleSlug s 0 3 sl ∧ currentOp s 0 3 = some (sl, o) ∧ AtHand s 0 sl v o none s1 z ∧
      findCtx (s1.forme 0) z.ctx = some c ∧ findLaunch (s1.forme 0) z.ring z.seq = some l ∧
      ((opKind o = 3 ∧ (findTensor v (handleLo o 3)).isSome = true ∧ attnGather s1 0 z v (devAddr (opWord o 1)) = .fails 0x0902) ∨
        (opKind o = 6 ∧ updateInput s1 0 z l (devAddr (opWord o 1)) (jobAddr l o) = .fails 0x0B02)) := by
  intro o ho
  rcases List.mem_cons.mp ho with rfl | ho
  · exact ⟨_, { slug0 with cores := [0] }, _, ctx0, token, by decide +kernel, by decide +kernel,
      at_hand ctx0 (by decide +kernel) (by decide +kernel) (by decide +kernel) (by decide +kernel) (by decide +kernel) (by decide +kernel),
      by decide +kernel, by decide +kernel, .inl ⟨by decide +kernel, by decide +kernel, fails_of (by decide +kernel)⟩⟩
  · cases List.mem_singleton.mp ho
    exact ⟨_, { slug0 with cores := [0] }, _, ctx0, token, by decide +kernel, by decide +kernel,
      at_hand ctx0 (by decide +kernel) (by decide +kernel) (by decide +kernel) (by decide +kernel) (by decide +kernel) (by decide +kernel),
      by decide +kernel, by decide +kernel, .inr ⟨by decide +kernel, fails_of (by decide +kernel)⟩⟩

end Sys2Proof.Tests
end

section
/-! Register accesses (R8, R9, R11, R332, R407): what an access finds, what its answer leaves unchanged, and the statement O49. -/
namespace Sys2Proof.Machine

/-! ### What an access finds (R9, R11) -/

/-- An aligned 8-byte access of a covered offset is performed. -/
theorem accessOf_eq_reg {reg : Nat → Option Word} {off : Nat} {w : Word} (hoff : off % 8 = 0) (hw : reg off = some w) :
    accessOf reg off 8 = .reg w := by
  have haddr : off / 8 * 8 = off := Nat.div_mul_cancel (Nat.dvd_of_mod_eq_zero hoff)
  simp [accessOf, hoff, haddr, hw]

/-- A natural access of an uncovered offset finds no register. -/
theorem accessOf_eq_uncovered {reg : Nat → Option Word} {off n : Nat} (hn : n = 4 ∨ n = 8) (hoff : off % n = 0)
    (hreg : reg (off / 8 * 8) = none) : accessOf reg off n = .uncovered := by
  have hsize : (n == 4 || n == 8) = true := by simpa using hn
  simp [accessOf, hsize, hoff, hreg]

/-- An odd size or a misaligned access is the bus error, whatever lies at the offset. -/
theorem accessOf_eq_error_of_unnatural (reg : Nat → Option Word) {off n : Nat} (h : (n ≠ 4 ∧ n ≠ 8) ∨ off % n ≠ 0) :
    accessOf reg off n = .error := by
  have hcheck : (!(n == 4 || n == 8) || off % n != 0) = true := by simpa using h
  simp only [accessOf, hcheck, if_true]

/-- Half a register is the bus error too. -/
theorem accessOf_eq_error_of_half {reg : Nat → Option Word} {off : Nat} (h : (reg (off / 8 * 8)).isSome = true) :
    accessOf reg off 4 = .error := by
  obtain ⟨w, hw⟩ := Option.isSome_iff_exists.mp h
  simp [accessOf, hw]

/-- Every access that R11 refuses. -/
theorem accessOf_eq_error {reg : Nat → Option Word} {off n : Nat}
    (h : (n ≠ 4 ∧ n ≠ 8) ∨ off % n ≠ 0 ∨ (n = 4 ∧ (reg (off / 8 * 8)).isSome = true)) : accessOf reg off n = .error := by
  obtain hsize | halign | ⟨rfl, hreg⟩ := h
  · exact accessOf_eq_error_of_unnatural reg (.inl hsize)
  · exact accessOf_eq_error_of_unnatural reg (.inr halign)
  · exact accessOf_eq_error_of_half hreg

theorem leBytes_zero_eq_replicate (n : Nat) : leBytes n 0 = List.replicate n 0 := by
  induction n with
  | zero => rfl
  | succ n ih => simp [leBytes, ih, List.replicate_succ]

/-! ### What leaves on a port -/

/-- A packet that leaves through a port touches that port and the output only. -/
theorem State.ecpOut_sentOn (s : State) (p : PortId) (c : Fin 4) (n : Nat) (o : Output) : SentOn p o s (s.ecpOut p c n o) := by
  refine ⟨?_, rfl⟩
  simp only [OnlyPort, State.ecpOut, State.port_emit, State.port_modPort_self]
  rfl

theorem State.busError_sentOn (s : State) (h : HostReq) :
    SentOn h.port (.hcpl h.port h.fn h.tag .busError []) s (s.busError h) := s.ecpOut_sentOn ..

/-- What a register read answers, by what its access finds. -/
def readAnswer (h : HostReq) (a : Access) (n : Nat) : Output :=
  match a with
  | .reg w => .hcpl h.port h.fn h.tag .ok (leBytes 8 w.toNat)
  | .uncovered => .hcpl h.port h.fn h.tag .ok (List.replicate n 0)
  | .error => .hcpl h.port h.fn h.tag .busError []

theorem answerRead_sentOn (s : State) (h : HostReq) (a : Access) (n : Nat) :
    SentOn h.port (readAnswer h a n) s (answerRead s h a n) := by
  cases a with
  | reg w => exact s.ecpOut_sentOn ..
  | uncovered =>
    simp only [answerRead, readAnswer, leBytes_zero_eq_replicate]
    exact s.ecpOut_sentOn ..
  | error => exact s.busError_sentOn h

/-- What a register read that is answered `o` does: the packet leaves, and memory, formes, links, colophon and time stand. -/
structure ReadAnswered (o : Output) (s t : State) : Prop where
  out    : t.out = s.out ++ [o]
  formes : t.formes = s.formes
  stack  : t.stack = s.stack
  galley : t.galley = s.galley
  links  : t.links = s.links
  colo   : t.colo = s.colo
  time   : t.time = s.time

/-- An answered read, the count of free values aside, is one packet that leaves. -/
theorem SentOn.readAnswered {p : PortId} {o : Output} {s t : State} {n : Nat} (h : SentOn p o { s with free := n } t) :
    ReadAnswered o s t := by
  obtain ⟨hport, hout⟩ := h
  rw [OnlyPort] at hport
  exact { out := hout, formes := (congrArg State.formes hport :), stack := (congrArg State.stack hport :),
          galley := (congrArg State.galley hport :), links := (congrArg State.links hport :), colo := (congrArg State.colo hport :),
          time := (congrArg State.time hport :) }

/-! ### The two commands, by who answers (R332, R407) -/

section
variable {s : State} {h : HostReq} {f : FormeId} (o : BitVec 20) (n : Nat) (v : Word)

theorem exec_registerWrite_of_forme (ht : hostTarget s h = .forme f) : exec (.registerWrite h o n v) s =
    .next (performWrite s h (accessOf (formeReg s f) o.toNat n) (writeFormeReg s h f o.toNat v)) := by
  simp only [exec, execRegisterWrite, ht]

theorem exec_registerWrite_of_resetting (ht : hostTarget s h = .resetting f) : exec (.registerWrite h o n v) s =
    .next (performWrite s h (accessOf (formeReg s f) o.toNat n) s) := by
  simp only [exec, execRegisterWrite, ht]

theorem exec_registerWrite_of_management (ht : hostTarget s h = .management) : exec (.registerWrite h o n v) s =
    .next (performWrite s h (accessOf (mgmtReg s h.port) o.toNat n) (writeMgmtReg s h o.toNat v)) := by
  simp only [exec, execRegisterWrite, ht]

theorem exec_hostRegisterRead_of_forme (ht : hostTarget s h = .forme f) (hinval : invalOut (s.port h.port) f = false) :
    ∃ t, exec (.hostRegisterRead h o n) s = .next t ∧ ReadAnswered (readAnswer h (accessOf (formeReg s f) o.toNat n) n) s t := by
  simp only [exec, execHostRegisterRead, formeRead, ht, hinval, Bool.false_eq_true, if_false]
  exact ⟨_, rfl, (answerRead_sentOn ..).readAnswered⟩

theorem exec_hostRegisterRead_of_resetting (ht : hostTarget s h = .resetting f) :
    ∃ t, exec (.hostRegisterRead h o n) s = .next t ∧
      ReadAnswered (readAnswer h (accessOf (formeReg (resetView s f) f) o.toNat n) n) s t := by
  simp only [exec, execHostRegisterRead, formeRead, ht]
  exact ⟨_, rfl, (answerRead_sentOn ..).readAnswered⟩

theorem exec_hostRegisterRead_of_management (ht : hostTarget s h = .management) :
    ∃ t, exec (.hostRegisterRead h o n) s = .next t ∧ ReadAnswered (readAnswer h (accessOf (mgmtReg s h.port) o.toNat n) n) s t := by
  simp only [exec, execHostRegisterRead, ht]
  exact ⟨_, rfl, (answerRead_sentOn ..).readAnswered⟩

/-! ### Writes of a forme's registers (R8) -/

/-- An aligned 8-byte write of a register is performed. -/
theorem exec_registerWrite_of_reg {w : Word} (ht : hostTarget s h = .forme f) (hoff : o.toNat % 8 = 0)
    (hw : formeReg s f o.toNat = some w) : exec (.registerWrite h o 8 v) s = .next (writeFormeReg s h f o.toNat v) := by
  rw [exec_registerWrite_of_forme o 8 v ht, accessOf_eq_reg hoff hw]
  rfl

/-- Changing a forme changes nothing else. -/
theorem State.modForme_onlyForme (s : State) (f : FormeId) (g : Forme → Forme) : OnlyForme f s (s.modForme f g) := by
  rw [OnlyForme, State.forme_modForme_self]
  rfl

/-- A write that is one change of the forme. -/
theorem exec_registerWrite_of_modForme {w : Word} {g : Forme → Forme} (ht : hostTarget s h = .forme f) (hoff : o.toNat % 8 = 0)
    (hw : formeReg s f o.toNat = some w) (hg : writeFormeReg s h f o.toNat v = s.modForme f g) :
    ∃ t, exec (.registerWrite h o 8 v) s = .next t ∧ OnlyForme f s t ∧ t.forme f = g (s.forme f) :=
  ⟨s.modForme f g, by rw [exec_registerWrite_of_reg o v ht hoff hw, hg], s.modForme_onlyForme f g, s.forme_modForme_self f g⟩

/-- The blocks of R8 that only read. -/
theorem writeFormeReg_of_readOnly (s : State) (h : HostReq) (f : FormeId) {off : Nat} (v : Word)
    (hoff : off / 0x1000 ∈ [4, 6, 7, 8, 9, 10, 11]) : writeFormeReg s h f off v = s := by
  simp only [List.mem_cons, List.not_mem_nil, or_false] at hoff
  obtain hb | hb | hb | hb | hb | hb | hb := hoff <;> simp only [writeFormeReg, hb]

/-- An aligned 8-byte write of a read-only block, or of an uncovered offset, is ignored. -/
theorem exec_registerWrite_ignored (ht : hostTarget s h = .forme f) (hoff : o.toNat % 8 = 0)
    (hno : o.toNat / 0x1000 ∈ [4, 6, 7, 8, 9, 10, 11] ∨ formeReg s f o.toNat = none) :
    exec (.registerWrite h o 8 v) s = .next s := by
  have haddr : o.toNat / 8 * 8 = o.toNat := Nat.div_mul_cancel (Nat.dvd_of_mod_eq_zero hoff)
  cases hw : formeReg s f o.toNat with
  | none =>
    rw [exec_registerWrite_of_forme o 8 v ht, accessOf_eq_uncovered (.inr rfl) hoff (by rw [haddr, hw])]
    rfl
  | some w =>
    have hro := hno.resolve_right (by simp [hw])
    rw [exec_registerWrite_of_reg o v ht hoff hw, writeFormeReg_of_readOnly s h f v hro]

end

/-! ### A window with a configured forme (R9) -/

section
variable {s : State} {f : FormeId}

theorem formeReg_finRoundSeed (hcfg : (s.forme f).cfg.isSome = true) : formeReg s f 0x05080 = some (s.forme f).seed := by
  obtain ⟨c, hc⟩ := Option.isSome_iff_exists.mp hcfg
  simp [formeReg, hc]

theorem formeReg_schedTune (hcfg : (s.forme f).cfg.isSome = true) : formeReg s f 0x02008 = some (s.forme f).sched.tuneReg := by
  obtain ⟨c, hc⟩ := Option.isSome_iff_exists.mp hcfg
  simp [formeReg, hc, schedReg]

theorem formeReg_makeupTune (hcfg : (s.forme f).cfg.isSome = true) :
    formeReg s f 0x03000 = makeupReg (s.forme f).makeup 0x000 := by
  obtain ⟨c, hc⟩ := Option.isSome_iff_exists.mp hcfg
  simp [formeReg, hc]

end

/-- Settles O49: a write or a read is what its access finds (`accessOf`), and each kind of access has one lemma. -/
theorem registerAccess : Obligations.RegisterAccess := by
  refine ⟨fun s h f v ht hcfg => ⟨?_, ?_, ?_⟩, fun s h f o v ht hoff hno => ?_, fun s h f o w ht hinval hoff hw => ?_,
    fun s h f o n ht hinval hn hoff hreg => ?_, fun s h f o n v ht hbad => ⟨?_, fun hinval => ?_⟩,
    fun s h f o n v ht hbad => ⟨?_, ?_⟩, fun s h o n v ht hbad => ⟨?_, ?_⟩, fun s h o w ht hoff hw => ?_⟩
  · exact exec_registerWrite_of_modForme 0x05080 v ht (by decide) (formeReg_finRoundSeed hcfg) (g := ({ · with seed := v })) rfl
  · obtain ⟨t, hexec, honly, hforme⟩ :=
      exec_registerWrite_of_modForme 0x02008 v ht (by decide) (formeReg_schedTune hcfg) (g := (writeSched · 0x008 v)) rfl
    exact ⟨t, hexec, honly, hforme, by rw [hforme]; rfl⟩
  · obtain ⟨t, hexec, honly, hforme⟩ :=
      exec_registerWrite_of_modForme 0x03000 v ht (by decide) (formeReg_makeupTune hcfg) (g := (writeMakeup · v)) rfl
    refine ⟨t, hexec, honly, ?_⟩
    rw [hforme]
    exact ⟨rfl, rfl, Nat.zero_max .., Nat.zero_max .., rfl⟩
  · exact exec_registerWrite_ignored o v ht hoff hno
  · obtain ⟨t, hexec, hans⟩ := exec_hostRegisterRead_of_forme o 8 ht hinval
    rw [accessOf_eq_reg hoff hw] at hans
    exact ⟨t, hexec, hans.out, hans.formes, hans.stack, hans.galley, hans.colo, hans.time⟩
  · obtain ⟨t, hexec, hans⟩ := exec_hostRegisterRead_of_forme o n ht hinval
    rw [accessOf_eq_uncovered hn hoff hreg] at hans
    exact ⟨t, hexec, hans.out, hans.formes⟩
  · rw [exec_registerWrite_of_forme o n v ht, accessOf_eq_error hbad]
    exact ⟨_, rfl, s.busError_sentOn h⟩
  · obtain ⟨t, hexec, hans⟩ := exec_hostRegisterRead_of_forme o n ht hinval
    rw [accessOf_eq_error hbad] at hans
    exact ⟨t, hexec, hans.formes, hans.out⟩
  · rw [exec_registerWrite_of_resetting o n v ht, accessOf_eq_error_of_unnatural _ hbad]
    exact ⟨_, rfl, s.busError_sentOn h⟩
  · obtain ⟨t, hexec, hans⟩ := exec_hostRegisterRead_of_resetting o n ht
    rw [accessOf_eq_error_of_unnatural _ hbad] at hans
    exact ⟨t, hexec, hans.formes, hans.out⟩
  · rw [exec_registerWrite_of_management o n v ht, accessOf_eq_error hbad]
    exact ⟨_, rfl, s.busError_sentOn h⟩
  · obtain ⟨t, hexec, hans⟩ := exec_hostRegisterRead_of_management o n ht
    rw [accessOf_eq_error hbad] at hans
    exact ⟨t, hexec, hans.formes, hans.links, hans.colo, hans.out⟩
  · obtain ⟨t, hexec, hans⟩ := exec_hostRegisterRead_of_management o 8 ht
    rw [accessOf_eq_reg hoff hw] at hans
    exact ⟨t, hexec, hans.out, hans.formes⟩

end Sys2Proof.Machine
end

section
/-! Answers on a mailbox channel (R353, R355): what the take of a message and a response change, and the statement O13 (R26). -/
namespace Sys2Proof.Machine

/-! ### Changes of one port compose -/

section
variable {p : PortId} {s t u : State}

theorem onlyPort_iff : OnlyPort p s t ↔ ∃ x o, t = { s.modPort p (fun _ => x) with out := o } := by
  constructor
  · exact fun h => ⟨t.port p, t.out, h⟩
  · rintro ⟨x, o, rfl⟩
    have hport : State.port { s.modPort p (fun _ => x) with out := o } p = x := s.port_modPort_self p (fun _ => x)
    rw [OnlyPort, hport]

/-- Changing a port changes nothing else. -/
theorem State.modPort_onlyPort (s : State) (p : PortId) (g : Port → Port) : OnlyPort p s (s.modPort p g) :=
  onlyPort_iff.mpr ⟨g (s.port p), s.out, rfl⟩

theorem OnlyPort.refl (p : PortId) (s : State) : OnlyPort p s s := by
  simp [OnlyPort, State.modPort, State.port]

theorem OnlyPort.trans (hst : OnlyPort p s t) (htu : OnlyPort p t u) : OnlyPort p s u := by
  obtain ⟨x, o, rfl⟩ := onlyPort_iff.mp hst
  obtain ⟨y, o', rfl⟩ := onlyPort_iff.mp htu
  exact onlyPort_iff.mpr ⟨y, o', by simp [State.modPort]⟩

end

/-! ### What a channel holds after a packet, an event and a response (R348, R353) -/

@[simp] theorem pumpPort_mbox (x : Port) : (pumpPort x).mbox = x.mbox := by
  have hstart : ∀ (cs : List (Fin 4)) (y : Port), (cs.foldl startUnits y).mbox = y.mbox := by
    intro cs
    induction cs with
    | nil => exact fun y => rfl
    | cons c cs ih => exact fun y => ih (startUnits y c)
  exact hstart _ x

section
variable (s : State)

/-- A packet that leaves changes no channel. -/
@[simp] theorem State.ecpOut_mbox (p : PortId) (cls : Fin 4) (n : Nat) (o : Output) (c : Chan) :
    (s.ecpOut p cls n o).mbox c = s.mbox c := by
  cases c with
  | plain f => rfl
  | secure q =>
    simp only [State.mbox, State.ecpOut, State.port_emit]
    by_cases hq : p = q
    · subst hq
      simp
    · rw [State.port_modPort_of_ne _ _ _ _ hq]

/-- The event of a response changes no channel. -/
@[simp] theorem State.mboxEvent_mbox (c c' : Chan) : (s.mboxEvent c).mbox c' = s.mbox c' := by
  unfold State.mboxEvent State.portEvent State.formeEvent
  split
  case isFalse => rfl
  case isTrue =>
    cases c with
    | secure p =>
      dsimp only
      split <;> simp
    | plain f =>
      dsimp only
      split
      · split <;> simp
      · rfl

@[simp] theorem State.modMbox_mbox_self (c : Chan) (g : Mbox → Mbox) : (s.modMbox c g).mbox c = g (s.mbox c) := by
  cases c <;> simp [State.mbox, State.modMbox]

/-- A response leaves FULL as it is. -/
@[simp] theorem State.respond_full (c : Chan) (r : Vector Word 16) : ((s.respond c r).mbox c).full = (s.mbox c).full := by
  unfold State.respond
  split <;> simp

/-- A response stands in the outbound direction, or waits for it. -/
theorem State.respond_answered (c : Chan) (r : Vector Word 16) : Answered c r s (s.respond c r) := by
  unfold Answered State.respond
  split <;> simp

/-- Changing a secure channel touches its port only. -/
theorem State.modMbox_secure_onlyPort (p : PortId) (g : Mbox → Mbox) : OnlyPort p s (s.modMbox (.secure p) g) :=
  s.modPort_onlyPort p (fun x => { x with mbox := g x.mbox })

/-- An event of a secure channel touches its port only. -/
theorem State.mboxEvent_secure_onlyPort (p : PortId) : OnlyPort p s (s.mboxEvent (.secure p)) := by
  simp only [State.mboxEvent, State.portEvent]
  split
  case isFalse => exact .refl p s
  case isTrue =>
    split
    · exact (s.ecpOut_sentOn ..).1
    · exact .refl p s

/-- A response on a secure channel touches its port only. -/
theorem State.respond_secure_onlyPort (p : PortId) (r : Vector Word 16) : OnlyPort p s (s.respond (.secure p) r) := by
  unfold State.respond
  split
  · exact s.modMbox_secure_onlyPort ..
  · exact (s.modMbox_secure_onlyPort ..).trans (State.mboxEvent_secure_onlyPort ..)

end

/-! ### A waiting message is taken (R353) -/

section
variable {s : State} {c : Chan} {opcode : Nat} {m : Vector Word 16}

/-- The state in which the receiver acts on the message: FULL is clear. -/
def State.taken (s : State) (c : Chan) : State := s.modMbox c (fun x => { x with full := false })

theorem exchange_of_delivered (hm : Delivered s c opcode m) (k : Vector Word 16 → State → State) :
    exchange s c opcode k = k m (s.taken c) := by
  obtain ⟨hfull, hready, rfl, hop⟩ := hm
  have htake : s.take c opcode = some ((s.mbox c).inData, s.taken c) := by
    simp only [State.take, hfull, hready, hop, beq_self_eq_true, Bool.and_self, if_true]
    rfl
  simp only [exchange, htake]

/-- A response to the taken message ends the exchange, whatever changed besides the channel. -/
theorem State.respond_respondedWith {u : State} (hu : u.mbox c = (s.taken c).mbox c) (r : Vector Word 16) :
    RespondedWith c r s (u.respond c r) := by
  have hmbox : u.mbox c = { s.mbox c with full := false } := by rw [hu, State.taken, State.modMbox_mbox_self]
  constructor
  · rw [State.respond_full, hmbox]
  · have hans := u.respond_answered c r
    rwa [Answered, hmbox] at hans

end

/-! ### IMPOSE while an imposition is in progress (R26, R33) -/

section
variable {s : State} {p : PortId} {m : Vector Word 16}

theorem impBusy_of_phase_ne_zero (hphase : s.colo.phase ≠ 0) : impBusy s = true := by
  have hne : (s.colo.phase != 0) = true := bne_iff_ne.mpr hphase
  simp only [impBusy, hne, Bool.true_or]

theorem exec_impose_of_busy (hm : Delivered s (.secure p) 0x0101 m) (hbusy : impBusy s = true) :
    exec (.impose p) s = .next (impRefuse (s.taken (.secure p)) p (msgTag m) 0x0021) := by
  have hbusy' : impBusy (s.taken (.secure p)) = true := hbusy
  simp only [exec, execImpose, exchange_of_delivered hm, hbusy', if_true]

end

section
variable (s : State) (p : PortId) (tag : BitVec 16) (e : Code)

/-- A refusal ends the exchange. -/
theorem impRefuse_respondedWith :
    RespondedWith (.secure p) (mkResponse 0x0101 tag e []) s (impRefuse (s.taken (.secure p)) p tag e) :=
  State.respond_respondedWith (u := { s.taken (.secure p) with colo := { s.colo with code := e, secType := 0, formeNo := 0 } }) rfl _

/-- A refusal keeps its code in the colophon's registers, and touches nothing else but the port it answers on. -/
theorem impRefuse_onlyPort :
    OnlyPort p { s with colo := { s.colo with code := e, secType := 0, formeNo := 0 } } (impRefuse (s.taken (.secure p)) p tag e) :=
  OnlyPort.trans (State.modMbox_secure_onlyPort _ p (fun x => { x with full := false })) (State.respond_secure_onlyPort ..)

end

/-- Settles O13: a PHASE other than 0 makes the colophon busy, and the refusal changes its three code fields and the port only. -/
theorem impositionBusy : Obligations.ImpositionBusy := by
  intro s p m hm hphase
  obtain ⟨x, o, ht⟩ := onlyPort_iff.mp (impRefuse_onlyPort s p (msgTag m) 0x0021)
  refine ⟨_, exec_impose_of_busy hm (impBusy_of_phase_ne_zero hphase), impRefuse_respondedWith s p (msgTag m) 0x0021, ?_⟩
  rw [ht]
  exact ⟨rfl, rfl, rfl, rfl, rfl, rfl, rfl⟩

end Sys2Proof.Machine
end

section
/-! Host requests that R332 refuses, and ports that are down (SPEC.md, log 102): who answers, what each command of a host request
does with such a request, and the statement O50. -/
namespace Sys2Proof.Machine

/-! ### Who answers (R332) -/

section
variable {s : State} {h : HostReq}

/-- Nothing arrives on a port that is down. -/
theorem hostTarget_eq_absent (hup : s.portUp h.port = false) : hostTarget s h = .absent := by
  simp [hostTarget, hup]

/-- A management request whose header does not carry SEC = 1. -/
theorem hostTarget_eq_denied_of_not_sec (hup : s.portUp h.port = true) (hfn : h.fn.val = 16) (hsec : h.sec = false) :
    hostTarget s h = .denied := by
  simp [hostTarget, hup, hfn, hsec]

/-- A request of a function that binds no forme. -/
theorem hostTarget_eq_denied_of_not_bound (hup : s.portUp h.port = true) (hfn : h.fn.val ≠ 16) (hbound : s.bound h.port h.fn = none) :
    hostTarget s h = .denied := by
  simp [hostTarget, hup, hfn, hbound]

/-- A forme that a function binds has records in force and is not withheld (R39). -/
theorem State.cfg_and_not_withheld_of_bound {p : PortId} {fn : FnId} {f : FormeId} (hbound : s.bound p fn = some f) :
    (s.forme f).cfg.isSome = true ∧ s.colo.withheld.getLsbD f.val = false := by
  unfold State.bound at hbound
  split at hbound
  case isTrue => cases hbound
  case isFalse =>
    have hmatch := List.find?_some hbound
    cases hcfg : (s.forme f).cfg with
    | none => simp [hcfg] at hmatch
    | some c =>
      simp only [hcfg, Bool.and_eq_true, Bool.not_eq_true'] at hmatch
      exact ⟨rfl, hmatch.2⟩

end

/-! ### What each command of a host request does with it -/

/-- R332 for one command: a denied request is answered BUS_ERROR and nothing more, and one on a port that is down does nothing. -/
def RefusesDenied (i : Instr) (s : State) (h : HostReq) : Prop :=
  (hostTarget s h = .denied → exec i s = .next (s.busError h)) ∧ (hostTarget s h = .absent → exec i s = .next s)

section
variable {i : Instr} {s : State} {h : HostReq}

/-- The commands that write a register of a forme's window. -/
theorem RefusesDenied.of_formeWrite {k : FormeId → State} (hexec : exec i s = .next (formeWrite s h k)) : RefusesDenied i s h :=
  ⟨fun ht => by rw [hexec, formeWrite, ht], fun ht => by rw [hexec, formeWrite, ht]⟩

/-- The commands that write a register of the management window. -/
theorem RefusesDenied.of_managementWrite {k : PortId → State} (hexec : exec i s = .next (managementWrite s h k)) :
    RefusesDenied i s h :=
  ⟨fun ht => by rw [hexec, managementWrite, ht], fun ht => by rw [hexec, managementWrite, ht]⟩

/-- The BUS_ERROR that leaves is the only effect. -/
theorem RefusesDenied.sentOn (hi : RefusesDenied i s h) :
    (hostTarget s h = .denied → ∃ t, exec i s = .next t ∧ SentOn h.port (.hcpl h.port h.fn h.tag .busError []) s t) ∧
      (hostTarget s h = .absent → exec i s = .next s) :=
  ⟨fun ht => ⟨s.busError h, hi.1 ht, s.busError_sentOn h⟩, hi.2⟩

end

section
variable (s : State) (h : HostReq) (b : Fin 6) (a : BitVec 40) (o : BitVec 20) (n : Nat) (d : List Byte) (v : Word)

theorem hostMemoryRead_refusesDenied : RefusesDenied (.hostMemoryRead h b a n) s h :=
  ⟨fun ht => by simp only [exec, execHostMemoryRead, ht], fun ht => by simp only [exec, execHostMemoryRead, ht]⟩

theorem hostMemoryWrite_refusesDenied : RefusesDenied (.hostMemoryWrite h b a d) s h :=
  ⟨fun ht => by simp only [exec, execHostMemoryWrite, ht], fun ht => by simp only [exec, execHostMemoryWrite, ht]⟩

theorem registerWrite_refusesDenied : RefusesDenied (.registerWrite h o n v) s h :=
  ⟨fun ht => by simp only [exec, execRegisterWrite, ht], fun ht => by simp only [exec, execRegisterWrite, ht]⟩

theorem hostRegisterRead_refusesDenied : RefusesDenied (.hostRegisterRead h o n) s h :=
  ⟨fun ht => by simp only [exec, execHostRegisterRead, formeRead, ht], fun ht => by simp only [exec, execHostRegisterRead, ht]⟩

theorem mboxGo_refusesDenied : RefusesDenied (.mboxGo h v) s h :=
  ⟨fun ht => by simp only [exec, execMboxGo, ht], fun ht => by simp only [exec, execMboxGo, ht]⟩

theorem mboxAck_refusesDenied : RefusesDenied (.mboxAck h v) s h :=
  ⟨fun ht => by simp only [exec, execMboxAck, ht], fun ht => by simp only [exec, execMboxAck, ht]⟩

end

/-- Settles O50: who answers is read off `hostTarget`, and every command of a host request refuses a denied one by `busError` alone. -/
theorem deniedRequests : Obligations.DeniedRequests := by
  refine ⟨fun _ _ => hostTarget_eq_denied_of_not_sec, fun _ _ => hostTarget_eq_denied_of_not_bound,
    fun _ _ _ => State.cfg_and_not_withheld_of_bound, fun _ _ => hostTarget_eq_absent, fun s h r l b a o n d v i hi => ?_⟩
  apply RefusesDenied.sentOn
  revert i
  simp only [List.forall_mem_cons]
  exact ⟨.of_formeWrite rfl, .of_formeWrite rfl, .of_formeWrite rfl, .of_formeWrite rfl, .of_formeWrite rfl, .of_formeWrite rfl,
    .of_formeWrite rfl, hostMemoryRead_refusesDenied s h b a n, hostMemoryWrite_refusesDenied s h b a d,
    registerWrite_refusesDenied s h o n v, hostRegisterRead_refusesDenied s h o n, .of_formeWrite rfl, mboxGo_refusesDenied s h v,
    mboxAck_refusesDenied s h v, .of_managementWrite rfl, .of_managementWrite rfl, .of_managementWrite rfl, .of_managementWrite rfl,
    List.forall_mem_nil _⟩

end Sys2Proof.Machine
end

section
/-! What leaves the colophon's registers as they are: the operations on ports, memory, slugs, links and jobs through which a forme stops
and is cleared, one rule each, up to the stop of a forme itself (R264, R381). -/
namespace Sys2Proof.Machine

/-- A fold keeps what its step keeps. -/
theorem foldl_keeps_of_step {α β γ : Type} {proj : β → γ} {g : β → α → β} (hg : ∀ u x, proj (g u x) = proj u) (l : List α) (b : β) :
    proj (l.foldl g b) = proj b := by
  induction l generalizing b with
  | nil => rfl
  | cons a l ih => rw [List.foldl_cons, ih, hg]

/-- A fold whose step keeps the colophon keeps it. -/
theorem foldl_colo {α : Type} {g : State → α → State} (hg : ∀ u x, (g u x).colo = u.colo) (l : List α) (s : State) :
    (l.foldl g s).colo = s.colo := foldl_keeps_of_step hg l s

/-! ### Ports (R343 to R349) -/

section
variable (s : State) (f : FormeId)

@[simp] theorem State.ecpOut_colo (p : PortId) (cls : Fin 4) (n : Nat) (o : Output) : (s.ecpOut p cls n o).colo = s.colo := rfl
@[simp] theorem State.sendDwr_colo (p : PortId) (fn : FnId) (u : EcpUse) (a : HostAddr) (d : List Byte) :
    (s.sendDwr p fn u a d).colo = s.colo := rfl
@[simp] theorem State.retireUse_colo (u : EcpUse) : (s.retireUse u).colo = s.colo := rfl
@[simp] theorem purgeForme_colo : (purgeForme s f).colo = s.colo := rfl

@[simp] theorem State.formeDwr_colo (u : EcpUse) (a : HostAddr) (d : List Byte) : (s.formeDwr f u a d).colo = s.colo := by
  unfold State.formeDwr
  split
  · exact s.sendDwr_colo ..
  · rfl

@[simp] theorem State.markPage_colo (page : Nat) : (s.markPage f page).colo = s.colo := by
  unfold State.markPage
  split <;> rfl

@[simp] theorem State.spillDwr_colo (u : EcpUse) (page : Nat) (a : HostAddr) (d : List Byte) :
    (s.spillDwr f u page a d).colo = s.colo := by
  unfold State.spillDwr
  split
  · rw [State.markPage_colo, State.formeDwr_colo]
  · rfl

@[simp] theorem State.formeEvent_colo (source : BitVec 8) : (s.formeEvent f source).colo = s.colo := by
  unfold State.formeEvent
  split
  · dsimp only
    split
    · exact s.ecpOut_colo ..
    · rfl
  · rfl

@[simp] theorem State.noteCode_colo (c : Code) : (s.noteCode f c).colo = s.colo := by
  unfold State.noteCode
  dsimp only
  split
  · rw [State.formeEvent_colo, State.modForme_colo]
  · rfl

end

/-! ### Stack memory, galley and spill pages -/

section
variable (s : State) (f : FormeId)

@[simp] theorem State.scrubBytes_colo (a n : Nat) : (s.scrubBytes a n).colo = s.colo := rfl
@[simp] theorem State.clearGalley_colo (cs : List CoreId) : (s.clearGalley cs).colo = s.colo := rfl
@[simp] theorem State.galleyWrite_colo (a : Nat) (d : List Byte) : (s.galleyWrite a d).colo = s.colo := rfl
@[simp] theorem countDetect_colo (c : ChannelId) (l : Nat) : (countDetect s f c l).colo = s.colo := rfl

@[simp] theorem State.stackStore_colo (h : Hint) (off : Nat) (d : List Byte) : (s.stackStore f h off d).colo = s.colo := by
  unfold State.stackStore
  split
  · rfl
  · split <;> rfl

@[simp] theorem watchedWrite_colo (off : Nat) (d : List Byte) : (watchedWrite s f off d).colo = s.colo := by
  rw [watchedWrite, watchedStore, State.modForme_colo, State.stackStore_colo]

@[simp] theorem countPoison_colo (off n : Nat) : (countPoison s f off n).colo = s.colo := by
  unfold countPoison
  split
  · exact foldl_colo (fun t l => countDetect_colo t f _ l) _ _
  · rfl

@[simp] theorem ownWrite_colo (a : BitVec 56) (d : List Byte) : (ownWrite s f a d).colo = s.colo := by
  unfold ownWrite
  split
  · exact watchedWrite_colo ..
  · exact s.galleyWrite_colo ..
  · rfl

@[simp] theorem saveWrite_colo (j : Nat) (d : List Byte) : (saveWrite s f j d).colo = s.colo := by
  unfold saveWrite
  split <;> rfl

@[simp] theorem spillPageWrite_colo (u : EcpUse) (page off : Nat) (d : List Byte) : (spillPageWrite s f u page off d).colo = s.colo := by
  unfold spillPageWrite
  split
  · split
    · rw [State.modForme_colo, State.spillDwr_colo]
    · rfl
  · rfl

@[simp] theorem spillWrite_colo (u : EcpUse) (off : Nat) (d : List Byte) : (spillWrite s f u off d).colo = s.colo :=
  foldl_colo (fun t _ => spillPageWrite_colo t f ..) _ _

@[simp] theorem leafWrite_colo (u : EcpUse) (l : LeafEntry) (off : Nat) (d : List Byte) : (leafWrite s f u l off d).colo = s.colo := by
  unfold leafWrite
  split
  · rfl
  · split
    · exact spillPageWrite_colo ..
    · exact watchedWrite_colo ..

@[simp] theorem homeWrite_colo (u : EcpUse) (h : Home) (d : List Byte) : (homeWrite s f u h d).colo = s.colo := by
  cases h with
  | galley c g => exact s.galleyWrite_colo ..
  | stackPage a => exact watchedWrite_colo ..
  | spillPage a => exact spillWrite_colo ..
  | sharedPage a => rfl

@[simp] theorem imageWrite_colo (u : EcpUse) (p : ImagePlace) (d : List Byte) : (imageWrite s f u p d).colo = s.colo := by
  cases p with
  | galley c g => exact s.galleyWrite_colo ..
  | save j => exact saveWrite_colo ..
  | pool a => exact watchedWrite_colo ..
  | spill a => exact spillPageWrite_colo ..

@[simp] theorem sheetWrite_colo (u : EcpUse) (c : BitVec 16) (h : BitVec 32) (i : Nat) (d : List Byte) :
    (sheetWrite s f u c h i d).colo = s.colo := by
  unfold sheetWrite
  split
  · exact homeWrite_colo ..
  · exact foldl_colo (fun t _ => imageWrite_colo t f ..) _ _
  · rfl

@[simp] theorem tensorWrite_colo (u : EcpUse) (c : BitVec 16) (h : BitVec 32) (d : List Byte) :
    (tensorWrite s f u c h d).colo = s.colo :=
  foldl_colo (fun t k => sheetWrite_colo t f u c h k _) _ _

end

/-! ### Links and jobs (R307 to R327) -/

section
variable (s : State) (f : FormeId) (k : JobSlot)

@[simp] theorem drainQueue_colo (n : Nat) (l : LinkId) : (drainQueue n s l).colo = s.colo := by
  induction n generalizing s with
  | zero => rfl
  | succ n ih =>
    unfold drainQueue
    dsimp only
    split
    · rfl
    · split
      · rw [ih, foldl_colo (fun t x => t.emit_colo _), State.modLink_colo]
      · rfl

@[simp] theorem enqueue_colo (l : LinkId) (p : Packet) : (enqueue s l p).colo = s.colo := by
  rw [enqueue, drainQueue_colo, State.modLink_colo]

@[simp] theorem forward_colo (via : Option LinkId) (p : Packet) : (forward s via p).colo = s.colo := by
  unfold forward
  split
  · exact enqueue_colo ..
  · split
    · rfl
    · dsimp only
      split
      · exact enqueue_colo ..
      · rfl

@[simp] theorem State.modJob_colo (g : Job → Job) : (s.modJob f k g).colo = s.colo := rfl

@[simp] theorem sendJob_colo (dst : BitVec 12) (ty : BitVec 4) (vc : Fin 4) (n : Nat) (arg : BitVec 32) (body : PacketBody) :
    (sendJob s f k dst ty vc n arg body).colo = s.colo := by
  unfold sendJob jobPacket
  cases (s.forme f).job k with
  | none => rfl
  | some j => exact (forward_colo ..).trans (s.modJob_colo ..)

@[simp] theorem sendAll_colo (body : PacketBody) : (sendAll s f k body).colo = s.colo := by
  unfold sendAll
  split
  · refine foldl_colo (fun t m => ?_) _ _
    split
    · exact sendJob_colo ..
    · rfl
  · rfl

end

/-! ### Slugs: their end, their proofs and their copies (R178, R184, R288) -/

section
variable (s : State) (f : FormeId)

@[simp] theorem State.settle_colo : (s.settle f).colo = s.colo := rfl
@[simp] theorem slugPassed_colo (sl : Slug) : (slugPassed s f sl).colo = s.colo := rfl
@[simp] theorem holdRuns_colo (ids : List Nat) (take : Bool) : (holdRuns s f ids take).colo = s.colo := rfl

@[simp] theorem State.faultSlug_colo (t : SlugTag) (st : SlugState) (c : Code) : (s.faultSlug f t st c).colo = s.colo := by
  unfold State.faultSlug
  split
  · split
    · rfl
    · rw [State.settle_colo, State.noteCode_colo, State.modForme_colo]
  · rfl

@[simp] theorem indexInsert_colo (d : Fin 16) (run : Nat) (h : BitVec 256) : (indexInsert s d f run h).colo = s.colo := by
  unfold indexInsert
  split
  · rfl
  · split <;> rfl

@[simp] theorem absorbToken_colo (c : BitVec 16) (tok : Nat) : (absorbToken s f c tok).colo = s.colo := by
  unfold absorbToken
  split
  · dsimp only
    split
    · rfl
    · split
      · split
        · rw [indexInsert_colo, State.modForme_colo]
        · rfl
      · rfl
  · rfl

@[simp] theorem putSlot_colo (u : EcpUse) (c : BitVec 16) (e pos : Nat) (k v : List (BitVec 4)) :
    (putSlot s f u c e pos k v).colo = s.colo := by
  unfold putSlot
  split
  · rw [leafWrite_colo, leafWrite_colo]
  · rfl

@[simp] theorem commitAppends_colo (u : EcpUse) (c : BitVec 16) (ps : List Proof) (n : Nat) (prompt : List Nat) :
    (commitAppends s f u c ps n prompt).colo = s.colo := by
  unfold commitAppends
  split
  · rfl
  · split
    · rfl
    · dsimp only
      rw [foldl_colo (fun t i => absorbToken_colo t f c _), foldl_colo, State.modForme_colo]
      intro t p
      split
      · split
        · exact putSlot_colo ..
        · rfl
      · rfl

@[simp] theorem putProof_colo (sl : Slug) (p : Proof) : (putProof sl f s p).colo = s.colo := by
  cases p with
  | tensor h v => exact tensorWrite_colo ..
  | stack off d => exact watchedWrite_colo ..
  | spill off d => exact spillWrite_colo ..
  | norm2 job sum e => exact ownWrite_colo ..
  | galley a d => exact s.galleyWrite_colo ..
  | pointer | append | host | remote => rfl

@[simp] theorem sendStore_colo (t : SlugTag) (m : BitVec 12) (body : PacketBody) (n : Nat) : (sendStore s f t m body n).colo = s.colo := by
  unfold sendStore
  split
  · rw [State.modForme_colo, sendJob_colo]
  · rfl

@[simp] theorem sendStores_colo (t : SlugTag) (m : BitVec 12) (off : BitVec 40) (d : List Byte) :
    (sendStores s f t m off d).colo = s.colo :=
  foldl_colo (fun u _ => sendStore_colo u f t m ..) _ _

@[simp] theorem takeMatch_colo (sl : Slug) : (takeMatch s f sl).colo = s.colo := by
  unfold takeMatch
  split
  · split <;> rfl
  · rfl

@[simp] theorem landProofs_colo (sl : Slug) : (landProofs s f sl).colo = s.colo := by
  unfold landProofs
  dsimp only
  rw [State.modForme_colo, foldl_colo]
  · simp only [apply_ite State.colo, commitAppends_colo, foldl_colo (fun u p => putProof_colo u f sl p), takeMatch_colo, ite_self]
  · intro u p
    cases p with
    | remote m off d => exact sendStores_colo ..
    | tensor | stack | spill | galley | pointer | norm2 | append | host => rfl

@[simp] theorem landAll_colo (sl : Slug) : (landAll s f sl).colo = s.colo := by
  unfold landAll passFaults
  split
  · rw [State.noteCode_colo, State.modForme_colo, landProofs_colo]
  · exact landProofs_colo ..

@[simp] theorem writeFlag_colo (t : SlugTag) (o : OpRec) : (writeFlag s f t o).colo = s.colo := by
  unfold writeFlag
  dsimp only
  split
  · rfl
  · split
    · rw [watchedWrite_colo]
      split
      · exact countPoison_colo ..
      · rfl
    · exact State.formeDwr_colo ..
    · exact sendStore_colo ..
    · rfl

@[simp] theorem copyRun_colo (g : FormeId) (sl : Slug) (r : RunRec) : (copyRun f g sl s r).colo = s.colo := by
  unfold copyRun
  split
  · rfl
  · exact foldl_colo (fun u _ => leafWrite_colo u f ..) _ _

@[simp] theorem endCopy_colo (t : SlugTag) (n : Nat) : (endCopy s f t n).colo = s.colo := by
  unfold endCopy
  split
  · split
    · rw [State.modForme_colo, holdRuns_colo, foldl_colo (fun u r => copyRun_colo u f ..), State.retireUse_colo]
    · rfl
  · rfl

@[simp] theorem finishPass_colo (t : SlugTag) : (finishPass s f t).colo = s.colo := by
  unfold finishPass
  dsimp only
  split
  · rfl
  · split
    · rfl
    · split <;> simp only [slugPassed_colo, apply_ite State.colo, foldl_colo (fun u o => writeFlag_colo u f t o), landAll_colo,
        endCopy_colo, ite_self]

end

/-! ### The stop of a forme, and what clearing it does besides its keys (R264, R381, R382, R406) -/

section
variable (s : State) (f : FormeId)

@[simp] theorem flushResults_colo (r : RingId) : (flushResults f s r).colo = s.colo :=
  foldl_colo (fun _ _ => foldl_colo (fun u _ => u.formeDwr_colo f ..) _ _) _ _

@[simp] theorem flushRecords_colo (r : RingId) : (flushRecords f s r).colo = s.colo :=
  foldl_colo (fun t _ => t.formeDwr_colo f ..) _ _

@[simp] theorem collFault_colo (k : JobSlot) (cause : BitVec 3) (c : Code) (abort : Bool) :
    (collFault s f k cause c abort).colo = s.colo := by
  unfold collFault
  split
  · split
    · dsimp only
      rw [State.faultSlug_colo, State.modForme_colo, State.modJob_colo, apply_ite State.colo, sendAll_colo, ite_self]
    · rfl
  · rfl

@[simp] theorem closeJob_colo (k : JobSlot) : (closeJob s f k).colo = s.colo := by
  rw [closeJob, State.modForme_colo, collFault_colo]

@[simp] theorem closeJobs_colo : (closeJobs s f).colo = s.colo := by
  refine foldl_colo (fun t k => ?_) _ _
  rw [apply_ite State.colo, closeJob_colo, ite_self]

/-- A forme that stops changes nothing of the colophon. -/
@[simp] theorem stopForme_colo (c : Code) : (stopForme s f c).colo = s.colo := by
  unfold stopForme
  dsimp only
  rw [closeJobs_colo, foldl_colo (fun t r => flushRecords_colo t f r), foldl_colo (fun t k => finishPass_colo t f k),
    State.modForme_colo, foldl_colo (fun t r => flushResults_colo t f r)]

@[simp] theorem clearCores_colo (cs : List CoreId) : (clearCores s f cs).colo = s.colo := by
  rw [clearCores, foldl_colo (fun t c => (t.rampDown f c).modCore_colo c _), State.clearGalley_colo]

@[simp] theorem endCopies_colo : (endCopies s f).colo = s.colo := by
  refine foldl_colo (fun t g => ?_) _ _
  split
  · rfl
  · exact foldl_colo (fun u sl => (endCopy_colo ..).trans u.freshValue_colo) _ _

@[simp] theorem State.modBinding_colo (b : BindingId) (g : Binding → Binding) : (s.modBinding f b g).colo = s.colo := rfl

@[simp] theorem trimShared_colo : (trimShared s).colo = s.colo := by
  unfold trimShared
  dsimp only
  exact foldl_colo (fun _ o => foldl_colo (fun u b => u.modBinding_colo o b _) _ _) _ _

@[simp] theorem leaveShared_colo (before : State) : (leaveShared before s).colo = s.colo :=
  foldl_colo (fun t _ => t.scrubBytes_colo ..) _ _

end

end Sys2Proof.Machine
end

section
/-! Quoin nonces (R364, R376): a nonce is replaced by a challenge, ends with its 1,000,000 ticks, and is consumed by a request for
an opening or for fuses; and the statement O53. -/
namespace Sys2Proof.Machine

/-! ### A secure channel's exchange and its answer (R353, R403) -/

section
variable {s : State} {p : PortId} {opcode : Nat} {m : Vector Word 16}

theorem secureExchange_of_delivered (hm : Delivered s (.secure p) opcode m) (hready : s.boot.ready = true)
    (k : Vector Word 16 → State → State) : secureExchange s p opcode k = k m (s.taken (.secure p)) := by
  rw [secureExchange, if_pos hready, exchange_of_delivered hm]

/-- A response of the colophon ends the exchange, whatever changed besides the channel. -/
theorem colophonAnswer_respondedWith {u : State} (hu : u.mbox (.secure p) = (s.taken (.secure p)).mbox (.secure p)) (op : Nat)
    (tag : BitVec 16) (c : Code) (ws : List Word) :
    RespondedWith (.secure p) (mkResponse op tag c ws) s (colophonAnswer u p op tag c ws) :=
  State.respond_respondedWith (c := .secure p) (u := { u with colo := { u.colo with quoinCode := c } }) hu _

/-- It keeps its code in the colophon's registers, and touches nothing else but the port it goes out on. -/
theorem colophonAnswer_onlyPort (s : State) (p : PortId) (op : Nat) (tag : BitVec 16) (c : Code) (ws : List Word) :
    OnlyPort p { s with colo := { s.colo with quoinCode := c } } (colophonAnswer s p op tag c ws) :=
  State.respond_secure_onlyPort ..

end

/-! ### The commands -/

section
variable {s : State} {p : PortId} {m : Vector Word 16}

theorem exec_quoinChallenge_of_delivered (hm : Delivered s (.secure p) 0x0104 m) (hready : s.boot.ready = true) (ok : Bool) :
    exec (.quoinChallenge p ok) s = .next (challenge (s.taken (.secure p)) p (msgTag m) ok) := by
  simp only [exec, execQuoinChallenge, secureExchange_of_delivered hm hready]

theorem exec_quoinOpen_of_delivered (hm : Delivered s (.secure p) 0x0105 m) (hready : s.boot.ready = true) (r : Fetched QuoinRequest) :
    exec (.quoinOpen p r) s = .next (quoinOpen (s.taken (.secure p)) p m r) := by
  simp only [exec, execQuoinOpen, secureExchange_of_delivered hm hready]

theorem exec_fuseProgram_of_delivered (hm : Delivered s (.secure p) 0x0107 m) (hready : s.boot.ready = true) (r : Fetched FuseRequest) :
    exec (.fuseProgram p r) s = .next (fuseProgram (s.taken (.secure p)) p m r) := by
  simp only [exec, execFuseProgram, secureExchange_of_delivered hm hready]

theorem exec_quoinNonceExpiry_of_valid (hv : nonceValid s = true) : exec .quoinNonceExpiry s = .next s := by
  simp only [exec, execQuoinNonceExpiry, if_pos hv]

theorem exec_quoinNonceExpiry_of_not_valid (hv : ¬ nonceValid s = true) : exec .quoinNonceExpiry s = .next (dropNonce s) := by
  simp only [exec, execQuoinNonceExpiry, if_neg hv]

end

/-! ### QUOIN_CHALLENGE (R364, R376) -/

section
variable (s : State) (p : PortId) (tag : BitVec 16)

/-- A nonce with entropy: the next draw, stamped with the ticks. -/
def freshNonce (s : State) : State :=
  { s.draw.2 with colo := { s.colo with nonce := some (s.draws, s.time.ticks) } }

theorem freshNonce_mbox (c : Chan) : (freshNonce s).mbox c = s.mbox c := by
  cases c <;> rfl

theorem entropyFails_mbox_secure : (entropyFails s).mbox (.secure p) = s.mbox (.secure p) := rfl

theorem challenge_of_entropy (hkeys : s.colo.mgmtOnly = false) : challenge s p tag true =
    colophonAnswer (freshNonce s) p 0x0104 tag 0 ((List.range 4).map (wordOf (Config.entropy s.draws))) := by
  simp only [challenge, hkeys, Bool.not_false, Bool.and_self, if_true]
  rfl

theorem challenge_of_no_entropy : challenge s p tag false = colophonAnswer (entropyFails s) p 0x0104 tag 0x130A [] := rfl

end

/-! ### The 1,000,000 ticks (R376) -/

section
variable {s : State}

theorem nonceValid_of_none (hn : s.colo.nonce = none) : nonceValid s = false := by
  simp only [nonceValid, hn]

theorem nonceValid_of_some {n : Nat} {w : Word} (hn : s.colo.nonce = some (n, w)) :
    nonceValid s = true ↔ (s.time.ticks - w).toNat < 1000000 := by
  simp only [nonceValid, hn, decide_eq_true_eq]

theorem nonceValid_iff :
    nonceValid s = true ↔ ∃ (n : Nat) (w : Word), s.colo.nonce = some (n, w) ∧ (s.time.ticks - w).toNat < 1000000 := by
  constructor
  · intro hv
    cases hn : s.colo.nonce with
    | none => rw [nonceValid_of_none hn] at hv; cases hv
    | some x => exact ⟨x.1, x.2, rfl, (nonceValid_of_some hn).mp hv⟩
  · rintro ⟨n, w, hn, hticks⟩
    exact (nonceValid_of_some hn).mpr hticks

end

/-! ### QUOIN_OPEN and FUSE_PROGRAM (R359, R378, R379) -/

section
variable (s : State) (f : FormeId)

/-- The colophon loses a domain's secret at most. -/
@[simp] theorem dropDomain_nonce : (dropDomain s f).colo.nonce = s.colo.nonce := by
  unfold dropDomain
  split
  · split <;> rfl
  · rfl

@[simp] theorem clearForme_nonce (y : Forme) : (clearForme s f y).colo.nonce = s.colo.nonce := by
  unfold clearForme
  dsimp only
  rw [leaveShared_colo, trimShared_colo]
  dsimp only
  rw [State.setForme_colo, clearCores_colo, dropDomain_nonce, purgeForme_colo, endCopies_colo]

/-- An opening that starts leaves the nonce to the request that consumes it. -/
theorem openingStarts_nonce (p : PortId) (tag : BitVec 16) (scope : BitVec 3) :
    (openingStarts s p tag scope).colo.nonce = s.colo.nonce := by
  unfold openingStarts scrubStarts openingClears
  dsimp only
  rw [foldl_keeps_of_step (proj := fun t => t.colo.nonce) (fun t f => clearForme_nonce t f (openingForme (t.forme f))),
    foldl_colo (fun t f => stopForme_colo t f 0x1306)]

/-- Refused or not, a request for an opening consumes the nonce. -/
theorem quoinOpen_nonce (p : PortId) (m : Vector Word 16) (r : Fetched QuoinRequest) : (quoinOpen s p m r).colo.nonce = none := by
  cases r with
  | fault st a => rfl
  | data r =>
    simp only [quoinOpen]
    split
    · exact openingStarts_nonce ..
    · rfl

/-- Refused or not, a request for fuses consumes the nonce. -/
theorem fuseProgram_nonce (p : PortId) (m : Vector Word 16) (r : Fetched FuseRequest) : (fuseProgram s p m r).colo.nonce = none := by
  cases r with
  | fault st a => rfl
  | data r =>
    simp only [fuseProgram]
    split <;> rfl

end

/-- Settles O53: a challenge is one answer of the colophon, the expiry is read off `nonceValid`, and both requests pass through the
consumption of the nonce. -/
theorem quoinNonces : Obligations.QuoinNonces := by
  refine ⟨fun s p m hm hready hkeys => ?_, fun s p m hm hready => ?_, fun s n w hn => ?_, fun s => nonceValid_iff,
    fun s p m r hm hready => ⟨_, exec_quoinOpen_of_delivered hm hready r, quoinOpen_nonce ..⟩,
    fun s p m r hm hready => ⟨_, exec_fuseProgram_of_delivered hm hready r, fuseProgram_nonce ..⟩⟩
  · have hexec := exec_quoinChallenge_of_delivered hm hready true
    rw [challenge_of_entropy (s.taken (.secure p)) p (msgTag m) hkeys] at hexec
    obtain ⟨x, o, ht⟩ := onlyPort_iff.mp (colophonAnswer_onlyPort (freshNonce (s.taken (.secure p))) p 0x0104 (msgTag m) 0 _)
    refine ⟨_, hexec, ?_, ?_, colophonAnswer_respondedWith (freshNonce_mbox ..) .., ?_, ?_⟩ <;> rw [ht] <;> rfl
  · have hexec := exec_quoinChallenge_of_delivered hm hready false
    rw [challenge_of_no_entropy] at hexec
    obtain ⟨x, o, ht⟩ := onlyPort_iff.mp (colophonAnswer_onlyPort (entropyFails (s.taken (.secure p))) p 0x0104 (msgTag m) 0x130A [])
    refine ⟨_, hexec, ?_, ?_, ?_, colophonAnswer_respondedWith (entropyFails_mbox_secure ..) ..⟩ <;> rw [ht] <;> rfl
  · by_cases hticks : (s.time.ticks - w).toNat < 1000000
    · exact ⟨s, exec_quoinNonceExpiry_of_valid ((nonceValid_of_some hn).mpr hticks), rfl, by rw [hn, if_pos hticks]⟩
    · exact ⟨dropNonce s, exec_quoinNonceExpiry_of_not_valid (mt (nonceValid_of_some hn).mp hticks), rfl, by rw [if_neg hticks]; rfl⟩

end Sys2Proof.Machine
end

section
/-! What each command keeps (Safety.lean, `Keeps`): the laws of the operations, put together along each command's own branches. The statements
O4, O5 and O6 are read off `exec_keeps`. -/
namespace Sys2Proof.Machine

/-- The relation passes through a choice. -/
theorem Keeps.ite {c : Prop} [Decidable c] {s t u : State} (ht : Keeps s t) (hu : Keeps s u) : Keeps s (if c then t else u) := by
  split
  · exact ht
  · exact hu

/-- An answer that keeps, through a choice. -/
theorem KeepsRes.ite {c : Prop} [Decidable c] {s : State} {r q : Res} (hr : KeepsRes s r) (hq : KeepsRes s q) :
    KeepsRes s (if c then r else q) := by
  split
  · exact hr
  · exact hq

/-- A command that changes nothing. -/
theorem KeepsRes.same {s : State} : KeepsRes s (.next s) := .next (.refl s)

section
variable {s : State}

/-! ### Resets, supply and platen (R386 to R410) -/

theorem execColdReset_keeps (hi : Bool) (v : BitVec 16) : KeepsRes s (execColdReset hi v s) :=
  .next (.ite (coldSteps_keeps (.refl s) ..) (.refl s))

theorem execInputPowerLoss_keeps (v : BitVec 16) : KeepsRes s (execInputPowerLoss v s) :=
  .next (.ite ((keepAcross_keeps (pwrgdFalls_keeps (.refl s)) ..).update rfl) (.refl s))

theorem execSupplyFault_keeps (v : BitVec 16) (us : Nat) : KeepsRes s (execSupplyFault v us s) := by
  have hm : Keeps s (measureInput s v) := measureInput_keeps (.refl s) ..
  refine .next (.ite (.refl s) (.ite hm ?_))
  split
  case h_1 | h_2 | h_3 => exact (removePower_keeps hm ..).update rfl
  all_goals exact hm

theorem execSupplyFaultRestart_keeps (v : BitVec 16) (ms hottest : Nat) : KeepsRes s (execSupplyFaultRestart v ms hottest s) := by
  have hm : Keeps s (measureInput s v) := measureInput_keeps (.refl s) ..
  refine .next ?_
  dsimp only
  split
  case h_1 | h_2 | h_3 => exact .ite (startReset_keeps hm ..) hm
  all_goals exact .refl s

theorem execPlatenRstNAssert_keeps (us : Nat) : KeepsRes s (execPlatenRstNAssert us s) := by
  have hlow : Keeps s { s with boot := { s.boot with rstHigh := false } } := (Keeps.refl s).update rfl
  refine .next (.ite (.refl s) ?_)
  dsimp only
  split
  · exact removePower_keeps hlow ..
  · exact hlow.update rfl
  all_goals exact hlow

theorem execPlatenRstNRelease_keeps (v : BitVec 16) (ms hottest : Nat) : KeepsRes s (execPlatenRstNRelease v ms hottest s) := by
  have hm : Keeps s (measureInput { s with boot := { s.boot with rstHigh := true } } v) :=
    measureInput_keeps ((Keeps.refl s).update rfl) ..
  refine .next (.ite (.refl s) ?_)
  dsimp only
  split
  · exact startReset_keeps hm ..
  · exact .ite (startReset_keeps hm ..) hm
  · exact .ite (startReset_keeps hm ..) hm
  · exact .ite (startReset_keeps hm ..) (hm.update rfl)
  all_goals exact hm

theorem execModuleResetSteps_keeps (env : BootEnv) : KeepsRes s (execModuleResetSteps env s) :=
  .next (.ite (moduleSteps_keeps (.refl s) ..) (.refl s))

theorem execBringupScrubDone_keeps (ok : Bool) : KeepsRes s (execBringupScrubDone ok s) :=
  .next (.ite (bringup_keeps (.refl s) ..) (.refl s))

theorem execThermalSample_keeps (js : Vector (BitVec 8) 10) (i o : BitVec 8) : KeepsRes s (execThermalSample js i o s) := by
  refine .next (.ite (.refl s) (.ite ?_ ((Keeps.refl s).update rfl)))
  split
  case h_1 | h_2 | h_3 | h_4 => exact (removePower_keeps ((Keeps.refl s).update rfl) ..).update rfl
  all_goals exact (Keeps.refl s).update rfl

theorem execPowerIntervalEnd_keeps (w : BitVec 16) : KeepsRes s (execPowerIntervalEnd w s) :=
  .next (.ite ((Keeps.refl s).update rfl) (.refl s))

theorem execCurrentLimitEngage_keeps : KeepsRes s (execCurrentLimitEngage s) := .next (.ite ((Keeps.refl s).update rfl) (.refl s))

theorem execDomainDischargeDone_keeps (c : ClearScope) : KeepsRes s (execDomainDischargeDone c s) := by
  cases c with
  | forme f => exact .ite (.next (State.modForme_keeps (.refl s) ..)) .same
  | quoin =>
    simp only [execDomainDischargeDone]
    split
    · exact .ite (.next ((State.mapFormes_keeps (.refl s) _).update rfl)) .same
    · exact .same

theorem execFreset_keeps (h : HostReq) : KeepsRes s (execFreset h s) :=
  .next (formeWrite_keeps (.refl s) _ _ (fun _ => fresetForme_keeps (.refl s) ..))

theorem execFunctionResetScrubDone_keeps (f : FormeId) (ok : Bool) : KeepsRes s (execFunctionResetScrubDone f ok s) :=
  .next (resetScrubDone_keeps (.refl s) ..)

/-! ### Impositions (R24 to R38) -/

theorem execImpose_keeps (p : PortId) : KeepsRes s (execImpose p s) :=
  .next (exchange_keeps (.refl s) _ _ _ (fun _ _ ht =>
    .ite (impRefuse_keeps ht ..) (.ite (impRefuse_keeps ht ..) (.ite (impRefuse_keeps ht ..) (State.sendDrd_keeps (ht.update rfl) ..)))))

theorem execImpositionFetched_keeps (r : Fetched SignedImage) : KeepsRes s (execImpositionFetched r s) :=
  .next (impositionFetched_keeps (.refl s) ..)

theorem execReimposeDrainDone_keeps : KeepsRes s (execReimposeDrainDone s) := by
  unfold execReimposeDrainDone
  split
  · refine .ite (.next (journalPhase_keeps (Keeps.update ?_ rfl) ..)) .same
    have hscrub (l : List FormeId) : Keeps s (l.foldl scrubNamed s) := (Keeps.refl s).foldl (fun _ _ hu => scrubNamed_keeps hu ..)
    split
    · exact scrubStarts_keeps (hscrub _) ..
    · exact hscrub _
  · exact .same

theorem execReimposeScrubDone_keeps (ok : Bool) : KeepsRes s (execReimposeScrubDone ok s) := by
  unfold execReimposeScrubDone
  split
  · exact .next (.ite (reimpKey_keeps (.refl s) ..) (.refl s))
  · exact .same

theorem execReimposeCommit_keeps : KeepsRes s (execReimposeCommit s) := by
  unfold execReimposeCommit
  split
  · exact .next (.ite (reimpCommit_keeps (.refl s) ..) (.refl s))
  · exact .same

/-! ### Strokes, the make-ready table and its windows (R40 to R57) -/

theorem execStrokeEdge_keeps : KeepsRes s (execStrokeEdge s) := .next (.ite (strokeEdge_keeps (.refl s)) (.refl s))

theorem execLocalCountIncrement_keeps : KeepsRes s (execLocalCountIncrement s) := .next (.ite ((Keeps.refl s).update rfl) (.refl s))

theorem execStrokeFrame_keeps (es : Vector PairEdge 128) (ns : Int) : KeepsRes s (execStrokeFrame es ns s) :=
  .next (frameSeen_keeps (.refl s) ..)

theorem execStrokeMark_keeps (l : LinkId) (m : MarkFlit) (ns : Int) : KeepsRes s (execStrokeMark l m ns s) :=
  .next (markSeen_keeps (.refl s) ..)

theorem execStrokeSourceLost_keeps : KeepsRes s (execStrokeSourceLost s) := by
  refine .next ?_
  split
  · exact sourceGone_keeps (.refl s) ..
  · exact .refl s

theorem execHoldoverExpiry_keeps : KeepsRes s (execHoldoverExpiry s) :=
  .next (.ite (refuseWaiting_keeps ((Keeps.refl s).update rfl)) (.refl s))

theorem execMrtGo_keeps (h : HostReq) (v : Word) : KeepsRes s (execMrtGo h v s) :=
  .next (formeWrite_keeps (.refl s) _ _ (fun _ => State.modForme_keeps (.refl s) ..))

theorem execMrtCopyDone_keeps (f : FormeId) : KeepsRes s (execMrtCopyDone f s) := by
  unfold execMrtCopyDone
  split
  · exact .same
  · refine .next (State.modForme_keeps ?_ ..)
    split
    case h_1 hread => exact (mrtRead_keeps (.refl s) ..).get hread
    case h_2 => exact .refl s

theorem execMrtActivate_keeps (f : FormeId) : KeepsRes s (execMrtActivate f s) := by
  unfold execMrtActivate
  split
  · exact .ite (.next (State.modForme_keeps (.refl s) ..)) .same
  · exact .same

theorem execStepBoundary_keeps (f : FormeId) : KeepsRes s (execStepBoundary f s) := .next (stepBoundary_keeps (.refl s) ..)

theorem execCollectiveWindowOpen_keeps (f : FormeId) (e : BitVec 8) : KeepsRes s (execCollectiveWindowOpen f e s) := by
  unfold execCollectiveWindowOpen
  split
  · exact .ite (.next (State.modJob_keeps (openWindow_keeps (.refl s) ..) ..)) .same
  · exact .same

theorem execCollectiveWindowClose_keeps (f : FormeId) (e : BitVec 8) : KeepsRes s (execCollectiveWindowClose f e s) := by
  unfold execCollectiveWindowClose
  split
  · exact .same
  · have hdrop := fun w => dropWindow_keeps (.refl s) f w
    refine .ite (.next (hdrop _)) (.next ?_)
    refine Keeps.foldl (State.modJob_keeps ?_ ..) (fun _ _ hu => State.faultSlug_keeps hu ..)
    split
    · exact .ite (hdrop _) (collFault_keeps (hdrop _) ..)
    · exact hdrop _

theorem execFillerWindowOpen_keeps (f : FormeId) (e : BitVec 8) : KeepsRes s (execFillerWindowOpen f e s) := by
  unfold execFillerWindowOpen
  split
  · exact .next (Keeps.foldl (openWindow_keeps (.refl s) ..) (fun _ _ hu => State.modCore_keeps hu ..))
  · exact .same

theorem execFillerWindowEnd_keeps (f : FormeId) (e : BitVec 8) : KeepsRes s (execFillerWindowEnd f e s) := by
  unfold execFillerWindowEnd
  split
  · exact .next (Keeps.foldl (dropWindow_keeps (.refl s) ..) (fun _ _ hu => State.modCore_keeps hu ..))
  · exact .same

theorem execSharePeriodEnd_keeps (f : FormeId) : KeepsRes s (execSharePeriodEnd f s) :=
  .ite (.next (State.modForme_keeps (.refl s) ..)) .same

/-! ### Rings and their entries (R243 to R261) -/

theorem execFeedRingTail_keeps (h : HostReq) (r : RingId) (v : Word) : KeepsRes s (execFeedRingTail h r v s) :=
  .next (formeWrite_keeps (.refl s) _ _ (fun _ => .ite (State.modForme_keeps (.refl s) ..) (.refl s)))

theorem execRingEnable_keeps (h : HostReq) (r : RingId) (v : Word) : KeepsRes s (execRingEnable h r v s) :=
  .next (formeWrite_keeps (.refl s) _ _ (fun _ => .ite (State.modForme_keeps (.refl s) ..) (.refl s)))

theorem execRingDisable_keeps (h : HostReq) (r : RingId) (v : Word) : KeepsRes s (execRingDisable h r v s) :=
  .next (formeWrite_keeps (.refl s) _ _ (fun _ => .ite (State.modForme_keeps (.refl s) ..) (.refl s)))

theorem execBellErrClear_keeps (h : HostReq) (r : RingId) : KeepsRes s (execBellErrClear h r s) :=
  .next (formeWrite_keeps (.refl s) _ _ (fun _ => .ite (State.modRing_keeps (.refl s) ..) (.refl s)))

theorem execReplay_keeps (h : HostReq) (r : RingId) : KeepsRes s (execReplay h r s) :=
  .next (formeWrite_keeps (.refl s) _ _ (fun _ => .ite (ringReplay_keeps (.refl s) ..) (.refl s)))

theorem execFeedEntryFetch_keeps (f : FormeId) : KeepsRes s (execFeedEntryFetch f s) := by
  unfold execFeedEntryFetch
  split
  · exact .next (visitRing_keeps (.refl s) ..)
  · exact .same

theorem execEntryReadFault_keeps (f : FormeId) (r : RingId) (st : EcpStatus) : KeepsRes s (execEntryReadFault f r st s) :=
  .next (entryReadFault_keeps (.refl s) ..)

/-- An entry that arrives, whatever command its OPCODE makes it. -/
theorem arrival_keeps {c : Prop} [Decidable c] (f : FormeId) (r : RingId) (e : RingEntry) :
    KeepsRes s (.next (if c then arriveEntry s f r e else s)) := .next (.ite (arriveEntry_keeps (.refl s) ..) (.refl s))

theorem execMatterImageReadDone_keeps (f : FormeId) (r : RingId) (q : Seq) (x : Fetched Blob) :
    KeepsRes s (execMatterImageReadDone f r q x s) := by
  unfold execMatterImageReadDone
  split
  · split
    · exact .next (matterReadFault_keeps (.refl s) ..)
    · dsimp only
      split
      · exact .next (storeVersion_keeps (State.retireUse_keeps (.refl s) ..) ..)
      · exact .next (State.completeWith_keeps (State.retireUse_keeps (.refl s) ..) ..)
    · exact .next (storeVersion_keeps (.refl s) ..)
    · exact .same
  · exact .same

theorem execEntryRelease_keeps (f : FormeId) (r : RingId) : KeepsRes s (execEntryRelease f r s) := by
  unfold execEntryRelease
  split
  · exact .next (.ite (.refl s) (processEntry_keeps (.refl s) ..))
  · exact .same

theorem execLaunchComplete_keeps (f : FormeId) (r : RingId) (q : Seq) : KeepsRes s (execLaunchComplete f r q s) := by
  unfold execLaunchComplete
  split
  · exact .next (.ite (State.completeEntry_keeps (.refl s) ..) (.refl s))
  · exact .same

theorem execRecordWriteDone_keeps (f : FormeId) (r : RingId) (q : Seq) (st : EcpStatus) : KeepsRes s (execRecordWriteDone f r q st s) :=
  .next (.ite (recordWritten_keeps (.refl s) ..) (recordFaulted_keeps (.refl s) ..))

theorem execLaunchTimeout_keeps (f : FormeId) (r : RingId) (q : Seq) : KeepsRes s (execLaunchTimeout f r q s) :=
  .next (launchExpire_keeps (.refl s) ..)

/-! ### Programs and slugs (R178 to R195, R263, R288 to R291) -/

theorem execIssue_keeps (f : FormeId) (r : RingId) (q : Seq) (n : BitVec 16) (cs : List Byte) (a : SlugTag) :
    KeepsRes s (execIssue f r q n cs a s) := by
  unfold execIssue
  split
  · exact .same
  · refine .ite .same ?_
    split
    · exact .next (programEnds_keeps (.refl s) ..)
    · have hissued := fun g o => State.emit_keeps (State.modForme_keeps (.refl s) f g) o
      dsimp only
      split
      · exact .next (State.failSlug_keeps (hissued ..) ..)
      · exact .next (State.settle_keeps (readNorm2_keeps (hissued ..) ..) ..)

theorem execResolve_keeps (f : FormeId) (t : SlugTag) (n : Nat) : KeepsRes s (execResolve f t n s) :=
  .next (State.settle_keeps (State.modForme_keeps (State.modForme_keeps (.refl s) ..) ..) ..)

theorem execWait_keeps (f : FormeId) (t : SlugTag) : KeepsRes s (execWait f t s) := by
  unfold execWait
  split
  · exact .next (.ite (State.emit_keeps (.refl s) ..) (.refl s))
  · exact .same

theorem execProofRead_keeps (f : FormeId) (t : SlugTag) (n : Nat) : KeepsRes s (execProofRead f t n s) := by
  unfold execProofRead
  split
  · exact .ite (.next (State.emit_keeps (.refl s) ..)) .same
  · exact .same

theorem execEndLaunch_keeps (f : FormeId) (r : RingId) (q : Seq) (st : Code) (a : Nat) (bs : List Byte) :
    KeepsRes s (execEndLaunch f r q st a bs s) := by
  unfold execEndLaunch
  split
  · exact .same
  · exact .ite (.next (State.modForme_keeps (.refl s) ..)) (.next (programEnds_keeps (.refl s) ..))

theorem execProgramException_keeps (f : FormeId) (r : RingId) (q : Seq) : KeepsRes s (execProgramException f r q s) := by
  unfold execProgramException
  split
  · exact .next (programEnds_keeps (.refl s) ..)
  · exact .same

theorem execOpComplete_keeps (f : FormeId) (t : SlugTag) (n : Nat) (w : Option FinWork) : KeepsRes s (execOpComplete f t n w s) :=
  .next (nameLength_keeps (opStep_keeps (.refl s) ..) ..)

theorem execDetection_keeps (f : FormeId) (t : SlugTag) (k : DetectKind) : KeepsRes s (execDetection f t k s) :=
  .next (detect_keeps (.refl s) ..)

theorem execSlugPassPoint_keeps (f : FormeId) (t : SlugTag) : KeepsRes s (execSlugPassPoint f t s) := .next (passPoint_keeps (.refl s) ..)

theorem execProofWritesDone_keeps (f : FormeId) (t : SlugTag) : KeepsRes s (execProofWritesDone f t s) :=
  .next (writesDone_keeps (.refl s) ..)

theorem execReleaseDrainDone_keeps (f : FormeId) (t : SlugTag) : KeepsRes s (execReleaseDrainDone f t s) :=
  .next (releaseNext_keeps (.refl s) ..)

theorem execAcquireFlagPoll_keeps (f : FormeId) (t : SlugTag) (v : Word) : KeepsRes s (execAcquireFlagPoll f t v s) :=
  .next (pollFlag_keeps (.refl s) ..)

theorem execMatchPrompt_keeps (f : FormeId) (t : SlugTag) : KeepsRes s (execMatchPrompt f t s) := by
  unfold execMatchPrompt
  split
  · refine .ite ?_ .same
    split
    · exact .next (opDone_keeps (.refl s) ..)
    · exact .same
  · exact .same

theorem execLeafCopyDone_keeps (f : FormeId) (t : SlugTag) : KeepsRes s (execLeafCopyDone f t s) := by
  refine .next ?_
  split
  · refine .ite ?_ (.refl s)
    split
    · exact .ite (copyAsk_keeps (.refl s) ..) (.ite (askEntries_keeps (.refl s) ..) (endCopy_keeps (.refl s) ..))
    · exact .refl s
  · exact .refl s

/-! ### Make-up and swaps (R123 to R136, R280 to R282) -/

theorem execPlanComplete_keeps (f : FormeId) : KeepsRes s (execPlanComplete f s) :=
  .next (.ite (finishPlan_keeps (.refl s) ..) (.refl s))

theorem execRunaheadFetchDone_keeps (f : FormeId) (c : CoreId) (x : SheetFetch) : KeepsRes s (execRunaheadFetchDone f c x s) := by
  refine .next ?_
  split
  · exact .refl s
  · split
    · exact fetchFaults_keeps (.refl s) ..
    · exact .ite (fetchCopy_keeps (.refl s) ..) (.ite (stageSheet_keeps (.refl s) ..) (.refl s))

theorem execExplicitRegionApply_keeps (f : FormeId) : KeepsRes s (execExplicitRegionApply f s) :=
  .ite (.next (State.modForme_keeps (clearExplicit_keeps (.refl s) ..) ..)) .same

theorem execSwapStart_keeps (f : FormeId) : KeepsRes s (execSwapStart f s) := .next (.ite (trySwap_keeps (.refl s) ..) (.refl s))

theorem execSaveSpaceRetest_keeps (f : FormeId) : KeepsRes s (execSaveSpaceRetest f s) :=
  .next (.ite (trySwap_keeps (.refl s) ..) (.refl s))

theorem execSwapOutCopyDone_keeps (f : FormeId) (c : CoreId) : KeepsRes s (execSwapOutCopyDone f c s) :=
  .next (.ite (.ite (State.modForme_keeps (.refl s) ..) (copyRound_keeps (.refl s) ..)) (.refl s))

theorem execSwapInDone_keeps (f : FormeId) : KeepsRes s (execSwapInDone f s) := by
  refine .next ?_
  dsimp only
  split
  · refine .ite (.refl s) (.ite (swapBack_keeps (.refl s) ..) (.ite (askEntries_keeps (.refl s) ..) ?_))
    split
    case h_1 => exact swapIn_keeps (.refl s) ..
    case h_2 hread => exact (readPages_keeps (.refl s) ..).get hread
    case h_3 => exact swapBack_keeps (.refl s) ..
  · exact .ite (State.modForme_keeps (.refl s) ..) (.refl s)

theorem execSwapSliceDrained_keeps (f : FormeId) (c : CoreId) : KeepsRes s (execSwapSliceDrained f c s) :=
  .next (.ite (State.modForme_keeps (drainSlice_keeps (.refl s) ..) ..) (.refl s))

/-! ### Stack channels (R148 to R155) -/

theorem execChannelMapOut_keeps (ch : ChannelId) (k : MapOutKind) : KeepsRes s (execChannelMapOut ch k s) := by
  cases k with
  | draining => exact .ite .same (.next (.ite (mapOut_keeps (.refl s) ..) (.refl s)))
  | failed => exact .ite .same (.next (mapOut_keeps (.refl s) ..))

theorem execChannelCommandTimeout_keeps (ch : ChannelId) (n : Nat) (up : Bool) : KeepsRes s (execChannelCommandTimeout ch n up s) :=
  .ite .same (.ite (.next (drainFails_keeps (.refl s) ..)) (.next (mapOut_keeps (.refl s) ..)))

theorem execMigrationComplete_keeps (ls : List Nat) : KeepsRes s (execMigrationComplete ls s) := by
  unfold execMigrationComplete
  split
  · exact .same
  · exact .next ((Keeps.refl s).update rfl)

/-! ### The inker (R228 to R240) -/

theorem execInk_keeps (f : FormeId) : KeepsRes s (execInk f s) := by
  refine .next ?_
  dsimp only
  split
  · exact .ite (.refl s) (exchange_keeps (.refl s) _ _ _ (fun _ _ ht => State.answer_keeps ht ..))
  · exact exchange_keeps (.refl s) _ _ _ (fun _ _ ht => .ite (inkStart_keeps ht ..) (State.answer_keeps ht ..))

theorem execInkHeaderReadDone_keeps (f : FormeId) (r : Fetched InkHeader) : KeepsRes s (execInkHeaderReadDone f r s) :=
  .next (inkHeaderDone_keeps (.refl s) ..)

theorem execInkChunkDone_keeps (f : FormeId) (r : Fetched Blob) : KeepsRes s (execInkChunkDone f r s) := .next (inkChunkDone_keeps (.refl s) ..)

theorem execInkCopyComplete_keeps (f : FormeId) : KeepsRes s (execInkCopyComplete f s) := by
  unfold execInkCopyComplete
  dsimp only
  split
  · exact .next (.ite (State.modInker_keeps (.refl s) ..) (.refl s))
  · exact .same

theorem execStopServiceDrained_keeps (f : FormeId) : KeepsRes s (execStopServiceDrained f s) := by
  unfold execStopServiceDrained
  dsimp only
  split
  · exact .next (.ite (dropOld_keeps (.refl s) ..) (.refl s))
  · exact .same

theorem execAttach_keeps (f : FormeId) : KeepsRes s (execAttach f s) := by
  refine .next (exchange_keeps (.refl s) _ _ _ (fun _ _ ht => ?_))
  dsimp only
  split
  · exact State.answer_keeps ht ..
  · exact State.answer_keeps (State.modBinding_keeps ht ..) ..

theorem execDetach_keeps (f : FormeId) : KeepsRes s (execDetach f s) :=
  .next (exchange_keeps (.refl s) _ _ _ (fun _ _ ht => .ite (State.answer_keeps ht ..) (State.modBinding_keeps ht ..)))

theorem execChunkRefetchDone_keeps (f : FormeId) (b : BindingId) (n : Nat) (r : Fetched Blob) : KeepsRes s (execChunkRefetchDone f b n r s) :=
  .next (refetchDone_keeps (.refl s) ..)

/-! ### Aczia links, collectives and jobs (R302 to R328, R368, R369) -/

theorem execLinkTrainingDone_keeps (l : LinkId) (peer : BitVec 12) (ps : BitVec 24) : KeepsRes s (execLinkTrainingDone l peer ps s) :=
  .next (trainingDone_keeps (.refl s) ..)

theorem execLinkTrainRetry_keeps (l : LinkId) : KeepsRes s (execLinkTrainRetry l s) :=
  .next (.ite (startTraining_keeps (.refl s) ..) (.refl s))

theorem execCableConnected_keeps (l : LinkId) : KeepsRes s (execCableConnected l s) :=
  .next (.ite (startTraining_keeps (.refl s) ..) (.refl s))

theorem execLinkTrainingTimeout_keeps (l : LinkId) : KeepsRes s (execLinkTrainingTimeout l s) :=
  .next (.ite (.refl s) (.ite (State.modLink_keeps (.refl s) ..) (.ite (linkGone_keeps (.refl s) ..) (.refl s))))

theorem execRetrain_keeps (h : HostReq) (l : LinkId) (v : Word) : KeepsRes s (execRetrain h l v s) :=
  .next (managementWrite_keeps (.refl s) _ _ (fun _ => writeLinkCtrl_keeps (.refl s) ..))

theorem execDisable_keeps (h : HostReq) (l : LinkId) (v : Word) : KeepsRes s (execDisable h l v s) :=
  .next (managementWrite_keeps (.refl s) _ _ (fun _ => writeLinkCtrl_keeps (.refl s) ..))

theorem execAczSelf_keeps (h : HostReq) (v : Word) : KeepsRes s (execAczSelf h v s) :=
  .next (managementWrite_keeps (.refl s) _ _ (fun _ => writeSelf_keeps (.refl s) ..))

theorem execFlitReceive_keeps (l : LinkId) (x : AczFlit) : KeepsRes s (execFlitReceive l x s) :=
  .next (.ite (.ite (goodFlit_keeps (.refl s) ..) (rejectFlit_keeps (.refl s) ..)) (.refl s))

theorem execLaneBad_keeps (l : LinkId) (n : Fin 16) : KeepsRes s (execLaneBad l n s) :=
  .next (.ite (.refl s) (.ite (linkGone_keeps (State.modLink_keeps (.refl s) ..) ..)
    (State.bumpGen_keeps (State.modLink_keeps (State.modLink_keeps (.refl s) ..) ..))))

theorem execLinkLost_keeps (l : LinkId) : KeepsRes s (execLinkLost l s) := .next (.ite (linkGone_keeps (.refl s) ..) (.refl s))

theorem execRemoteLoadTimeout_keeps (f : FormeId) (t : SlugTag) : KeepsRes s (execRemoteLoadTimeout f t s) := by
  refine .next ?_
  split
  · exact .ite (State.failSlug_keeps (.refl s) ..) (.refl s)
  · exact .refl s

theorem execRemoteStoreTimeout_keeps (f : FormeId) (t : SlugTag) : KeepsRes s (execRemoteStoreTimeout f t s) := by
  refine .next ?_
  split
  · exact .ite (storeLost_keeps (.refl s) ..) (.refl s)
  · exact .refl s

theorem execCollectiveStart_keeps (f : FormeId) (t : SlugTag) : KeepsRes s (execCollectiveStart f t s) := by
  have hwaits := fun g => State.modForme_keeps (.refl s) f g
  unfold execCollectiveStart
  split
  · refine .ite .same ?_
    split
    · refine .ite .same ?_
      dsimp only
      split
      · exact .next (State.faultSlug_keeps (.refl s) ..)
      · split
        · exact .next (.ite (hwaits _) (hwaits _))
        · exact .next (.ite (beginColl_keeps (.refl s) ..) (hwaits _))
        · exact .next (.ite (State.faultSlug_keeps (.refl s) ..) (hwaits _))
    · exact .same
  · exact .same

theorem execJoinTimeout_keeps (f : FormeId) (k : JobSlot) : KeepsRes s (execJoinTimeout f k s) := by
  refine .next ?_
  split
  · exact .ite (collFault_keeps (.refl s) ..) (.refl s)
  · exact .refl s

theorem execCollectiveComplete_keeps (f : FormeId) (t : SlugTag) : KeepsRes s (execCollectiveComplete f t s) := by
  unfold execCollectiveComplete
  split
  · exact .same
  · split
    · split
      · refine .ite (.next ?_) .same
        split
        · exact opDone_keeps (State.modJob_keeps (.refl s) ..) ..
        · exact detect_keeps (State.modForme_keeps (State.modJob_keeps (.refl s) ..) ..) ..
      · exact .same
    · exact .same

theorem execJobOpen_keeps (f : FormeId) : KeepsRes s (execJobOpen f s) :=
  .next (exchange_keeps (.refl s) _ _ _ (fun _ _ ht => .ite (State.answer_keeps ht ..) (jobBegins_keeps ht ..)))

theorem execJobOpenTimeout_keeps (f : FormeId) (k : JobSlot) : KeepsRes s (execJobOpenTimeout f k s) := by
  refine .next ?_
  split
  · exact .ite (jobFails_keeps (.refl s) ..) (.refl s)
  · exact .refl s

theorem execJobClose_keeps (f : FormeId) : KeepsRes s (execJobClose f s) :=
  .next (exchange_keeps (.refl s) _ _ _ (fun _ _ ht => State.answer_keeps (closeJob_keeps (jobFails_keeps ht ..) ..) ..))

theorem execJkOffer_keeps (m : JobKeyMsg) : KeepsRes s (execJkOffer m s) := by
  refine .next ?_
  split
  · exact .ite (takeOffer_keeps (.refl s) ..) (.refl s)
  · exact .ite ((Keeps.refl s).update rfl) (.refl s)

theorem execJkDeliver_keeps (m : JobKeyMsg) : KeepsRes s (execJkDeliver m s) := by
  refine .next ?_
  split
  · exact .ite (.refl s) (.ite (jobOpens_keeps (.refl s) ..) (jobRejects_keeps (.refl s) ..))
  · exact .refl s

theorem execJkReject_keeps (id : Word) : KeepsRes s (execJkReject id s) := by
  refine .next ?_
  split
  · exact .ite (jobRejects_keeps (.refl s) ..) (jobFails_keeps (.refl s) ..)
  · exact closeJob_keeps (.ite (sendRejects_keeps (.refl s) ..) (.refl s)) ..
  · exact .refl s

/-! ### Host ports, mailboxes and the management window (R331 to R355) -/

theorem execPortTrainRetry_keeps (p : PortId) : KeepsRes s (execPortTrainRetry p s) :=
  .next (.ite (portTrains_keeps (.refl s) ..) (.refl s))

theorem execPortDown_keeps (p : PortId) : KeepsRes s (execPortDown p s) := .next (.ite (.refl s) (portFalls_keeps (.refl s) ..))

theorem execPortRetrain_keeps (h : HostReq) (v : Word) : KeepsRes s (execPortRetrain h v s) :=
  .next (managementWrite_keeps (.refl s) _ _ (fun _ => writePort_keeps (.refl s) ..))

theorem execEcpFlitReceive_keeps (p : PortId) (x : EcpFlit) : KeepsRes s (execEcpFlitReceive p x s) :=
  .next (.ite (.refl s) (.ite (ecpGoodFlit_keeps (.refl s) ..) (ecpRejects_keeps (.refl s) ..)))

theorem execHostMemoryRead_keeps (h : HostReq) (b : Fin 6) (a : BitVec 40) (n : Nat) : KeepsRes s (execHostMemoryRead h b a n s) := by
  refine .next ?_
  split
  · exact memoryRead_keeps (.refl s) ..
  case h_2 | h_3 | h_4 => exact State.busError_keeps (.refl s) ..
  · exact .refl s

theorem execHostMemoryWrite_keeps (h : HostReq) (b : Fin 6) (a : BitVec 40) (d : List Byte) : KeepsRes s (execHostMemoryWrite h b a d s) := by
  refine .next ?_
  split
  · exact memoryWrite_keeps (.refl s) ..
  case h_2 | h_3 | h_4 => exact State.busError_keeps (.refl s) ..
  · exact .refl s

theorem execRegisterWrite_keeps (h : HostReq) (o : BitVec 20) (n : Nat) (v : Word) : KeepsRes s (execRegisterWrite h o n v s) := by
  refine .next ?_
  split
  · exact performWrite_keeps (.refl s) _ _ _ (writeMgmtReg_keeps (.refl s) ..)
  · exact performWrite_keeps (.refl s) _ _ _ (writeFormeReg_keeps (.refl s) ..)
  · exact performWrite_keeps (.refl s) _ _ _ (.refl s)
  · exact State.busError_keeps (.refl s) ..
  · exact .refl s

theorem execHostRegisterRead_keeps (h : HostReq) (o : BitVec 20) (n : Nat) : KeepsRes s (execHostRegisterRead h o n s) := by
  refine .next ?_
  split
  · exact answerRead_keeps ((Keeps.refl s).update rfl) ..
  · exact .ite (State.modPort_keeps (.refl s) ..) (formeRead_keeps (.refl s) ..)
  case h_3 | h_4 => exact formeRead_keeps (.refl s) ..
  · exact .refl s

theorem execDcpl_keeps (p : PortId) (tag : BitVec 12) (st : EcpStatus) (d : List Byte) : KeepsRes s (execDcpl p tag st d s) := by
  refine .next ?_
  split
  · have hretire := fun g => State.retire_keeps (.refl s) p g
    exact .ite (.refl s) (releaseHeld_keeps (.ite (requestData_keeps (hretire _) ..) (requestFaults_keeps (hretire _) ..)) ..)
  · exact .refl s

theorem execDack_keeps (p : PortId) (tag : BitVec 12) (st : EcpStatus) : KeepsRes s (execDack p tag st s) := by
  refine .next ?_
  split
  · have hretire := fun g => State.retire_keeps (.refl s) p g
    exact .ite (.refl s) (releaseHeld_keeps (.ite (writeReached_keeps (hretire _) ..) (requestFaults_keeps (hretire _) ..)) ..)
  · exact .refl s

theorem execDrdTimeout_keeps (p : PortId) (tag : BitVec 12) : KeepsRes s (execDrdTimeout p tag s) := by
  refine .next ?_
  split
  · exact .ite (releaseHeld_keeps (requestFaults_keeps (State.retire_keeps (.refl s) ..) ..) ..) (.refl s)
  · exact .refl s

theorem execSnpInv_keeps (p : PortId) (a : BitVec 40) : KeepsRes s (execSnpInv p a s) := .next (.ite (snoop_keeps (.refl s) ..) (.refl s))

theorem execEcpSpillInval_keeps (h : HostReq) (v : Word) : KeepsRes s (execEcpSpillInval h v s) :=
  .next (formeWrite_keeps (.refl s) _ _ (fun _ => spillInval_keeps (.refl s) ..))

theorem execMboxGo_keeps (h : HostReq) (v : Word) : KeepsRes s (execMboxGo h v s) := by
  refine .next ?_
  split
  case h_1 | h_2 => exact writeInCtrl_keeps (.refl s) ..
  · exact State.busError_keeps (.refl s) ..
  all_goals exact .refl s

theorem execMboxAck_keeps (h : HostReq) (v : Word) : KeepsRes s (execMboxAck h v s) := by
  refine .next ?_
  split
  case h_1 | h_2 => exact writeOutCtrl_keeps (.refl s) ..
  · exact State.busError_keeps (.refl s) ..
  all_goals exact .refl s

theorem execCompositorWake_keeps (c : CompId) : KeepsRes s (execCompositorWake c s) := by
  refine .ite (.next (Keeps.foldl (State.modComp_keeps (.refl s) ..) (fun _ _ hu => ?_))) .same
  split
  · exact .ite (State.rejectUndefined_keeps hu ..) hu
  · exact hu

theorem execCompositorPowerGate_keeps (c : CompId) : KeepsRes s (execCompositorPowerGate c s) :=
  .next (.ite (State.modComp_keeps (.refl s) ..) (.refl s))

/-! ### The colophon (R358 to R380) -/

theorem execReport_keeps (p : PortId) (w : Option EcpStatus) : KeepsRes s (execReport p w s) :=
  .next (secureExchange_keeps (.refl s) _ _ _ (fun _ _ ht =>
    .ite (ht.update rfl) (.ite (colophonAnswer_keeps ht ..) (reportAnswer_keeps ht ..))))

theorem execIdentity_keeps (p : PortId) (w : Option EcpStatus) : KeepsRes s (execIdentity p w s) :=
  .next (exchange_keeps (.refl s) _ _ _ (fun _ _ ht =>
    .ite (colophonAnswer_keeps ht ..) (colophonAnswer_keeps (colophonWrite_keeps ht ..) ..)))

theorem execQuoinChallenge_keeps (p : PortId) (ok : Bool) : KeepsRes s (execQuoinChallenge p ok s) :=
  .next (secureExchange_keeps (.refl s) _ _ _ (fun _ _ ht => challenge_keeps ht ..))

theorem execQuoinNonceExpiry_keeps : KeepsRes s (execQuoinNonceExpiry s) := .next (.ite (.refl s) (dropNonce_keeps (.refl s)))

theorem execQuoinOpen_keeps (p : PortId) (r : Fetched QuoinRequest) : KeepsRes s (execQuoinOpen p r s) :=
  .next (secureExchange_keeps (.refl s) _ _ _ (fun _ _ ht => quoinOpen_keeps ht ..))

theorem execQuoinOpeningDone_keeps (ok : Bool) : KeepsRes s (execQuoinOpeningDone ok s) := by
  refine .next ?_
  split
  · exact .ite (.refl s) (openingEnds_keeps (.refl s) ..)
  · exact .refl s

theorem execQuoinClose_keeps (p : PortId) : KeepsRes s (execQuoinClose p s) :=
  .next (secureExchange_keeps (.refl s) _ _ _ (fun _ _ ht => startReset_keeps ht ..))

theorem execFuseProgram_keeps (p : PortId) (r : Fetched FuseRequest) : KeepsRes s (execFuseProgram p r s) :=
  .next (secureExchange_keeps (.refl s) _ _ _ (fun _ _ ht => fuseProgram_keeps ht ..))

/-! ### Pins (R420 to R425) -/

theorem execI3cWriteOffset_keeps (bs : List Byte) : KeepsRes s (execI3cWriteOffset bs s) := by
  refine .next (.ite (State.emit_keeps (.refl s) _) ?_)
  split
  · exact (Keeps.refl s).update rfl
  · exact State.emit_keeps (.refl s) _
  all_goals exact .refl s

theorem execI3cRead_keeps (n : Nat) : KeepsRes s (execI3cRead n s) :=
  .next (.ite (State.emit_keeps (.refl s) _) (State.emit_keeps ((Keeps.refl s).update rfl) _))

theorem execI3cAddressAssign_keeps (a : BitVec 7) : KeepsRes s (execI3cAddressAssign a s) :=
  .next (.ite ((Keeps.refl s).update rfl) (State.emit_keeps (.refl s) _))

theorem execTapBypass_keeps (n : Nat) : KeepsRes s (execTapBypass n s) := .next (.ite (tapBypass_keeps (.refl s)) (.refl s))

theorem execTapIdcode_keeps : KeepsRes s (execTapIdcode s) := .next (.ite (State.emit_keeps (setTap_keeps (.refl s) _) _) (.refl s))

theorem execTapSamplePreload_keeps (v : Vector Bool 6) : KeepsRes s (execTapSamplePreload v s) :=
  .next (.ite (State.emit_keeps (setTap_keeps ((Keeps.refl s).update rfl) _) _) (.refl s))

theorem execTapExtest_keeps : KeepsRes s (execTapExtest s) :=
  .next (.ite (State.emit_keeps (setTap_keeps ((Keeps.refl s).update rfl) _) _) (.refl s))

theorem execTapPrivateInstruction_keeps (op : PrivateTap) : KeepsRes s (execTapPrivateInstruction op s) :=
  .ite .same (.ite .refused (.next (tapBypass_keeps (.refl s))))

theorem execTapReset_keeps (low : Bool) : KeepsRes s (execTapReset low s) :=
  .next (.ite (setTap_keeps (.refl s) _) (setTap_keeps (.refl s) _))

end

/-! ### Every command -/

/-- Whatever a command answers keeps its queue, the blown fuses, what was drawn, what has left and the form of the memories. -/
theorem exec_keeps (i : Instr) (s : State) : KeepsRes s (exec i s) := by
  cases i with
  | coldReset => exact execColdReset_keeps ..
  | inputPowerLoss => exact execInputPowerLoss_keeps ..
  | supplyFault => exact execSupplyFault_keeps ..
  | supplyFaultRestart => exact execSupplyFaultRestart_keeps ..
  | platenRstNAssert => exact execPlatenRstNAssert_keeps ..
  | platenRstNRelease => exact execPlatenRstNRelease_keeps ..
  | moduleResetSteps => exact execModuleResetSteps_keeps ..
  | bringupScrubDone => exact execBringupScrubDone_keeps ..
  | thermalSample => exact execThermalSample_keeps ..
  | powerIntervalEnd => exact execPowerIntervalEnd_keeps ..
  | currentLimitEngage => exact execCurrentLimitEngage_keeps
  | domainDischargeDone => exact execDomainDischargeDone_keeps ..
  | freset => exact execFreset_keeps ..
  | functionResetScrubDone => exact execFunctionResetScrubDone_keeps ..
  | impose => exact execImpose_keeps ..
  | impositionFetched => exact execImpositionFetched_keeps ..
  | reimposeDrainDone => exact execReimposeDrainDone_keeps
  | reimposeScrubDone => exact execReimposeScrubDone_keeps ..
  | reimposeCommit => exact execReimposeCommit_keeps
  | strokeEdge => exact execStrokeEdge_keeps
  | localCountIncrement => exact execLocalCountIncrement_keeps
  | strokeFrame => exact execStrokeFrame_keeps ..
  | strokeMark => exact execStrokeMark_keeps ..
  | strokeSourceLost => exact execStrokeSourceLost_keeps
  | holdoverExpiry => exact execHoldoverExpiry_keeps
  | mrtGo => exact execMrtGo_keeps ..
  | mrtCopyDone => exact execMrtCopyDone_keeps ..
  | mrtActivate => exact execMrtActivate_keeps ..
  | stepBoundary => exact execStepBoundary_keeps ..
  | collectiveWindowOpen => exact execCollectiveWindowOpen_keeps ..
  | collectiveWindowClose => exact execCollectiveWindowClose_keeps ..
  | fillerWindowOpen => exact execFillerWindowOpen_keeps ..
  | fillerWindowEnd => exact execFillerWindowEnd_keeps ..
  | sharePeriodEnd => exact execSharePeriodEnd_keeps ..
  | feedRingTail => exact execFeedRingTail_keeps ..
  | ringEnable => exact execRingEnable_keeps ..
  | ringDisable => exact execRingDisable_keeps ..
  | bellErrClear => exact execBellErrClear_keeps ..
  | replay => exact execReplay_keeps ..
  | feedEntryFetch => exact execFeedEntryFetch_keeps ..
  | entryReadFault => exact execEntryReadFault_keeps ..
  | nop => exact arrival_keeps ..
  | launch => exact arrival_keeps ..
  | store => exact arrival_keeps ..
  | patch => exact arrival_keeps ..
  | free => exact arrival_keeps ..
  | matterImageReadDone => exact execMatterImageReadDone_keeps ..
  | entryRelease => exact execEntryRelease_keeps ..
  | launchComplete => exact execLaunchComplete_keeps ..
  | recordWriteDone => exact execRecordWriteDone_keeps ..
  | launchTimeout => exact execLaunchTimeout_keeps ..
  | issue => exact execIssue_keeps ..
  | resolve => exact execResolve_keeps ..
  | wait => exact execWait_keeps ..
  | proofRead => exact execProofRead_keeps ..
  | endLaunch => exact execEndLaunch_keeps ..
  | programException => exact execProgramException_keeps ..
  | opComplete => exact execOpComplete_keeps ..
  | detection => exact execDetection_keeps ..
  | slugPassPoint => exact execSlugPassPoint_keeps ..
  | proofWritesDone => exact execProofWritesDone_keeps ..
  | releaseDrainDone => exact execReleaseDrainDone_keeps ..
  | acquireFlagPoll => exact execAcquireFlagPoll_keeps ..
  | matchPrompt => exact execMatchPrompt_keeps ..
  | leafCopyDone => exact execLeafCopyDone_keeps ..
  | planComplete => exact execPlanComplete_keeps ..
  | runaheadFetchDone => exact execRunaheadFetchDone_keeps ..
  | explicitRegionApply => exact execExplicitRegionApply_keeps ..
  | swapStart => exact execSwapStart_keeps ..
  | swapOutCopyDone => exact execSwapOutCopyDone_keeps ..
  | swapInDone => exact execSwapInDone_keeps ..
  | swapSliceDrained => exact execSwapSliceDrained_keeps ..
  | saveSpaceRetest => exact execSaveSpaceRetest_keeps ..
  | channelMapOut => exact execChannelMapOut_keeps ..
  | channelCommandTimeout => exact execChannelCommandTimeout_keeps ..
  | migrationComplete => exact execMigrationComplete_keeps ..
  | ink => exact execInk_keeps ..
  | inkHeaderReadDone => exact execInkHeaderReadDone_keeps ..
  | inkChunkDone => exact execInkChunkDone_keeps ..
  | inkCopyComplete => exact execInkCopyComplete_keeps ..
  | stopServiceDrained => exact execStopServiceDrained_keeps ..
  | attach => exact execAttach_keeps ..
  | detach => exact execDetach_keeps ..
  | chunkRefetchDone => exact execChunkRefetchDone_keeps ..
  | linkTrainingDone => exact execLinkTrainingDone_keeps ..
  | linkTrainRetry => exact execLinkTrainRetry_keeps ..
  | retrain => exact execRetrain_keeps ..
  | disable => exact execDisable_keeps ..
  | aczSelf => exact execAczSelf_keeps ..
  | flitReceive => exact execFlitReceive_keeps ..
  | laneBad => exact execLaneBad_keeps ..
  | linkLost => exact execLinkLost_keeps ..
  | loadReq => exact packetCommand_keeps (.refl s) ..
  | loadResp => exact packetCommand_keeps (.refl s) ..
  | storePacket => exact packetCommand_keeps (.refl s) ..
  | storeAck => exact packetCommand_keeps (.refl s) ..
  | nackRemote => exact packetCommand_keeps (.refl s) ..
  | remoteLoadTimeout => exact execRemoteLoadTimeout_keeps ..
  | collData => exact packetCommand_keeps (.refl s) ..
  | collectiveStart => exact execCollectiveStart_keeps ..
  | join => exact ctrlCommand_keeps (.refl s) ..
  | joinTimeout => exact execJoinTimeout_keeps ..
  | reroute => exact ctrlCommand_keeps (.refl s) ..
  | abort => exact ctrlCommand_keeps (.refl s) ..
  | collectiveComplete => exact execCollectiveComplete_keeps ..
  | jobOpen => exact execJobOpen_keeps ..
  | jobOpenTimeout => exact execJobOpenTimeout_keeps ..
  | jobClose => exact execJobClose_keeps ..
  | jkOffer => exact execJkOffer_keeps ..
  | jkDeliver => exact execJkDeliver_keeps ..
  | jkReject => exact execJkReject_keeps ..
  | portTrainingDone => exact .next (portTrained_keeps (.refl s) ..)
  | portTrainRetry => exact execPortTrainRetry_keeps ..
  | portDown => exact execPortDown_keeps ..
  | portRetrain => exact execPortRetrain_keeps ..
  | hostMemoryRead => exact execHostMemoryRead_keeps ..
  | hostMemoryWrite => exact execHostMemoryWrite_keeps ..
  | registerWrite => exact execRegisterWrite_keeps ..
  | dcpl => exact execDcpl_keeps ..
  | dack => exact execDack_keeps ..
  | drdTimeout => exact execDrdTimeout_keeps ..
  | snpInv => exact execSnpInv_keeps ..
  | ecpSpillInval => exact execEcpSpillInval_keeps ..
  | mboxGo => exact execMboxGo_keeps ..
  | mboxAck => exact execMboxAck_keeps ..
  | compositorWake => exact execCompositorWake_keeps ..
  | compositorPowerGate => exact execCompositorPowerGate_keeps ..
  | report => exact execReport_keeps ..
  | identity => exact execIdentity_keeps ..
  | quoinChallenge => exact execQuoinChallenge_keeps ..
  | quoinNonceExpiry => exact execQuoinNonceExpiry_keeps
  | quoinOpen => exact execQuoinOpen_keeps ..
  | quoinOpeningDone => exact execQuoinOpeningDone_keeps ..
  | quoinClose => exact execQuoinClose_keeps ..
  | fuseProgram => exact execFuseProgram_keeps ..
  | i3cWriteOffset => exact execI3cWriteOffset_keeps ..
  | i3cRead => exact execI3cRead_keeps ..
  | i3cAddressAssign => exact execI3cAddressAssign_keeps ..
  | tapBypass n => exact execTapBypass_keeps n
  | tapIdcode => exact execTapIdcode_keeps
  | tapSamplePreload => exact execTapSamplePreload_keeps ..
  | tapExtest => exact execTapExtest_keeps
  | tapPrivateInstruction => exact execTapPrivateInstruction_keeps ..
  | tapReset => exact execTapReset_keeps ..
  | cableConnected => exact execCableConnected_keeps ..
  | linkTrainingTimeout => exact execLinkTrainingTimeout_keeps ..
  | remoteStoreTimeout => exact execRemoteStoreTimeout_keeps ..
  | ecpLaneFailed => exact .next (laneFails_keeps (.refl s) ..)
  | ecpFlitReceive => exact execEcpFlitReceive_keeps ..
  | hostRegisterRead => exact execHostRegisterRead_keeps ..

/-- Settles O5: no command does more to the fuses than blow them. -/
theorem fusesOnlyBlow : Obligations.FusesOnlyBlow :=
  fun i s t hexec => ((exec_keeps i s).get' t hexec).fuses

/-- Settles O6: the queue, the count of draws and the output are three of the things every command keeps. -/
theorem outputsAndDrawsOnlyGrow : Obligations.OutputsAndDrawsOnlyGrow := fun i s t hexec =>
  have hkeeps := (exec_keeps i s).get' t hexec
  ⟨hkeeps.pending, hkeeps.draws, hkeeps.out⟩

/-! ### A step (log 1) -/

/-- A step with nothing waiting changes nothing. -/
theorem step_of_idle {s : State} (h : s.pending = []) : step s = .next s := by
  simp only [step, h]

/-- A step runs the command at the front of the queue on the state with the queue's rest. -/
theorem step_of_waiting {s : State} {i : Instr} {rest : List Instr} (h : s.pending = i :: rest) :
    step s = exec i { s with pending := rest } := by
  simp only [step, h]

/-- Settles O1: the front of the queue that `withFront` builds is the command put there. -/
theorem stepRunsFrontCommand : Obligations.StepRunsFrontCommand :=
  ⟨fun i s => step_of_waiting (s := s.withFront i) rfl, fun _ => step_of_idle⟩

/-- Settles O4: a step is idle or a command, and taking a command off the queue leaves both memories alone. -/
theorem stepKeepsMemoryCanonical : Obligations.StepKeepsMemoryCanonical := by
  intro s t hstep hok
  cases hqueue : s.pending with
  | nil =>
    rw [step_of_idle hqueue] at hstep
    cases hstep
    exact hok
  | cons i rest =>
    rw [step_of_waiting hqueue] at hstep
    exact ((exec_keeps i _).get' t hstep).memory hok

/-- Settles O2: each register of the reset state is a value of the manual. -/
theorem resetValues : Obligations.ResetValues := by
  unfold Obligations.ResetValues
  decide +kernel

/-- Settles O3: both memories of the reset state list nothing. -/
theorem resetMemoryCanonical : Obligations.ResetMemoryCanonical := ⟨rfl, rfl⟩

end Sys2Proof.Machine
end

section
/-! Every command answers a next state (R8, R9): one branch of one command is refused, and nothing else. The statement O60. -/
namespace Sys2Proof.Machine

/-- An answer that is a next state, through a choice. -/
theorem next_of_ite {c : Prop} [Decidable c] {r q : Res} (hr : ∃ t, r = .next t) (hq : ∃ t, q = .next t) :
    ∃ t, (if c then r else q) = .next t := by
  split
  · exact hr
  · exact hq

section
variable (s : State)

theorem packetCommand_completes (ks : List (BitVec 4)) (p : Packet) : ∃ t, packetCommand s ks p = .next t := ⟨_, rfl⟩

theorem ctrlCommand_completes (k : Ctrl) (p : Packet) : ∃ t, ctrlCommand s k p = .next t :=
  next_of_ite (packetCommand_completes ..) ⟨_, rfl⟩

/-- The instruction of the test access port that the manual leaves to its scope completes but where its scope is open (R375). -/
theorem tapPrivateInstruction_completes (op : PrivateTap) (h : tapOn s = false ∨ s.colo.scopes.getLsbD (tapScope op) = false) :
    Completes (.tapPrivateInstruction op) s := by
  simp only [Completes, exec, execTapPrivateInstruction]
  obtain hoff | hclosed := h
  · exact ⟨s, by rw [hoff]; rfl⟩
  · rw [hclosed]
    exact next_of_ite ⟨_, rfl⟩ ⟨_, rfl⟩

end

section
variable {s : State}

theorem execMatterImageReadDone_completes (f : FormeId) (r : RingId) (q : Seq) (x : Fetched Blob) :
    ∃ t, execMatterImageReadDone f r q x s = .next t := by
  unfold execMatterImageReadDone
  split
  · split
    · exact ⟨_, rfl⟩
    · dsimp only
      split <;> exact ⟨_, rfl⟩
    · exact ⟨_, rfl⟩
    · exact ⟨_, rfl⟩
  · exact ⟨_, rfl⟩

theorem execIssue_completes (f : FormeId) (r : RingId) (q : Seq) (n : BitVec 16) (cs : List Byte) (a : SlugTag) :
    ∃ t, execIssue f r q n cs a s = .next t := by
  unfold execIssue
  split
  · exact ⟨_, rfl⟩
  · refine next_of_ite ⟨_, rfl⟩ ?_
    split
    · exact ⟨_, rfl⟩
    · dsimp only
      split <;> exact ⟨_, rfl⟩

theorem execMatchPrompt_completes (f : FormeId) (t : SlugTag) : ∃ u, execMatchPrompt f t s = .next u := by
  unfold execMatchPrompt
  split
  · refine next_of_ite ?_ ⟨_, rfl⟩
    split <;> exact ⟨_, rfl⟩
  · exact ⟨_, rfl⟩

theorem execCollectiveStart_completes (f : FormeId) (t : SlugTag) : ∃ u, execCollectiveStart f t s = .next u := by
  unfold execCollectiveStart
  split
  · refine next_of_ite ⟨_, rfl⟩ ?_
    split
    · refine next_of_ite ⟨_, rfl⟩ ?_
      dsimp only
      split
      · exact ⟨_, rfl⟩
      · split <;> exact ⟨_, rfl⟩
    · exact ⟨_, rfl⟩
  · exact ⟨_, rfl⟩

theorem execCollectiveComplete_completes (f : FormeId) (t : SlugTag) : ∃ u, execCollectiveComplete f t s = .next u := by
  unfold execCollectiveComplete
  split
  · exact ⟨_, rfl⟩
  · split
    · split
      · exact next_of_ite ⟨_, rfl⟩ ⟨_, rfl⟩
      · exact ⟨_, rfl⟩
    · exact ⟨_, rfl⟩

theorem execDomainDischargeDone_completes (c : ClearScope) : ∃ t, execDomainDischargeDone c s = .next t := by
  cases c with
  | forme f => exact next_of_ite ⟨_, rfl⟩ ⟨_, rfl⟩
  | quoin =>
    simp only [execDomainDischargeDone]
    split
    · exact next_of_ite ⟨_, rfl⟩ ⟨_, rfl⟩
    · exact ⟨_, rfl⟩

theorem execChannelMapOut_completes (ch : ChannelId) (k : MapOutKind) : ∃ t, execChannelMapOut ch k s = .next t := by
  cases k with
  | draining => exact next_of_ite ⟨_, rfl⟩ ⟨_, rfl⟩
  | failed => exact next_of_ite ⟨_, rfl⟩ ⟨_, rfl⟩

end

/-- Every command but that instruction completes. -/
theorem exec_completes {i : Instr} (s : State) (hi : ∀ op, i ≠ .tapPrivateInstruction op) : Completes i s := by
  unfold Completes
  cases i with
  | tapPrivateInstruction op => exact absurd rfl (hi op)
  | loadReq | loadResp | storePacket | storeAck | nackRemote | collData => exact packetCommand_completes ..
  | join | reroute | abort => exact ctrlCommand_completes ..
  | matterImageReadDone => exact execMatterImageReadDone_completes ..
  | issue => exact execIssue_completes ..
  | matchPrompt => exact execMatchPrompt_completes ..
  | collectiveStart => exact execCollectiveStart_completes ..
  | collectiveComplete => exact execCollectiveComplete_completes ..
  | domainDischargeDone => exact execDomainDischargeDone_completes ..
  | channelMapOut => exact execChannelMapOut_completes ..
  | explicitRegionApply | sharePeriodEnd | compositorWake => exact next_of_ite ⟨_, rfl⟩ ⟨_, rfl⟩
  | channelCommandTimeout => exact next_of_ite ⟨_, rfl⟩ (next_of_ite ⟨_, rfl⟩ ⟨_, rfl⟩)
  | feedEntryFetch => simp only [exec, execFeedEntryFetch]; split <;> exact ⟨_, rfl⟩
  | entryRelease => simp only [exec, execEntryRelease]; split <;> exact ⟨_, rfl⟩
  | launchComplete => simp only [exec, execLaunchComplete]; split <;> exact ⟨_, rfl⟩
  | wait => simp only [exec, execWait]; split <;> exact ⟨_, rfl⟩
  | programException => simp only [exec, execProgramException]; split <;> exact ⟨_, rfl⟩
  | mrtCopyDone => simp only [exec, execMrtCopyDone]; split <;> exact ⟨_, rfl⟩
  | fillerWindowOpen => simp only [exec, execFillerWindowOpen]; split <;> exact ⟨_, rfl⟩
  | fillerWindowEnd => simp only [exec, execFillerWindowEnd]; split <;> exact ⟨_, rfl⟩
  | inkCopyComplete => simp only [exec, execInkCopyComplete]; split <;> exact ⟨_, rfl⟩
  | stopServiceDrained => simp only [exec, execStopServiceDrained]; split <;> exact ⟨_, rfl⟩
  | reimposeScrubDone => simp only [exec, execReimposeScrubDone]; split <;> exact ⟨_, rfl⟩
  | reimposeCommit => simp only [exec, execReimposeCommit]; split <;> exact ⟨_, rfl⟩
  | migrationComplete => simp only [exec, execMigrationComplete]; split <;> exact ⟨_, rfl⟩
  | proofRead | mrtActivate | collectiveWindowOpen | reimposeDrainDone =>
    simp only [exec, execProofRead, execMrtActivate, execCollectiveWindowOpen, execReimposeDrainDone]
    split
    · exact next_of_ite ⟨_, rfl⟩ ⟨_, rfl⟩
    · exact ⟨_, rfl⟩
  | endLaunch | collectiveWindowClose =>
    simp only [exec, execEndLaunch, execCollectiveWindowClose]
    split
    · exact ⟨_, rfl⟩
    · exact next_of_ite ⟨_, rfl⟩ ⟨_, rfl⟩
  | _ => exact ⟨_, rfl⟩

/-- Every command of a list without it completes. -/
theorem exec_completes_of_mem {l : List Instr} (s : State) (hl : ∀ op, Instr.tapPrivateInstruction op ∉ l) :
    ∀ i ∈ l, ∃ t, exec i s = .next t :=
  fun _ hi => exec_completes s (fun op h => hl op (h ▸ hi))

/-- Settles O60: every command but one completes in every state, and that one where its scope is closed. -/
theorem everyCommandCompletes : Obligations.EveryCommandCompletes := by
  refine ⟨fun s _ _ => exec_completes s nofun, fun s _ => exec_completes_of_mem s (by simp), fun s _ _ => exec_completes s nofun,
    fun s _ _ _ => exec_completes_of_mem s (by simp), fun s _ => exec_completes_of_mem s (by simp), fun s _ => exec_completes s nofun,
    fun s _ => exec_completes_of_mem s (by simp), fun s _ _ _ => exec_completes s nofun, fun s => exec_completes_of_mem s (by simp),
    fun s _ => exec_completes s nofun, fun s _ => exec_completes s nofun, fun s _ _ => exec_completes s nofun,
    fun s _ => exec_completes_of_mem s (by simp), fun s _ => exec_completes s nofun, fun s _ _ => exec_completes s nofun,
    fun s _ _ _ => exec_completes s nofun, fun s _ _ => exec_completes_of_mem s (by simp),
    fun s _ => exec_completes_of_mem s (by simp), fun s _ _ => exec_completes_of_mem s (by simp),
    fun s _ _ _ => exec_completes_of_mem s (by simp), fun s _ _ => exec_completes_of_mem s (by simp),
    fun s _ _ _ => exec_completes s nofun, fun s _ _ _ => exec_completes_of_mem s (by simp), fun s _ _ _ _ => exec_completes s nofun,
    fun s _ _ => exec_completes s nofun, fun s _ _ _ => exec_completes_of_mem s (by simp), fun s _ _ _ _ => exec_completes s nofun,
    fun s _ _ _ _ _ _ => exec_completes s nofun, fun s _ _ _ => exec_completes_of_mem s (by simp),
    fun s _ _ => exec_completes_of_mem s (by simp), fun s _ _ _ _ _ _ => exec_completes s nofun,
    fun s _ _ _ _ => exec_completes s nofun, fun s _ _ _ => exec_completes s nofun, fun s _ _ _ => exec_completes s nofun,
    fun s _ _ _ => exec_completes s nofun, fun s _ _ => exec_completes_of_mem s (by simp), fun s _ _ => exec_completes s nofun,
    fun s _ _ _ => exec_completes s nofun, fun s _ => exec_completes s nofun, fun s _ _ => exec_completes s nofun,
    fun s _ _ => exec_completes s nofun, fun s _ _ _ _ => exec_completes s nofun, fun s _ _ _ => exec_completes s nofun,
    fun s _ => exec_completes_of_mem s (by simp), fun s _ _ _ => exec_completes_of_mem s (by simp),
    fun s _ _ => exec_completes s nofun, fun s _ _ => exec_completes s nofun, fun s _ => exec_completes_of_mem s (by simp),
    fun s _ _ => exec_completes_of_mem s (by simp), fun s _ => exec_completes_of_mem s (by simp), fun s _ => exec_completes s nofun,
    fun s _ _ => exec_completes s nofun, fun s _ _ _ _ => exec_completes s nofun, fun s _ _ _ _ => exec_completes s nofun,
    fun s _ _ _ _ => exec_completes s nofun, fun s _ _ _ _ => exec_completes s nofun, fun s _ _ _ => exec_completes s nofun,
    fun s _ _ => exec_completes s nofun, fun s _ _ => exec_completes s nofun, fun s _ => exec_completes_of_mem s (by simp),
    fun s _ _ => exec_completes_of_mem s (by simp), fun s _ _ => exec_completes s nofun, fun s _ _ => exec_completes s nofun,
    fun s _ _ => exec_completes s nofun, fun s _ => exec_completes s nofun, fun s _ => exec_completes s nofun,
    fun s _ => exec_completes s nofun, fun s op h => tapPrivateInstruction_completes s op h, fun s _ _ => exec_completes s nofun,
    fun s _ _ => exec_completes s nofun, fun s _ _ _ => exec_completes s nofun⟩

end Sys2Proof.Machine
end

section
/-! Where displaced lines lie, and what a read of a line detects (R138, R146, R147, R150): the 256 lines of a block lie on the 256 channels,
one on each, so a block has as many lines on a set of channels as the set has channels. The statement O59. -/
namespace Sys2Proof.Machine

/-! ### The channels of a block (R138) -/

/-- What the block number adds to a line's channel. -/
def blockTwist (b : Nat) : Nat := b % 256 ^^^ b / 256 % 256

/-- A line of a block lies on the channel that its place in the block and the block's number give. -/
theorem channelOf_block {b i : Nat} (hi : i < 256) : channelOf (256 * (256 * b + i)) = Fin.ofNat 256 (i ^^^ blockTwist b) := by
  have hline : 256 * (256 * b + i) / 256 = 256 * b + i := by omega
  have hplace : (256 * b + i) % 256 = i := by omega
  have hblock : (256 * b + i) / 256 = b := by omega
  have hhigh : (256 * b + i) / 65536 = b / 256 := by omega
  simp only [channelOf, hline, hplace, hblock, hhigh, blockTwist, Nat.xor_assoc]

theorem blockTwist_lt (b : Nat) : blockTwist b < 256 :=
  Nat.xor_lt_two_pow (n := 8) (Nat.mod_lt _ (by decide)) (Nat.mod_lt _ (by decide))

/-- The channels of a block's lines, in order. -/
def blockChannels (b : Nat) : List ChannelId := (List.range 256).map (fun i => channelOf (256 * (256 * b + i)))

theorem xor_blockTwist_lt {k : Nat} (b : Nat) (hk : k < 256) : k ^^^ blockTwist b < 256 := Nat.xor_lt_two_pow (n := 8) hk (blockTwist_lt b)

theorem xor_blockTwist_cancel (k b : Nat) : k ^^^ blockTwist b ^^^ blockTwist b = k := by
  rw [Nat.xor_assoc, Nat.xor_self, Nat.xor_zero]

theorem blockChannels_nodup (b : Nat) : (blockChannels b).Nodup := by
  refine List.pairwise_map.mpr (List.nodup_range.imp_of_mem (fun {i j} hi hj hne hij => hne ?_))
  rw [List.mem_range] at hi hj
  rw [channelOf_block hi, channelOf_block hj] at hij
  have hval : (i ^^^ blockTwist b) % 256 = (j ^^^ blockTwist b) % 256 := congrArg Fin.val hij
  rw [Nat.mod_eq_of_lt (xor_blockTwist_lt b hi), Nat.mod_eq_of_lt (xor_blockTwist_lt b hj)] at hval
  rw [← xor_blockTwist_cancel i b, hval, xor_blockTwist_cancel]

/-- Every channel has a line of the block: its twist undoes itself. -/
theorem mem_blockChannels (b : Nat) (c : ChannelId) : c ∈ blockChannels b := by
  have hlow := xor_blockTwist_lt b c.isLt
  refine List.mem_map.mpr ⟨c.val ^^^ blockTwist b, List.mem_range.mpr hlow, ?_⟩
  rw [channelOf_block hlow, xor_blockTwist_cancel]
  exact Fin.ext (Nat.mod_eq_of_lt c.isLt)

/-- A block has one line on each channel. -/
theorem blockChannels_perm (b : Nat) : (blockChannels b).Perm (List.finRange 256) :=
  (List.perm_ext_iff_of_nodup (blockChannels_nodup b) (List.nodup_finRange 256)).mpr
    (fun c => ⟨fun _ => List.mem_finRange c, fun _ => mem_blockChannels b c⟩)

/-- A block has as many lines on a set of channels as there are channels in it. -/
theorem blockLines_length (b : Nat) (p : ChannelId → Bool) : (blockLines b p).length = (List.finRange 256).countP p := by
  rw [← (blockChannels_perm b).countP_eq p, blockChannels, blockLines, ← List.countP_eq_length_filter, List.countP_map, List.countP_map]
  rfl

theorem mem_blockLines {b l : Nat} {p : ChannelId → Bool} : l ∈ blockLines b p ↔ l / 256 = b ∧ p (channelOf (256 * l)) = true := by
  simp only [blockLines, List.mem_filter, List.mem_map, List.mem_range]
  constructor
  · rintro ⟨⟨i, hi, rfl⟩, hp⟩
    exact ⟨by omega, hp⟩
  · rintro ⟨rfl, hp⟩
    exact ⟨⟨l % 256, Nat.mod_lt _ (by decide), by omega⟩, hp⟩

/-! ### Channels out of service and in service (R150) -/

theorem countP_contains {out : List ChannelId} (hnodup : out.Nodup) : (List.finRange 256).countP out.contains = out.length := by
  rw [List.countP_eq_length_filter]
  refine List.Perm.length_eq ((List.perm_ext_iff_of_nodup ((List.nodup_finRange 256).filter _) hnodup).mpr (fun c => ?_))
  simp

theorem countP_not_contains {out : List ChannelId} (hnodup : out.Nodup) :
    (List.finRange 256).countP (fun c => !out.contains c) = 256 - out.length := by
  have hsum := List.length_eq_countP_add_countP out.contains (l := List.finRange 256)
  simp only [List.length_finRange, countP_contains hnodup, Bool.decide_eq_false, Bool.not_eq_true] at hsum
  omega

/-- The lines of a block of the relocation area lie in the area. -/
theorem outsideRelocation_eq_false {out : List ChannelId} {l k : Nat} (hlen : out.length ≤ 32) (hk : k < out.length * 2 ^ 16)
    (hl : l / 256 = relocationGib out * 2 ^ 14 + k) : outsideRelocation out l = false := by
  rw [relocationGib, Config.usableGib] at hl
  rw [outsideRelocation, relocationGib, Config.usableGib, Bool.or_eq_false_iff, decide_eq_false_iff_not, decide_eq_false_iff_not]
  omega

/-- The blocks outside the relocation area are numbered without a gap. -/
theorem blockRank_lt {out : List ChannelId} {l : Nat} (hlen : out.length ≤ 32) (hl : l < 1024 * 2 ^ 22) :
    blockRank out (l / 256) < (256 - out.length) * 2 ^ 16 := by
  rw [blockRank, relocationGib, Config.usableGib]
  by_cases hlow : l / 256 < (952 - 4 * out.length) * 2 ^ 14
  · have hblocks : (256 - out.length) * 2 ^ 16 = (1024 - 4 * out.length) * 2 ^ 14 := by omega
    rw [if_pos hlow, hblocks]
    exact Nat.lt_of_lt_of_le hlow (Nat.mul_le_mul_right _ (by omega))
  · simp only [if_neg hlow]
    omega

/-- The number that a displaced line has among all of them puts it in a block of the relocation area. -/
theorem displaced_block_lt {n r i : Nat} (hr : r < (256 - n) * 2 ^ 16) (hi : i < n) : (r * n + i) / (256 - n) < n * 2 ^ 16 := by
  have hpos : 0 < 256 - n := by omega
  rw [Nat.div_lt_iff_lt_mul hpos]
  calc r * n + i < (r + 1) * n := by rw [Nat.succ_mul]; omega
    _ ≤ (256 - n) * 2 ^ 16 * n := Nat.mul_le_mul_right _ hr
    _ = n * 2 ^ 16 * (256 - n) := by rw [Nat.mul_comm, Nat.mul_comm (256 - n), Nat.mul_assoc]

theorem getD_mem_of_lt {α : Type} {l : List α} {n : Nat} (h : n < l.length) (d : α) : l.getD n d ∈ l := by
  rw [List.getD_eq_getElem?_getD, List.getElem?_eq_getElem h, Option.getD_some]
  exact List.getElem_mem h

/-- A displaced line lies on a channel in service, in a block of the relocation area. -/
theorem hostLine_of_displaced {out : List ChannelId} {l : Nat} (hnodup : out.Nodup) (hlen : out.length ≤ 32) (hl : l < 1024 * 2 ^ 22)
    (hch : out.contains (channelOf (256 * l)) = true) (hout : outsideRelocation out l = true) :
    ∃ k < out.length * 2 ^ 16, hostLine out l ∈ blockLines (relocationGib out * 2 ^ 14 + k) (fun c => !out.contains c) := by
  have hidx : (blockLines (l / 256) out.contains).findIdx (· == l) < out.length := by
    rw [← countP_contains hnodup, ← blockLines_length (l / 256)]
    exact List.findIdx_lt_length_of_exists ⟨l, mem_blockLines.mpr ⟨rfl, hch⟩, beq_self_eq_true l⟩
  refine ⟨_, displaced_block_lt (blockRank_lt hlen hl) hidx, ?_⟩
  simp only [hostLine, hch, hout, Bool.and_self, if_true]
  refine getD_mem_of_lt ?_ _
  rw [blockLines_length, countP_not_contains hnodup]
  exact Nat.mod_lt _ (by omega)

/-! ### What a read detects (R146, R147) -/

theorem goodChecks_length (cipher : List Byte) (l : Nat) : (goodChecks cipher l).length = 4 := by
  simp [goodChecks]

/-- Complemented checks are not the checks. -/
theorem map_not_ne {cs : List (BitVec 64)} (hcs : cs ≠ []) : cs.map (~~~ ·) ≠ cs := by
  intro h
  obtain ⟨c, cs, rfl⟩ := List.exists_cons_of_ne_nil hcs
  have hbit := congrArg (fun v => v.getLsbD 0) (List.cons.inj h).1
  simp at hbit

theorem readDetects_eq_isPoisoned (k : Stack) (key l : Nat) : readDetects k key l = k.isPoisoned l := by
  have hne : goodChecks (lineCipher k.mem key l) l ≠ [] := by
    intro h
    simpa [h] using goodChecks_length (lineCipher k.mem key l) l
  unfold readDetects storedChecks
  cases hp : k.isPoisoned l with
  | true => exact bne_iff_ne.mpr (map_not_ne hne)
  | false => exact bne_self_eq_false _

/-- A line written whole is poisoned no more, and no other line's mark changes. -/
theorem isPoisoned_clearPoison (k : Stack) (l m : Nat) : (k.clearPoison l 1).isPoisoned m = (k.isPoisoned m && m != l) := by
  have hkept : (m < l ∨ l + 1 ≤ m) ↔ m ≠ l := by omega
  have hgone : (l ≤ m ∧ m < l + 1) ↔ m = l := by omega
  rw [Bool.eq_iff_iff]
  simp only [Stack.clearPoison, Stack.isPoisoned, Nat.one_ne_zero, if_false, List.any_map, List.any_append, List.any_cons, List.any_nil,
    Bool.or_false, Bool.or_eq_true, Bool.and_eq_true, List.contains_iff_mem, List.mem_filter, List.any_eq_true, Function.comp_apply,
    decide_eq_true_eq, bne_iff_ne, Bool.not_or, Bool.not_eq_true', hkept, hgone, ← Bool.decide_and, decide_eq_false_iff_not]
  by_cases hm : m = l <;> simp [hm]

/-- Settles O59: by the count of a block's lines on a set of channels, and by the complement that marks a poisoned line. -/
theorem linesRelocateAndDetect : Obligations.LinesRelocateAndDetect := by
  refine ⟨fun out l h => ?_, fun out l hnodup _ hlen hl hch hout => ?_, readDetects_eq_isPoisoned, isPoisoned_clearPoison⟩
  · rw [hostLine, if_neg (by rwa [Bool.and_eq_true])]
  · obtain ⟨k, hk, hmem⟩ := hostLine_of_displaced hnodup hlen hl hch hout
    obtain ⟨hblock, hserving⟩ := mem_blockLines.mp hmem
    exact ⟨by simpa using hserving, outsideRelocation_eq_false hlen hk hblock⟩

end Sys2Proof.Machine
end

section
/-! The press array computes products (R58 to R61, R64, R65): a mantissa is the signed sum of its planes' bits and a lane that of its passes'
bytes, so the passes over planes and bytes add up to the products; residues follow the arithmetic modulo 3, and the counts of a plane are
those of its cells. The statement O58. -/
namespace Sys2Proof.Machine

/-! ### Sums over the first indices -/

/-- The sum of a function over the numbers below a bound. -/
def sumTo : Nat → (Nat → Int) → Int
  | 0, _ => 0
  | n + 1, g => sumTo n g + g n

theorem sumTo_succ (n : Nat) (g : Nat → Int) : sumTo (n + 1) g = sumTo n g + g n := rfl

theorem sumTo_congr {n : Nat} {g h : Nat → Int} (heq : ∀ i < n, g i = h i) : sumTo n g = sumTo n h := by
  induction n with
  | zero => rfl
  | succ n ih => rw [sumTo_succ, sumTo_succ, ih (fun i hi => heq i (Nat.lt_succ_of_lt hi)), heq n (Nat.lt_succ_self n)]

theorem sumTo_eq_zero {n : Nat} {g : Nat → Int} (hzero : ∀ i < n, g i = 0) : sumTo n g = 0 := by
  induction n with
  | zero => rfl
  | succ n ih => rw [sumTo_succ, ih (fun i hi => hzero i (Nat.lt_succ_of_lt hi)), hzero n (Nat.lt_succ_self n), Int.add_zero]

theorem sumTo_add (n : Nat) (g h : Nat → Int) : sumTo n (fun i => g i + h i) = sumTo n g + sumTo n h := by
  induction n with
  | zero => rfl
  | succ n ih =>
    rw [sumTo_succ, sumTo_succ, sumTo_succ, ih]
    omega

theorem sumTo_mul (n : Nat) (g : Nat → Int) (c : Int) : sumTo n g * c = sumTo n (fun i => g i * c) := by
  induction n with
  | zero => exact Int.zero_mul c
  | succ n ih => rw [sumTo_succ, sumTo_succ, Int.add_mul, ih]

theorem mul_sumTo (n : Nat) (g : Nat → Int) (c : Int) : c * sumTo n g = sumTo n (fun i => c * g i) := by
  rw [Int.mul_comm, sumTo_mul]
  exact sumTo_congr (fun i _ => Int.mul_comm (g i) c)

theorem sumTo_comm (a b : Nat) (g : Nat → Nat → Int) :
    sumTo a (fun x => sumTo b (g x)) = sumTo b (fun y => sumTo a (fun x => g x y)) := by
  induction a with
  | zero => exact (sumTo_eq_zero (fun _ _ => rfl)).symm
  | succ a ih =>
    rw [sumTo_succ, ih, ← sumTo_add]
    rfl

theorem sumTo_succ_first (n : Nat) (g : Nat → Int) : sumTo (n + 1) g = g 0 + sumTo n (fun i => g (i + 1)) := by
  induction n with
  | zero =>
    rw [sumTo_succ]
    exact Int.add_comm 0 (g 0)
  | succ n ih => rw [sumTo_succ, ih, sumTo_succ, Int.add_assoc]

/-- The product of two sums. -/
theorem sumTo_mul_sumTo (a b : Nat) (g h : Nat → Int) : sumTo a g * sumTo b h = sumTo a (fun x => sumTo b (fun y => g x * h y)) := by
  rw [sumTo_mul]
  exact sumTo_congr (fun x _ => mul_sumTo b h (g x))

/-- Two inner sums change places with two outer ones. -/
theorem sumTo_comm_pairs (a b c : Nat) (d : Nat → Nat) (g : Nat → Nat → Nat → Nat → Int) :
    sumTo a (fun x => sumTo b (fun y => sumTo c (fun z => sumTo (d z) (g x y z)))) =
      sumTo c (fun z => sumTo (d z) (fun w => sumTo a (fun x => sumTo b (fun y => g x y z w)))) := by
  have hinner (x : Nat) : sumTo b (fun y => sumTo c (fun z => sumTo (d z) (g x y z))) =
      sumTo c (fun z => sumTo (d z) (fun w => sumTo b (fun y => g x y z w))) := by
    rw [sumTo_comm]
    exact sumTo_congr (fun z _ => sumTo_comm b (d z) (fun y => g x y z))
  rw [sumTo_congr (fun x _ => hinner x), sumTo_comm]
  exact sumTo_congr (fun z _ => sumTo_comm a (d z) (fun x w => sumTo b (fun y => g x y z w)))

/-! ### The model's sums as sums over their indices -/

theorem foldl_add_mapIdx {α : Type} (l : List α) (g : Nat → α → Int) (d : α) :
    (l.mapIdx g).foldl (· + ·) 0 = sumTo l.length (fun i => g i (l.getD i d)) := by
  rw [← List.sum_eq_foldl]
  induction l generalizing g with
  | nil => rfl
  | cons a l ih =>
    rw [List.mapIdx_cons, List.sum_cons, ih, List.length_cons, sumTo_succ_first]
    rfl

theorem foldl_add_map_range (n : Nat) (g : Nat → Int) : ((List.range n).map g).foldl (· + ·) 0 = sumTo n g := by
  induction n with
  | zero => rfl
  | succ n ih =>
    rw [List.range_succ, List.map_append, List.foldl_append, ih]
    rfl

theorem map_mapIdx_eq {α β γ : Type} (l : List α) (g : Nat → α → β) (h : β → γ) :
    (l.mapIdx g).map h = l.mapIdx (fun i a => h (g i a)) := by
  induction l generalizing g with
  | nil => rfl
  | cons a l ih => rw [List.mapIdx_cons, List.map_cons, ih, List.mapIdx_cons]

theorem getD_map_default {α β : Type} (l : List α) (n : Nat) (g : α → β) (d : α) : (l.map g).getD n (g d) = g (l.getD n d) := by
  rw [List.getD_eq_getElem?_getD, List.getD_eq_getElem?_getD, List.getElem?_map]
  cases l[n]? <;> rfl

theorem getD_of_length_le {α : Type} {l : List α} {n : Nat} (h : l.length ≤ n) (d : α) : l.getD n d = d := by
  rw [List.getD_eq_getElem?_getD, List.getElem?_eq_none h, Option.getD_none]

theorem getD_mem_or {α : Type} (l : List α) (n : Nat) (d : α) : l.getD n d ∈ l ∨ l.getD n d = d := by
  by_cases hn : n < l.length
  · exact .inl (getD_mem_of_lt hn d)
  · exact .inr (getD_of_length_le (Nat.le_of_not_lt hn) d)

/-- The 32 lanes of a block (R59). -/
def blockLanes (lanes : List Int) (b : Nat) : List Int := (lanes.drop (32 * b)).take 32

theorem blockSum_eq (p : PlaneSlot) (col b : Nat) (lanes : List Int) : blockSum p col b lanes =
    sumTo (blockLanes lanes b).length (fun i => if p.cell (32 * b + i) col then (blockLanes lanes b).getD i 0 else 0) :=
  foldl_add_mapIdx (blockLanes lanes b) (fun i a => if p.cell (32 * b + i) col then a else 0) 0

theorem laneOf_zero (passes pass : Nat) : laneOf passes pass 0 = 0 := by
  unfold laneOf
  split
  · rfl
  · split <;> rfl

/-- A block's sum in a pass takes that pass's part of each lane. -/
theorem blockSum_laneOf (p : PlaneSlot) (col b passes pass : Nat) (lanes : List Int) :
    blockSum p col b (lanes.map (laneOf passes pass)) = sumTo (blockLanes lanes b).length
      (fun i => if p.cell (32 * b + i) col then laneOf passes pass ((blockLanes lanes b).getD i 0) else 0) := by
  have hblock : blockLanes (lanes.map (laneOf passes pass)) b = (blockLanes lanes b).map (laneOf passes pass) := by
    simp only [blockLanes, List.map_drop, List.map_take]
  have hget (i : Nat) : ((blockLanes lanes b).map (laneOf passes pass)).getD i 0 = laneOf passes pass ((blockLanes lanes b).getD i 0) := by
    have hmap := getD_map_default (blockLanes lanes b) i (laneOf passes pass) 0
    rwa [laneOf_zero] at hmap
  rw [blockSum_eq, hblock, List.length_map]
  exact sumTo_congr (fun i _ => by rw [hget])

/-! ### Planes and bytes (R58, R61) -/

/-- The weight of a plane: the top plane of signed mantissas counts negative. -/
def planeWeight (planes : Nat) (signed : Bool) (p : Nat) : Int := if (signed && p + 1 == planes) = true then -2 ^ p else 2 ^ p

/-- A mantissa that its planes can hold (R58). -/
def PlaneRange (planes : Nat) (signed : Bool) (w : Int) : Prop :=
  if signed then -(2 ^ (planes - 1) : Int) ≤ w ∧ w < 2 ^ (planes - 1) else 0 ≤ w ∧ w < (2 ^ planes : Int)

theorem planeBit_eq (w : Int) (p : Nat) : (if planeBit w p then (1 : Int) else 0) = w / 2 ^ p % 2 := by
  simp only [planeBit, beq_iff_eq]
  split <;> omega

theorem two_pow_pos (n : Nat) : (0 : Int) < 2 ^ n := Int.pow_pos (by decide)

/-- The low planes are the number modulo their power. -/
theorem sum_low_planes (w : Int) (n : Nat) : sumTo n (fun p => (2 : Int) ^ p * (w / 2 ^ p % 2)) = w % 2 ^ n := by
  induction n with
  | zero =>
    rw [Int.pow_zero, Int.emod_one]
    rfl
  | succ n ih =>
    have hdiv : w / 2 ^ (n + 1) = w / 2 ^ n / 2 := by rw [Int.pow_succ, Int.ediv_ediv_of_nonneg (Int.le_of_lt (two_pow_pos n))]
    rw [sumTo_succ, ih, Int.emod_def w (2 ^ (n + 1)), hdiv, Int.emod_def w (2 ^ n), Int.emod_def _ 2]
    grind

/-- A mantissa is the sum of its planes. -/
theorem sum_planes {planes : Nat} {signed : Bool} {w : Int} (hpos : 1 ≤ planes) (hw : PlaneRange planes signed w) :
    sumTo planes (fun p => planeWeight planes signed p * (if planeBit w p then 1 else 0)) = w := by
  obtain ⟨n, rfl⟩ : ∃ n, planes = n + 1 := ⟨planes - 1, by omega⟩
  simp only [planeBit_eq]
  have hlow : sumTo n (fun p => planeWeight (n + 1) signed p * (w / 2 ^ p % 2)) = w % 2 ^ n := by
    rw [← sum_low_planes]
    refine sumTo_congr (fun p hp => ?_)
    have hne : (p + 1 == n + 1) = false := beq_false_of_ne (by omega)
    rw [planeWeight, hne, Bool.and_false]
    rfl
  rw [sumTo_succ, hlow]
  cases signed with
  | false =>
    obtain ⟨hlo, hhi⟩ := hw
    have hmod := sum_low_planes w (n + 1)
    rw [sumTo_succ, sum_low_planes, Int.emod_eq_of_lt hlo hhi] at hmod
    exact hmod
  | true =>
    simp only [PlaneRange, Nat.add_sub_cancel, if_true] at hw
    simp only [planeWeight, Bool.true_and, beq_self_eq_true, if_true]
    obtain ⟨hlo, hhi⟩ := hw
    have hpow := two_pow_pos n
    by_cases hneg : w < 0
    · have hquot : w / 2 ^ n = -1 := (Int.ediv_eq_iff_of_pos hpow).mpr ⟨by omega, by omega⟩
      rw [Int.emod_def, hquot]
      grind
    · have hnonneg : 0 ≤ w := by omega
      rw [Int.ediv_eq_zero_of_lt hnonneg hhi, Int.emod_eq_of_lt hnonneg hhi]
      grind

/-- A lane is the sum of its passes. -/
theorem sum_passes {passes : Nat} (h : passes = 1 ∨ passes = 2) (a : Int) :
    sumTo passes (fun pass => laneOf passes pass a * 2 ^ (8 * pass)) = a := by
  obtain rfl | rfl := h
  · change 0 + a * 1 = a
    omega
  · change 0 + a % 256 * 1 + a / 256 * 256 = a
    omega

/-! ### What a loaded plane holds (R58, R70) -/

theorem testBit_rowNumber (r : List Bool) (j : Nat) : (r.foldr (fun (b : Bool) n => b.toNat + 2 * n) 0).testBit j = r.getD j false := by
  induction r generalizing j with
  | nil => exact Nat.zero_testBit j
  | cons b r ih =>
    rw [List.foldr_cons]
    cases j with
    | zero => cases b <;> simp [Nat.testBit_zero, Nat.add_mod]
    | succ j =>
      rw [List.getD_cons_succ, ← ih j, Nat.testBit_succ]
      congr 1
      cases b with
      | false => exact (congrArg (· / 2) (Nat.zero_add _)).trans (Nat.mul_div_cancel_left _ (by decide))
      | true =>
        change (1 + 2 * _) / 2 = _
        omega

theorem cell_loadPlane (rows : List (List Bool)) (row : Nat) {j : Nat} (hj : j < 1024) :
    (loadPlane rows).cell row j = (rows.getD row []).getD j false := by
  have hget := getD_map_default rows row (fun r => BitVec.ofNat 1024 (r.foldr (fun (b : Bool) n => b.toNat + 2 * n) 0)) []
  have hcell : (loadPlane rows).cell row j =
      (BitVec.ofNat 1024 ((rows.getD row []).foldr (fun (b : Bool) n => b.toNat + 2 * n) 0)).getLsbD j :=
    congrArg (BitVec.getLsbD · j) hget
  rw [hcell, BitVec.getLsbD_ofNat, testBit_rowNumber, decide_eq_true hj, Bool.true_and]

/-- The mantissa of a row in a column; a row that a tile has not, and a column beyond a row's, hold 0. -/
def mantissaAt (ms : List (List Int)) (j row : Nat) : Int := (ms.getD row []).getD j 0

theorem planeBit_zero (p : Nat) : planeBit 0 p = false := by
  rw [planeBit, Int.zero_ediv]
  rfl

theorem cell_loadPlane_planeBit (ms : List (List Int)) (p row : Nat) {j : Nat} (hj : j < 1024) :
    (loadPlane (ms.map (fun r => r.map (fun m => planeBit m p)))).cell row j = planeBit (mantissaAt ms j row) p := by
  have hrow : (ms.map (fun r => r.map (fun m => planeBit m p))).getD row [] = (ms.getD row []).map (fun m => planeBit m p) :=
    getD_map_default ms row (fun r => r.map (fun m => planeBit m p)) []
  have hbit := getD_map_default (ms.getD row []) j (fun m => planeBit m p) 0
  rw [planeBit_zero] at hbit
  rw [cell_loadPlane _ _ hj, hrow, hbit, mantissaAt]

theorem planeRange_zero (planes : Nat) (signed : Bool) : PlaneRange planes signed 0 := by
  have hpos := two_pow_pos planes
  have hpos' := two_pow_pos (planes - 1)
  cases signed with
  | false => exact ⟨Int.le_refl 0, hpos⟩
  | true => exact ⟨by omega, hpos'⟩

theorem planeRange_mantissaAt {ms : List (List Int)} {planes : Nat} {signed : Bool}
    (hms : ∀ r ∈ ms, ∀ w ∈ r, PlaneRange planes signed w) (j row : Nat) : PlaneRange planes signed (mantissaAt ms j row) := by
  obtain hr | hr := getD_mem_or ms row []
  · obtain hw | hw := getD_mem_or (ms.getD row []) j 0
    · exact hms _ hr _ hw
    · rw [mantissaAt, hw]
      exact planeRange_zero planes signed
  · rw [mantissaAt, hr]
    exact planeRange_zero planes signed

/-! ### A column's term (R59 to R61) -/

theorem columnTerm_fst (q : PlaneSlot) (col plane pass : Nat) (neg : Bool) (shifts : List Nat) (lanes : List Int) :
    (columnTerm q col plane pass neg shifts lanes).1 = (if neg then -2 ^ plane else 2 ^ plane) * 2 ^ (8 * pass) *
      sumTo shifts.length (fun b => blockSum q col b lanes * 2 ^ shifts.getD b 0) := by
  have hsum : ((shifts.mapIdx (fun b sh => (blockSum q col b lanes, sh))).map (fun x => x.1 * 2 ^ x.2)).foldl (· + ·) 0 =
      sumTo shifts.length (fun b => blockSum q col b lanes * 2 ^ shifts.getD b 0) := by
    rw [← foldl_add_mapIdx shifts (fun b sh => blockSum q col b lanes * 2 ^ sh) 0, map_mapIdx_eq]
  simp only [columnTerm, hsum]
  cases neg <;> simp only [if_true, if_false, Bool.false_eq_true] <;> grind

/-- The product sum of a column, block by block. -/
def columnProduct (w : Nat → Int) (shifts : List Nat) (lanes : List Int) : Int :=
  sumTo shifts.length (fun b => sumTo (blockLanes lanes b).length (fun i => w (32 * b + i) * (blockLanes lanes b).getD i 0) *
    2 ^ shifts.getD b 0)

/-- A number taken where a bit is set is the bit times the number. -/
theorem ite_eq_bit_mul (b : Bool) (a : Int) : (if b then a else 0) = (if b then 1 else 0) * a := by
  cases b
  · exact (Int.zero_mul a).symm
  · exact (Int.one_mul a).symm

/-- The passes over planes and bytes of one column add up to its product sum. -/
theorem sum_columnTerms {planes passes : Nat} {signed : Bool} {ms : List (List Int)} {j : Nat} (hpos : 1 ≤ planes)
    (hpasses : passes = 1 ∨ passes = 2) (hj : j < 1024) (hms : ∀ r ∈ ms, ∀ w ∈ r, PlaneRange planes signed w) (lanes : List Int)
    (shifts : List Nat) :
    sumTo passes (fun pass => sumTo planes (fun p =>
      (columnTerm (loadPlane (ms.map (fun r => r.map (fun m => planeBit m p)))) j p pass (signed && p + 1 == planes) shifts
        (lanes.map (laneOf passes pass))).1)) = columnProduct (mantissaAt ms j) shifts lanes := by
  have hcell (p pass b i : Nat) : (if planeBit (mantissaAt ms j (32 * b + i)) p then laneOf passes pass ((blockLanes lanes b).getD i 0) else 0) =
      (if planeBit (mantissaAt ms j (32 * b + i)) p then 1 else 0) * laneOf passes pass ((blockLanes lanes b).getD i 0) := ite_eq_bit_mul ..
  have hproduct (b i : Nat) : mantissaAt ms j (32 * b + i) * (blockLanes lanes b).getD i 0 =
      sumTo passes (fun pass => sumTo planes (fun p => planeWeight planes signed p * 2 ^ (8 * pass) *
        ((if planeBit (mantissaAt ms j (32 * b + i)) p then 1 else 0) * laneOf passes pass ((blockLanes lanes b).getD i 0)))) := by
    have hplanes := sum_planes hpos (planeRange_mantissaAt hms j (32 * b + i))
    have hlane := sum_passes hpasses ((blockLanes lanes b).getD i 0)
    refine (congrArg (· * (blockLanes lanes b).getD i 0) hplanes.symm).trans ((congrArg (_ * ·) hlane.symm).trans ?_)
    refine (sumTo_mul_sumTo ..).trans ((sumTo_comm ..).trans ?_)
    exact sumTo_congr (fun _ _ => sumTo_congr (fun _ _ => by grind))
  simp only [columnTerm_fst, blockSum_laneOf, cell_loadPlane_planeBit ms _ _ hj, hcell, columnProduct, hproduct, mul_sumTo, sumTo_mul]
  rw [sumTo_comm_pairs]
  refine sumTo_congr (fun b _ => sumTo_congr (fun i _ => sumTo_congr (fun pass _ => sumTo_congr (fun p _ => ?_))))
  rw [planeWeight]
  grind

/-! ### Residues (R65) -/

theorem res3_mod (v : Int) : (res3 v : Int) % 3 = v % 3 := by
  rw [res3, Int.toNat_of_nonneg (Int.emod_nonneg v (by decide)), Int.emod_emod]

/-- A residue is what it stands for modulo 3. -/
theorem eq_res3_of_mod {r : Nat} {v : Int} (hr : r < 3) (h : (r : Int) % 3 = v % 3) : r = res3 v := by
  rw [res3]
  omega

theorem resShift_lt (k r : Nat) : resShift k r < 3 := by
  unfold resShift
  split <;> omega

/-- A power of 2 is 1 or 2 modulo 3, by the parity of its exponent. -/
theorem two_pow_mod3 (k : Nat) : (2 : Int) ^ k % 3 = if k % 2 = 0 then 1 else 2 := by
  induction k with
  | zero => rfl
  | succ k ih =>
    rw [Int.pow_succ]
    by_cases h : k % 2 = 0
    · rw [if_pos h] at ih
      rw [if_neg (by omega)]
      omega
    · rw [if_neg h] at ih
      rw [if_pos (by omega)]
      omega

/-- A shift multiplies what a residue stands for by its power of 2. -/
theorem resShift_mod {r : Nat} {v : Int} (k : Nat) (hr : (r : Int) % 3 = v % 3) : (resShift k r : Int) % 3 = v * 2 ^ k % 3 := by
  rw [Int.mul_emod, two_pow_mod3, resShift]
  split <;> omega

/-- The residues of shifted sums add up to the residue of the sum. -/
theorem resSum_mod (sums : List (Int × Nat)) :
    (((sums.map (fun x => resShift x.2 (res3 x.1))).foldl (· + ·) 0 : Nat) : Int) % 3 =
      (sums.map (fun x => x.1 * 2 ^ x.2)).foldl (· + ·) 0 % 3 := by
  rw [← List.sum_eq_foldl, ← List.sum_eq_foldl]
  induction sums with
  | nil => rfl
  | cons x sums ih =>
    have hx := resShift_mod x.2 (res3_mod x.1)
    simp only [List.map_cons, List.sum_cons, Int.natCast_add]
    omega

/-- A factor that is 1 modulo 3 leaves the residue. -/
theorem mul_mod3_of_one {b : Int} (a : Int) (hb : b % 3 = 1) : a * b % 3 = a % 3 := by
  rw [Int.mul_emod, hb]
  omega

/-- The residue path gives the residue of the term. -/
theorem columnTerm_snd (q : PlaneSlot) (col plane pass : Nat) (neg : Bool) (shifts : List Nat) (lanes : List Int) :
    (columnTerm q col plane pass neg shifts lanes).2 = res3 (columnTerm q col plane pass neg shifts lanes).1 := by
  have hbyte : (2 : Int) ^ (8 * pass) % 3 = 1 := by rw [two_pow_mod3, if_pos (by omega)]
  have hsum (sums : List (Int × Nat)) :
      ((resShift plane ((sums.map (fun x => resShift x.2 (res3 x.1))).foldl (· + ·) 0 % 3) : Nat) : Int) % 3 =
        (sums.map (fun x => x.1 * 2 ^ x.2)).foldl (· + ·) 0 * 2 ^ plane % 3 :=
    resShift_mod plane (by rw [Int.natCast_emod, Int.emod_emod_of_dvd _ (by decide)]; exact resSum_mod sums)
  simp only [columnTerm]
  cases neg with
  | false =>
    simp only [Bool.false_eq_true, if_false]
    exact eq_res3_of_mod (resShift_lt ..) ((hsum _).trans (mul_mod3_of_one _ hbyte).symm)
  | true =>
    simp only [if_true]
    refine eq_res3_of_mod (resShift_lt ..) ((resShift_mod 1 (hsum _)).trans (Eq.trans ?_ (mul_mod3_of_one _ hbyte).symm))
    rw [Int.pow_succ, Int.pow_zero]
    omega

/-! ### Check columns (R64, R65) -/

theorem countOnes_eq (k n : Nat) : (countOnes k n : Int) = sumTo k (fun i => ((n.testBit i).toNat : Int)) := by
  induction k generalizing n with
  | zero => rfl
  | succ k ih =>
    rw [sumTo_succ_first]
    by_cases hn : n = 0
    · subst hn
      rw [sumTo_eq_zero (fun i _ => by rw [Nat.zero_testBit]; rfl), Nat.zero_testBit]
      rfl
    · have hrest : sumTo k (fun i => ((n.testBit (i + 1)).toNat : Int)) = (countOnes k (n / 2) : Int) := by
        rw [ih]
        exact sumTo_congr (fun i _ => by rw [Nat.testBit_succ])
      rw [hrest, countOnes, if_neg hn, Int.natCast_add, Nat.testBit_zero]
      rcases Nat.mod_two_eq_zero_or_one n with h | h <;> rw [h] <;> rfl

theorem countOnes_le (k n : Nat) : countOnes k n ≤ k := by
  induction k generalizing n with
  | zero => exact Nat.le_refl 0
  | succ k ih =>
    have := ih (n / 2)
    rw [countOnes]
    split <;> omega

/-- The ones among a group's 128 bits of a plane's row, counted in a byte. -/
theorem toNat_countOnes (w : BitVec 1024) (g : Nat) : ((BitVec.ofNat 8 (countOnes 128 (w.toNat / 2 ^ (128 * g)))).toNat : Int) =
    sumTo 128 (fun k => if w.getLsbD (k + 128 * g) then 1 else 0) := by
  have hbound := countOnes_le 128 (w.toNat / 2 ^ (128 * g))
  rw [BitVec.toNat_ofNat, Nat.mod_eq_of_lt (Nat.lt_of_le_of_lt hbound (by decide)), countOnes_eq]
  refine sumTo_congr (fun k _ => ?_)
  rw [Nat.testBit_div_two_pow, BitVec.testBit_toNat]
  cases w.getLsbD (k + 128 * g) <;> rfl

/-- The count that a check column holds for a row is the number of ones among its group's cells. -/
theorem count_loadPlane (rows : List (List Bool)) (row : Nat) {g : Nat} (hg : g < 8) :
    ((((loadPlane rows).counts.getD row []).getD g 0).toNat : Int) =
      sumTo 128 (fun k => if (loadPlane rows).cell row (k + 128 * g) then 1 else 0) := by
  by_cases hrow : row < rows.length
  · simp only [PlaneSlot.cell, loadPlane, List.getD_eq_getElem?_getD, List.getElem?_map, List.getElem?_eq_getElem hrow, Option.map_some,
      Option.getD_some, List.getElem?_range hg]
    exact toNat_countOnes _ g
  · have hle : rows.length ≤ row := Nat.le_of_not_lt hrow
    have hcell (j : Nat) : (loadPlane rows).cell row j = false := by
      simp only [PlaneSlot.cell, loadPlane]
      rw [getD_of_length_le (by rw [List.length_map]; exact hle)]
      exact BitVec.getLsbD_zero
    rw [sumTo_eq_zero (fun k _ => by rw [hcell]; rfl)]
    have hcounts : (loadPlane rows).counts.getD row [] = [] := by
      simp only [loadPlane]
      exact getD_of_length_le (by rw [List.length_map, List.length_map]; exact hle) []
    rw [hcounts]
    rfl

theorem checkSum_eq (p : PlaneSlot) (g b : Nat) (lanes : List Int) : checkSum p g b lanes =
    sumTo (blockLanes lanes b).length (fun i =>
      (((p.counts.getD (32 * b + i) []).getD g 0).toNat : Int) * (blockLanes lanes b).getD i 0) :=
  foldl_add_mapIdx (blockLanes lanes b) (fun i a => (((p.counts.getD (32 * b + i) []).getD g 0).toNat : Int) * a) 0

/-- A column beyond the tile's holds no weight. -/
theorem blockSum_eq_zero {rows : List (List Bool)} {cols j : Nat} (hrows : ∀ r ∈ rows, r.length ≤ cols) (hj : cols ≤ j) (hin : j < 1024)
    (b : Nat) (lanes : List Int) : blockSum (loadPlane rows) j b lanes = 0 := by
  rw [blockSum_eq]
  refine sumTo_eq_zero (fun i _ => ?_)
  have hcell : (rows.getD (32 * b + i) []).getD j false = false := by
    refine getD_of_length_le ?_ _
    obtain hr | hr := getD_mem_or rows (32 * b + i) []
    · exact Nat.le_trans (hrows _ hr) hj
    · rw [hr]
      exact Nat.zero_le j
  rw [cell_loadPlane _ _ hin, hcell]
  rfl

/-- A sum over the columns in use is a sum over all of them where the others give nothing. -/
theorem sum_map_filter {l : List Nat} {p : Nat → Bool} {h : Nat → Int} (hz : ∀ x ∈ l, p x = false → h x = 0) :
    ((l.filter p).map h).sum = (l.map h).sum := by
  induction l with
  | nil => rfl
  | cons x l ih =>
    have ih := ih (fun y hy => hz y (List.mem_cons_of_mem _ hy))
    cases hp : p x with
    | true => rw [List.filter_cons_of_pos hp, List.map_cons, List.map_cons, List.sum_cons, List.sum_cons, ih]
    | false =>
      rw [List.filter_cons_of_neg (by rw [hp]; exact Bool.false_ne_true), List.map_cons, List.sum_cons, ih, hz x List.mem_cons_self hp,
        Int.zero_add]

theorem checksEqual_loadPlane {rows : List (List Bool)} {cols : Nat} (lanes : List Int) (hcols : cols ≤ 1024)
    (hrows : ∀ r ∈ rows, r.length ≤ cols) : checksEqual (loadPlane rows) cols lanes = true := by
  simp only [checksEqual, List.all_eq_true, List.mem_range, beq_iff_eq]
  intro g hg b _
  have hg8 : g < 8 := by
    unfold ceilDiv at hg
    omega
  have hcolumns : ∀ j ∈ groupColumns g, decide (j < cols) = false → blockSum (loadPlane rows) j b lanes = 0 := by
    intro j hj hout
    simp only [groupColumns, List.mem_map, List.mem_range] at hj
    obtain ⟨k, hk, rfl⟩ := hj
    exact blockSum_eq_zero hrows (Nat.le_of_not_lt (of_decide_eq_false hout)) (by omega) b lanes
  rw [← List.sum_eq_foldl, sum_map_filter hcolumns, groupColumns, List.map_map, List.sum_eq_foldl, foldl_add_map_range, checkSum_eq]
  simp only [Function.comp_apply, blockSum_eq, count_loadPlane rows _ hg8, sumTo_mul]
  rw [sumTo_comm]
  exact sumTo_congr (fun k _ => sumTo_congr (fun i _ => (ite_eq_bit_mul ..).symm))

theorem sum_flatMap_range (n : Nat) (g : Nat → List Int) : ((List.range n).flatMap g).foldl (· + ·) 0 =
    sumTo n (fun i => (g i).foldl (· + ·) 0) := by
  induction n with
  | zero => rfl
  | succ n ih =>
    rw [List.range_succ, List.flatMap_append, ← List.sum_eq_foldl, List.sum_append, List.sum_eq_foldl, ih, List.flatMap_singleton,
      List.sum_eq_foldl, sumTo_succ]

/-- Settles O58: a mantissa is the sum of its planes and a lane that of its bytes, so the passes add up; the rest is by column. -/
theorem planesSumToProduct : Obligations.PlanesSumToProduct := by
  refine ⟨fun planes passes signed ms lanes shifts j hpos hpasses hj hms => ?_, columnTerm_snd,
    fun rows cols lanes hcols hrows => checksEqual_loadPlane lanes hcols hrows⟩
  have hsum := sum_columnTerms hpos hpasses hj (fun r hr w hw => (hms r hr).2 w hw) lanes shifts
  have hproduct : (shifts.mapIdx (fun b sh => (((lanes.drop (32 * b)).take 32).mapIdx (fun i a =>
      (ms.getD (32 * b + i) []).getD j 0 * a)).foldl (· + ·) 0 * 2 ^ sh)).foldl (· + ·) 0 = columnProduct (mantissaAt ms j) shifts lanes := by
    rw [foldl_add_mapIdx shifts _ 0, columnProduct]
    exact sumTo_congr (fun b _ => by rw [foldl_add_mapIdx _ _ 0]; rfl)
  rw [hproduct, ← hsum, sum_flatMap_range]
  exact sumTo_congr (fun pass _ => foldl_add_map_range ..)

end Sys2Proof.Machine
end

section
/-! Forming a step (R273): what each of the two admissions takes from the candidates and how far it fills the step. The statement O19. -/
namespace Sys2Proof.Machine

theorem sumNat_eq_sum (l : List Nat) : sumNat l = l.sum := List.sum_eq_foldl.symm

/-- Token launches within a limit: candidates, all of them token launches, whose rows the count includes and the limit bounds. -/
theorem admitTokens_spec (limit8 : Nat) (cs : List Cand) (rows : Nat) (hrows : 8 * rows ≤ limit8) :
    (∀ c ∈ (admitTokens limit8 cs rows).1, c ∈ cs ∧ c.token = true) ∧
    (admitTokens limit8 cs rows).2 = rows + sumNat ((admitTokens limit8 cs rows).1.map (·.rows)) ∧
    8 * (admitTokens limit8 cs rows).2 ≤ limit8 := by
  induction cs generalizing rows with
  | nil => exact ⟨by simp [admitTokens], rfl, hrows⟩
  | cons c cs ih =>
    by_cases hfit : (c.token && decide (8 * (rows + c.rows) ≤ limit8)) = true
    · obtain ⟨htoken, hle⟩ := by simpa using hfit
      obtain ⟨hmem, hcount, hbound⟩ := ih (rows + c.rows) hle
      simp only [admitTokens, hfit, if_true]
      refine ⟨?_, ?_, hbound⟩
      · simp only [List.mem_cons, forall_eq_or_imp]
        exact ⟨⟨.inl trivial, htoken⟩, fun d hd => ⟨.inr (hmem d hd).1, (hmem d hd).2⟩⟩
      · rw [hcount, sumNat_eq_sum, sumNat_eq_sum, List.map_cons, List.sum_cons, Nat.add_assoc]
    · obtain ⟨hmem, hcount, hbound⟩ := ih rows hrows
      simp only [admitTokens, hfit, Bool.false_eq_true, if_false]
      exact ⟨fun d hd => ⟨List.mem_cons_of_mem c (hmem d hd).1, (hmem d hd).2⟩, hcount, hbound⟩

/-- Chunks within both limits: candidates, none of them a token launch, within the rows and the chunks still free. -/
theorem admitChunks_spec (rowsMax chunksMax : Nat) (cs : List Cand) (rows chunks : Nat) (hrows : rows ≤ rowsMax) (hchunks : chunks ≤ chunksMax) :
    (∀ c ∈ admitChunks rowsMax chunksMax cs rows chunks, c ∈ cs ∧ c.token = false) ∧
    rows + sumNat ((admitChunks rowsMax chunksMax cs rows chunks).map (·.rows)) ≤ rowsMax ∧
    chunks + (admitChunks rowsMax chunksMax cs rows chunks).length ≤ chunksMax := by
  induction cs generalizing rows chunks with
  | nil => exact ⟨by simp [admitChunks], hrows, hchunks⟩
  | cons c cs ih =>
    by_cases hfit : (!c.token && decide (chunks < chunksMax) && decide (rows + c.rows ≤ rowsMax)) = true
    · obtain ⟨⟨htoken, hlt⟩, hle⟩ := by simpa using hfit
      obtain ⟨hmem, hbound, hlen⟩ := ih (rows + c.rows) (chunks + 1) hle hlt
      simp only [admitChunks, hfit, if_true]
      refine ⟨?_, ?_, by rw [List.length_cons]; omega⟩
      · simp only [List.mem_cons, forall_eq_or_imp]
        exact ⟨⟨.inl trivial, htoken⟩, fun d hd => ⟨.inr (hmem d hd).1, (hmem d hd).2⟩⟩
      · rwa [sumNat_eq_sum, List.map_cons, List.sum_cons, ← Nat.add_assoc, ← sumNat_eq_sum]
    · obtain ⟨hmem, hbound, hlen⟩ := ih rows chunks hrows hchunks
      simp only [admitChunks, hfit, Bool.false_eq_true, if_false]
      exact ⟨fun d hd => ⟨List.mem_cons_of_mem c (hmem d hd).1, (hmem d hd).2⟩, hbound, hlen⟩

/-- What the two admissions take together, tokens first. -/
def admitted (cands : List Cand) (rowsMax chunksMax limit8 : Nat) (only : Bool) : List Cand :=
  (admitTokens limit8 cands 0).1 ++ (if only then [] else admitChunks rowsMax chunksMax cands (admitTokens limit8 cands 0).2 0)

/-- The procedure takes what the two admissions take, or else the first candidate that the boundary allows. -/
theorem formStep_cases (cands : List Cand) (rowsMax chunksMax eighths : Nat) (only : Bool) : ∃ limit8 ≤ 8 * rowsMax,
    formStep cands rowsMax chunksMax eighths only =
      if (admitted cands rowsMax chunksMax limit8 only).isEmpty then (cands.find? (fun c => c.token || !only)).toList
      else admitted cands rowsMax chunksMax limit8 only :=
  ⟨_, Nat.sub_le (8 * rowsMax) (if only then 0 else min (rowsMax * eighths) (8 * sumNat (((cands.filter (fun c => !c.token)).take
    chunksMax).map (·.rows)))), rfl⟩

/-- The bounds of what the two admissions take together. -/
theorem admitted_bounds (cands : List Cand) {rowsMax limit8 : Nat} (chunksMax : Nat) (only : Bool) (hlimit : limit8 ≤ 8 * rowsMax) :
    (∀ c ∈ admitted cands rowsMax chunksMax limit8 only, c ∈ cands) ∧
    sumNat ((admitted cands rowsMax chunksMax limit8 only).map (·.rows)) ≤ rowsMax ∧
    ((admitted cands rowsMax chunksMax limit8 only).filter (fun c => !c.token)).length ≤ chunksMax ∧
    (only = true → ∀ c ∈ admitted cands rowsMax chunksMax limit8 only, c.token = true) := by
  obtain ⟨htoken, hcount, hbound⟩ := admitTokens_spec limit8 cands 0 (Nat.zero_le _)
  have hno : (admitTokens limit8 cands 0).1.filter (fun c => !c.token) = [] :=
    List.filter_eq_nil_iff.mpr (fun c hc => by simp [(htoken c hc).2])
  unfold admitted
  cases only with
  | true =>
    simp only [if_true, List.append_nil]
    exact ⟨fun c hc => (htoken c hc).1, by omega, by simp [hno], fun _ c hc => (htoken c hc).2⟩
  | false =>
    obtain ⟨hchunk, hrows, hlen⟩ := admitChunks_spec rowsMax chunksMax cands (admitTokens limit8 cands 0).2 0 (by omega) (Nat.zero_le _)
    simp only [Bool.false_eq_true, if_false, false_imp_iff, and_true]
    refine ⟨fun c hc => ?_, ?_, ?_⟩
    · exact (List.mem_append.mp hc).elim (fun h => (htoken c h).1) (fun h => (hchunk c h).1)
    · rw [sumNat_eq_sum, List.map_append, List.sum_append, ← sumNat_eq_sum, ← sumNat_eq_sum]
      omega
    · rw [List.filter_append, hno, List.nil_append]
      exact Nat.le_trans (List.length_filter_le _ _) (by omega)

/-- Settles O19: a step is what the two admissions take, within their bounds, or one part. -/
theorem stepFormationBounds : Obligations.StepFormationBounds := by
  intro cands rowsMax chunksMax eighths only _
  dsimp only
  obtain ⟨limit8, hlimit, hstep⟩ := formStep_cases cands rowsMax chunksMax eighths only
  rw [hstep]
  split
  case isFalse hne =>
    obtain ⟨hmem, hrows, hlen, htoken⟩ := admitted_bounds cands chunksMax only hlimit
    refine ⟨hmem, .inl hrows, .inl hlen, htoken, fun _ _ hnil => ?_⟩
    rw [hnil] at hne
    exact hne rfl
  case isTrue =>
    cases hfind : cands.find? (fun c => c.token || !only) with
    | none =>
      rw [Option.toList_none]
      refine ⟨by simp, .inl (by simp [sumNat]), .inl (by simp), by simp, fun honly hcands => ?_⟩
      obtain ⟨c, cs, rfl⟩ := List.exists_cons_of_ne_nil hcands
      simp [honly] at hfind
    | some c =>
      have hc := List.find?_some hfind
      rw [Option.toList_some]
      refine ⟨fun d hd => ?_, .inr (List.length_singleton ..), .inr (List.length_singleton ..), fun honly d hd => ?_,
        fun _ _ => List.cons_ne_nil _ _⟩
      · rw [List.mem_singleton] at hd
        exact hd ▸ List.mem_of_find?_eq_some hfind
      · rw [List.mem_singleton] at hd
        simpa [honly, hd] using hc

end Sys2Proof.Machine
end

section
/-! The counters at an edge (R40, R50) and the doorbells of a ring (R246): what a stroke's housekeeping leaves alone, and the two ways a TAIL
is taken. The statements O15 and O20. -/
namespace Sys2Proof.Machine

/-! ### The parts that packets, charges and marks leave alone -/

/-- Boot, fuses, flash, memories and the time base. -/
structure Base where
  boot   : Boot
  fuses  : Fuses
  flash  : Flash
  stack  : Stack
  galley : Memory
  time   : TimeBase

def State.base (s : State) : Base :=
  { boot := s.boot, fuses := s.fuses, flash := s.flash, stack := s.stack, galley := s.galley, time := s.time }

/-- A fold whose step keeps the base keeps it. -/
theorem foldl_base {α : Type} {g : State → α → State} (hg : ∀ u x, (g u x).base = u.base) (l : List α) (s : State) :
    (l.foldl g s).base = s.base := foldl_keeps_of_step hg l s

section
variable (s : State)

theorem State.ecpOut_base (p : PortId) (c : Fin 4) (n : Nat) (o : Output) : (s.ecpOut p c n o).base = s.base := rfl

theorem State.formeEvent_base (f : FormeId) (x : BitVec 8) : (s.formeEvent f x).base = s.base := by
  unfold State.formeEvent
  split
  · dsimp only
    split
    · exact s.ecpOut_base ..
    · rfl
  · rfl

theorem answerRead_base (h : HostReq) (a : Access) (n : Nat) : (answerRead s h a n).base = s.base := by
  cases a <;> rfl

theorem formeRead_base (h : HostReq) (off n : Nat) : (formeRead s h off n).base = s.base := by
  unfold formeRead
  split
  case h_1 | h_2 => exact answerRead_base ..
  all_goals rfl

theorem releaseHeld_base (p : PortId) : (releaseHeld s p).base = s.base := by
  unfold releaseHeld
  dsimp only
  split
  · rfl
  · exact foldl_base (fun u r => formeRead_base u ..) _ _

theorem releaseAll_base : (releaseAll s).base = s.base := foldl_base (fun u p => releaseHeld_base u p) _ _

theorem ringEvents_base : (ringEvents s).base = s.base := by
  refine foldl_base (fun t f => foldl_base (fun u r => ?_) _ t) _ s
  dsimp only
  split
  · split
    · exact State.formeEvent_base ..
    · rfl
  · rfl

theorem chargeForme_base (f : FormeId) : (chargeForme s f).base = s.base := by
  unfold chargeForme
  exact foldl_base (fun u c => show ((u.charge f _).modCore c _).base = u.base from rfl) _ _

theorem sendMarks_base : (sendMarks s).base = s.base := by
  refine foldl_base (fun u l => ?_) _ s
  split <;> rfl

theorem idleCompositors_base : (idleCompositors s).base = s.base := rfl

/-- What the forme's contexts and the module's engines are charged at an edge (R274, R276). -/
def shareStroke (t : State) : State :=
  { t.mapFormes (fun _ x => chargeContexts x) with engines := t.engines.mapFinIdx (fun e ds _ => engineStroke t e ds) }

theorem shareStroke_base : (shareStroke s).base = s.base := rfl

/-- The base after an edge: the time base advances (R40, R50). -/
def Base.edge (b : Base) : Base := { b with time := b.time.edge }

def State.edge (s : State) : State := { s with time := s.time.edge }

theorem edge_base : s.edge.base = s.base.edge := rfl

theorem strokeEdge_eq : strokeEdge s =
    releaseAll (sendMarks (idleCompositors (shareStroke (allFormes.foldl chargeForme (ringEvents s)))).edge) := rfl

/-- An edge changes the time base as R40 and R50 say, and nothing else of the base. -/
theorem strokeEdge_base : (strokeEdge s).base = s.base.edge := by
  rw [strokeEdge_eq, releaseAll_base, sendMarks_base, edge_base, idleCompositors_base, shareStroke_base, foldl_base chargeForme_base,
    ringEvents_base]

end

/-! ### The time base at an edge (R40, R50) -/

section
variable (t : TimeBase)

theorem TimeBase.edge_ticks : t.edge.ticks = t.ticks + 1 := by
  unfold TimeBase.edge
  dsimp only
  split <;> try rfl
  split <;> rfl

theorem TimeBase.edge_localCount : t.edge.localCount = t.localCount := by
  unfold TimeBase.edge
  dsimp only
  split <;> try rfl
  split <;> rfl

theorem TimeBase.edge_losses : t.edge.losses = t.losses := by
  unfold TimeBase.edge
  dsimp only
  split <;> try rfl
  split <;> rfl

theorem TimeBase.edge_of_rejoining (h : t.state = .rejoining) :
    t.edge.stroke = t.stroke ∧ (t.edge.state = .locked ↔ t.rejoin + 1 = t.stroke) := by
  simp only [TimeBase.edge, h]
  split
  case isTrue hmet => exact ⟨rfl, iff_of_true rfl hmet⟩
  case isFalse hwaits => exact ⟨rfl, iff_of_false (by simp) hwaits⟩

/-- But for the wait of REJOINING, the count adds 1 and the state stands. -/
theorem TimeBase.edge_of_counting (h : t.state ≠ .rejoining) : t.edge.stroke = t.stroke + 1 ∧ t.edge.state = t.state := by
  cases hstate : t.state with
  | rejoining => exact absurd hstate h
  | unlocked | locked | holdover | lost => simp [TimeBase.edge, hstate]

end

/-- The local strobe counts while platen firmware runs (R40). -/
theorem exec_localCountIncrement {s : State} (hup : s.boot.platenUp = true) :
    exec .localCountIncrement s = .next { s with time := { s.time with localCount := s.time.localCount + 1 } } := by
  rw [exec, execLocalCountIncrement, if_pos hup]

theorem exec_strokeEdge {s : State} (hup : s.boot.platenUp = true) : exec .strokeEdge s = .next (strokeEdge s) := by
  rw [exec, execStrokeEdge, if_pos hup]

/-- Settles O15: an edge is `TimeBase.edge` on the time base. -/
theorem strokeCounters : Obligations.StrokeCounters := by
  refine ⟨fun s hup => ?_, fun s hup => ⟨_, exec_localCountIncrement hup, rfl⟩⟩
  have hbase := strokeEdge_base s
  refine ⟨_, exec_strokeEdge hup, ?_⟩
  generalize strokeEdge s = t at hbase ⊢
  obtain ⟨hboot, hfuses, hflash, hstack, hgalley, htime⟩ := Base.mk.inj hbase
  rw [htime]
  exact ⟨s.time.edge_ticks, s.time.edge_localCount, s.time.edge_losses, s.time.edge_of_counting, s.time.edge_of_rejoining,
    fun h => by simp [State.base, TimeBase.edge, h], fun h => by rcases h with h | h <;> simp [State.base, TimeBase.edge, h],
    hboot, hfuses, hflash, hstack, hgalley⟩

/-! ### Doorbells (R246) -/

section
variable {s : State} {h : HostReq} {f : FormeId}

/-- A write of the forme's own window reaches the forme. -/
theorem formeWrite_of_forme (ht : hostTarget s h = .forme f) (k : FormeId → State) : formeWrite s h k = k f := by
  simp only [formeWrite, ht]

theorem exec_feedRingTail_of_forme {r : RingId} (ht : hostTarget s h = .forme f) (hr : ringExists (s.forme f) r = true) (v : Word) :
    exec (.feedRingTail h r v) s = .next (s.modForme f (fun x => writeRingTail x r s.time.ticks v)) := by
  simp only [exec, execFeedRingTail, formeWrite_of_forme ht, hr, if_true]

/-- A value between HEAD and a ring's depth beyond DONE may be its tail (R246). -/
theorem tailOk_iff {g : Ring} {t : Seq} : tailOk g t = true ↔
    g.state ≠ 0 ∧ (g.head - g.done).toNat ≤ (t - g.done).toNat ∧ (t - g.done).toNat ≤ 2 ^ g.depth.toNat := by
  rw [tailOk, Bool.and_eq_true, Bool.and_eq_true, decide_eq_true_iff, decide_eq_true_iff, bne_iff_ne, and_assoc]
  exact Iff.rfl

end

/-- Settles O20: both clauses are one write of the TAIL register, told apart by `tailOk`. -/
theorem doorbells : Obligations.Doorbells := by
  refine ⟨fun s h f r v ht hr hstate hlow hhigh => ?_, fun s h f r v ht hr hbad => ?_, fun s h f r ht hr => ?_⟩
  · refine ⟨_, exec_feedRingTail_of_forme ht hr v, s.modForme_onlyForme f _, ?_⟩
    rw [State.forme_modForme_self, writeRingTail, if_pos (tailOk_iff.mpr ⟨hstate, hlow, hhigh⟩)]
  · refine ⟨_, exec_feedRingTail_of_forme ht hr v, s.modForme_onlyForme f _, ?_⟩
    have hno : ¬ tailOk ((s.forme f).ring r) (v.truncate 48) = true := by
      rw [tailOk_iff]
      rintro ⟨hstate, hlow, hhigh⟩
      obtain hoff | hbehind | hbeyond := hbad
      · exact hstate hoff
      · exact absurd hlow (Nat.not_le_of_lt hbehind)
      · exact absurd hhigh (Nat.not_le_of_lt hbeyond)
    rw [State.forme_modForme_self, writeRingTail, if_neg hno]
  · exact ⟨_, by simp only [exec, execBellErrClear, formeWrite_of_forme ht, hr, if_true]; rfl, s.modForme_onlyForme f _, s.forme_modForme_self f _⟩

end Sys2Proof.Machine
end

section
/-! Platen (R384 to R405) and the pins (R420 to R425): what a removal of power and a start of the reset steps leave, the readings of heat
and power, and the I3C and test ports. The statements O7, O8, O10, O56 and O57. -/
namespace Sys2Proof.Machine

/-! ### Power-good (R399) -/

section
variable (s : State)

/-- PLATEN_PWRGD changes the pin, which may be seen, and nothing else. -/
theorem State.setPwrgd_eq (high : Bool) : ∃ o, s.setPwrgd high = { s with boot := { s.boot with pwrgd := high }, out := o } := by
  unfold State.setPwrgd
  dsimp only
  split
  · exact ⟨s.out, rfl⟩
  · exact ⟨s.out ++ [.pwrgd high], rfl⟩

/-! ### Removal of power, and the start of the reset steps (R386, R400, R406, R410) -/

/-- What a reset of the module keeps, whatever else it leaves. -/
structure ResetFrom (s t : State) : Prop where
  fuses  : t.fuses = s.fuses
  flash  : t.flash = s.flash
  time   : t.time = TimeBase.reset
  formes : t.formes = State.reset.formes
  colo   : t.colo = Colophon.reset
  stack  : t.stack = Stack.reset
  galley : t.galley = []

theorem keepAcross_resetFrom : ResetFrom s (keepAcross s State.reset) := ⟨rfl, rfl, rfl, rfl, rfl, rfl, rfl⟩

/-- Changes of boot, platen, the pins and the output leave a reset state one. -/
theorem ResetFrom.of_eq {s t u : State} (h : ResetFrom s t)
    (hu : u = { t with boot := u.boot, platen := u.platen, tap := u.tap, i3c := u.i3c, out := u.out }) : ResetFrom s u := by
  rw [hu]
  exact ⟨h.fuses, h.flash, h.time, h.formes, h.colo, h.stack, h.galley⟩

theorem ResetFrom.trans {s t u : State} (h : ResetFrom s t) (k : ResetFrom t u) : ResetFrom s u :=
  ⟨k.fuses.trans h.fuses, k.flash.trans h.flash, k.time, k.formes, k.colo, k.stack, k.galley⟩

theorem removePower_resetFrom (p : PowerState) : ResetFrom s (removePower s p) := by
  obtain ⟨o, ho⟩ := s.setPwrgd_eq false
  rw [removePower, pwrgdFalls, ho]
  exact ⟨rfl, rfl, rfl, rfl, rfl, rfl, rfl⟩

theorem removePower_boot (p : PowerState) : (removePower s p).boot = { s.boot with
    pwrgd := false, power := p, phase := 2, code := 0, ready := false, measLoader := 0, measColophon := 0, measCompositor := 0 } := by
  obtain ⟨o, ho⟩ := s.setPwrgd_eq false
  rw [removePower, pwrgdFalls, ho]

/-- Platen keeps its readings and what tripped it. -/
theorem removePower_platen (p : PowerState) : (removePower s p).platen = { Platen.reset with
    junctions := s.platen.junctions, inlet := s.platen.inlet, outlet := s.platen.outlet, input10mV := s.platen.input10mV,
    thermal := s.platen.thermal, hot := s.platen.hot, trip := s.platen.trip } := by
  obtain ⟨o, ho⟩ := s.setPwrgd_eq false
  rw [removePower, pwrgdFalls, ho]

theorem startReset_resetFrom (cause : BitVec 3) : ResetFrom s (startReset s cause) := (removePower_resetFrom s .on).of_eq rfl

theorem startReset_boot (cause : BitVec 3) : (startReset s cause).boot = { s.boot with
    pwrgd := false, power := .on, phase := 2, code := 0, ready := false, measLoader := 0, measColophon := 0, measCompositor := 0,
    cause := cause, resets := if cause = 0 then s.boot.resets else satInc s.boot.resets } := by
  simp only [startReset, removePower_boot]

theorem startReset_platen (cause : BitVec 3) : (startReset s cause).platen = { Platen.reset with
    junctions := s.platen.junctions, inlet := s.platen.inlet, outlet := s.platen.outlet, input10mV := s.platen.input10mV,
    thermal := .normal, hot := 0, trip := s.platen.trip } := by
  simp only [startReset, removePower_platen]

end

/-! ### Cold reset, and the loss of input power (R386, R397, R398) -/

section
variable {s : State} {hi : Bool} {v : BitVec 16}

theorem inputOk_iff : inputOk v = true ↔ 4800 ≤ v.toNat ∧ v.toNat ≤ 5800 := by
  simp only [inputOk, Bool.and_eq_true, decide_eq_true_eq]

/-- The always-on rail rises for the first time. -/
theorem exec_coldReset (hpower : s.boot.power = .standby ∨ s.boot.power = .absent) (hup : s.boot.platenUp = false)
    (hcode : s.boot.code = 0) (hv : 2000 < v.toNat) : exec (.coldReset hi v) s = .next (coldSteps s hi v) := by
  have hdue : ((s.boot.power == .standby || s.boot.power == .absent) && !s.boot.platenUp && s.boot.code == 0 && decide (2000 < v.toNat)) = true := by
    simpa [hup, hcode, hv] using hpower
  rw [exec, execColdReset, if_pos hdue]

/-- The state in which the boot ROM looks for platen firmware. -/
def coldStart (s : State) (hi : Bool) : State := { keepAcross s State.reset with boot := { Boot.reset with rstHigh := hi } }

theorem coldSteps_of_none (h : acceptFw s s.flash.platen = none) : coldSteps s hi v = haltBoot (coldStart s hi) 0x1501 := by
  have haccept : acceptFw (coldStart s hi) (coldStart s hi).flash.platen = none := h
  unfold coldStart at haccept
  simp only [coldSteps, haccept, coldStart]

/-- Platen runs the copy accepted. -/
def platenRuns (s : State) (hi : Bool) (v : BitVec 16) (c : FwCopy) (b : Bool) : State :=
  measureInput { coldStart s hi with boot := { Boot.reset with rstHigh := hi, platenUp := true, copies := setCopy 0 0 b, measPlaten := c.measure } } v

theorem coldSteps_of_some {c : FwCopy} {b : Bool} (h : acceptFw s s.flash.platen = some (c, b)) :
    coldSteps s hi v = if (inputOk v && hi) = true then startReset (platenRuns s hi v c b) 0 else platenRuns s hi v c b := by
  have haccept : acceptFw (coldStart s hi) (coldStart s hi).flash.platen = some (c, b) := h
  unfold coldStart at haccept
  simp only [coldSteps, haccept]
  rfl

theorem platenRuns_resetFrom (s : State) (hi : Bool) (v : BitVec 16) (c : FwCopy) (b : Bool) : ResetFrom s (platenRuns s hi v c b) :=
  (keepAcross_resetFrom s).of_eq rfl

end

/-- Settles O7: both ways of the cold steps start from `coldStart`, and the loss of the rail leaves a reset state. -/
theorem coldResetRuns : Obligations.ColdResetRuns := by
  refine ⟨fun s hi v c b hpower hup hcode hv haccept => ⟨_, exec_coldReset hpower hup hcode hv, ?_⟩,
    fun s hi v hpower hup hcode hv haccept => ⟨_, exec_coldReset hpower hup hcode hv, ?_⟩, fun s v hv => ?_⟩
  · rw [coldSteps_of_some haccept]
    have hiff : (inputOk v && hi) = true ↔ 4800 ≤ v.toNat ∧ v.toNat ≤ 5800 ∧ hi = true := by
      rw [Bool.and_eq_true, inputOk_iff, and_assoc]
    by_cases hstart : (inputOk v && hi) = true
    · obtain ⟨hfuses, hflash, htime, hformes, hcolo, hstack, hgalley⟩ :=
        (platenRuns_resetFrom s hi v c b).trans (startReset_resetFrom (platenRuns s hi v c b) 0)
      rw [if_pos hstart, if_pos (hiff.mp hstart), startReset_boot, startReset_platen, hstack]
      exact ⟨rfl, rfl, rfl, rfl, ⟨rfl, rfl⟩, hfuses, hflash, rfl, rfl, htime, hformes, hcolo, rfl, hgalley⟩
    · rw [if_neg hstart, if_neg (mt hiff.mpr hstart)]
      exact ⟨rfl, rfl, rfl, rfl, ⟨rfl, rfl⟩, rfl, rfl, rfl, rfl, rfl, rfl, rfl, rfl, rfl⟩
  · rw [coldSteps_of_none haccept]
    exact ⟨rfl, rfl, rfl⟩
  · obtain ⟨o, ho⟩ := s.setPwrgd_eq false
    refine ⟨_, by rw [exec, execInputPowerLoss, if_pos hv], ?_⟩
    rw [pwrgdFalls, ho]
    exact ⟨rfl, rfl, rfl, rfl, rfl, rfl, rfl, rfl, rfl, rfl, rfl⟩

/-! ### Supply faults and the reset input (R386, R393, R399) -/

section
variable {s : State} {v : BitVec 16} {us ms hottest : Nat}

theorem supplyFaulted_iff : supplyFaulted v us = true ↔ (v.toNat < 4600 ∧ 10 ≤ us) ∨ 6000 < v.toNat := by
  simp only [supplyFaulted, Bool.or_eq_true, Bool.and_eq_true, decide_eq_true_eq]

/-- The state of a supply fault: power is gone, and PLATEN_TRIP says why. -/
def supplyLost (s : State) (v : BitVec 16) : State :=
  { removePower (measureInput s v) .supplyFault with
    platen := { (removePower (measureInput s v) .supplyFault).platen with trip := 0x1402, low := (measureInput s v).platen.low } }

theorem exec_supplyFault_dip (hup : s.boot.platenUp = true) (hv : 2000 < v.toNat) (hdip : supplyFaulted v us = false) :
    exec (.supplyFault v us) s = .next (measureInput s v) := by
  have hno : ¬ (!s.boot.platenUp || decide (v.toNat ≤ 2000)) = true := by simp [hup, hv]
  rw [exec, execSupplyFault, if_neg hno]
  simp only [hdip, Bool.not_false, if_true]

theorem exec_supplyFault_faulted (hup : s.boot.platenUp = true) (hv : 2000 < v.toNat) (hfault : supplyFaulted v us = true)
    (hpower : s.boot.power = .on ∨ s.boot.power = .resetHeld ∨ s.boot.power = .standby) :
    exec (.supplyFault v us) s = .next (supplyLost s v) := by
  have hno : ¬ (!s.boot.platenUp || decide (v.toNat ≤ 2000)) = true := by simp [hup, hv]
  rw [exec, execSupplyFault, if_neg hno]
  obtain h | h | h := hpower <;> simp only [hfault, h, Bool.not_true, Bool.false_eq_true, if_false] <;> rfl

theorem exec_supplyFaultRestart (hpower : s.boot.power = .supplyFault) (hhigh : s.boot.rstHigh = true) (hok : inputOk v = true)
    (hms : 100 ≤ ms) : exec (.supplyFaultRestart v ms hottest) s = .next (startReset (measureInput s v) 3) := by
  simp [exec, execSupplyFaultRestart, hpower, hhigh, hok, hms]

theorem exec_platenRstNAssert_of_on (hup : s.boot.platenUp = true) (hus : 100 ≤ us) (hpower : s.boot.power = .on) :
    exec (.platenRstNAssert us) s = .next (removePower { s with boot := { s.boot with rstHigh := false } } .resetHeld) := by
  have hno : ¬ (!s.boot.platenUp || decide (us < 100)) = true := by simp [hup, hus]
  rw [exec, execPlatenRstNAssert, if_neg hno]
  simp only [hpower]

theorem exec_platenRstNAssert_of_short (hus : us < 100) : exec (.platenRstNAssert us) s = .next s := by
  rw [exec, execPlatenRstNAssert, if_pos (by simp [hus])]

theorem exec_platenRstNRelease_of_resetHeld (hup : s.boot.platenUp = true) (hlow : s.boot.rstHigh = false)
    (hpower : s.boot.power = .resetHeld) : exec (.platenRstNRelease v ms hottest) s =
      .next (startReset (measureInput { s with boot := { s.boot with rstHigh := true } } v) 1) := by
  have hno : ¬ (!s.boot.platenUp || s.boot.rstHigh) = true := by simp [hup, hlow]
  rw [exec, execPlatenRstNRelease, if_neg hno]
  simp only [hpower]

end

/-- Settles O8: a fault and an assertion remove power, a restart and a release start the reset steps, and each of these is one operation. -/
theorem supplyAndResetInput : Obligations.SupplyAndResetInput := by
  refine ⟨fun s v us hup hv hfault hpower => ?_, fun s v us hup hv hlow hhigh => ?_, fun s v ms hottest hpower hhigh hlow hmax hms => ?_,
    fun s us hup hus hpower => ?_, fun s us hus => exec_platenRstNAssert_of_short hus, fun s v ms hottest hup hlow hpower => ?_⟩
  · obtain ⟨hfuses, hflash, htime, hformes, hcolo, hstack, hgalley⟩ := removePower_resetFrom (measureInput s v) .supplyFault
    have hboot := removePower_boot (measureInput s v) .supplyFault
    have hplaten := removePower_platen (measureInput s v) .supplyFault
    refine ⟨_, exec_supplyFault_faulted hup hv (supplyFaulted_iff.mpr hfault) hpower, ?_⟩
    rw [supplyLost, hboot, hplaten]
    exact ⟨rfl, rfl, hup, rfl, rfl, rfl, rfl, hfuses, hflash, hformes, hcolo, hstack, hgalley, htime⟩
  · have hno : supplyFaulted v us = false := by
      rw [Bool.eq_false_iff, Ne, supplyFaulted_iff]
      omega
    exact ⟨_, exec_supplyFault_dip hup hv hno, rfl, rfl, rfl, rfl⟩
  · obtain ⟨hfuses, hflash, -⟩ := startReset_resetFrom (measureInput s v) 3
    refine ⟨_, exec_supplyFaultRestart hpower hhigh (inputOk_iff.mpr ⟨hlow, hmax⟩) hms, ?_⟩
    rw [startReset_boot, startReset_platen]
    exact ⟨rfl, rfl, rfl, rfl, rfl, rfl, hfuses, hflash⟩
  · obtain ⟨hfuses, hflash, htime, hformes, hcolo, hstack, hgalley⟩ :=
      removePower_resetFrom { s with boot := { s.boot with rstHigh := false } } .resetHeld
    refine ⟨_, exec_platenRstNAssert_of_on hup hus hpower, ?_⟩
    rw [removePower_boot, removePower_platen]
    exact ⟨rfl, rfl, rfl, rfl, rfl, hfuses, hflash, rfl, hformes, hcolo, hstack, hgalley, htime⟩
  · obtain ⟨hfuses, hflash, -⟩ := startReset_resetFrom (measureInput { s with boot := { s.boot with rstHigh := true } } v) 1
    refine ⟨_, exec_platenRstNRelease_of_resetHeld hup hlow hpower, ?_⟩
    rw [startReset_boot, startReset_platen]
    exact ⟨rfl, rfl, rfl, rfl, rfl, hfuses, hflash, rfl⟩

/-! ### Heat and power (R388 to R396) -/

section
variable {js : Vector (BitVec 8) 10}

theorem le_foldl_max {n : Nat} (l : List Nat) (a : Nat) : n ≤ l.foldl max a ↔ n ≤ a ∨ ∃ x ∈ l, n ≤ x := by
  induction l generalizing a with
  | nil => simp
  | cons x l ih =>
    have hmax : n ≤ max a x ↔ n ≤ a ∨ n ≤ x := by omega
    rw [List.foldl_cons, ih, hmax]
    simp [or_assoc]

/-- The hottest junction is at a temperature or above where some junction is. -/
theorem le_hottestC {n : Nat} (hn : 0 < n) : n ≤ hottestC js ↔ ∃ k : Fin 10, n ≤ js[k.val].toNat := by
  rw [hottestC, le_foldl_max, or_iff_right (by omega)]
  constructor
  · rintro ⟨x, hx, hle⟩
    obtain ⟨y, hy, rfl⟩ := List.mem_map.mp hx
    obtain ⟨k, hk, rfl⟩ := Vector.getElem_of_mem (Vector.mem_toList_iff.mp hy)
    exact ⟨⟨k, hk⟩, hle⟩
  · rintro ⟨k, hk⟩
    exact ⟨_, List.mem_map.mpr ⟨_, Vector.mem_toList_iff.mpr (Vector.getElem_mem k.isLt), rfl⟩, hk⟩

/-- A die is in HOLD from 95 °C, and stays so above 92 °C (R393). -/
def dieHolds (old : BitVec 10) (js : Vector (BitVec 8) 10) (k : Fin 10) : Bool :=
  decide (95 ≤ js[k.val].toNat) || (old.getLsbD k.val && decide (92 < js[k.val].toNat))

theorem getLsbD_oneBit : ∀ i k : Fin 10, (oneBit 10 i.val).getLsbD k.val = (i == k) := by decide

theorem hotDies_fold (old : BitVec 10) (l : List (Fin 10)) (m : BitVec 10) (k : Fin 10) :
    (l.foldl (fun m i => if dieHolds old js i then m ||| oneBit 10 i.val else m) m).getLsbD k.val =
      (m.getLsbD k.val || l.any (fun i => dieHolds old js i && i == k)) := by
  induction l generalizing m with
  | nil => simp
  | cons i l ih =>
    rw [List.foldl_cons, ih, List.any_cons, ← Bool.or_assoc]
    congr 1
    cases dieHolds old js i with
    | false => simp
    | true => rw [if_pos rfl, BitVec.getLsbD_or, getLsbD_oneBit, Bool.true_and]

theorem getLsbD_hotDies (old : BitVec 10) (k : Fin 10) : (hotDies old js).getLsbD k.val = dieHolds old js k := by
  refine (hotDies_fold old (List.finRange 10) 0 k).trans ?_
  rw [BitVec.ofNat_eq_ofNat, BitVec.getLsbD_zero, Bool.false_or, Bool.eq_iff_iff, List.any_eq_true]
  simp

theorem hotDies_eq_zero {old : BitVec 10} (h : ∀ k : Fin 10, dieHolds old js k = false) : hotDies old js = 0 := by
  refine BitVec.eq_of_getLsbD_eq (fun i hi => ?_)
  rw [getLsbD_hotDies old ⟨i, hi⟩, h]
  simp

theorem hotDies_ne_zero {old : BitVec 10} {k : Fin 10} (h : dieHolds old js k = true) : hotDies old js ≠ 0 := by
  intro hzero
  have hbit := getLsbD_hotDies (js := js) old k
  rw [hzero, h] at hbit
  simp at hbit

/-- A sample that no trip stops: the readings are kept, and the thermal state follows (R393). -/
def sampled (s : State) (js : Vector (BitVec 8) 10) (i o : BitVec 8) : State :=
  { s with platen := { s.platen with
    junctions := js, inlet := i, outlet := o, hot := hotDies s.platen.hot js,
    thermal := thermalNext s.platen.thermal (hotDies s.platen.hot js) (hottestC js) } }

section
variable {s : State} {i o : BitVec 8}

theorem exec_thermalSample_cool (hup : s.boot.platenUp = true) (hticks : s.time.ticks.toNat % 1000 = 0)
    (hcool : ∀ k : Fin 10, js[k.val].toNat < 105) : exec (.thermalSample js i o) s = .next (sampled s js i o) := by
  have hno : ¬ (!s.boot.platenUp || s.time.ticks.toNat % 1000 != 0) = true := by simp [hup, hticks]
  have hmax : ¬ 105 ≤ hottestC js := by
    rw [le_hottestC (by decide), not_exists]
    exact fun k => Nat.not_le_of_lt (hcool k)
  rw [exec, execThermalSample, if_neg hno]
  dsimp only
  rw [if_neg hmax]
  rfl

theorem exec_thermalSample_trips (hup : s.boot.platenUp = true) (hticks : s.time.ticks.toNat % 1000 = 0) (hpower : s.boot.power = .on)
    (hhot : ∃ k : Fin 10, 105 ≤ js[k.val].toNat) : exec (.thermalSample js i o) s = .next
      { removePower (sampled s js i o) .tripped with platen := { (removePower (sampled s js i o) .tripped).platen with trip := 0x1401 } } := by
  have hno : ¬ (!s.boot.platenUp || s.time.ticks.toNat % 1000 != 0) = true := by simp [hup, hticks]
  rw [exec, execThermalSample, if_neg hno]
  dsimp only
  rw [if_pos ((le_hottestC (by decide)).mpr hhot)]
  simp only [hpower]
  rfl

end

/-! #### The thermal state (R393) -/

theorem thermalNext_of_trip (hot : BitVec 10) (n : Nat) : thermalNext .trip hot n = .trip := rfl

theorem thermalNext_hold {old : Thermal} {hot : BitVec 10} {n : Nat} (hold : old ≠ .trip) (hn : n < 105) (hhot : hot ≠ 0) :
    thermalNext old hot n = .hold := by
  have htrip : ¬ (old == .trip || 105 ≤ n) = true := by simp [hold, Nat.not_le_of_lt hn]
  rw [thermalNext, if_neg htrip, if_pos (bne_iff_ne.mpr hhot)]

theorem thermalNext_warm {old : Thermal} {n : Nat} (hold : old ≠ .trip) (hn : n < 105) (hwarm : 90 ≤ n) :
    thermalNext old 0 n = .warm := by
  simp [thermalNext, hold, hwarm, Nat.not_le_of_lt hn]

theorem thermalNext_normal {old : Thermal} {n : Nat} (hold : old ≠ .trip) (hn : n ≤ 88) : thermalNext old 0 n = .normal := by
  have htrip : ¬ 105 ≤ n := by omega
  have hwarm : ¬ 90 ≤ n := by omega
  simp [thermalNext, hold, htrip, hwarm, hn]

end

/-! #### An interval (R388 to R390) -/

/-- LIMIT touches no account and no reading. -/
theorem setLimit_keeps (p : Platen) : (setLimit p).account = p.account ∧ (setLimit p).measured = p.measured ∧
    (setLimit p).lastMs = p.lastMs := by
  unfold setLimit
  split <;> exact ⟨rfl, rfl, rfl⟩

/-- The end of an interval keeps its reading, and touches no account. -/
theorem measureInterval_keeps (cap : Option Nat) (w : Nat) (p : Platen) : (measureInterval cap w p).account = p.account ∧
    (measureInterval cap w p).measured = (w :: p.measured).take 4000 ∧ (measureInterval cap w p).lastMs = BitVec.ofNat 16 w := by
  unfold measureInterval
  generalize (if 2400 < w then satInc p.above else 0) = above
  dsimp only
  by_cases habove : 16 ≤ above.toNat
  · rw [if_pos habove]
    exact setLimit_keeps _
  · rw [if_neg habove]
    by_cases hlow : w ≤ 2200
    · rw [if_pos hlow]
      exact ⟨rfl, rfl, rfl⟩
    · rw [if_neg hlow]
      exact ⟨rfl, rfl, rfl⟩

/-- Settles O10: the thermal state follows the hottest junction and the dies in HOLD, each of which is read off the junctions. -/
theorem thermalAndEnergy : Obligations.ThermalAndEnergy := by
  refine ⟨fun s js i o hup hticks hcool => ?_, fun s js i o hup hticks hpower hhot => ?_, fun s w hpower hticks hlast => ?_,
    fun s hpower => ?_⟩
  · have hmax : hottestC js < 105 := by
      rw [← Nat.not_le, le_hottestC (by decide), not_exists]
      exact fun k => Nat.not_le_of_lt (hcool k)
    refine ⟨_, exec_thermalSample_cool hup hticks hcool, rfl, rfl, rfl, rfl, fun htrip => ?_, fun hno hnormal => ?_,
      fun hno hdies hwarm => ?_, fun hno hhold => ?_, fun k hk => ?_⟩
    · simp only [sampled, htrip, thermalNext_of_trip]
    · have hzero : hotDies s.platen.hot js = 0 := hotDies_eq_zero (fun k => by
        have hk := hnormal k
        simp only [dieHolds, Bool.or_eq_false_iff, Bool.and_eq_false_iff, decide_eq_false_iff_not]
        omega)
      have hle : hottestC js ≤ 88 := by
        rw [← Nat.lt_succ_iff, ← Nat.not_le, le_hottestC (by decide), not_exists]
        exact fun k => Nat.not_le_of_lt (Nat.lt_succ_of_le (hnormal k))
      simp only [sampled, hzero]
      exact ⟨thermalNext_normal hno hle, trivial⟩
    · have hzero : hotDies s.platen.hot js = 0 := hotDies_eq_zero (fun k => by
        obtain ⟨hlt, hold⟩ := hdies k
        rw [dieHolds, hold, decide_eq_false (Nat.not_le_of_lt hlt)]
        rfl)
      simp only [sampled, hzero]
      exact thermalNext_warm hno hmax ((le_hottestC (by decide)).mpr hwarm)
    · obtain ⟨k, hk⟩ := hhold
      exact thermalNext_hold hno hmax (hotDies_ne_zero (k := k) (by simp [dieHolds, hk]))
    · simp only [sampled, getLsbD_hotDies]
      simp [dieHolds, hk]
  · obtain ⟨hfuses, hflash, -, hformes, hcolo, -, hgalley⟩ := removePower_resetFrom (sampled s js i o) .tripped
    refine ⟨_, exec_thermalSample_trips hup hticks hpower hhot, ?_⟩
    rw [removePower_boot, removePower_platen]
    refine ⟨rfl, rfl, rfl, ?_, rfl, hfuses, hflash, hformes, hcolo, hgalley⟩
    have hmax : 105 ≤ hottestC js := (le_hottestC (by decide)).mpr hhot
    simp [sampled, thermalNext, hmax]
  · have hdue : (s.isOn && s.time.ticks.toNat % 1000 = 0 && s.time.ticks != s.platen.lastClose) = true := by
      simp [State.isOn, hpower, hticks, hlast]
    refine ⟨_, by rw [exec, execPowerIntervalEnd, if_pos hdue], rfl, ?_⟩
    obtain ⟨haccount, hmeasured, hlastMs⟩ := measureInterval_keeps (s.colo.committed.map (fun i => fld i.powerHead.1 15 0)) w.toNat
      (closeBuckets s.platen)
    simp only [haccount, hmeasured, hlastMs, BitVec.ofNat_toNat, BitVec.setWidth_eq, true_and]
    refine ⟨rfl, fun f => ?_⟩
    simp [closeBuckets]
  · refine ⟨_, by rw [exec, execCurrentLimitEngage, if_pos (by simp [State.isOn, hpower])], rfl, ?_⟩
    simp only [setLimit]
    split
    case isTrue h => exact ⟨h, rfl⟩
    case isFalse h => exact ⟨rfl, rfl⟩

/-! #### I3C and the test access port -/

/-- Past the last register of the platen block, a byte reads zero. -/
theorem i3cByte_of_le {s : State} {a : Nat} (h : 0x138 ≤ a) : i3cByte s a = 0 := if_neg (by omega)

theorem i3cByte_of_lt {s : State} {a : Nat} (h : a < 0x138) :
    i3cByte s a = (((platenReg s (a / 8 * 8)).getD 0) >>> (8 * (a % 8))).truncate 8 := if_pos (by omega)

/-- The second page of the management block is the platen block. -/
theorem mgmtReg_platen {s : State} {p : PortId} {n : Nat} (h : n < 0x1000) : mgmtReg s p (0x1000 + n) = platenReg s n := by
  have hpage : (0x1000 + n) / 0x1000 = 1 := by omega
  have hoff : (0x1000 + n) % 0x1000 = n := by omega
  simp only [mgmtReg, hpage, hoff]

/-- Settles O56: a read of I3C and one of the management block are answered by the same platen registers. -/
theorem i3cAccess : Obligations.I3cAccess := by
  refine ⟨fun s a b h => ?_, fun s a b c d => ?_, fun s n h => ?_, fun s a h => ?_, fun s n a bs h => ⟨?_, ?_, ?_⟩,
    fun s p a => ⟨fun ha => ?_, i3cByte_of_le⟩⟩
  · simp [exec, execI3cWriteOffset, h]
  · simp [exec, execI3cWriteOffset, State.emit]
  · cases ho : s.i3c.offset <;> simp [exec, execI3cRead, h, ho, State.emit]
  · simp [exec, execI3cAddressAssign, h]
  · simp [exec, execI3cRead, h, State.emit]
  · simp [exec, execI3cAddressAssign, h, State.emit]
  · simp [exec, execI3cWriteOffset, h, State.emit]
  · rw [i3cByte_of_lt ha, mgmtReg_platen (by omega)]

/-- A new state of the port touches the port, and shows power-good where its pin changes. -/
theorem setTap_eq (s : State) (t : Tap) : ∃ o, setTap s t = { s with tap := t, out := o } := by
  unfold setTap
  dsimp only
  split
  · exact ⟨s.out, rfl⟩
  · exact ⟨_, rfl⟩

theorem setTap_tap (s : State) (t : Tap) : (setTap s t).tap = t := by
  obtain ⟨o, h⟩ := setTap_eq s t
  rw [h]

/-- BYPASS shifts out one 0 and touches nothing but the port. -/
theorem tapBypass_spec (s : State) : tapBypass s = { s with tap := (tapBypass s).tap, out := (tapBypass s).out } ∧ (tapBypass s).tap.ir = 0 ∧
    (tapBypass s).out.getLast? = some (.tdo [false]) := by
  obtain ⟨o, h⟩ := setTap_eq s { s.tap with ir := 0, bypass := false }
  rw [tapBypass, h]
  exact ⟨rfl, rfl, List.getLast?_concat⟩

theorem exec_tapSamplePreload {s : State} {v : Vector Bool 6} (h : tapOn s = true) : exec (.tapSamplePreload v) s = .next
    ((setTap { s with free := s.free + 1 } { s.tap with ir := 2, cells := loadedCells (observedCells s) v }).emit
      (.tapCells (observedCells s))) := by
  rw [exec, execTapSamplePreload, if_pos h]

theorem exec_tapExtest {s : State} (h : tapOn s = true) : exec .tapExtest s = .next
    ((setTap { s with free := s.free + 1 } { s.tap with ir := 3 }).emit (.tapCells (loadedCells (observedCells s) s.tap.cells))) := by
  rw [exec, execTapExtest, if_pos h]

/-- Settles O57: every instruction loads itself into the port and shows its bits last, whatever power-good showed before them. -/
theorem testAccess : Obligations.TestAccess := by
  refine ⟨fun s n v op hon => ⟨?_, ?_, ?_, ?_, fun hclosed => ?_, fun hopen => ?_⟩, fun s low => ?_⟩
  · exact ⟨_, by rw [exec, execTapBypass, if_pos hon], tapBypass_spec s⟩
  · obtain ⟨o, h⟩ := setTap_eq s { s.tap with ir := 1 }
    refine ⟨_, by rw [exec, execTapIdcode, if_pos hon, h], rfl, rfl, ?_⟩
    exact List.getLast?_concat
  · obtain ⟨o, h⟩ := setTap_eq { s with free := s.free + 1 } { s.tap with ir := 2, cells := loadedCells (observedCells s) v }
    refine ⟨_, exec_tapSamplePreload hon, ?_⟩
    rw [h]
    refine ⟨rfl, rfl, fun i hi => ?_, _, List.getLast?_concat, rfl, rfl⟩
    match i, hi with
    | 0, _ | 1, _ | 2, _ | 3, _ => rfl
  · obtain ⟨o, h⟩ := setTap_eq { s with free := s.free + 1 } { s.tap with ir := 3 }
    refine ⟨_, exec_tapExtest hon, ?_⟩
    rw [h]
    refine ⟨rfl, rfl, rfl, ?_⟩
    have hreset : s.tap.inReset = false := by
      rw [tapOn, Bool.and_eq_true, Bool.not_eq_true'] at hon
      exact hon.2
    simp [State.pinPwrgd, State.emit, hreset]
  · refine ⟨_, ?_, tapBypass_spec s⟩
    simp only [exec, execTapPrivateInstruction, hon, hclosed, Bool.not_true, Bool.false_eq_true, if_false]
  · simp only [exec, execTapPrivateInstruction, hon, hopen, Bool.not_true, Bool.false_eq_true, if_false, if_true]
  · obtain ⟨o, h⟩ := setTap_eq s { s.tap with inReset := true, ir := 1, bypass := false }
    obtain ⟨o', h'⟩ := setTap_eq s { s.tap with inReset := false }
    cases low with
    | true =>
      refine ⟨_, rfl, ?_⟩
      rw [if_pos rfl, h]
      exact ⟨rfl, rfl, fun _ => rfl⟩
    | false =>
      refine ⟨_, rfl, ?_⟩
      rw [if_neg Bool.false_ne_true, h']
      exact ⟨rfl, rfl, fun hlow => absurd hlow Bool.false_ne_true⟩

end Sys2Proof.Machine
end

section
/-! The module-reset steps and the end of bring-up: which copy of firmware is accepted is a matter of fuses and flash alone, and
the exchanges answered when bring-up ends touch the ports. -/
namespace Sys2Proof.Machine

variable {s : State} {env : BootEnv}

/-! ### Training and the rails (R398, R401, R402) -/

/-- What a module has once its rails are up: power-good, its ports in training, the cores that passed, the channels still in use. -/
structure Trained (env : BootEnv) (s t : State) : Prop where
  phase : t.boot.phase = 6
  pwrgd : t.boot.pwrgd = true
  loader : t.boot.measLoader = s.boot.measLoader
  colophon : t.boot.measColophon = s.boot.measColophon
  svn : t.colo.fwSvn = s.colo.fwSvn
  identity : t.colo.identityUp = s.colo.identityUp
  ports : ∀ p : PortId, (t.port p).link = 1 ∧ (t.port p).since = s.time.ticks
  cores : ∀ i : CoreId, (t.core i).working = !env.failingCores.contains i
  retired : t.stack.retired = decide (33 ≤ t.flash.mapOut.length)
  fuses : t.fuses = s.fuses
  formes : t.formes = s.formes

theorem trainAndTest_trained (hpwrgd : s.boot.pwrgd = true) : Trained env s (trainAndTest s env) where
  phase := rfl
  pwrgd := hpwrgd
  loader := rfl
  colophon := rfl
  svn := rfl
  identity := rfl
  ports p := by simp [trainAndTest, State.port]
  cores i := by simp [trainAndTest, State.core]
  retired := rfl
  fuses := rfl
  formes := rfl

theorem raiseRails_of_some {c : FwCopy} {b : Bool} (h : acceptFw s s.flash.compositor = some (c, b)) :
    Trained env s (raiseRails s env) ∧ (raiseRails s env).boot.measCompositor = c.measure ∧ (raiseRails s env).boot.code = s.boot.code := by
  obtain ⟨o, ho⟩ := s.setPwrgd_eq true
  have hacc : acceptFw (s.setPwrgd true) (s.setPwrgd true).flash.compositor = some (c, b) := by
    rw [ho]
    exact h
  simp only [raiseRails, hacc]
  rw [ho]
  obtain ⟨hphase, hpwrgd, hloader, hcolophon, hsvn, hidentity, hports, hcores, hretired, hfuses, hformes⟩ := trainAndTest_trained
    (env := env)
    (s := { s with out := o, boot := { s.boot with pwrgd := true, measCompositor := c.measure, copies := setCopy s.boot.copies 3 b } }) rfl
  exact ⟨⟨hphase, hpwrgd, hloader, hcolophon, hsvn, hidentity, hports, hcores, hretired, hfuses, hformes⟩, rfl, rfl⟩

theorem raiseRails_of_none (h : acceptFw s s.flash.compositor = none) :
    (raiseRails s env).boot.phase = 6 ∧ (raiseRails s env).boot.code = 0x1504 ∧ (raiseRails s env).boot.pwrgd = true := by
  obtain ⟨o, ho⟩ := s.setPwrgd_eq true
  have hacc : acceptFw (s.setPwrgd true) (s.setPwrgd true).flash.compositor = none := by
    rw [ho]
    exact h
  simp only [raiseRails, hacc]
  rw [ho]
  exact ⟨rfl, rfl, rfl⟩

/-- The state in which the rails rise: the loader and the colophon are measured, and the colophon runs. -/
def loaded (s : State) (l c : FwCopy) (lb cb : Bool) : State :=
  { s with
    boot := { s.boot with measLoader := l.measure, measColophon := c.measure, copies := setCopy (setCopy s.boot.copies 1 lb) 2 cb }
    colo := { s.colo with fwSvn := c.svn, identityUp := s.flash.certKeyOk && s.flash.certSigOk } }

section
variable (hpower : s.boot.power = .on) (hphase : s.boot.phase = 2)
include hpower hphase

theorem exec_moduleResetSteps : exec (.moduleResetSteps env) s = .next (moduleSteps s env) := by
  have hdue : (s.isOn && s.boot.phase = 2) = true := by simp [State.isOn, hpower, hphase]
  rw [exec, execModuleResetSteps, if_pos hdue]

theorem exec_moduleResetSteps_noLoader (hl : acceptFw s s.flash.loader = none) :
    exec (.moduleResetSteps env) s = .next (haltBoot s 0x1502) := by
  rw [exec_moduleResetSteps hpower hphase]
  simp only [moduleSteps, hl]

variable {l c : FwCopy} {lb cb : Bool} (hl : acceptFw s s.flash.loader = some (l, lb))
include hl

theorem exec_moduleResetSteps_noColophon (hc : acceptFw s s.flash.colophon = none) : exec (.moduleResetSteps env) s = .next
    (haltBoot { s with boot := { s.boot with measLoader := l.measure, copies := setCopy s.boot.copies 1 lb } } 0x1503) := by
  have hc' : acceptFw { s with boot := { s.boot with measLoader := l.measure, copies := setCopy s.boot.copies 1 lb } } s.flash.colophon =
    none := hc
  rw [exec_moduleResetSteps hpower hphase]
  simp only [moduleSteps, hl, hc']

theorem exec_moduleResetSteps_loaded (hc : acceptFw s s.flash.colophon = some (c, cb)) :
    exec (.moduleResetSteps env) s = .next (raiseRails (loaded s l c lb cb) env) := by
  have hc' : acceptFw { s with boot := { s.boot with measLoader := l.measure, copies := setCopy s.boot.copies 1 lb } } s.flash.colophon =
    some (c, cb) := hc
  rw [exec_moduleResetSteps hpower hphase]
  simp only [moduleSteps, hl, hc']
  rfl

end

/-! ### The end of bring-up (R364, R365, R403, R404) -/

/-- Nothing changes but the ports, and packets may have left. -/
def OnlyPorts (s t : State) : Prop := t = { s with ports := t.ports, out := t.out }

theorem OnlyPort.onlyPorts {p : PortId} {t : State} (h : OnlyPort p s t) : OnlyPorts s t := by
  obtain ⟨x, o, rfl⟩ := onlyPort_iff.mp h
  rfl

theorem OnlyPorts.refl (s : State) : OnlyPorts s s := rfl

theorem onlyPorts_iff {t : State} : OnlyPorts s t ↔ ∃ ps o, t = { s with ports := ps, out := o } := by
  refine ⟨fun h => ⟨_, _, h⟩, ?_⟩
  rintro ⟨ps, o, rfl⟩
  rfl

theorem OnlyPorts.trans {t u : State} (hst : OnlyPorts s t) (htu : OnlyPorts t u) : OnlyPorts s u := by
  obtain ⟨ps, o, rfl⟩ := onlyPorts_iff.mp hst
  obtain ⟨ps', o', rfl⟩ := onlyPorts_iff.mp htu
  rfl

theorem foldl_onlyPorts {α : Type} {g : State → α → State} (hg : ∀ u x, OnlyPorts u (g u x)) (l : List α) (s : State) :
    OnlyPorts s (l.foldl g s) := by
  induction l generalizing s with
  | nil => exact OnlyPorts.refl s
  | cons x l ih => exact (hg s x).trans (ih _)

/-- An undefined request is answered on its own port. -/
theorem State.rejectUndefined_secure_onlyPort (s : State) (p : PortId) : OnlyPort p s (s.rejectUndefined (.secure p)) := by
  unfold State.rejectUndefined
  dsimp only
  split
  · exact (State.modMbox_secure_onlyPort _ p _).trans (State.respond_secure_onlyPort _ p _)
  · exact OnlyPort.refl p s

theorem bootReady_onlyPorts (s : State) : OnlyPorts { s with boot := { s.boot with phase := 0, ready := true } } (bootReady s) :=
  foldl_onlyPorts (fun u p => (u.rejectUndefined_secure_onlyPort p).onlyPorts) _ _

/-- The state after the bring-up scrub, with the module's two keys where any may be drawn. -/
def keyed (s : State) (ok : Bool) : State :=
  if (bringupScrubbed s ok).colo.mgmtOnly then bringupScrubbed s ok else keyModule (bringupScrubbed s ok)

/-- Scrubbing and keying leave all that says whether an imposition stands. -/
theorem keyed_base (ok : Bool) : (keyed s ok).boot = s.boot ∧ (keyed s ok).flash = s.flash ∧ (keyed s ok).fuses = s.fuses ∧
    (keyed s ok).formes = s.formes ∧ (keyed s ok).time = s.time ∧ (keyed s ok).stack = (bringupScrubbed s ok).stack := by
  unfold keyed
  split <;> exact ⟨rfl, rfl, rfl, rfl, rfl, rfl⟩

/-- The scrub is over, whether or not keys were drawn. -/
theorem keyed_scrub (ok : Bool) : (keyed s ok).colo.scrub.active = false := by
  unfold keyed
  split <;> rfl

/-- With entropy the next two draws are the module's keys; without it no key is drawn and the module is for management only. -/
theorem keyed_keys (ok : Bool) : if ok = true ∧ s.colo.mgmtOnly = false
    then (keyed s ok).colo.kHeld = some s.draws ∧ (keyed s ok).colo.kShared = some (s.draws + 1) ∧
      (keyed s ok).draws = s.draws + 2 ∧ (keyed s ok).colo.mgmtOnly = false
    else (keyed s ok).colo.kHeld = s.colo.kHeld ∧ (keyed s ok).draws = s.draws ∧ (keyed s ok).colo.mgmtOnly = true := by
  have hmgmt : (bringupScrubbed s ok).colo.mgmtOnly = (s.colo.mgmtOnly || !ok) := rfl
  by_cases hkeys : ok = true ∧ s.colo.mgmtOnly = false
  · obtain ⟨rfl, hno⟩ := hkeys
    rw [if_pos ⟨rfl, hno⟩]
    rw [hno] at hmgmt
    rw [keyed, hmgmt]
    exact ⟨rfl, rfl, rfl, hmgmt⟩
  · rw [if_neg hkeys]
    have hon : (s.colo.mgmtOnly || !ok) = true := by
      cases ok <;> cases hm : s.colo.mgmtOnly <;> simp_all
    rw [hon] at hmgmt
    rw [keyed, hmgmt]
    exact ⟨rfl, rfl, hmgmt⟩

theorem exec_bringupScrubDone_empty (ok : Bool) (hpower : s.boot.power = .on) (hphase : s.boot.phase = 6) (hnone : standingRecord s = none)
    (hretired : s.stack.retired = false) (hcode : s.boot.code ≠ 0x1504) :
    exec (.bringupScrubDone ok) s = .next (bootReady (keyed s ok)) := by
  have hdue : (s.isOn && s.boot.phase = 6) = true := by simp [State.isOn, hpower, hphase]
  obtain ⟨hboot, hflash, -, -, -, hstack⟩ := keyed_base (s := s) ok
  have hstanding : standingRecord (keyed s ok) = none := by rw [standingRecord, hflash]; exact hnone
  have hempty : bootEmpty (keyed s ok) = bootReady (keyed s ok) := by
    have hretired' : ¬ (keyed s ok).stack.retired = true := by rw [hstack]; exact Bool.eq_false_iff.mp hretired
    rw [bootEmpty, if_neg hretired', if_neg (by rw [hboot]; exact hcode)]
  rw [exec, execBringupScrubDone, if_pos hdue, ← hempty]
  simp only [bringup]
  rw [show (if (bringupScrubbed s ok).colo.mgmtOnly then bringupScrubbed s ok else keyModule (bringupScrubbed s ok)) = keyed s ok from rfl,
    hstanding]

/-- Settles O9: each copy is judged by fuses and flash, which no earlier step touches. -/
theorem bootSteps : Obligations.BootSteps := by
  refine ⟨fun s env l c k lb cb kb hpower hphase hl hc hk => ?_, fun s env hpower hphase hl => ?_,
    fun s env l lb hpower hphase hl hc => ?_, fun s env l c lb cb hpower hphase hl hc hk => ?_,
    fun s ok hpower hphase hnone hretired hcode => ?_⟩
  · obtain ⟨⟨h6, hpwrgd, hloader, hcolophon, hsvn, hidentity, hports, hcores, hretired, hfuses, hformes⟩, hcomp, hcode⟩ :=
      raiseRails_of_some (s := loaded s l c lb cb) (env := env) hk
    exact ⟨_, exec_moduleResetSteps_loaded hpower hphase hl hc, h6, hpwrgd, hcode, hloader, hcolophon, hcomp, hsvn, hidentity,
      hports, hcores, hretired, hfuses, hformes⟩
  · exact ⟨_, exec_moduleResetSteps_noLoader hpower hphase hl, rfl, rfl, rfl⟩
  · exact ⟨_, exec_moduleResetSteps_noColophon hpower hphase hl hc, rfl, rfl⟩
  · exact ⟨_, exec_moduleResetSteps_loaded hpower hphase hl hc, raiseRails_of_none (s := loaded s l c lb cb) (env := env) hk⟩
  · refine ⟨_, exec_bringupScrubDone_empty ok hpower hphase hnone hretired hcode, ?_⟩
    obtain ⟨hboot, hflash, hfuses, hformes, htime, hstack⟩ := keyed_base (s := s) ok
    have hscrub := keyed_scrub (s := s) ok
    have hkeys := keyed_keys (s := s) ok
    obtain ⟨ps, o, h⟩ := onlyPorts_iff.mp (bootReady_onlyPorts (keyed s ok))
    rw [h]
    dsimp only
    rw [hboot, hstack]
    exact ⟨rfl, rfl, rfl, rfl, hscrub, hfuses, hflash, hformes, htime, hkeys⟩

end Sys2Proof.Machine
end

section
/-! Bytes of the two memories: what a read returns after a write, and what a write of a forme's stack space leaves alone; with them
the host's accesses to memory. -/
namespace Sys2Proof.Machine

/-! ### Galley -/

theorem galleyByte_eq_of_or {m : Memory} {x : Nat} : some (galleyByte m x) = (memGet m x).or galleyDefault := by
  unfold galleyByte
  cases memGet m x <;> rfl

theorem galleyByte_put {m : Memory} {x y : Nat} {v : Byte} (h : Memory.wf galleyDefault m = true) :
    galleyByte (memPut galleyDefault m x v) y = if y = x then v else galleyByte m y := by
  have hget := memGet_put (x := x) (y := y) (v := v) h
  rw [← galleyByte_eq_of_or] at hget
  split at hget
  case isTrue hyx => rw [if_pos hyx]; exact Option.some.inj hget
  case isFalse hyx => rw [if_neg hyx]; rw [← galleyByte_eq_of_or] at hget; exact Option.some.inj hget

/-- A write of galley changes exactly its bytes. -/
theorem galleyByte_putAll {m : Memory} {a : Nat} {d : List Byte} (h : Memory.wf galleyDefault m = true) (x : Nat) :
    galleyByte (memPutAll galleyDefault m a d) x = if a ≤ x ∧ x < a + d.length then d.getD (x - a) 0 else galleyByte m x := by
  induction d generalizing m a with
  | nil => rw [memPutAll, if_neg (by simp)]
  | cons v d ih =>
    rw [memPutAll, ih (memPut_wf h), galleyByte_put h, List.length_cons]
    by_cases hx : x = a
    · rw [if_neg (by omega), if_pos hx, if_pos (by omega), hx, Nat.sub_self]
      rfl
    · by_cases hin : a + 1 ≤ x ∧ x < a + 1 + d.length
      · have hsub : x - a = (x - (a + 1)) + 1 := by omega
        rw [if_pos hin, if_pos (by omega), hsub, List.getD_cons_succ]
      · rw [if_neg hin, if_neg hx, if_neg (by omega)]

/-! ### Stack memory -/

/-- Bytes put one after the other at consecutive addresses. -/
theorem memGet_foldl_put {g : Memory → Nat → Memory} {base n : Nat} {v : Nat → Byte}
    (hg : ∀ m i, i < n → g m i = memPut none m (base + i) (v i)) (m : Memory) (x : Nat) :
    memGet ((List.range n).foldl g m) x = if base ≤ x ∧ x < base + n then some (v (x - base)) else memGet m x := by
  induction n with
  | zero => rw [List.range_zero, List.foldl_nil, if_neg (by omega)]
  | succ n ih =>
    have hput : ∀ (m : Memory), memPut none m (base + n) (v n) = memInsert m (base + n) (v n) := fun m => if_neg nofun
    rw [List.range_succ, List.foldl_append, List.foldl_cons, List.foldl_nil, hg _ n (Nat.lt_succ_self n), hput, memGet_insert,
      ih (fun m i hi => hg m i (Nat.lt_succ_of_lt hi))]
    by_cases hx : x = base + n
    · subst hx
      rw [if_pos rfl, if_pos (by omega), Nat.add_sub_cancel_left]
    · rw [if_neg hx]
      by_cases hin : base ≤ x ∧ x < base + n
      · rw [if_pos hin, if_pos (by omega)]
      · rw [if_neg hin, if_neg (by omega)]

/-- A stack space of one region lies at its base. -/
theorem slotAddr_single {g : Region} {off : Nat} (h : off < g.len * 2 ^ 30) : slotAddr [g] off = some (g.base * 2 ^ 30 + off) := if_pos h

section
variable {s : State} {f : FormeId} {off : Nat} {d : List Byte}

/-- A write of a stack space charges energy and touches stack memory, nothing else. -/
theorem State.stackStore_eq (s : State) (f : FormeId) (h : Hint) (off : Nat) (d : List Byte) :
    s.stackStore f h off d = { s with stack := (s.stackStore f h off d).stack, platen := (s.stackStore f h off d).platen } := by
  unfold State.stackStore
  split
  · rfl
  · split <;> rfl

theorem FormeCfg.stackGib_single {c : FormeCfg} {g : Region} (hc : c.regions = [g]) : c.stackGib = g.len := by
  rw [FormeCfg.stackGib, hc]
  exact Nat.zero_add g.len

/-- What a write leaves of memory where the stack space is one region: exactly the bytes written change. -/
theorem State.stackStore_byte {c : FormeCfg} {g : Region} (hcfg : (s.forme f).cfg = some c) (hc : c.regions = [g]) (h : Hint)
    (hend : off + d.length ≤ c.stackGib * 2 ^ 30) (k x : Nat) : stackByte (s.stackStore f h off d).stack.mem k x =
      if g.base * 2 ^ 30 + off ≤ x ∧ x < g.base * 2 ^ 30 + off + d.length then d.getD (x - (g.base * 2 ^ 30 + off)) 0
      else stackByte s.stack.mem k x := by
  have hlen := FormeCfg.stackGib_single hc
  simp only [State.stackStore, hcfg, if_pos hend, stackByte]
  change ((memGet (List.foldl _ s.stack.mem _) x).getD _) = _
  rw [memGet_foldl_put (base := g.base * 2 ^ 30 + off) (v := fun i => d.getD i 0)]
  · split <;> rfl
  · intro m i hi
    rw [hc, slotAddr_single (by rw [hlen] at hend; omega), Nat.add_assoc]

/-- A watched write also drops staged copies of the forme, and nothing else but stack memory and the energy account changes. -/
theorem watchedWrite_eq (s : State) (f : FormeId) (off : Nat) (d : List Byte) : ∃ k p,
    watchedWrite s f off d = { s with stack := k, platen := p }.modForme f (fun x => invalidatePages x (pagesOf off d.length)) := by
  refine ⟨(s.stackStore f .normal off d).stack, (s.stackStore f .normal off d).platen, ?_⟩
  rw [← State.stackStore_eq]
  rfl

theorem watchedWrite_stack (s : State) (f : FormeId) (off : Nat) (d : List Byte) :
    (watchedWrite s f off d).stack = (s.stackStore f .normal off d).stack := rfl

/-- A read of a stack space charges energy and touches the stones, nothing else. -/
theorem formeFetch_eq (s : State) (f : FormeId) (h : Hint) (last : Bool) (off n : Nat) : ∃ k p,
    formeFetch s f h last off n = { s with stack := { s.stack with stone := k }, platen := p } := by
  unfold formeFetch State.stackFetch
  cases (s.forme f).cfg with
  | none => exact ⟨_, _, rfl⟩
  | some c => exact ⟨_, _, rfl⟩

end

/-! ### Host accesses (R118, R333) -/

section
variable {s : State} {h : HostReq} {f : FormeId} {b : Fin 6} {o : BitVec 40} {n a : Nat} {d : List Byte}
variable (ht : hostTarget s h = .forme f)

include ht in
theorem exec_hostMemoryRead_of_forme : exec (.hostMemoryRead h b o n) s = .next (memoryRead s h f b o.toNat n) := by
  simp only [exec, execHostMemoryRead, ht]

include ht in
theorem exec_hostMemoryWrite_of_forme : exec (.hostMemoryWrite h b o d) s = .next (memoryWrite s h f b o.toNat d) := by
  simp only [exec, execHostMemoryWrite, ht]

/-- An access to the stack space lies inside it. -/
theorem aperture_stack_le {c : FormeCfg} {off : Nat} (hcfg : (s.forme f).cfg = some c) (hap : aperture s f b off n = some (.stack a)) :
    a + n ≤ c.stackGib * 2 ^ 30 := by
  simp only [aperture, hcfg] at hap
  split at hap
  · contradiction
  · split at hap
    · split at hap <;> simp at hap
    · split at hap
      · split at hap
        case isTrue hin =>
          obtain rfl := Aperture.stack.inj (Option.some.inj hap)
          simp only [Bool.and_eq_true, decide_eq_true_eq] at hin
          exact hin.2
        case isFalse => contradiction
      · contradiction

theorem sendData_sentOn (s : State) (h : HostReq) (d : List Byte) : SentOn h.port (.hcpl h.port h.fn h.tag .ok d) s (sendData s h d) :=
  State.ecpOut_sentOn s _ _ _ _

end

/-- Settles O48: each access goes to the bytes the aperture names, and the rules of the two memories say what they hold afterwards. -/
theorem hostMemory : Obligations.HostMemory := by
  refine ⟨fun s h f b o n a ht hap => ?_, fun s h f b o n a ht hap hpoison => ?_, fun s h f b o d a hok ht hap => ?_,
    fun s h f b o d a c g ht hap hcfg hc => ?_, fun s h f b o n d ht => ⟨fun hap => ?_, fun hap => ?_⟩⟩
  · refine ⟨_, exec_hostMemoryRead_of_forme ht, ?_⟩
    simp only [memoryRead, hap]
    exact sendData_sentOn s h _
  · refine ⟨_, exec_hostMemoryRead_of_forme ht, ?_⟩
    have hclean : ¬ s.stackPoisoned f a n = true := by rw [State.stackPoisoned, hpoison]; exact Bool.false_ne_true
    simp only [memoryRead, hap, if_neg hclean]
    obtain ⟨k, p, hfetch⟩ := formeFetch_eq s f .normal false a n
    rw [hfetch]
    exact ⟨rfl, rfl, rfl, rfl⟩
  · refine ⟨_, exec_hostMemoryWrite_of_forme ht, ?_⟩
    simp only [memoryWrite, hap]
    exact ⟨rfl, galleyByte_putAll hok.2⟩
  · refine ⟨_, exec_hostMemoryWrite_of_forme ht, ?_⟩
    simp only [memoryWrite, hap]
    obtain ⟨k, p, hwrite⟩ := watchedWrite_eq s f a d
    refine ⟨State.stackStore_byte hcfg hc .normal (aperture_stack_le hcfg hap), ?_, ?_, fun e he => ?_⟩
    · rw [hwrite]; rfl
    · rw [hwrite]; rfl
    · rw [hwrite, State.forme_modForme_of_ne _ _ _ _ (Ne.symm he)]; rfl
  · refine ⟨_, exec_hostMemoryRead_of_forme ht, ?_⟩
    simp only [memoryRead, hap]
    exact s.busError_sentOn h
  · refine ⟨_, exec_hostMemoryWrite_of_forme ht, ?_⟩
    simp only [memoryWrite, hap]
    exact s.busError_sentOn h

end Sys2Proof.Machine
end

section
/-! Rules of the feeder's shared operations: what the completion of an entry leaves of its forme and its ring, and what leaves on its
port (R250, R251, R253). -/
namespace Sys2Proof.Machine

/-! ### The first match in a list -/

/-- Changing the first match changes what a search for it finds, where the change keeps the match. -/
theorem find?_updFirst {α : Type} {p : α → Bool} {g : α → α} (hg : ∀ x, p x = true → p (g x) = true) (l : List α) :
    (updFirst p g l).find? p = (l.find? p).map g := by
  induction l with
  | nil => rfl
  | cons x l ih =>
    cases hx : p x with
    | true => simp [updFirst, hx, hg x hx]
    | false => simp [updFirst, hx, ih]

theorem updFirst_eq_map_of_find? {α : Type} {p : α → Bool} {g : α → α} {l : List α} (h : l.find? p = none) : updFirst p g l = l := by
  induction l with
  | nil => rfl
  | cons x l ih =>
    rw [List.find?_cons] at h
    cases hx : p x with
    | true => simp [hx] at h
    | false => simp only [hx] at h; simp [updFirst, hx, ih h]

theorem findLaunch_modLaunch {x : Forme} {r : RingId} {q : Seq} {g : Launch → Launch} (hg : ∀ l, (g l).ring = l.ring ∧ (g l).seq = l.seq) :
    findLaunch (modLaunch x r q g) r q = (findLaunch x r q).map g :=
  find?_updFirst (fun l hl => by rw [(hg l).1, (hg l).2]; exact hl) x.launches

/-- A launch found stands at the ring and the number asked for. -/
theorem findLaunch_spec {x : Forme} {r : RingId} {q : Seq} {l : Launch} (h : findLaunch x r q = some l) : l.ring = r ∧ l.seq = q := by
  have hl := List.find?_some h
  simpa using hl

/-! ### What an event of one forme leaves alone -/

/-- Nothing changes outside the forme, its stack memory and its accounts, the ports and what leaves on them. -/
structure Beside (f : FormeId) (s t : State) : Prop where
  formes : ∀ g : FormeId, g ≠ f → t.forme g = s.forme g
  galley : t.galley = s.galley
  time : t.time = s.time
  boot : t.boot = s.boot
  fuses : t.fuses = s.fuses
  flash : t.flash = s.flash
  colo : t.colo = s.colo
  links : t.links = s.links

section
variable {f : FormeId} {s t u : State}

theorem Beside.refl (f : FormeId) (s : State) : Beside f s s := ⟨fun _ _ => rfl, rfl, rfl, rfl, rfl, rfl, rfl, rfl⟩

theorem Beside.trans (hst : Beside f s t) (htu : Beside f t u) : Beside f s u where
  formes g hg := (htu.formes g hg).trans (hst.formes g hg)
  galley := htu.galley.trans hst.galley
  time := htu.time.trans hst.time
  boot := htu.boot.trans hst.boot
  fuses := htu.fuses.trans hst.fuses
  flash := htu.flash.trans hst.flash
  colo := htu.colo.trans hst.colo
  links := htu.links.trans hst.links

theorem Beside.elsewhereKept (h : Beside f s t) (hstack : t.stack = s.stack) : ElsewhereKept f s t :=
  ⟨h.formes, hstack, h.galley, h.time, h.boot, h.fuses, h.flash, h.colo, h.links⟩

theorem State.modForme_beside (f : FormeId) (s : State) (g : Forme → Forme) : Beside f s (s.modForme f g) :=
  ⟨fun e he => State.forme_modForme_of_ne _ f e g he.symm, rfl, rfl, rfl, rfl, rfl, rfl, rfl⟩

/-- A port's traffic is beside every forme. -/
theorem OnlyPort.beside {p : PortId} (f : FormeId) (h : OnlyPort p s t) : Beside f s t := by
  obtain ⟨x, o, rfl⟩ := onlyPort_iff.mp h
  exact ⟨fun _ _ => rfl, rfl, rfl, rfl, rfl, rfl, rfl, rfl⟩

theorem OnlyPort.forme {p : PortId} (h : OnlyPort p s t) (f : FormeId) : t.forme f = s.forme f := by
  obtain ⟨x, o, rfl⟩ := onlyPort_iff.mp h
  rfl

theorem OnlyPort.stack {p : PortId} (h : OnlyPort p s t) : t.stack = s.stack := by
  obtain ⟨x, o, rfl⟩ := onlyPort_iff.mp h
  rfl

/-! ### Packets of a forme's port -/

/-- A read and a write sent on a port: one packet under the next tag. -/
theorem State.sendDwr_sentOn (s : State) (p : PortId) (fn : FnId) (u : EcpUse) (a : HostAddr) (d : List Byte) :
    SentOn p (.dwr p fn (s.reqTag p) a d) s (s.sendDwr p fn u a d) := by
  obtain ⟨hport, hout⟩ := State.ecpOut_sentOn (s.modPort p (fun x => { x with nextTag := s.reqTag p + 1, reqs := x.reqs ++ [{
    tag := s.reqTag p, fn := fn, use := u, addr := a, write := true, keep := false, issued := s.time.ticks, again := false, page := none,
    withdrawn := false }] })) p 0 (dataUnits d.length) (.dwr p fn (s.reqTag p) a d)
  exact ⟨(State.modPort_onlyPort s p _).trans hport, hout⟩

theorem State.sendDrd_sentOn (s : State) (p : PortId) (fn : FnId) (u : EcpUse) (keep : Bool) (a : HostAddr) (n : Nat) :
    SentOn p (.drd p fn (s.reqTag p) keep a n) s (s.sendDrd p fn u keep a n) := by
  obtain ⟨hport, hout⟩ := State.ecpOut_sentOn (s.modPort p (fun x => { x with nextTag := s.reqTag p + 1, reqs := x.reqs ++ [{
    tag := s.reqTag p, fn := fn, use := u, addr := a, write := false, keep := keep, issued := s.time.ticks, again := false, page := none,
    withdrawn := false }] })) p 1 (max 1 (ceilDiv n 256)) (.drd p fn (s.reqTag p) keep a n)
  exact ⟨(State.modPort_onlyPort s p _).trans hport, hout⟩

variable {c : FormeCfg}

theorem State.formeDwr_sentOn (hcfg : (s.forme f).cfg = some c) (u : EcpUse) (a : HostAddr) (d : List Byte) :
    SentOn c.port (.dwr c.port c.fnId (s.reqTag c.port) a d) s (s.formeDwr f u a d) := by
  simp only [State.formeDwr, hcfg]
  exact State.sendDwr_sentOn s _ _ _ _ _

theorem State.formeDrd_sentOn (hcfg : (s.forme f).cfg = some c) (u : EcpUse) (keep : Bool) (a : HostAddr) (n : Nat) :
    SentOn c.port (.drd c.port c.fnId (s.reqTag c.port) keep a n) s (s.formeDrd f u keep a n) := by
  simp only [State.formeDrd, hcfg]
  exact State.sendDrd_sentOn s _ _ _ _ _ _

/-- Nothing changes but packets that leave on some port. -/
theorem State.formeDwr_quiet (s : State) (f : FormeId) (u : EcpUse) (a : HostAddr) (d : List Byte) :
    s.formeDwr f u a d = s ∨ ∃ p, OnlyPort p s (s.formeDwr f u a d) := by
  cases hcfg : (s.forme f).cfg with
  | none => exact .inl (by simp only [State.formeDwr, hcfg])
  | some c => exact .inr ⟨c.port, (State.formeDwr_sentOn hcfg u a d).1⟩

/-- An event of a forme is a packet of its port, or nothing. -/
theorem State.formeEvent_quiet (s : State) (f : FormeId) (x : BitVec 8) : s.formeEvent f x = s ∨ ∃ p o, SentOn p o s (s.formeEvent f x) := by
  unfold State.formeEvent
  cases (s.forme f).cfg with
  | none => exact .inl rfl
  | some c =>
    dsimp only
    split
    · exact .inr ⟨c.port, _, State.ecpOut_sentOn s _ _ _ _⟩
    · exact .inl rfl

theorem State.formeEvent_forme (s : State) (f : FormeId) (x : BitVec 8) (g : FormeId) : (s.formeEvent f x).forme g = s.forme g := by
  rcases s.formeEvent_quiet f x with h | ⟨p, o, h, -⟩
  · rw [h]
  · exact h.forme g

/-! ### The kept code of a fault (R412) -/

theorem State.noteCode_forme (s : State) (f : FormeId) (c : Code) : (s.noteCode f c).forme f = noteFormeCode (s.forme f) c := by
  unfold State.noteCode
  dsimp only
  split
  · rw [State.formeEvent_forme, State.forme_modForme_self]
  · rw [State.forme_modForme_self]

/-- Keeping a code touches the forme, and may raise an event on its port. -/
theorem State.noteCode_beside (s : State) (f : FormeId) (c : Code) : Beside f s (s.noteCode f c) ∧ (s.noteCode f c).stack = s.stack ∧
    ∃ o, (s.noteCode f c).out = s.out ++ o := by
  have hmod := s.modForme_beside f (fun x => noteFormeCode x c)
  unfold State.noteCode
  dsimp only
  split
  · rcases (s.modForme f (fun x => noteFormeCode x c)).formeEvent_quiet f 0x41 with h | ⟨p, o, h, hout⟩
    · rw [h]
      exact ⟨hmod, rfl, [], (List.append_nil _).symm⟩
    · exact ⟨hmod.trans (h.beside f), h.stack, [o], hout⟩
  · exact ⟨hmod, rfl, [], (List.append_nil _).symm⟩

theorem State.noteCode_zero (s : State) (f : FormeId) : (s.noteCode f 0).out = s.out := rfl

end

/-! ### The feeder's part of a forme -/

/-- What the feeder goes by in a forme. -/
structure Feed where
  cfg : Option FormeCfg
  rings : Vector Ring 64
  launches : List Launch
  matters : List Matter
  drained : Bool
  stopped : Bool

def Forme.feed (x : Forme) : Feed := ⟨x.cfg, x.rings, x.launches, x.matters, x.drained, x.stopped⟩

section
variable {x y : Forme} {f : FormeId} {r : RingId} {q : Seq}

theorem Forme.releaseCtx_feed (x : Forme) (n : BitVec 16) : (x.releaseCtx n).feed = x.feed := by
  unfold Forme.releaseCtx
  split <;> rfl

theorem Forme.foldl_releaseCtx_feed (l : List Context) (x : Forme) : (l.foldl (fun y c => y.releaseCtx c.num) x).feed = x.feed :=
  foldl_keeps_of_step (fun u _ => u.releaseCtx_feed _) l x

theorem Forme.releaseDue_feed (x : Forme) : x.releaseDue.feed = x.feed := foldl_releaseCtx_feed _ x

theorem noteFormeCode_feed (x : Forme) (c : Code) : (noteFormeCode x c).feed = x.feed := by
  unfold noteFormeCode
  split
  case h_1 => split <;> rfl
  all_goals rfl

/-- Freeing versions leaves the matters that remain with their numbers and their newest versions. -/
theorem Forme.mem_freeVersions {m : Matter} (h : m ∈ x.freeVersions.matters) : ∃ k ∈ x.matters, m.id = k.id ∧ m.newest = k.newest := by
  simp only [Forme.freeVersions, List.mem_filter, List.mem_map] at h
  obtain ⟨⟨k, hk, rfl⟩, -⟩ := h
  exact ⟨k, hk, rfl, rfl⟩

/-- The forme of an entry that completes with a record: its launch is writing, and what it pins and creates is released. -/
def completing (x : Forme) (r : RingId) (q : Seq) (k : Record) : Forme :=
  let y : Forme := modLaunch x r q (fun l => { l with phase := .writing, record := some k })
  let z := { y with ctxs := y.ctxs.map (fun (c : Context) => if c.creator == some (r, q) then { c with creator := none } else c) }
  z.releaseDue.freeVersions

/-- Completion touches no ring, and of the launches the one that completes. -/
theorem completing_feed (x : Forme) (r : RingId) (q : Seq) (k : Record) : (completing x r q k).cfg = x.cfg ∧
    (completing x r q k).rings = x.rings ∧
    (completing x r q k).launches = (modLaunch x r q (fun l => { l with phase := .writing, record := some k })).launches ∧
    ∀ m ∈ (completing x r q k).matters, ∃ j ∈ x.matters, m.id = j.id ∧ m.newest = j.newest := by
  unfold completing
  dsimp only
  generalize hz : ({ modLaunch x r q (fun l => { l with phase := .writing, record := some k }) with ctxs := _ } : Forme) = z
  have hfeed := z.releaseDue_feed
  obtain ⟨hcfg, hrings, hlaunches, hmatters, -, -⟩ := Feed.mk.inj hfeed
  refine ⟨hcfg.trans ?_, hrings.trans ?_, hlaunches.trans ?_, fun m hm => ?_⟩
  · rw [← hz]; rfl
  · rw [← hz]; rfl
  · rw [← hz]
  · obtain ⟨j, hj, h⟩ := Forme.mem_freeVersions hm
    rw [hmatters, ← hz] at hj
    exact ⟨j, hj, h⟩

theorem completing_ring (x : Forme) (k : Record) (r' : RingId) : (completing x r q k).ring r' = x.ring r' := by
  obtain ⟨-, hrings, -⟩ := completing_feed x r q k
  rw [Forme.ring, hrings, ← Forme.ring]

theorem findLaunch_completing (x : Forme) (k : Record) :
    findLaunch (completing x r q k) r q = (findLaunch x r q).map (fun l => { l with phase := .writing, record := some k }) := by
  obtain ⟨-, -, hlaunches, -⟩ := completing_feed x r q k
  rw [findLaunch, hlaunches]
  exact findLaunch_modLaunch (fun _ => ⟨rfl, rfl⟩)

/-! ### A ring that settles -/

/-- What no settling of a ring touches: its place in host memory, how far it has come and what it holds. -/
structure Fetching where
  head : Seq
  tail : Seq
  fetching : Bool
  base : HostAddr
  cpl : HostAddr
  depth : BitVec 4
  held : List Record
  heldResults : List Seq

def Ring.fetch (g : Ring) : Fetching := ⟨g.head, g.tail, g.fetching, g.base, g.cpl, g.depth, g.held, g.heldResults⟩

theorem advanceDone_fetch (n : Nat) (g : Ring) : (advanceDone n g).fetch = g.fetch := by
  induction n generalizing g with
  | zero => rfl
  | succ n ih =>
    rw [advanceDone]
    split
    · exact ih _
    · rfl

theorem settleRing_fetch (x : Forme) (r : RingId) : ((settleRing x r).ring r).fetch = (x.ring r).fetch := by
  unfold settleRing
  dsimp only
  rw [Forme.ring_setRing_self]
  split <;> exact advanceDone_fetch _ _

/-- With nothing written DONE stays. -/
theorem advanceDone_of_nil {g : Ring} (h : g.written = []) (n : Nat) : advanceDone n g = g := by
  cases n with
  | zero => rfl
  | succ n => rw [advanceDone, h, if_neg (by simp)]

theorem settleRing_rest (x : Forme) (r : RingId) : (settleRing x r).launches = x.launches ∧ (settleRing x r).slugs = x.slugs ∧
    (settleRing x r).cfg = x.cfg ∧ (settleRing x r).ecp = x.ecp ∧ ∀ q : RingId, q ≠ r → (settleRing x r).ring q = x.ring q := by
  refine ⟨rfl, rfl, rfl, rfl, fun q hq => ?_⟩
  rw [settleRing, Forme.ring_setRing_of_ne _ _ _ _ (Ne.symm hq)]

theorem dropLaunch_fetch (x : Forme) (r : RingId) (q : Seq) : ((dropLaunch x r q).ring r).fetch = (x.ring r).fetch :=
  settleRing_fetch _ r

theorem findLaunch_dropLaunch (x : Forme) (r : RingId) (q : Seq) : findLaunch (dropLaunch x r q) r q = none := by
  have hlaunches : (dropLaunch x r q).launches = x.launches.filter (fun l => !(l.ring == r && l.seq == q)) := rfl
  rw [findLaunch, hlaunches, List.find?_eq_none]
  intro l hl
  have hne := (List.mem_filter.mp hl).2
  simp only [Bool.not_eq_true'] at hne
  rw [hne]
  exact Bool.false_ne_true

end

/-! ### Completion of an entry (R251, R253) -/

section
variable {f : FormeId} {s : State} {r : RingId} {q : Seq} {l : Launch} {c : FormeCfg}

/-- The forme of an entry that completes while its ring is in STATE 2: the record joins the hold, and the launch is gone. -/
def holding (x : Forme) (r : RingId) (q : Seq) (k : Record) : Forme :=
  dropLaunch (x.setRing r { x.ring r with held := insertHeld (x.ring r).done k (x.ring r).held }) r q

theorem holding_fetch (x : Forme) (k : Record) : ((holding x r q k).ring r).fetch =
    { (x.ring r).fetch with held := insertHeld (x.ring r).done k (x.ring r).held } := by
  rw [holding, dropLaunch_fetch, Forme.ring_setRing_self]
  rfl

theorem holding_held (x : Forme) (k : Record) : ((holding x r q k).ring r).held = insertHeld (x.ring r).done k (x.ring r).held := by
  obtain ⟨-, -, -, -, -, -, hheld, -⟩ := Fetching.mk.inj (holding_fetch (r := r) (q := q) x k)
  exact hheld

/-- The state in which an entry has released what it held and has its record. -/
def completed (s : State) (f : FormeId) (r : RingId) (q : Seq) (k : Record) : State :=
  (s.modForme f (fun x => completing x r q k)).trimIndex f

theorem completed_forme (s : State) (f : FormeId) (r : RingId) (q : Seq) (k : Record) :
    (completed s f r q k).forme f = completing (s.forme f) r q k :=
  State.forme_modForme_self s f (fun x => completing x r q k)

theorem completed_beside (s : State) (f : FormeId) (r : RingId) (q : Seq) (k : Record) : Beside f s (completed s f r q k) := by
  obtain ⟨hformes, hgalley, htime, hboot, hfuses, hflash, hcolo, hlinks⟩ := s.modForme_beside f (fun x => completing x r q k)
  exact ⟨hformes, hgalley, htime, hboot, hfuses, hflash, hcolo, hlinks⟩

theorem completed_rest (s : State) (f : FormeId) (r : RingId) (q : Seq) (k : Record) : (completed s f r q k).stack = s.stack ∧
    (completed s f r q k).out = s.out := ⟨rfl, rfl⟩

theorem completeEntry_eq (hl : findLaunch (s.forme f) r q = some l) : s.completeEntry f r q =
    if ((s.forme f).ring r).state == 2 then
      (completed s f r q (makeRecord s.time.ticks l)).modForme f (fun x => holding x r q (makeRecord s.time.ticks l))
    else (completed s f r q (makeRecord s.time.ticks l)).formeDwr f (.record f r q) (recordAddr ((s.forme f).ring r) q)
      (recordBytes (makeRecord s.time.ticks l)) := by
  have hring : ((completed s f r q (makeRecord s.time.ticks l)).forme f).ring r = (s.forme f).ring r := by
    rw [completed_forme, completing_ring]
  rw [← hring]
  simp only [State.completeEntry, hl]
  rfl

/-- A record held: nothing leaves, and the launch is gone. -/
theorem completeEntry_held (hl : findLaunch (s.forme f) r q = some l) (hstate : ((s.forme f).ring r).state = 2) :
    (s.completeEntry f r q).out = s.out ∧ findLaunch ((s.completeEntry f r q).forme f) r q = none ∧
    (((s.completeEntry f r q).forme f).ring r).held =
      insertHeld ((s.forme f).ring r).done (makeRecord s.time.ticks l) ((s.forme f).ring r).held := by
  rw [completeEntry_eq hl, if_pos (beq_iff_eq.mpr hstate), State.forme_modForme_self, completed_forme]
  refine ⟨rfl, findLaunch_dropLaunch _ r q, ?_⟩
  rw [holding_held, completing_ring]

/-- A record written: one packet leaves, and the launch waits for its answer. -/
theorem completeEntry_written (hl : findLaunch (s.forme f) r q = some l) (hstate : ((s.forme f).ring r).state ≠ 2)
    (hcfg : (s.forme f).cfg = some c) : (s.completeEntry f r q).forme f = completing (s.forme f) r q (makeRecord s.time.ticks l) ∧
    (s.completeEntry f r q).stack = s.stack ∧ ∃ tag, (s.completeEntry f r q).out = s.out ++ [.dwr c.port c.fnId tag
      (recordAddr ((s.forme f).ring r) q) (recordBytes (makeRecord s.time.ticks l))] := by
  have hcfg' : ((completed s f r q (makeRecord s.time.ticks l)).forme f).cfg = some c := by
    rw [completed_forme, (completing_feed (s.forme f) r q _).1, hcfg]
  obtain ⟨hport, hout⟩ := State.formeDwr_sentOn hcfg' (.record f r q) (recordAddr ((s.forme f).ring r) q)
    (recordBytes (makeRecord s.time.ticks l))
  rw [completeEntry_eq hl, if_neg (by simpa using hstate)]
  exact ⟨(hport.forme f).trans (completed_forme s f r q _), hport.stack, _, hout⟩

/-- Whatever becomes of the record, completion is an event of the forme alone, and its ring keeps its place. -/
theorem completeEntry_beside (s : State) (f : FormeId) (r : RingId) (q : Seq) : Beside f s (s.completeEntry f r q) ∧
    (s.completeEntry f r q).stack = s.stack ∧ ((s.completeEntry f r q).forme f).cfg = (s.forme f).cfg := by
  cases hl : findLaunch (s.forme f) r q with
  | none =>
    have hnone : s.completeEntry f r q = s := by simp only [State.completeEntry, hl]
    rw [hnone]
    exact ⟨Beside.refl f s, rfl, rfl⟩
  | some l =>
    rw [completeEntry_eq hl]
    have hdone := completed_beside s f r q (makeRecord s.time.ticks l)
    have hcfg : ((completed s f r q (makeRecord s.time.ticks l)).forme f).cfg = (s.forme f).cfg := by
      rw [completed_forme, (completing_feed (s.forme f) r q _).1]
    split
    · refine ⟨hdone.trans (State.modForme_beside f _ _), rfl, ?_⟩
      rw [State.forme_modForme_self]
      exact hcfg
    · rcases (completed s f r q (makeRecord s.time.ticks l)).formeDwr_quiet f (.record f r q) (recordAddr ((s.forme f).ring r) q)
        (recordBytes (makeRecord s.time.ticks l)) with h | ⟨p, h⟩
      · rw [h]
        exact ⟨hdone, rfl, hcfg⟩
      · exact ⟨hdone.trans (h.beside f), h.stack, by rw [h.forme f]; exact hcfg⟩

/-! ### Completion with a status (R249, R412) -/

/-- The forme of an entry that ends with a status: its launch is as ended with it, and a context it created is released. -/
def ending (x : Forme) (r : RingId) (q : Seq) (v : Code) : Forme :=
  noteFormeCode (((modLaunch x r q (fun l => { l with ended := some v, phase := .running })).ctxs.filter
    (fun k => k.creator == some (r, q))).foldl (fun z k => z.releaseCtx k.num)
      (modLaunch x r q (fun l => { l with ended := some v, phase := .running }))) v

theorem ending_feed (x : Forme) (r : RingId) (q : Seq) (v : Code) :
    (ending x r q v).feed = (modLaunch x r q (fun l => { l with ended := some v, phase := .running })).feed := by
  rw [ending, noteFormeCode_feed, Forme.foldl_releaseCtx_feed]

theorem ending_ring (x : Forme) (v : Code) (r' : RingId) : (ending x r q v).ring r' = x.ring r' := by
  obtain ⟨-, hrings, -⟩ := Feed.mk.inj (ending_feed x r q v)
  rw [Forme.ring, hrings]
  rfl

theorem findLaunch_ending (x : Forme) (v : Code) :
    findLaunch (ending x r q v) r q = (findLaunch x r q).map (fun l => { l with ended := some v, phase := .running }) := by
  obtain ⟨-, -, hlaunches, -⟩ := Feed.mk.inj (ending_feed x r q v)
  rw [findLaunch, hlaunches]
  exact findLaunch_modLaunch (fun _ => ⟨rfl, rfl⟩)

theorem completeWith_forme (s : State) (f : FormeId) (r : RingId) (q : Seq) (v : Code) : ∃ t, s.completeWith f r q v = t.completeEntry f r q ∧
    t.forme f = ending (s.forme f) r q v ∧ Beside f s t ∧ t.stack = s.stack ∧ ∃ o, t.out = s.out ++ o := by
  obtain ⟨hbeside, hstack, o, hout⟩ := (s.modForme f (fun x =>
    ((modLaunch x r q (fun l => { l with ended := some v, phase := .running })).ctxs.filter
      (fun k => k.creator == some (r, q))).foldl (fun z k => z.releaseCtx k.num)
        (modLaunch x r q (fun l => { l with ended := some v, phase := .running })))).noteCode_beside f v
  refine ⟨_, rfl, ?_, (s.modForme_beside f _).trans hbeside, hstack, o, hout⟩
  rw [State.noteCode_forme, State.forme_modForme_self]
  rfl

/-- Completion with a status is an event of the forme alone, and all rings keep their configuration. -/
theorem completeWith_beside (s : State) (f : FormeId) (r : RingId) (q : Seq) (v : Code) : Beside f s (s.completeWith f r q v) ∧
    (s.completeWith f r q v).stack = s.stack := by
  obtain ⟨t, ht, -, hbeside, hstack, -⟩ := completeWith_forme s f r q v
  obtain ⟨hbeside', hstack', -⟩ := completeEntry_beside t f r q
  rw [ht]
  exact ⟨hbeside.trans hbeside', hstack'.trans hstack⟩

/-- The record of an entry that completes with a status leaves on the forme's port. -/
theorem completeWith_recordSent {v : Code} (hl : findLaunch (s.forme f) r q = some l) (hstate : ((s.forme f).ring r).state ≠ 2)
    (hcfg : (s.forme f).cfg = some c) :
    RecordSent f r (makeRecord s.time.ticks { l with ended := some v, phase := .running }) s (s.completeWith f r q v) := by
  obtain ⟨t, ht, hforme, hbeside, -, o, hout⟩ := completeWith_forme s f r q v
  have hl' : findLaunch (t.forme f) r q = some { l with ended := some v, phase := .running } := by
    rw [hforme, findLaunch_ending, hl]
    rfl
  have hring : (t.forme f).ring r = (s.forme f).ring r := by rw [hforme, ending_ring]
  have hcfg' : (t.forme f).cfg = some c := by
    obtain ⟨hc, -⟩ := Feed.mk.inj (ending_feed (s.forme f) r q v)
    rw [hforme, hc]
    exact hcfg
  obtain ⟨-, -, tag, hsent⟩ := completeEntry_written hl' (by rw [hring]; exact hstate) hcfg'
  refine ⟨c, o, tag, hcfg, ?_⟩
  rw [ht, hsent, hout, hring, hbeside.time]
  obtain ⟨-, hq⟩ := findLaunch_spec hl
  rw [← hq]
  rfl

end

end Sys2Proof.Machine
end

section
/-! Rules of a forme's slugs: what the end of one leaves of the others, and what the settling of a step leaves of a slug that has ended
(R184, R187, R268, R272). -/
namespace Sys2Proof.Machine

/-! ### Lists with one change -/

theorem filter_updFirst_of_not {α : Type} {p q : α → Bool} {g : α → α} (hg : ∀ x, p x = true → q x = false ∧ q (g x) = false) (l : List α) :
    (updFirst p g l).filter q = l.filter q := by
  induction l with
  | nil => rfl
  | cons x l ih =>
    rw [updFirst]
    split
    next hx =>
      obtain ⟨hq, hqg⟩ := hg x hx
      rw [List.filter_cons_of_neg (by simp [hqg]), List.filter_cons_of_neg (by simp [hq])]
    next => rw [List.filter_cons, List.filter_cons, ih]

theorem filter_updFirst_of_single {α : Type} {p : α → Bool} {g : α → α} {l : List α} {a : α} (h : l.filter p = [a]) (hg : p (g a) = true) :
    (updFirst p g l).filter p = [g a] := by
  induction l with
  | nil => simp at h
  | cons x l ih =>
    rw [updFirst]
    split
    next hx =>
      rw [List.filter_cons_of_pos hx] at h
      obtain ⟨rfl, hnil⟩ := List.cons.inj h
      rw [List.filter_cons_of_pos hg, hnil]
    next hx =>
      rw [List.filter_cons_of_neg hx] at h
      rw [List.filter_cons_of_neg hx, ih h]

/-! ### The one slug that holds a tag -/

/-- A forme's one slug of a tag, which R183 gives to one slug in flight. -/
def Sole (x : Forme) (t : SlugTag) (sl : Slug) : Prop := x.slugs.filter (fun d => d.tag == t) = [sl]

section
variable {x y : Forme} {t d : SlugTag} {sl z : Slug} {g : Slug → Slug}

theorem Sole.tag (h : Sole x t sl) : sl.tag = t := by
  have hmem : sl ∈ x.slugs.filter (fun d => d.tag == t) := h ▸ List.mem_singleton_self sl
  simpa using (List.mem_filter.mp hmem).2

theorem Sole.eq_of_mem (h : Sole x t sl) (hz : z ∈ x.slugs) (ht : z.tag = t) : z = sl := by
  have hmem : z ∈ x.slugs.filter (fun d => d.tag == t) := List.mem_filter.mpr ⟨hz, by simpa using ht⟩
  rw [Sole] at h
  simpa [h] using hmem

theorem Sole.findSlug (h : Sole x t sl) : findSlug x t = some sl := by
  rw [Machine.findSlug, ← List.head?_filter, h]
  rfl

theorem findSlug_tag (h : findSlug x t = some sl) : sl.tag = t := by simpa using List.find?_some h

theorem findSlug_modSlug_self (hg : ∀ z, (g z).tag = z.tag) : findSlug (modSlug x t g) t = (findSlug x t).map g :=
  find?_updFirst (fun z hz => by rw [hg z]; exact hz) x.slugs

theorem findSlug_modSlug_of_ne (hg : ∀ z, (g z).tag = z.tag) (hd : d ≠ t) : findSlug (modSlug x d g) t = findSlug x t := by
  rw [findSlug, findSlug, ← List.head?_filter, ← List.head?_filter, modSlug]
  dsimp only
  rw [filter_updFirst_of_not]
  intro z hz
  have hzd : z.tag = d := by simpa using hz
  simp [hg z, hzd, hd]

theorem Sole.modSlug_self (h : Sole x t sl) (hg : (g sl).tag = sl.tag) : Sole (modSlug x t g) t (g sl) :=
  filter_updFirst_of_single h (by rw [hg, h.tag]; exact beq_self_eq_true t)

theorem Sole.modSlug_of_ne (h : Sole x t sl) (hg : ∀ z, (g z).tag = z.tag) (hd : d ≠ t) : Sole (modSlug x d g) t sl := by
  rw [Sole, modSlug]
  dsimp only
  rw [filter_updFirst_of_not]
  · exact h
  · intro z hz
    have hzd : z.tag = d := by simpa using hz
    simp [hg z, hzd, hd]

/-! ### Changes of slugs alone -/

/-- Nothing of a forme changes but its slugs. -/
def OnlySlugs (x y : Forme) : Prop := ∃ l, y = { x with slugs := l }

theorem OnlySlugs.refl (x : Forme) : OnlySlugs x x := ⟨x.slugs, rfl⟩

theorem OnlySlugs.trans {u : Forme} (hxy : OnlySlugs x y) (hyu : OnlySlugs y u) : OnlySlugs x u := by
  obtain ⟨l, rfl⟩ := hxy
  obtain ⟨k, rfl⟩ := hyu
  exact ⟨k, rfl⟩

theorem OnlySlugs.launches (h : OnlySlugs x y) : y.launches = x.launches := by
  obtain ⟨l, rfl⟩ := h
  rfl

theorem modSlug_onlySlugs (x : Forme) (d : SlugTag) (g : Slug → Slug) : OnlySlugs x (modSlug x d g) := ⟨_, rfl⟩

theorem foldl_onlySlugs {α : Type} {g : Forme → α → Forme} (hg : ∀ u a, OnlySlugs u (g u a)) (l : List α) (x : Forme) :
    OnlySlugs x (l.foldl g x) := by
  induction l generalizing x with
  | nil => exact OnlySlugs.refl x
  | cons a l ih => exact (hg x a).trans (ih _)

/-! ### The end of a slug, with its dependants (R187) -/

/-- A slug that has ended, or is past its pass point, is nobody's dependant. -/
theorem Sole.notMem_dependantsOf (h : Sole x t sl) (hend : slugEnded sl = true ∨ pastPoint sl = true) (w : SlugTag) :
    t ∉ dependantsOf x w := by
  unfold dependantsOf
  split
  · exact List.not_mem_nil
  · intro hmem
    obtain ⟨d, hd, htag⟩ := List.mem_map.mp hmem
    obtain ⟨hdx, hopen⟩ := List.mem_filter.mp hd
    rw [h.eq_of_mem hdx htag] at hopen
    rcases hend with hend | hend <;> simp [hend] at hopen

/-- The discard of dependants passes over a slug that has ended. -/
theorem Sole.dropDependants (h : Sole x t sl) (hend : slugEnded sl = true ∨ pastPoint sl = true) (n : Nat) (w : SlugTag) :
    Sole (dropDependants n x w) t sl := by
  induction n generalizing x w with
  | zero => exact h
  | succ n ih =>
    rw [Machine.dropDependants]
    have hmem := h.notMem_dependantsOf hend w
    generalize dependantsOf x w = ds at hmem
    induction ds generalizing x with
    | nil => exact h
    | cons d ds ihds =>
      rw [List.mem_cons, not_or] at hmem
      rw [List.foldl_cons]
      exact ihds (ih (h.modSlug_of_ne (g := slugDrop .discarded 0) (fun _ => rfl) (Ne.symm hmem.1)) d) hmem.2

theorem dropDependants_onlySlugs (n : Nat) (x : Forme) (w : SlugTag) : OnlySlugs x (dropDependants n x w) := by
  induction n generalizing x w with
  | zero => exact OnlySlugs.refl x
  | succ n ih =>
    rw [dropDependants]
    exact foldl_onlySlugs (fun u d => (modSlug_onlySlugs u d _).trans (ih _ d)) _ x

/-- The end of a slug touches slugs alone. -/
theorem Forme.endSlug_onlySlugs (x : Forme) (t : SlugTag) (st : SlugState) (c : Code) : OnlySlugs x (x.endSlug t st c) := by
  unfold Forme.endSlug
  split
  · split
    · exact OnlySlugs.refl x
    · exact (modSlug_onlySlugs x t _).trans (dropDependants_onlySlugs _ _ t)
  · exact OnlySlugs.refl x

/-- A slug that ends has its state and its status, whatever ends with it. -/
theorem Sole.endSlug {st : SlugState} {c : Code} (h : Sole x t sl) (hopen : slugEnded sl = false) (hpast : pastPoint sl = false)
    (hst : slugEnded (slugDrop st c sl) = true) : Sole (x.endSlug t st c) t (slugDrop st c sl) := by
  rw [Forme.endSlug, h.findSlug]
  dsimp only
  rw [hopen, hpast, if_neg (by simp)]
  exact (h.modSlug_self rfl).dropDependants (.inl hst) _ _

/-! ### The settling of a step (R184, R268, R272) -/

/-- A chunk word says where a launch's next chunk lies, and touches nothing else of it. -/
theorem nextChunk_eq (x : Forme) (l : Launch) : ∃ (a b : Nat) (last : Bool) (ts : List SlugTag) (cut : Bool) (fr : Memory), nextChunk x l = { l with
    chunkFirst := a, chunkLen := b, chunkLast := last, chunkSlugs := ts, cutDone := cut, frame := fr } := by
  unfold nextChunk
  dsimp only
  split
  · split
    · unfold cutChunk
      dsimp only
      split <;> exact ⟨_, _, _, _, _, _, rfl⟩
    · exact ⟨_, _, _, _, _, _, rfl⟩
  · exact ⟨_, _, _, _, _, _, rfl⟩

/-- The first step of settling: the chunks, and the end of the running step. -/
def chunked (now : Word) (x : Forme) : Forme := settleStep now { x with launches := x.launches.map (nextChunk x) }

/-- The forme of a step that has settled: the slugs that may run have started. -/
def settled (cores : List CoreId) (now : Word) (x : Forme) : Forme := startReady cores now (chunked now x)

theorem settle_eq (s : State) (f : FormeId) : (s.settle f).forme f = (s.modForme f (settled (s.liveCores f) s.time.ticks)).forme f := rfl

theorem State.settle_forme (s : State) (f : FormeId) :
    (s.settle f).forme f = startReady (s.liveCores f) s.time.ticks (chunked s.time.ticks (s.forme f)) := by
  rw [settle_eq, State.forme_modForme_self]
  rfl

/-- Starting slugs changes slugs alone. -/
theorem startReady_onlySlugs (cores : List CoreId) (now : Word) (x : Forme) : OnlySlugs x (startReady cores now x) := by
  unfold startReady
  refine foldl_onlySlugs (fun u t => ?_) _ x
  split
  · split
    · exact modSlug_onlySlugs u t _
    · exact OnlySlugs.refl u
  · exact OnlySlugs.refl u

theorem startSlug_tag (cores : List CoreId) (now : Word) (x : Forme) (z : Slug) : (startSlug cores now x z).tag = z.tag := by
  unfold startSlug
  dsimp only
  split <;> rfl

/-- A slug that is not queued, or is not in the step, is left as it is. -/
theorem findSlug_startReady {cores : List CoreId} {now : Word} (h : findSlug x t = some sl) (hq : sl.state = .queued → sl.inStep = false) :
    findSlug (startReady cores now x) t = some sl := by
  unfold startReady
  generalize x.slugs.map (·.tag) = ts
  induction ts generalizing x with
  | nil => exact h
  | cons d ts ih =>
    rw [List.foldl_cons]
    apply ih
    split
    next w hw =>
      split
      next hgo =>
        have hd : d ≠ t := by
          rintro rfl
          rw [h] at hw
          obtain rfl := Option.some.inj hw
          simp only [Bool.and_eq_true, beq_iff_eq] at hgo
          obtain ⟨⟨⟨⟨⟨hin, hstate⟩, -⟩, -⟩, -⟩, -⟩ := hgo
          rw [hq hstate] at hin
          exact Bool.false_ne_true hin
        rw [findSlug_modSlug_of_ne (startSlug_tag cores now x) hd]
        exact h
      next => exact h
    next => exact h

theorem chunked_slugs (now : Word) (x : Forme) :
    (chunked now x).slugs = x.slugs ∨ (chunked now x).slugs = x.slugs.map (fun sl => { sl with inStep := false }) := by
  unfold chunked settleStep
  split
  · exact .inr rfl
  · exact .inl rfl

theorem chunked_launches (now : Word) (x : Forme) : (chunked now x).launches = x.launches.map (nextChunk x) := by
  unfold chunked settleStep
  split <;> rfl

/-- Settling touches the step, the launches' chunks and the slugs of the forme, and nothing else of it. -/
theorem State.settle_forme_rest (s : State) (f : FormeId) : ∃ sc ls sls,
    (s.settle f).forme f = { s.forme f with sched := sc, launches := ls, slugs := sls } := by
  have hchunked : ∃ sc ls sls, chunked s.time.ticks (s.forme f) = { s.forme f with sched := sc, launches := ls, slugs := sls } := by
    unfold chunked settleStep
    split <;> exact ⟨_, _, _, rfl⟩
  obtain ⟨l, h⟩ := startReady_onlySlugs (s.liveCores f) s.time.ticks (chunked s.time.ticks (s.forme f))
  obtain ⟨sc, ls, sls, hc⟩ := hchunked
  rw [State.settle_forme, h, hc]
  exact ⟨_, _, _, rfl⟩

/-- A slug that is not queued, or is not in the step, keeps everything but its place in the step. -/
theorem State.findSlug_settle_of {s : State} {f : FormeId} (h : Machine.findSlug (s.forme f) t = some sl)
    (hq : sl.state = .queued → sl.inStep = false) : ∃ b, Machine.findSlug ((s.settle f).forme f) t = some { sl with inStep := b } := by
  rw [State.settle_forme]
  rcases chunked_slugs s.time.ticks (s.forme f) with hs | hs
  · refine ⟨sl.inStep, findSlug_startReady ?_ hq⟩
    rw [Machine.findSlug, hs]
    exact h
  · refine ⟨false, findSlug_startReady (sl := { sl with inStep := false }) ?_ (fun _ => rfl)⟩
    rw [Machine.findSlug, hs, List.find?_map]
    change Option.map _ (Machine.findSlug (s.forme f) t) = _
    rw [h]
    rfl

theorem State.findSlug_settle {s : State} {f : FormeId} (h : Machine.findSlug (s.forme f) t = some sl) (hq : sl.state ≠ .queued) :
    ∃ b, Machine.findSlug ((s.settle f).forme f) t = some { sl with inStep := b } :=
  State.findSlug_settle_of h (fun hstate => absurd hstate hq)

theorem State.findLaunch_settle (s : State) (f : FormeId) (r : RingId) (q : Seq) :
    findLaunch ((s.settle f).forme f) r q = (findLaunch (s.forme f) r q).map (nextChunk (s.forme f)) := by
  have hlaunches : ((s.settle f).forme f).launches = (s.forme f).launches.map (nextChunk (s.forme f)) := by
    rw [State.settle_forme, ← chunked_launches s.time.ticks]
    exact (startReady_onlySlugs _ _ _).launches
  have hkeeps : ∀ l, (nextChunk (s.forme f) l).ring = l.ring ∧ (nextChunk (s.forme f) l).seq = l.seq := fun l => by
    obtain ⟨a, b, last, ts, cut, fr, h⟩ := nextChunk_eq (s.forme f) l
    rw [h]
    exact ⟨rfl, rfl⟩
  rw [findLaunch, hlaunches, List.find?_map, findLaunch]
  congr 2
  funext l
  simp only [Function.comp, (hkeeps l).1, (hkeeps l).2]

/-- Settling is an event of the forme alone; of the rest only resident tiles go. -/
theorem State.settle_beside (s : State) (f : FormeId) : Beside f s (s.settle f) ∧ (s.settle f).stack = s.stack ∧ (s.settle f).out = s.out :=
  ⟨⟨fun e he => State.forme_modForme_of_ne s f e (settled (s.liveCores f) s.time.ticks) he.symm, rfl, rfl, rfl, rfl, rfl, rfl, rfl⟩, rfl, rfl⟩

end

end Sys2Proof.Machine
end

section
/-! The rings of the feeder: control, entries that arrive and are acted on, images, and launches that complete (R243 to R261). -/
namespace Sys2Proof.Machine

variable {s : State} {f : FormeId} {r : RingId} {q : Seq} {c : FormeCfg} {l : Launch}

/-! ### A ring with no written record settles -/

/-- Nothing keeps a ring that is closing. -/
def ringIdle (x : Forme) (r : RingId) : Bool := !x.launches.any (fun l => l.ring == r) && (x.ring r).held.isEmpty && !(x.ring r).fetching

section
variable {x : Forme}

theorem settleRing_stays (hw : (x.ring r).written = []) (h : (x.ring r).state ≠ 3 ∨ ringIdle x r = false) :
    (settleRing x r).ring r = { x.ring r with fault := ringFault (x.ring r) } := by
  have hno : ¬ ((x.ring r).state == 3 && ringIdle x r) = true := by
    rw [Bool.and_eq_true, beq_iff_eq, Classical.not_and_iff_not_or_not, Bool.not_eq_true]
    exact h
  rw [settleRing, advanceDone_of_nil hw, Forme.ring_setRing_self]
  exact if_neg hno

/-- Whatever is written, a ring that is not closing, or is busy, changes only in how far it is done. -/
theorem settleRing_open (h : (x.ring r).state ≠ 3 ∨ ringIdle x r = false) : ∃ d w e v,
    (settleRing x r).ring r = { x.ring r with done := d, written := w, evtDue := e, fault := v } := by
  have hadv : ∀ n (g : Ring), ∃ d w e, advanceDone n g = { g with done := d, written := w, evtDue := e } := fun n => by
    induction n with
    | zero => exact fun g => ⟨_, _, _, rfl⟩
    | succ n ih =>
      intro g
      rw [advanceDone]
      split
      · obtain ⟨d, w, e, h⟩ := ih { g with done := g.done + 1, written := g.written.filter (· != g.done), evtDue := true }
        exact ⟨d, w, e, h⟩
      · exact ⟨_, _, _, rfl⟩
  obtain ⟨d, w, e, hd⟩ := hadv (x.ring r).written.length (x.ring r)
  have hno : ¬ ((x.ring r).state == 3 && ringIdle x r) = true := by
    rw [Bool.and_eq_true, beq_iff_eq, Classical.not_and_iff_not_or_not, Bool.not_eq_true]
    exact h
  rw [settleRing, hd, Forme.ring_setRing_self]
  exact ⟨d, w, e, _, if_neg hno⟩

theorem settleRing_closes (hw : (x.ring r).written = []) (hstate : (x.ring r).state = 3) (hidle : ringIdle x r = true) :
    (settleRing x r).ring r = { x.ring r with fault := ringFault (x.ring r), state := 0, enable := false, disableMemo := false } := by
  have hyes : ((x.ring r).state == 3 && ringIdle x r) = true := by simp [hstate, hidle]
  rw [settleRing, advanceDone_of_nil hw, Forme.ring_setRing_self]
  exact if_pos hyes

/-- The oldest entry's record, written alone, moves DONE on by one. -/
theorem settleRing_done {d : Seq} (hw : (x.ring r).written = [d]) (hd : (x.ring r).done = d) :
    ((settleRing x r).ring r).done = d + 1 ∧ ((settleRing x r).ring r).evtDue = true := by
  have hadv : advanceDone 1 (x.ring r) = { x.ring r with done := d + 1, written := [], evtDue := true } := by
    rw [advanceDone, if_pos (by simp [hw, hd]), advanceDone, hw, hd]
    simp
  rw [settleRing, hw]
  change ((x.setRing r _).ring r).done = _ ∧ ((x.setRing r _).ring r).evtDue = _
  rw [Forme.ring_setRing_self, List.length_singleton, hadv]
  split <;> exact ⟨rfl, rfl⟩

end

/-! ### Control of a ring (R243, R244, R253) -/

theorem bitOf_or_enable (v : Word) : bitOf (v ||| placeBit 8 true) 8 = true := by
  rw [bitOf, BitVec.getLsbD_or]
  exact Bool.or_true _

theorem bitOf_and_disable (v : Word) : bitOf (v &&& ~~~ placeBit 8 true) 8 = false := by
  rw [bitOf, BitVec.getLsbD_and]
  exact Bool.and_false _

theorem bitOf_nine_and_disable (v : Word) : bitOf (v &&& ~~~ placeBit 8 true) 9 = v.getLsbD 9 := by
  rw [bitOf, BitVec.getLsbD_and]
  exact Bool.and_true _

/-- ENABLE is no part of DEPTH_LOG2. -/
theorem clampDepth_or_enable (v : Word) : (clampDepth (v ||| placeBit 8 true)).toNat = max 4 (min 12 (v.toNat % 16)) := by
  have hlow : fld (v ||| placeBit 8 true) 3 0 = v.toNat % 16 := by
    have h256 : (placeBit 8 true).toNat = 2 ^ 8 := rfl
    rw [fld, BitVec.toNat_or, h256, Nat.shiftRight_zero]
    change (v.toNat ||| 2 ^ 8) % 2 ^ 4 = v.toNat % 2 ^ 4
    rw [Nat.or_mod_two_pow]
    simp
  rw [clampDepth, hlow, clampTo, BitVec.toNat_ofNat, Nat.mod_eq_of_lt (by omega)]

section
variable {h : HostReq} (ht : hostTarget s h = .forme f) (hr : ringExists (s.forme f) r = true)
include ht hr

theorem exec_ringEnable_of_forme (v : Word) :
    exec (.ringEnable h r v) s = .next (s.modForme f (fun x => writeRingCfg x r (v ||| placeBit 8 true))) := by
  simp only [exec, execRingEnable, formeWrite_of_forme ht, hr, if_true]

theorem exec_ringDisable_of_forme (v : Word) :
    exec (.ringDisable h r v) s = .next (s.modForme f (fun x => writeRingCfg x r (v &&& ~~~ placeBit 8 true))) := by
  simp only [exec, execRingDisable, formeWrite_of_forme ht, hr, if_true]

theorem exec_replay_of_forme : exec (.replay h r) s = .next (ringReplay s f r) := by
  simp only [exec, execReplay, formeWrite_of_forme ht, hr, if_true]

end

/-- In any other state than 2 a replay does nothing. -/
theorem ringReplay_of_ne (hstate : ((s.forme f).ring r).state ≠ 2) : ringReplay s f r = s := if_neg (by simpa using hstate)

theorem ringReplay_eq (hstate : ((s.forme f).ring r).state = 2) (hout : holdWriteOut s f r = false) : ringReplay s f r =
    replayNext s f r := if_pos (by simpa using hstate)

/-- A ring whose hold is empty, out of STATE 2. -/
def emptied (x : Forme) (g : Ring) : Ring := { g with state := afterHold x g, entryFault := false, held := [], heldResults := [] }

theorem replayNext_empty (hout : holdWriteOut s f r = false) (hres : ((s.forme f).ring r).heldResults = [])
    (hheld : ((s.forme f).ring r).held = []) :
    replayNext s f r = s.modForme f (fun y => settleRing (y.setRing r (emptied y ((s.forme f).ring r))) r) := by
  have hno : ¬ holdWriteOut s f r = true := by rw [hout]; exact Bool.false_ne_true
  simp only [replayNext, if_neg hno, hres, hheld]
  rfl

theorem writeRingCfg_disable {x : Forme} {v : Word} (hon : (x.ring r).enable = true) (hstate : (x.ring r).state ≠ 2) :
    writeRingCfg x r (v &&& ~~~ placeBit 8 true) =
      settleRing (x.setRing r { x.ring r with intrEn := v.getLsbD 9, state := 3 }) r := by
  have hno : ¬ ((x.ring r).state == 2) = true := by simpa using hstate
  rw [writeRingCfg, bitOf_and_disable, bitOf_nine_and_disable, if_neg Bool.false_ne_true]
  dsimp only
  rw [if_pos hon, if_neg hno]

theorem any_ring_eq_false {x : Forme} (h : ∀ l ∈ x.launches, l.ring ≠ r) : x.launches.any (fun l => l.ring == r) = false := by
  rw [List.any_eq_false]
  exact fun l hl => by simpa using h l hl

/-- Settles O21: a write of ENABLE is one change of the ring, which closes when nothing of it is in flight or held. -/
theorem ringControl : Obligations.RingControl := by
  refine ⟨fun s h f r v ht hr hoff => ?_, fun s h f r v ht hr hon hstate hheld hfetch hw hnone => ?_,
    fun s h f r v ht hr hon hstate hsome => ?_, fun s h f r v ht hr hon hstate => ?_,
    fun s h f r c k ks ht hr hstate hout hcfg hres hheld => ?_,
    fun s h f r ht hr hstate hout hres hheld hw hmemo => ?_, fun s h f r ht hstate => ?_⟩
  · refine ⟨_, exec_ringEnable_of_forme ht hr v, s.modForme_onlyForme f _, ?_⟩
    have hno : ¬ ((s.forme f).ring r).enable = true := by rw [hoff]; exact Bool.false_ne_true
    rw [State.forme_modForme_self, writeRingCfg, if_pos (bitOf_or_enable v)]
    dsimp only
    rw [if_neg hno, Forme.ring_setRing_self]
    refine ⟨rfl, rfl, rfl, rfl, rfl, rfl, clampDepth_or_enable v, rfl, rfl, ?_, fun q hq => Forme.ring_setRing_of_ne _ _ _ _ (Ne.symm hq)⟩
    simp only [Bool.or_eq_true]
  · refine ⟨_, exec_ringDisable_of_forme ht hr v, s.modForme_onlyForme f _, ?_⟩
    rw [State.forme_modForme_self, writeRingCfg_disable hon hstate]
    have hidle : ringIdle ((s.forme f).setRing r { (s.forme f).ring r with intrEn := v.getLsbD 9, state := 3 }) r = true := by
      rw [ringIdle, Forme.ring_setRing_self]
      dsimp only
      rw [hheld, hfetch]
      change (!(s.forme f).launches.any _ && _ && _) = _
      rw [any_ring_eq_false hnone]
      rfl
    have hclosed := settleRing_closes (x := (s.forme f).setRing r { (s.forme f).ring r with intrEn := v.getLsbD 9, state := 3 }) (r := r)
      (by rw [Forme.ring_setRing_self]; exact hw) (by rw [Forme.ring_setRing_self]) hidle
    rw [hclosed, Forme.ring_setRing_self]
    refine ⟨rfl, rfl, rfl, rfl, fun q hq => ?_⟩
    obtain ⟨-, -, -, -, hothers⟩ := settleRing_rest ((s.forme f).setRing r { (s.forme f).ring r with intrEn := v.getLsbD 9, state := 3 }) r
    rw [hothers q hq, Forme.ring_setRing_of_ne _ _ _ _ (Ne.symm hq)]
  · refine ⟨_, exec_ringDisable_of_forme ht hr v, s.modForme_onlyForme f _, ?_⟩
    rw [State.forme_modForme_self, writeRingCfg_disable hon hstate]
    generalize hx : (s.forme f).setRing r { (s.forme f).ring r with intrEn := v.getLsbD 9, state := 3 } = x
    have hring : x.ring r = { (s.forme f).ring r with intrEn := v.getLsbD 9, state := 3 } := by rw [← hx, Forme.ring_setRing_self]
    have hlaunches : x.launches = (s.forme f).launches := by rw [← hx]; rfl
    have hbusy : ringIdle x r = false := by
      obtain ⟨l, hl, hlr⟩ := hsome
      have hany : x.launches.any (fun l => l.ring == r) = true := List.any_eq_true.mpr ⟨l, hlaunches ▸ hl, by simpa using hlr⟩
      rw [ringIdle, hany]
      rfl
    obtain ⟨hl, -⟩ := settleRing_rest x r
    obtain ⟨d, w, e, p, hopen⟩ := settleRing_open (.inr hbusy)
    rw [hopen, hring]
    exact ⟨rfl, hon, hl.trans hlaunches⟩
  · refine ⟨_, exec_ringDisable_of_forme ht hr v, s.modForme_onlyForme f _, ?_⟩
    have hyes : (((s.forme f).ring r).state == 2) = true := by simpa using hstate
    rw [State.forme_modForme_self, writeRingCfg, bitOf_and_disable, bitOf_nine_and_disable, if_neg Bool.false_ne_true]
    dsimp only
    rw [if_pos hon, if_pos hyes]
  · refine ⟨_, exec_replay_of_forme ht hr, ?_⟩
    rw [ringReplay_eq hstate hout]
    have hno : ¬ holdWriteOut s f r = true := by rw [hout]; exact Bool.false_ne_true
    simp only [replayNext, if_neg hno, hres, hheld]
    exact State.formeDwr_sentOn hcfg _ _ _
  · refine ⟨_, exec_replay_of_forme ht hr, ?_⟩
    rw [ringReplay_eq hstate hout]
    have hno : ¬ holdWriteOut s f r = true := by rw [hout]; exact Bool.false_ne_true
    have hafter : afterHold (s.forme f) ((s.forme f).ring r) = if (s.forme f).drained = true ∨ (s.forme f).stopped = true then 4 else 1 := by
      rw [afterHold, hmemo, if_neg Bool.false_ne_true]
      simp only [Bool.or_eq_true]
    rw [replayNext_empty hout hres hheld]
    refine ⟨s.modForme_onlyForme f _, ?_⟩
    rw [State.forme_modForme_self]
    generalize hx : (s.forme f).setRing r (emptied (s.forme f) ((s.forme f).ring r)) = x
    have hring : x.ring r = emptied (s.forme f) ((s.forme f).ring r) := by rw [← hx, Forme.ring_setRing_self]
    have hne : afterHold (s.forme f) ((s.forme f).ring r) ≠ 3 := by rw [hafter]; split <;> decide
    have hne2 : afterHold (s.forme f) ((s.forme f).ring r) ≠ 2 := by rw [hafter]; split <;> decide
    rw [settleRing_stays (by rw [hring]; exact hw) (.inl (by rw [hring]; exact hne)), hring]
    exact ⟨if_pos (bne_iff_ne.mpr hne2), hafter⟩
  · simp only [exec, execReplay, formeWrite_of_forme ht]
    split
    · rw [ringReplay_of_ne hstate]
    · rfl

end Sys2Proof.Machine
end

section
/-! Launches that complete, records, and the timer of a launch (R251, R253, R257). -/
namespace Sys2Proof.Machine

variable {s : State} {f : FormeId} {r : RingId} {q : Seq} {c : FormeCfg} {l : Launch}

theorem State.retireUse_beside (s : State) (f : FormeId) (u : EcpUse) : Beside f s (s.retireUse u) :=
  ⟨fun _ _ => rfl, rfl, rfl, rfl, rfl, rfl, rfl, rfl⟩

theorem mem_insertHeld (d : Seq) (k : Record) (l : List Record) : k ∈ insertHeld d k l := by
  induction l with
  | nil => exact List.mem_singleton_self k
  | cons h t ih =>
    rw [insertHeld]
    split
    · exact List.mem_cons_self
    · exact List.mem_cons_of_mem h ih

/-! ### The end of a launch (R251) -/

theorem exec_launchComplete (hl : findLaunch (s.forme f) r q = some l) (hready : launchReady (s.forme f) l = true) :
    exec (.launchComplete f r q) s = .next (s.completeEntry f r q) := by
  simp only [exec, execLaunchComplete, hl, hready, if_true]

/-! ### The outcome of a record's write (R251, R253) -/

/-- The forme whose record is written: the entry is over. -/
def writtenOf (x : Forme) (r : RingId) (q : Seq) : Forme :=
  dropLaunch (x.setRing r { x.ring r with written := (x.ring r).written ++ [q] }) r q

theorem exec_recordWriteDone_ok (hl : findLaunch (s.forme f) r q = some l) (hphase : l.phase = .writing)
    (hheld : ((s.forme f).ring r).held = []) : exec (.recordWriteDone f r q .ok) s =
      .next ((s.retireUse (.record f r q)).setForme f (writtenOf (s.forme f) r q)) := by
  have hl' : findLaunch ((s.retireUse (.record f r q)).forme f) r q = some l := hl
  have hno : ¬ (((s.retireUse (.record f r q)).forme f).ring r).held.any (fun k => k.seq == q) = true := by
    change ¬ ((s.forme f).ring r).held.any (fun k => k.seq == q) = true
    rw [hheld]
    exact Bool.false_ne_true
  rw [exec, execRecordWriteDone, if_pos (beq_self_eq_true _), recordWritten]
  rw [if_neg hno]
  simp only [hl', hphase]
  rfl

/-- The forme whose record could not be written: it is held, and its ring is in STATE 2. -/
def unwritten (x : Forme) (r : RingId) (q : Seq) (k : Record) : Forme :=
  dropLaunch (x.setRing r ({ x.ring r with held := insertHeld (x.ring r).done k (x.ring r).held }).enterFaulted) r q

theorem exec_recordWriteDone_fault {st : EcpStatus} {k : Record} (hst : st ≠ .ok) (hl : findLaunch (s.forme f) r q = some l)
    (hphase : l.phase = .writing) (hrec : l.record = some k) : exec (.recordWriteDone f r q st) s =
      .next (((s.retireUse (.record f r q)).noteFault f (recordAddr ((s.forme f).ring r) q) st).setForme f
        (unwritten (((s.retireUse (.record f r q)).noteFault f (recordAddr ((s.forme f).ring r) q) st).forme f) r q k)) := by
  have hl' : findLaunch ((s.retireUse (.record f r q)).forme f) r q = some l := hl
  have hst' : ¬ (st == EcpStatus.ok) = true := by simpa using hst
  have hring : (((s.retireUse (.record f r q)).noteFault f (recordAddr ((s.forme f).ring r) q) st).forme f).ring r = (s.forme f).ring r := by
    rw [State.noteFault, State.forme_modForme_self]
    rfl
  rw [exec, execRecordWriteDone, if_neg hst', recordFaulted]
  simp only [hl', hphase, hrec]
  rw [unwritten, hring]
  rfl

/-- The ring of a record that could not be written, where nothing else was written before it. -/
theorem unwritten_ring {x : Forme} {k : Record} (hw : (x.ring r).written = []) (hdone : (x.ring r).done = k.seq)
    (hentry : (x.ring r).entryFault = false) : k ∈ ((unwritten x r q k).ring r).held ∧ ((unwritten x r q k).ring r).state = 2 ∧
      ((unwritten x r q k).ring r).fault = 0x0D06 ∧ ((unwritten x r q k).ring r).done = k.seq := by
  have hmem := mem_insertHeld (x.ring r).done k (x.ring r).held
  generalize hg : ({ x.ring r with held := insertHeld (x.ring r).done k (x.ring r).held } : Ring).enterFaulted = g
  have hfacts : k ∈ g.held ∧ g.state = 2 ∧ g.done = k.seq ∧ g.written = [] ∧ g.entryFault = false := by
    rw [← hg, Ring.enterFaulted]
    split
    next h => exact ⟨hmem, by simpa using h, hdone, hw, hentry⟩
    next => exact ⟨hmem, rfl, hdone, hw, hentry⟩
  obtain ⟨hheld, hstate, hgdone, hgw, hgentry⟩ := hfacts
  have hany : g.held.any (fun h => h.seq == g.done) = true := List.any_eq_true.mpr ⟨k, hheld, by rw [hgdone]; exact beq_self_eq_true _⟩
  have hfault : ringFault g = 0x0D06 := by
    rw [ringFault, hstate, hgentry, hany]
    rfl
  generalize hy : ({ x.setRing r g with
    launches := (x.setRing r g).launches.filter (fun l => !(l.ring == r && l.seq == q)),
    slugs := (x.setRing r g).slugs.filter (fun sl => !(sl.ring == r && sl.seq == q)) } : Forme) = y
  have hring : y.ring r = g := by
    rw [← hy]
    exact Forme.ring_setRing_self x r g
  have hunwritten : unwritten x r q k = settleRing y r := by
    rw [unwritten, hg, dropLaunch, hy]
  have hstays := settleRing_stays (x := y) (r := r) (by rw [hring]; exact hgw) (.inl (by rw [hring, hstate]; decide))
  rw [hunwritten, hstays, hring, hfault]
  exact ⟨hheld, hstate, rfl, hgdone⟩

/-! ### The timer of a launch (R257) -/

/-- A status imposed on a launch ends slugs and no more. -/
theorem imposeStatus_spec (x : Forme) (r : RingId) (q : Seq) (v : Code) : ∃ y, OnlySlugs x y ∧
    x.imposeStatus r q v = modLaunch y r q (fun l => { l with imposedStatus := mergeImposed l.imposedStatus v }) :=
  ⟨_, foldl_onlySlugs (fun u (sl : Slug) => u.endSlug_onlySlugs sl.tag .failed v) _ x, rfl⟩

theorem findLaunch_imposeStatus (x : Forme) (r : RingId) (q : Seq) (v : Code) : findLaunch (x.imposeStatus r q v) r q =
    (findLaunch x r q).map (fun l => { l with imposedStatus := mergeImposed l.imposedStatus v }) := by
  obtain ⟨y, hy, h⟩ := imposeStatus_spec x r q v
  rw [h, findLaunch_modLaunch (g := fun l => { l with imposedStatus := mergeImposed l.imposedStatus v }) (fun _ => ⟨rfl, rfl⟩), findLaunch,
    findLaunch, hy.launches]

theorem exec_launchTimeout_running (hl : findLaunch (s.forme f) r q = some l) (hphase : l.phase = .running)
    (htimer : timerExpired s l.timer = true) (hready : launchReady (s.forme f) l = false) (hres : ((s.forme f).ring r).heldResults = []) :
    exec (.launchTimeout f r q) s = .next ((s.modForme f (fun x => x.imposeStatus r q 0x0D04)).settle f) := by
  simp only [exec, execLaunchTimeout, launchExpire, hl, htimer, if_true, hphase, hready, hres, List.contains_nil, Bool.false_eq_true, if_false]

/-- Settles O25: completion, the record's write and the timer are each one change of the forme. -/
theorem launchesComplete : Obligations.LaunchesComplete := by
  refine ⟨fun s f r q c l hl hready hcfg hstate hq => ?_, fun s f r q l hl hready hstate => ?_,
    fun s f r q l hl hphase hheld hw hdone => ?_, fun s f r q st l k hst hl hphase hrec hk hw hdone hentry => ?_,
    fun s f r q l hl hphase htimer hready hres himposed => ?_⟩
  · obtain ⟨hforme, hstack, tag, hout⟩ := completeEntry_written hl hstate hcfg
    obtain ⟨hbeside, -, -⟩ := completeEntry_beside s f r q
    refine ⟨_, exec_launchComplete hl hready, ?_, ⟨c, [], tag, hcfg, ?_⟩, rfl, rfl, hstack, hbeside.galley, hbeside.time⟩
    · rw [hforme, findLaunch_completing, hl]
      rfl
    · rw [hout, List.append_nil, ← hq]
      rfl
  · obtain ⟨hout, hgone, hheld⟩ := completeEntry_held hl hstate
    refine ⟨_, exec_launchComplete hl hready, hout, hgone, ?_⟩
    rw [hheld]
    exact mem_insertHeld _ _ _
  · refine ⟨_, exec_recordWriteDone_ok hl hphase hheld, ?_⟩
    rw [State.forme_setForme_self]
    generalize hy : ({ (s.forme f).setRing r { (s.forme f).ring r with written := ((s.forme f).ring r).written ++ [q] } with
      launches := (s.forme f).launches.filter (fun l => !(l.ring == r && l.seq == q)),
      slugs := (s.forme f).slugs.filter (fun sl => !(sl.ring == r && sl.seq == q)) } : Forme) = y
    have hring : y.ring r = { (s.forme f).ring r with written := ((s.forme f).ring r).written ++ [q] } := by
      rw [← hy]
      exact Forme.ring_setRing_self _ _ _
    obtain ⟨hdone', hevt⟩ := settleRing_done (x := y) (r := r) (d := q) (by rw [hring, hw]; rfl) (by rw [hring]; exact hdone)
    have hover : writtenOf (s.forme f) r q = settleRing y r := by rw [← hy]; rfl
    refine ⟨hover ▸ hdone', hover ▸ hevt, findLaunch_dropLaunch _ r q, ?_, rfl⟩
    obtain ⟨hhead, -⟩ := Fetching.mk.inj (settleRing_fetch y r)
    rw [hover, hhead, hring]
  · refine ⟨_, exec_recordWriteDone_fault hst hl hphase hrec, ?_⟩
    rw [State.forme_setForme_self]
    generalize hx : ((s.retireUse (.record f r q)).noteFault f (recordAddr ((s.forme f).ring r) q) st).forme f = x
    have hring : x.ring r = (s.forme f).ring r := by
      rw [← hx, State.noteFault, State.forme_modForme_self]
      rfl
    obtain ⟨hmem, hstate, hfault, hdone'⟩ := unwritten_ring (x := x) (r := r) (q := q) (k := k) (by rw [hring]; exact hw)
      (by rw [hring, hk]; exact hdone) (by rw [hring]; exact hentry)
    exact ⟨hmem, hstate, hfault, hdone'.trans hk, findLaunch_dropLaunch _ r q⟩
  · refine ⟨_, exec_launchTimeout_running hl hphase htimer hready hres, ?_, ?_, ?_⟩
    · refine ⟨nextChunk ((s.forme f).imposeStatus r q 0x0D04) { l with imposedStatus := mergeImposed l.imposedStatus 0x0D04 }, ?_, ?_⟩
      · rw [State.findLaunch_settle, State.forme_modForme_self, findLaunch_imposeStatus, hl]
        rfl
      · obtain ⟨a, b, last, ts, cut, fr, h⟩ := nextChunk_eq ((s.forme f).imposeStatus r q 0x0D04)
          { l with imposedStatus := mergeImposed l.imposedStatus 0x0D04 }
        rw [h]
        dsimp only
        rw [himposed]
        rfl
    · obtain ⟨hbeside, hstack, -⟩ := State.settle_beside (s.modForme f (fun x => x.imposeStatus r q 0x0D04)) f
      exact ((s.modForme_beside f _).trans hbeside).elsewhereKept hstack
    · obtain ⟨-, -, hout⟩ := State.settle_beside (s.modForme f (fun x => x.imposeStatus r q 0x0D04)) f
      exact hout

end Sys2Proof.Machine
end

section
/-! Entries that arrive: what their processing leaves of the forme's ring, and the entries that a fault or a fetch concerns (R248 to R250,
R260, R350). -/
namespace Sys2Proof.Machine

variable {s t u : State} {f : FormeId} {r : RingId} {q : Seq} {c : FormeCfg} {l : Launch}

/-! ### Contexts released -/

/-- Nothing of a forme changes but its contexts and its run records. -/
def OnlyCtxs (x y : Forme) : Prop := ∃ cs rs, y = { x with ctxs := cs, runs := rs }

theorem OnlyCtxs.trans {x y z : Forme} (hxy : OnlyCtxs x y) (hyz : OnlyCtxs y z) : OnlyCtxs x z := by
  obtain ⟨cs, rs, rfl⟩ := hxy
  obtain ⟨cs', rs', rfl⟩ := hyz
  exact ⟨cs', rs', rfl⟩

theorem Forme.releaseCtx_onlyCtxs (x : Forme) (n : BitVec 16) : OnlyCtxs x (x.releaseCtx n) := by
  unfold Forme.releaseCtx
  split
  · exact ⟨x.ctxs, x.runs, rfl⟩
  · exact ⟨_, _, rfl⟩

theorem foldl_releaseCtx_onlyCtxs (l : List Context) (x : Forme) : OnlyCtxs x (l.foldl (fun y c => y.releaseCtx c.num) x) := by
  induction l generalizing x with
  | nil => exact ⟨x.ctxs, x.runs, rfl⟩
  | cons k l ih => exact (x.releaseCtx_onlyCtxs k.num).trans (ih _)

theorem releaseDue_onlyCtxs (x : Forme) : OnlyCtxs x x.releaseDue := foldl_releaseCtx_onlyCtxs _ x

/-- Completion keeps the forme's fault registers. -/
theorem completing_ecp (x : Forme) (r : RingId) (q : Seq) (k : Record) : (completing x r q k).ecp = x.ecp := by
  unfold completing
  dsimp only
  generalize hz : ({ modLaunch x r q (fun l => { l with phase := .writing, record := some k }) with ctxs := _ } : Forme) = z
  obtain ⟨cs, rs, h⟩ := releaseDue_onlyCtxs z
  change z.releaseDue.ecp = _
  rw [h, ← hz]
  rfl

/-- The code of a read that faulted is kept with the registers of the fault. -/
theorem ending_ecp (x : Forme) (r : RingId) (q : Seq) : (ending x r q 0x1102).ecp = { x.ecp with code := 0x1102 } := by
  unfold ending
  generalize hy : modLaunch x r q (fun l => { l with ended := some 0x1102, phase := .running }) = y
  obtain ⟨cs, rs, h⟩ := foldl_releaseCtx_onlyCtxs (y.ctxs.filter (fun k => k.creator == some (r, q))) y
  rw [h, ← hy]
  rfl

/-- What an entry that completes leaves of its forme: its record is written, or it is held. -/
theorem completeEntry_forme (hl : findLaunch (s.forme f) r q = some l) : ∃ k,
    (s.completeEntry f r q).forme f = completing (s.forme f) r q k ∨
    (s.completeEntry f r q).forme f = holding (completing (s.forme f) r q k) r q k := by
  refine ⟨makeRecord s.time.ticks l, ?_⟩
  rw [completeEntry_eq hl]
  split
  · rw [State.forme_modForme_self, completed_forme]
    exact .inr rfl
  · rcases (completed s f r q (makeRecord s.time.ticks l)).formeDwr_quiet f (.record f r q) (recordAddr ((s.forme f).ring r) q)
      (recordBytes (makeRecord s.time.ticks l)) with h | ⟨p, h⟩
    · rw [h, completed_forme]
      exact .inl rfl
    · rw [h.forme f, completed_forme]
      exact .inl rfl

theorem completeEntry_ecp (s : State) (f : FormeId) (r : RingId) (q : Seq) : ((s.completeEntry f r q).forme f).ecp = (s.forme f).ecp := by
  cases hl : findLaunch (s.forme f) r q with
  | none => simp only [State.completeEntry, hl]
  | some l =>
    obtain ⟨k, h | h⟩ := completeEntry_forme hl
    · rw [h, completing_ecp]
    · rw [h]
      exact completing_ecp (s.forme f) r q k

theorem completeWith_ecp (s : State) (f : FormeId) (r : RingId) (q : Seq) :
    ((s.completeWith f r q 0x1102).forme f).ecp = { (s.forme f).ecp with code := 0x1102 } := by
  obtain ⟨t, ht, hforme, -⟩ := completeWith_forme s f r q 0x1102
  rw [ht, completeEntry_ecp, hforme, ending_ecp]

/-! ### Newest versions stay (R261) -/

/-- Freeing versions keeps a matter's newest one. -/
theorem Forme.freeVersions_keeps_newest {x : Forme} {m : Matter} {v : Version} (hm : m ∈ x.matters) (hv : v ∈ m.versions)
    (hnew : m.newest = some v.number) : ∃ k ∈ x.freeVersions.matters, k.id = m.id ∧ k.newest = m.newest ∧ v ∈ k.versions := by
  have hkeep : ∀ p : Version → Bool, v ∈ m.versions.filter (fun w => m.newest == some w.number || p w) := fun p => by
    rw [List.mem_filter, hnew, beq_self_eq_true, Bool.true_or]
    exact ⟨hv, rfl⟩
  refine ⟨_, List.mem_filter.mpr ⟨List.mem_map.mpr ⟨m, hm, rfl⟩, ?_⟩, rfl, rfl, hkeep _⟩
  rw [Bool.not_eq_true', List.isEmpty_eq_false_iff]
  exact List.ne_nil_of_mem (hkeep _)

/-- The completion of an entry keeps the newest version of every matter. -/
theorem completeWith_keeps_newest {m : Matter} {v : Version} {code : Code} (hm : m ∈ (s.forme f).matters) (hv : v ∈ m.versions)
    (hnew : m.newest = some v.number) :
    ∃ k ∈ ((s.completeWith f r q code).forme f).matters, k.id = m.id ∧ k.newest = m.newest ∧ v ∈ k.versions := by
  obtain ⟨t, ht, hforme, -⟩ := completeWith_forme s f r q code
  obtain ⟨-, -, -, hmatters, -⟩ := Feed.mk.inj (ending_feed (s.forme f) r q code)
  have hmt : m ∈ (t.forme f).matters := by
    rw [hforme, hmatters]
    exact hm
  rw [ht]
  cases hl : findLaunch (t.forme f) r q with
  | none =>
    simp only [State.completeEntry, hl]
    exact ⟨m, hmt, rfl, rfl, hv⟩
  | some l =>
    have hdone : ∀ k, ∃ j ∈ (completing (t.forme f) r q k).matters, j.id = m.id ∧ j.newest = m.newest ∧ v ∈ j.versions := fun k => by
      unfold completing
      dsimp only
      generalize hz : ({ modLaunch (t.forme f) r q (fun l => { l with phase := .writing, record := some k }) with ctxs := _ } : Forme) = z
      refine Forme.freeVersions_keeps_newest ?_ hv hnew
      obtain ⟨cs, rs, h⟩ := releaseDue_onlyCtxs z
      rw [h, ← hz]
      exact hmt
    obtain ⟨k, h | h⟩ := completeEntry_forme hl
    · rw [h]
      exact hdone k
    · rw [h]
      exact hdone k

/-! ### What processing leaves of the ring -/

/-- What tells the feeder where a ring lies and how far it has fetched. -/
structure Front where
  head : Seq
  tail : Seq
  fetching : Bool
  base : HostAddr
  cpl : HostAddr

def Fetching.front (x : Fetching) : Front := ⟨x.head, x.tail, x.fetching, x.base, x.cpl⟩

def Ring.front (g : Ring) : Front := g.fetch.front

/-- An event of a forme that moves no byte of memory and leaves its ring where it is. -/
structure Steady (f : FormeId) (r : RingId) (s t : State) : Prop where
  beside : Beside f s t
  mem : t.stack.mem = s.stack.mem
  front : ((t.forme f).ring r).front = ((s.forme f).ring r).front

theorem Steady.refl (f : FormeId) (r : RingId) (s : State) : Steady f r s s := ⟨Beside.refl f s, rfl, rfl⟩

theorem Steady.trans (hst : Steady f r s t) (htu : Steady f r t u) : Steady f r s u :=
  ⟨hst.beside.trans htu.beside, htu.mem.trans hst.mem, htu.front.trans hst.front⟩

theorem State.modForme_steady {g : Forme → Forme} (hg : ((g (s.forme f)).ring r).front = ((s.forme f).ring r).front) :
    Steady f r s (s.modForme f g) :=
  ⟨s.modForme_beside f g, rfl, by rw [State.forme_modForme_self, hg]⟩

theorem OnlyPort.steady {p : PortId} (h : OnlyPort p s t) : Steady f r s t :=
  ⟨h.beside f, by rw [h.stack], by rw [h.forme f]⟩

theorem completeEntry_steady (s : State) (f : FormeId) (r : RingId) (q : Seq) : Steady f r s (s.completeEntry f r q) := by
  obtain ⟨hbeside, hstack, -⟩ := completeEntry_beside s f r q
  refine ⟨hbeside, by rw [hstack], ?_⟩
  cases hl : findLaunch (s.forme f) r q with
  | none => simp only [State.completeEntry, hl]
  | some l =>
    obtain ⟨k, h | h⟩ := completeEntry_forme hl
    · rw [h, completing_ring]
    · have hfetch := holding_fetch (r := r) (q := q) (completing (s.forme f) r q k) k
      rw [completing_ring] at hfetch
      rw [h]
      exact (congrArg Fetching.front hfetch).trans rfl

theorem completeWith_steady (s : State) (f : FormeId) (r : RingId) (q : Seq) (v : Code) : Steady f r s (s.completeWith f r q v) := by
  obtain ⟨t, ht, hforme, hbeside, hstack, -⟩ := completeWith_forme s f r q v
  have hending : Steady f r s t := ⟨hbeside, by rw [hstack], by rw [hforme, ending_ring]⟩
  rw [ht]
  exact hending.trans (completeEntry_steady t f r q)

theorem State.formeDrd_steady (s : State) (f : FormeId) (r : RingId) (u : EcpUse) (keep : Bool) (a : HostAddr) (n : Nat) :
    Steady f r s (s.formeDrd f u keep a n) := by
  cases hcfg : (s.forme f).cfg with
  | none =>
    simp only [State.formeDrd, hcfg]
    exact Steady.refl f r s
  | some c => exact (State.formeDrd_sentOn hcfg u keep a n).1.steady

theorem startImageRead_steady (s : State) (f : FormeId) (r : RingId) (q : Seq) (e : RingEntry) :
    Steady f r s (startImageRead s f r q e) :=
  (State.modForme_steady (g := fun x => modLaunch x r q (fun l => { l with phase := .reading })) rfl).trans
    (State.formeDrd_steady _ f r _ false _ _)

/-- Counting detections touches no byte and no ring. -/
theorem countPoison_steady (s : State) (f : FormeId) (r : RingId) (off n : Nat) : Steady f r s (countPoison s f off n) := by
  have hone : ∀ (u : State) (ch : ChannelId) (l : Nat), Steady f r u (countDetect u f ch l) := fun u ch l => by
    obtain ⟨hformes, hgalley, htime, hboot, hfuses, hflash, hcolo, hlinks⟩ := u.modForme_beside f (fun x => { x with detects := satInc x.detects })
    refine ⟨⟨hformes, hgalley, htime, hboot, hfuses, hflash, hcolo, hlinks⟩, rfl, ?_⟩
    change (((u.modForme f (fun x => { x with detects := satInc x.detects })).forme f).ring r).front = _
    rw [State.forme_modForme_self]
    rfl
  unfold countPoison
  split
  · rename_i c hc
    generalize (stackLines c off n).filter s.stack.isPoisoned = ls
    clear hc
    induction ls generalizing s with
    | nil => exact Steady.refl f r s
    | cons l ls ih => exact (hone s _ l).trans (ih _)
  · exact Steady.refl f r s

/-- A read of the context table reads, and counts what it detects. -/
theorem afterRead_steady (s : State) (f : FormeId) (r : RingId) (n : BitVec 16) : Steady f r s (afterRead s (contextRecord s f n)) := by
  have hread : ∀ a m p, engineRead s f a m = some p → Steady f r s p.2 := fun a m p hp => by
    unfold engineRead at hp
    split at hp
    · split at hp
      · obtain rfl := Option.some.inj hp
        obtain ⟨⟨hformes, hgalley, htime, hboot, hfuses, hflash, hcolo, hlinks⟩, hmem, hfront⟩ := countPoison_steady s f r _ m
        exact ⟨⟨hformes, hgalley, htime, hboot, hfuses, hflash, hcolo, hlinks⟩, hmem, hfront⟩
      · obtain ⟨bs, -, rfl⟩ := Option.map_eq_some_iff.mp hp
        exact Steady.refl f r s
    · obtain rfl := Option.some.inj hp
      exact Steady.refl f r s
    · contradiction
  unfold afterRead
  split
  next p hp =>
    unfold contextRecord at hp
    dsimp only at hp
    split at hp
    · obtain ⟨p', hp', rfl⟩ := Option.map_eq_some_iff.mp hp
      exact hread _ _ p' hp'
    · contradiction
  next => exact Steady.refl f r s

theorem noteKeyMaker_steady (s t : State) (f : FormeId) (r : RingId) (q : Seq) : Steady f r t (noteKeyMaker s t f r q) := by
  unfold noteKeyMaker
  split
  · exact Steady.refl f r t
  · exact State.modForme_steady rfl

theorem launchStands_steady (s t : State) (f : FormeId) (r : RingId) (q : Seq) (v : Version) (e : RingEntry) :
    Steady f r t (launchStands s t f r q v e) := by
  unfold launchStands
  dsimp only
  split
  · exact (noteKeyMaker_steady s t f r q).trans (completeWith_steady _ f r q _)
  · exact noteKeyMaker_steady s t f r q

theorem enterLaunch_steady (s : State) (f : FormeId) (r : RingId) (q : Seq) (l : Launch) (v : Version) (w : Word) :
    Steady f r s (enterLaunch s f r q l v w) := by
  unfold enterLaunch
  refine State.modForme_steady ?_
  dsimp only
  split <;> split <;> rfl

/-- A launch enters, or completes with what refuses it; either way its ring stays where it is. -/
theorem admitLaunch_steady (s : State) (f : FormeId) (r : RingId) (q : Seq) (l : Launch) (v : Version) :
    Steady f r s (admitLaunch s f r q l v) := by
  unfold admitLaunch
  dsimp only
  split
  · exact completeWith_steady s f r q _
  · refine (afterRead_steady s f r (entryContext l.entry)).trans ?_
    split
    · exact completeWith_steady _ f r q _
    · exact (enterLaunch_steady _ f r q l v _).trans (launchStands_steady _ _ f r q v l.entry)

theorem processEntry_steady (s : State) (f : FormeId) (r : RingId) (q : Seq) : Steady f r s (processEntry s f r q) := by
  unfold processEntry
  split
  · exact Steady.refl f r s
  · split
    · exact completeWith_steady s f r q _
    · split
      · exact completeWith_steady s f r q _
      · split
        · split
          · exact admitLaunch_steady s f r q _ _
          · exact completeWith_steady s f r q _
        · split
          · exact completeWith_steady s f r q _
          · exact startImageRead_steady s f r q _
        · exact startImageRead_steady s f r q _
        · exact (State.modForme_steady rfl).trans (completeWith_steady _ f r q _)
        · exact completeWith_steady s f r q _

end Sys2Proof.Machine
end

section
/-! Settling the fetch and the arrival of entries, images and releases. -/
namespace Sys2Proof.Machine

variable {s t : State} {f : FormeId} {r : RingId} {q : Seq} {c : FormeCfg} {l : Launch} {e : RingEntry}

/-! ### Fetching (R250, R350) -/

theorem poolQueue_beside (s : State) (f : FormeId) (l : List FormeId) : Beside f s { s with poolQueue := l } :=
  ⟨fun _ _ => rfl, rfl, rfl, rfl, rfl, rfl, rfl, rfl⟩

theorem exec_feedEntryFetch (hr : (visitOrder (s.forme f)).find? (ringCanFetch (s.forme f)) = some r) (hcfg : (s.forme f).cfg = some c)
    (hslot : formeBusy (s.forme f) < guarantee c) : exec (.feedEntryFetch f) s =
      .next (issueFetch ({ s with poolQueue := s.poolQueue.filter (· != f) }.modForme f (fun x => { x with visit := r })) f r) := by
  have hgranted : slotFor s f = .granted := by simp only [slotFor, hcfg, hslot, if_true]
  simp only [exec, execFeedEntryFetch, hr, visitRing, hgranted]

/-- The read of an entry marks its ring, and leaves on the forme's port. -/
theorem issueFetch_spec (hcfg : (s.forme f).cfg = some c) :
    SentOn c.port (.drd c.port c.fnId (s.reqTag c.port) false (entryAddr ((s.forme f).ring r) ((s.forme f).ring r).head) 256)
      (s.modRing f r (fun g => { g with fetching := true })) (issueFetch s f r) := by
  have hcfg' : ((s.modRing f r (fun g => { g with fetching := true })).forme f).cfg = some c := by
    rw [State.modRing, State.forme_modForme_self]
    exact hcfg
  exact State.formeDrd_sentOn hcfg' _ false _ 256

/-- A ring whose entry could not be read is in STATE 2, and nothing of it is fetched. -/
theorem entryReadFault_eq {st : EcpStatus} (hfetch : ((s.forme f).ring r).fetching = true) : entryReadFault s f r st =
    ((s.retireUse (.ringEntry f r)).noteFault f (entryAddr ((s.forme f).ring r) ((s.forme f).ring r).head) st).modForme f (fun x =>
      settleRing (x.setRing r ({ (s.forme f).ring r with fetching := false, entryFault := true }).enterFaulted) r) := by
  rw [entryReadFault, if_pos hfetch]

theorem enterFaulted_spec (g : Ring) : g.enterFaulted.state = 2 ∧ g.enterFaulted.fetch = g.fetch ∧ g.enterFaulted.written = g.written ∧
    g.enterFaulted.done = g.done ∧ g.enterFaulted.entryFault = g.entryFault := by
  unfold Ring.enterFaulted
  split
  next h => exact ⟨by simpa using h, rfl, rfl, rfl, rfl⟩
  next => exact ⟨rfl, rfl, rfl, rfl, rfl⟩

/-! ### Arrival (R248, R250) -/

/-- The launch of an entry as it arrives. -/
def arrivingLaunch (s : State) (f : FormeId) (r : RingId) (e : RingEntry) : Launch :=
  let g := (s.forme f).ring r
  { ring := r, seq := g.head, entry := e, phase := .held, fetched := s.time.ticks, timer := bellTick g g.head, version := 0, order := 0,
    frame := [], passed := 0, flags := 0, fault := none, imposedStatus := none, ended := none, result := [],
    chunkFirst := 0, chunkLen := 0, chunkLast := false, chunkSlugs := [], cutDone := false, matched := 0, norm2 := none, powers := [],
    image := none, record := none }

/-- The ring past an entry that has arrived. -/
def arrivedRing (g : Ring) : Ring :=
  { g with head := g.head + 1, fetching := false, bells := g.bells.filter (fun b => b.1 != g.head + 1) }

/-- The state in which an entry has arrived and nothing has been done about it. -/
def arrived (s : State) (f : FormeId) (r : RingId) (e : RingEntry) : State :=
  (s.retireUse (.ringEntry f r)).modForme f (fun x =>
    { x.setRing r (arrivedRing ((s.forme f).ring r)) with launches := x.launches ++ [arrivingLaunch s f r e] })

theorem arriveEntry_eq (hfetch : ((s.forme f).ring r).fetching = true) : arriveEntry s f r e =
    if mustHold ((arrived s f r e).forme f) (arrivingLaunch s f r e) then arrived s f r e
    else processEntry (arrived s f r e) f r ((s.forme f).ring r).head := by
  rw [arriveEntry, if_pos hfetch]
  rfl

theorem arrived_forme (s : State) (f : FormeId) (r : RingId) (e : RingEntry) : (arrived s f r e).forme f =
    { (s.forme f).setRing r (arrivedRing ((s.forme f).ring r)) with launches := (s.forme f).launches ++ [arrivingLaunch s f r e] } := by
  rw [arrived, State.forme_modForme_self]
  rfl

theorem arrived_ring (s : State) (f : FormeId) (r : RingId) (e : RingEntry) :
    ((arrived s f r e).forme f).ring r = arrivedRing ((s.forme f).ring r) := by
  rw [arrived_forme]
  exact Forme.ring_setRing_self _ _ _

theorem arrived_beside (s : State) (f : FormeId) (r : RingId) (e : RingEntry) : Beside f s (arrived s f r e) :=
  (s.retireUse_beside f _).trans (State.modForme_beside f _ _)

/-- Whatever an entry holds, its ring ends past it. -/
theorem arriveEntry_spec (hfetch : ((s.forme f).ring r).fetching = true) : Beside f s (arriveEntry s f r e) ∧
    (arriveEntry s f r e).stack.mem = s.stack.mem ∧
    (((arriveEntry s f r e).forme f).ring r).front = (arrivedRing ((s.forme f).ring r)).front := by
  have hsteady : Steady f r (arrived s f r e) (arriveEntry s f r e) := by
    rw [arriveEntry_eq hfetch]
    split
    · exact Steady.refl f r _
    · exact processEntry_steady _ f r _
  obtain ⟨hbeside, hmem, hfront⟩ := hsteady
  exact ⟨(arrived_beside s f r e).trans hbeside, hmem, by rw [hfront, arrived_ring]⟩

/-- The instruction that an entry's opcode makes of it. -/
def entryInstr (f : FormeId) (r : RingId) (e : RingEntry) : Instr :=
  if entryOpcode e = 0 then .nop f r e else if entryOpcode e = 2 then .store f r e else if entryOpcode e = 3 then .patch f r e
  else if entryOpcode e = 4 then .free f r e else .launch f r e

theorem exec_entryInstr (s : State) (f : FormeId) (r : RingId) (e : RingEntry) : exec (entryInstr f r e) s = .next (arriveEntry s f r e) := by
  unfold entryInstr
  split
  next h => rw [exec, execNop, if_pos (by simpa using h)]
  next h0 =>
    split
    next h => rw [exec, execStore, if_pos (by simpa using h)]
    next h2 =>
      split
      next h => rw [exec, execPatch, if_pos (by simpa using h)]
      next h3 =>
        split
        next h => rw [exec, execFree, if_pos (by simpa using h)]
        next h4 =>
          have hop : (entryOpcode e == 1 || decide (4 < entryOpcode e)) = true := by
            rw [Bool.or_eq_true, beq_iff_eq, decide_eq_true_iff]
            omega
          rw [exec, execLaunch, if_pos hop]

/-- Settles O22: every entry arrives by the same operation, and what is then done about it leaves the ring where it is. -/
theorem entriesFetchAndArrive : Obligations.EntriesFetchAndArrive := by
  refine ⟨fun s f c r hcfg hslot hr => ?_, fun s f hnone => ?_, fun s f r st hfetch => ?_, fun s f r e hfetch => ?_⟩
  · refine ⟨_, exec_feedEntryFetch hr hcfg hslot, ?_⟩
    generalize hu : ({ s with poolQueue := s.poolQueue.filter (· != f) }.modForme f (fun x => { x with visit := r }) : State) = u
    have hforme : u.forme f = { s.forme f with visit := r } := by
      rw [← hu, State.forme_modForme_self]
      rfl
    have hring : (u.forme f).ring r = (s.forme f).ring r := by
      rw [hforme]
      rfl
    obtain ⟨hport, hout⟩ := issueFetch_spec (s := u) (r := r) (by rw [hforme]; exact hcfg)
    refine ⟨?_, ?_, ?_, ?_⟩
    · rw [hport.forme f, State.modRing, State.forme_modForme_self, hforme]
      rfl
    · rw [hport.forme f, State.modRing, State.forme_modForme_self, Forme.ring_setRing_self, hring]
    · refine Beside.elsewhereKept ?_ ?_
      · have hqueue : Beside f s u := by
          rw [← hu]
          exact (poolQueue_beside s f _).trans (State.modForme_beside f _ _)
        exact hqueue.trans ((State.modForme_beside f u _).trans (hport.beside f))
      · rw [hport.stack, ← hu]
        rfl
    · rw [hout, hring, ← hu]
      rfl
  · have hno : (visitOrder (s.forme f)).find? (ringCanFetch (s.forme f)) = none := by
      rw [List.find?_eq_none]
      exact fun r _ => by rw [hnone r]; exact Bool.false_ne_true
    simp only [exec, execFeedEntryFetch, hno]
  · refine ⟨_, by rw [exec, execEntryReadFault, entryReadFault_eq hfetch], ?_⟩
    rw [State.forme_modForme_self, State.noteFault, State.forme_modForme_self]
    obtain ⟨hstate, hfetchOf, hwritten, hdone, hentry⟩ :=
      enterFaulted_spec { (s.forme f).ring r with fetching := false, entryFault := true }
    generalize ({ (s.forme f).ring r with fetching := false, entryFault := true } : Ring).enterFaulted = g at *
    generalize hx : Forme.setRing _ r g = x
    have hring : x.ring r = g := by
      rw [← hx]
      exact Forme.ring_setRing_self _ r g
    obtain ⟨d, w, ev, v, hopen⟩ := settleRing_open (x := x) (r := r) (.inl (by rw [hring, hstate]; decide))
    have hfetchSettled := settleRing_fetch x r
    rw [hring, hfetchOf] at hfetchSettled
    obtain ⟨hlaunches, -, -, hecp, -⟩ := settleRing_rest x r
    refine ⟨by rw [hopen, hring]; exact hstate, congrArg Fetching.fetching hfetchSettled, congrArg Fetching.head hfetchSettled, ?_, ?_, ?_, ?_⟩
    · rw [hlaunches, ← hx]
      rfl
    · rw [hecp, ← hx]
      rfl
    · rw [hecp, ← hx]
      rfl
    · refine ⟨fun hw hd => ?_, rfl, rfl, rfl⟩
      have hhead : g.head = ((s.forme f).ring r).head := congrArg Fetching.head hfetchOf
      have hfault : ringFault g = 0x1102 := by
        rw [ringFault, hstate, hentry, hdone, hhead]
        dsimp only
        rw [hd]
        simp
      rw [settleRing_stays (by rw [hring, hwritten]; exact hw) (.inl (by rw [hring, hstate]; decide)), hring]
      exact hfault
  · refine ⟨_, exec_entryInstr s f r e, ?_⟩
    obtain ⟨hbeside, hmem, hfront⟩ := arriveEntry_spec (e := e) hfetch
    obtain ⟨hhead, htail, hfetching, hbase, hcpl⟩ := Front.mk.inj hfront
    exact ⟨hhead, hfetching, htail, hbase, hcpl, hmem, hbeside.galley, hbeside.time, hbeside.formes⟩

/-! ### Images (R260, R261) -/

theorem exec_matterImageReadDone_data {b : Blob} {v : Version} (hl : findLaunch (s.forme f) r q = some l) (hphase : l.phase = .reading)
    (hv : parseMatter b (entryLength l.entry) = some v) : exec (.matterImageReadDone f r q (.data b)) s =
      .next (storeVersion (s.retireUse (.matterImage f r q)) f r q l.entry v) := by
  simp only [exec, execMatterImageReadDone, hl, hphase, hv]

theorem exec_matterImageReadDone_fault {st : EcpStatus} {a : HostAddr} (hl : findLaunch (s.forme f) r q = some l)
    (hphase : l.phase = .reading) : exec (.matterImageReadDone f r q (.fault st a)) s = .next (matterReadFault s f r q st a) := by
  simp only [exec, execMatterImageReadDone, hl, hphase]

/-- A first image of a matter that has room is stored under the number 1. -/
theorem storeVersion_new {v : Version} {e : RingEntry} (hop : entryOpcode e = 2) (hnew : findMatter (s.forme f) (entryMatter e) = none)
    (hever : matterRoomEver (s.forme f) (entryMatter e) v.length = true) (hroom : matterRoom (s.forme f) (entryMatter e) v.length = true) :
    storeVersion s f r q e v = (((s.chargeStack f v.length).modForme f (fun x => addVersion x (entryMatter e)
      { v with number := 1, since := s.time.ticks })).completeWith f r q 0).modForme f Forme.freeVersions := by
  have hno : ((2 : Nat) == 3) = false := rfl
  simp only [storeVersion, hop, hnew, hever, hroom, Option.any_none, Bool.and_false, hno, Bool.false_and, Bool.not_true,
    Bool.false_eq_true, if_false, beq_self_eq_true, if_true]

/-- An entry held for nothing any more, whose checks pass, is a NOP that completes. -/
theorem processEntry_nop (hl : findLaunch (s.forme f) r q = some l) (htimer : timerExpired s l.timer = false)
    (hok : entryStatus (s.forme f) s.time.ticks q l.entry = none) (hop : entryOpcode l.entry = 0) :
    processEntry s f r q = s.completeWith f r q 0 := by
  simp only [processEntry, hl, htimer, Bool.false_eq_true, if_false, hok, hop]

theorem exec_entryRelease {k : Launch} (hl : (s.forme f).launches.find? (fun l => l.ring == r && l.phase == .held) = some k) :
    exec (.entryRelease f r) s = .next (if mustHold (s.forme f) k || storedThisStroke (s.forme f) s.time.ticks k then s
      else processEntry s f r k.seq) := by
  simp only [exec, execEntryRelease, hl]

/-- The status of a record made of a launch that ends with a code, and that nothing else has ended. -/
theorem launchStatus_ended {v : Code} (himposed : l.imposedStatus = none) (hfault : l.fault = none) :
    launchStatus { l with ended := some v, phase := .running } = v := by
  simp only [launchStatus, himposed, hfault, Option.getD_some]

/-- Settles O24: the outcomes of an image's read, and the release of a held entry, end in one completion. -/
theorem imagesAndReleases : Obligations.ImagesAndReleases := by
  refine ⟨fun s f r q b l v hl hphase himposed hfault hop hv hnew hever hroom => ?_,
    fun s f r q st a c l hl hphase himposed hfault hq hcfg hstate => ?_,
    fun s f r c l hheld hl hhold htimer hop hok himposed hfault hcfg hstate => ?_, fun s f r l hheld hhold => ?_⟩
  · refine ⟨_, exec_matterImageReadDone_data hl hphase hv, ?_⟩
    have hnew' : findMatter ((s.retireUse (.matterImage f r q)).forme f) (entryMatter l.entry) = none := hnew
    have hever' : matterRoomEver ((s.retireUse (.matterImage f r q)).forme f) (entryMatter l.entry) v.length = true := hever
    have hroom' : matterRoom ((s.retireUse (.matterImage f r q)).forme f) (entryMatter l.entry) v.length = true := hroom
    rw [storeVersion_new hop hnew' hever' hroom']
    generalize hu : ((s.retireUse (.matterImage f r q)).chargeStack f v.length).modForme f (fun x => addVersion x (entryMatter l.entry)
      { v with number := 1, since := (s.retireUse (.matterImage f r q)).time.ticks }) = u
    have hbase : u.stack = s.stack ∧ u.galley = s.galley ∧ u.time = s.time := by
      rw [← hu]
      exact ⟨rfl, rfl, rfl⟩
    have hstored : ({ id := entryMatter l.entry, newest := some 1, versions := [{ v with number := 1, since := s.time.ticks }] } : Matter) ∈
        (u.forme f).matters := by
      rw [← hu, State.forme_modForme_self, addVersion, if_neg (by
        rw [show (((s.retireUse (.matterImage f r q)).chargeStack f v.length).forme f) = s.forme f from rfl, hnew]
        exact Bool.false_ne_true)]
      exact List.mem_append_right _ (List.mem_singleton_self _)
    obtain ⟨m, hm, hid, hnewest, hmem⟩ := completeWith_keeps_newest (r := r) (q := q) (code := 0) hstored (List.mem_singleton_self _) rfl
    obtain ⟨k, hk, hkid, hknewest, hkmem⟩ := Forme.freeVersions_keeps_newest hm hmem hnewest
    obtain ⟨hbeside, hstack⟩ := completeWith_beside u f r q 0
    refine ⟨⟨k, ?_, hkid.trans hid, hknewest.trans hnewest, _, hkmem, rfl⟩, hstack.trans hbase.1, hbeside.galley.trans hbase.2.1,
      hbeside.time.trans hbase.2.2⟩
    rw [State.forme_modForme_self]
    exact hk
  · refine ⟨_, exec_matterImageReadDone_fault hl hphase, ?_⟩
    unfold matterReadFault
    generalize hu : (s.retireUse (.matterImage f r q)).noteFault f a st = u
    have hforme : u.forme f = { s.forme f with
        ecp := { (s.forme f).ecp with faultAddr := a.truncate 52, faultStat := BitVec.ofNat 3 (ecpCode st) } } := by
      rw [← hu, State.noteFault, State.forme_modForme_self]
      rfl
    have hlu : findLaunch (u.forme f) r q = some l := by
      rw [hforme]
      exact hl
    rw [completeWith_ecp, hforme]
    refine ⟨rfl, rfl, makeRecord u.time.ticks { l with ended := some 0x1102, phase := .running }, launchStatus_ended himposed hfault, hq, ?_⟩
    obtain ⟨c', o, tag, hcfg', hout⟩ := completeWith_recordSent (v := 0x1102) hlu (by rw [hforme]; exact hstate)
      (by rw [hforme]; exact hcfg)
    refine ⟨c', o, tag, by rw [hforme] at hcfg'; exact hcfg', ?_⟩
    rw [hout, hforme, ← hu]
    rfl
  · have hno : ¬ (mustHold (s.forme f) l || storedThisStroke (s.forme f) s.time.ticks l) = true := by
      rw [hhold, storedThisStroke, hop]
      exact Bool.false_ne_true
    refine ⟨_, by rw [exec_entryRelease hheld, if_neg hno, processEntry_nop hl htimer hok hop],
      makeRecord s.time.ticks { l with ended := some 0, phase := .running }, launchStatus_ended himposed hfault, rfl,
      completeWith_recordSent hl hstate hcfg⟩
  · rw [exec_entryRelease hheld, hhold, Bool.true_or, if_pos rfl]

end Sys2Proof.Machine
end

section
/-! What an entry does once it has arrived: a record of its status, a launch that runs, an image that is read, a matter that is freed
(R247, R249, R250, R260, R265). -/
namespace Sys2Proof.Machine

variable {s t u : State} {f : FormeId} {r : RingId} {q : Seq} {c : FormeCfg} {l : Launch} {e : RingEntry}

/-! ### What a launch's refusal goes by -/

/-- The two states agree in all that the checks of a launch read: the forme's configuration, its matters, bindings and plan, the cores
in service, and the bytes of memory with their poison. -/
structure Sees (f : FormeId) (s t : State) : Prop where
  cfg : (t.forme f).cfg = (s.forme f).cfg
  kStack : (t.forme f).kStack = (s.forme f).kStack
  matters : (t.forme f).matters = (s.forme f).matters
  inker : (t.forme f).inker = (s.forme f).inker
  plan : (t.forme f).makeup.plan = (s.forme f).makeup.plan
  explicitActive : (t.forme f).makeup.explicitActive = (s.forme f).makeup.explicitActive
  cores : t.cores = s.cores
  mem : t.stack.mem = s.stack.mem
  poisoned : t.stack.poisoned = s.stack.poisoned
  poisonSets : t.stack.poisonSets = s.stack.poisonSets
  galley : t.galley = s.galley

theorem Sees.trans (h : Sees f s t) (k : Sees f t u) : Sees f s u where
  cfg := k.cfg.trans h.cfg
  kStack := k.kStack.trans h.kStack
  matters := k.matters.trans h.matters
  inker := k.inker.trans h.inker
  plan := k.plan.trans h.plan
  explicitActive := k.explicitActive.trans h.explicitActive
  cores := k.cores.trans h.cores
  mem := k.mem.trans h.mem
  poisoned := k.poisoned.trans h.poisoned
  poisonSets := k.poisonSets.trans h.poisonSets
  galley := k.galley.trans h.galley

/-- A change of the forme that leaves its part in the checks alone. -/
theorem State.modForme_sees {g : Forme → Forme} (hcfg : (g (s.forme f)).cfg = (s.forme f).cfg)
    (hkStack : (g (s.forme f)).kStack = (s.forme f).kStack) (hmatters : (g (s.forme f)).matters = (s.forme f).matters)
    (hinker : (g (s.forme f)).inker = (s.forme f).inker) (hplan : (g (s.forme f)).makeup.plan = (s.forme f).makeup.plan)
    (hexplicit : (g (s.forme f)).makeup.explicitActive = (s.forme f).makeup.explicitActive) : Sees f s (s.modForme f g) := by
  constructor <;> first | rfl | (rw [State.forme_modForme_self]; assumption)

namespace Sees
variable (h : Sees f s t)
include h

theorem galleyOk (a n : Nat) : t.galleyOk f a n = s.galleyOk f a n := by
  simp only [State.galleyOk, Forme.cores, h.cfg, h.explicitActive]

theorem place (a : BitVec 56) (n : Nat) : place? t f a n = place? s f a n := by
  simp only [place?, h.cfg, h.galleyOk]

theorem isPoisoned (l : Nat) : t.stack.isPoisoned l = s.stack.isPoisoned l := by
  simp only [Stack.isPoisoned, h.poisoned, h.poisonSets]

theorem stackPoisoned (off n : Nat) : t.stackPoisoned f off n = s.stackPoisoned f off n := by
  have hpoison : t.stack.isPoisoned = s.stack.isPoisoned := funext h.isPoisoned
  simp only [State.stackPoisoned, State.poisonedLine, h.cfg, hpoison]

theorem stackRead (off n : Nat) : t.stackRead f off n = s.stackRead f off n := by
  simp only [State.stackRead, h.cfg, h.kStack, h.mem]

theorem ownSpace (a : BitVec 56) (n : Nat) : ownSpace t f a n = ownSpace s f a n := by
  simp only [Machine.ownSpace, h.place]

theorem ownRead (a : BitVec 56) (n : Nat) : ownRead t f a n = ownRead s f a n := by
  simp only [Machine.ownRead, h.place, h.stackRead, h.galley]

theorem updateAt (a : BitVec 56) : updateAt t f a = updateAt s f a := by
  have hwords : ownWords t f a 8 = ownWords s f a 8 := by simp only [ownWords, h.ownRead]
  have hown : updateOwn t f = updateOwn s f := by
    funext d
    simp only [updateOwn, h.ownSpace]
  unfold Machine.updateAt
  rw [hwords, hown]

theorem isWorking (n : BitVec 16) (x : TensorRec) : isWorking t f n x = isWorking s f n x := by
  simp only [Machine.isWorking, ownWord, planOf, allUpdates, h.ownRead, h.matters, h.plan]

theorem bindingHolds (b : BindingId) : bindingHolds (t.forme f) b = bindingHolds (s.forme f) b := by
  simp only [Machine.bindingHolds, h.inker]

/-- The two states refuse a launch alike. -/
theorem launchRefusal (v : Version) (e : RingEntry) : launchRefusal t f v e = launchRefusal s f v e := by
  have hcores : t.liveCores f = s.liveCores f := by
    simp only [State.liveCores, Forme.cores, State.core, h.cfg, h.cores]
  have hproof : proofSpaceKib (t.forme f) = proofSpaceKib (s.forme f) := by simp only [proofSpaceKib, h.cfg]
  have hbinding : Machine.bindingHolds (t.forme f) = Machine.bindingHolds (s.forme f) := funext h.bindingHolds
  have hupdate : Machine.updateAt t f = Machine.updateAt s f := funext h.updateAt
  have hworking : Machine.isWorking t f = Machine.isWorking s f := funext (fun r => funext (h.isWorking r))
  have htune : tuneStatus t f v e = tuneStatus s f v e := by
    unfold tuneStatus
    rw [hupdate, hworking]
  unfold Machine.launchRefusal
  rw [hcores, htune]
  dsimp only
  rw [hproof, hbinding, h.explicitActive]

end Sees

/-! ### The read of the context table -/

/-- Nothing changes but counts of detections, and the draw of free bytes. -/
structure Counted (f : FormeId) (s t : State) : Prop where
  forme : ∃ d, t.forme f = { s.forme f with detects := d }
  stack : ∃ ds, t.stack = { s.stack with detects := ds }
  cores : t.cores = s.cores
  galley : t.galley = s.galley
  out : t.out = s.out
  time : t.time = s.time
  links : t.links = s.links
  selfReg : t.selfReg = s.selfReg

theorem Counted.refl (f : FormeId) (s : State) : Counted f s s := ⟨⟨_, rfl⟩, ⟨_, rfl⟩, rfl, rfl, rfl, rfl, rfl, rfl⟩

theorem Counted.trans (h : Counted f s t) (k : Counted f t u) : Counted f s u := by
  obtain ⟨⟨d, hforme⟩, ⟨ds, hstack⟩, hcores, hgalley, hout, htime, hlinks, hself⟩ := h
  obtain ⟨⟨d', hforme'⟩, ⟨ds', hstack'⟩, hcores', hgalley', hout', htime', hlinks', hself'⟩ := k
  rw [hforme] at hforme'
  rw [hstack] at hstack'
  exact ⟨⟨d', hforme'⟩, ⟨ds', hstack'⟩, hcores'.trans hcores, hgalley'.trans hgalley, hout'.trans hout, htime'.trans htime,
    hlinks'.trans hlinks, hself'.trans hself⟩

theorem Counted.sees (h : Counted f s t) : Sees f s t := by
  obtain ⟨⟨d, hforme⟩, ⟨ds, hstack⟩, hcores, hgalley, -⟩ := h
  constructor
  case cores => exact hcores
  case galley => exact hgalley
  case mem | poisoned | poisonSets => rw [hstack]
  all_goals rw [hforme]

theorem countDetect_counted (s : State) (f : FormeId) (ch : ChannelId) (n : Nat) : Counted f s (countDetect s f ch n) :=
  ⟨⟨satInc (s.forme f).detects, s.forme_modForme_self f (fun x => { x with detects := satInc x.detects })⟩, ⟨_, rfl⟩, rfl, rfl, rfl, rfl,
    rfl, rfl⟩

theorem countPoison_counted (s : State) (f : FormeId) (off n : Nat) : Counted f s (countPoison s f off n) := by
  unfold countPoison
  split
  next k hk =>
    generalize (stackLines k off n).filter s.stack.isPoisoned = ls
    clear hk
    induction ls generalizing s with
    | nil => exact Counted.refl f s
    | cons l ls ih => exact (countDetect_counted s f _ l).trans (ih _)
  next => exact Counted.refl f s

/-- A read of the engine counts what it detects. -/
theorem engineRead_counted {a : BitVec 56} {n : Nat} {p : List Byte × State} (hp : engineRead s f a n = some p) : Counted f s p.2 := by
  unfold engineRead at hp
  split at hp
  · split at hp
    · obtain rfl := Option.some.inj hp
      obtain ⟨hforme, hstack, hcores, hgalley, hout, htime, hlinks, hself⟩ := countPoison_counted s f ‹_› n
      exact ⟨hforme, hstack, hcores, hgalley, hout, htime, hlinks, hself⟩
    · obtain ⟨bs, -, rfl⟩ := Option.map_eq_some_iff.mp hp
      exact Counted.refl f s
  · obtain rfl := Option.some.inj hp
    exact Counted.refl f s
  · contradiction

theorem afterRead_counted (s : State) (f : FormeId) (n : BitVec 16) : Counted f s (afterRead s (contextRecord s f n)) := by
  unfold afterRead
  split
  next p hp =>
    unfold contextRecord at hp
    dsimp only at hp
    split at hp
    · obtain ⟨p', hp', rfl⟩ := Option.map_eq_some_iff.mp hp
      exact engineRead_counted hp'
    · contradiction
  next => exact Counted.refl f s

/-- States that see the same read the same word of the context table, where their free bytes are the same. -/
theorem Sees.contextRecord (h : Sees f s t) (hfree : t.free = s.free) (hsched : (t.forme f).sched = (s.forme f).sched) (n : BitVec 16) :
    (contextRecord t f n).map (·.1) = (contextRecord s f n).map (·.1) := by
  have hread : ∀ a m, (engineRead t f a m).map (·.1) = (engineRead s f a m).map (·.1) := fun a m => by
    simp only [engineRead, h.place, h.stackPoisoned, h.stackRead, h.galley, freeBytes, hfree]
    cases place? s f a m with
    | stack off =>
      dsimp only
      split
      · rfl
      · cases s.stackRead f off m <;> rfl
    | _ => rfl
  have hword : ∀ x : Option (List Byte × State), (x.map (fun r => (leWord r.1, r.2))).map (·.1) = (x.map (·.1)).map leWord := fun x => by
    cases x <;> rfl
  unfold Machine.contextRecord
  dsimp only
  rw [hsched, h.ownSpace]
  split
  · rw [hword, hword, hread]
  · rfl

/-! ### Arrival of an entry nothing holds up -/

/-- With no other entry of its ring in flight an entry is not held. -/
theorem mustHold_arrived (hnone : ∀ k ∈ (s.forme f).launches, k.ring ≠ r) :
    mustHold ((arrived s f r e).forme f) (arrivingLaunch s f r e) = false := by
  rw [mustHold, List.any_eq_false, arrived_forme]
  intro k hk
  rcases List.mem_append.mp hk with hk | hk
  · have hring : (k.ring == r) = false := by simpa using hnone k hk
    rw [show (arrivingLaunch s f r e).ring = r from rfl, hring]
    exact Bool.false_ne_true
  · rw [List.mem_singleton.mp hk, bne_self_eq_false, Bool.and_false]
    exact Bool.false_ne_true

theorem findLaunch_arrived (hnone : ∀ k ∈ (s.forme f).launches, k.ring ≠ r) :
    findLaunch ((arrived s f r e).forme f) r ((s.forme f).ring r).head = some (arrivingLaunch s f r e) := by
  have hold : (s.forme f).launches.find? (fun k => k.ring == r && k.seq == ((s.forme f).ring r).head) = none := by
    rw [List.find?_eq_none]
    exact fun k hk => by simp [hnone k hk]
  rw [arrived_forme, findLaunch]
  dsimp only
  rw [List.find?_append, hold, Option.none_or, List.find?_singleton]
  exact if_pos (by simp [arrivingLaunch])

section
variable (hfetch : ((s.forme f).ring r).fetching = true) (hnone : ∀ k ∈ (s.forme f).launches, k.ring ≠ r)
variable (htimer : timerExpired s (bellTick ((s.forme f).ring r) ((s.forme f).ring r).head) = false)
include hfetch hnone

theorem arriveEntry_processed : arriveEntry s f r e = processEntry (arrived s f r e) f r ((s.forme f).ring r).head := by
  rw [arriveEntry_eq hfetch, mustHold_arrived hnone, if_neg Bool.false_ne_true]

include htimer

/-- An entry that fails a check completes with the check's code. -/
theorem arriveEntry_refused {code : Code} (hcode : entryStatus (s.forme f) s.time.ticks ((s.forme f).ring r).head e = some code) :
    arriveEntry s f r e = (arrived s f r e).completeWith f r ((s.forme f).ring r).head code := by
  have hl := findLaunch_arrived (e := e) hnone
  have htimer' : timerExpired (arrived s f r e) (arrivingLaunch s f r e).timer = false := htimer
  have hcode' : entryStatus ((arrived s f r e).forme f) (arrived s f r e).time.ticks ((s.forme f).ring r).head (arrivingLaunch s f r e).entry =
      some code := by
    rw [arrived_forme]
    exact hcode
  rw [arriveEntry_processed hfetch hnone]
  simp only [processEntry, hl, htimer', Bool.false_eq_true, if_false, hcode']

/-- An entry that passes its checks is acted on by its opcode. -/
theorem arriveEntry_nop (hok : entryStatus (s.forme f) s.time.ticks ((s.forme f).ring r).head e = none) (hop : entryOpcode e = 0) :
    arriveEntry s f r e = (arrived s f r e).completeWith f r ((s.forme f).ring r).head 0 := by
  rw [arriveEntry_processed hfetch hnone]
  refine processEntry_nop (findLaunch_arrived hnone) htimer ?_ hop
  rw [arrived_forme]
  exact hok

end

/-- The record of an entry that completes in the stroke in which it arrives. -/
def instantRecord (q : Seq) (code : Code) (e : RingEntry) : Record :=
  { seq := q, status := code, flags := 0, version := 0, elapsed := 0, matter := entryMatter e, ctx := entryContext e, passed := 0,
    result := [] }

/-- The record of an entry that completes as it arrives leaves on the forme's port. -/
theorem arrived_recordSent {code : Code} (hcfg : (s.forme f).cfg = some c) (hstate : ((s.forme f).ring r).state ≠ 2)
    (hnone : ∀ k ∈ (s.forme f).launches, k.ring ≠ r) :
    RecordSent f r (instantRecord ((s.forme f).ring r).head code e) s ((arrived s f r e).completeWith f r ((s.forme f).ring r).head code) := by
  have hstate' : (((arrived s f r e).forme f).ring r).state ≠ 2 := by
    rw [arrived_ring]
    exact hstate
  have hcfg' : ((arrived s f r e).forme f).cfg = some c := by
    rw [arrived_forme]
    exact hcfg
  obtain ⟨c', o, tag, hc, hout⟩ := completeWith_recordSent (v := code) (findLaunch_arrived (e := e) hnone) hstate' hcfg'
  obtain rfl : c = c' := Option.some.inj (hcfg'.symm.trans hc)
  refine ⟨c, o, tag, hcfg, ?_⟩
  have hrecord : makeRecord (arrived s f r e).time.ticks { arrivingLaunch s f r e with ended := some code, phase := .running } =
      instantRecord ((s.forme f).ring r).head code e := by
    have hmake : makeRecord (arrived s f r e).time.ticks { arrivingLaunch s f r e with ended := some code, phase := .running } =
        { instantRecord ((s.forme f).ring r).head code e with
          version := if entryOpcode e == 1 then 0 else 0, elapsed := s.time.ticks - s.time.ticks } := rfl
    rw [hmake, BitVec.sub_self, ite_self]
    rfl
  rw [hrecord, arrived_ring] at hout
  exact hout

/-! ### A launch that stands (R261, R262, R265) -/

theorem cutChunk_eq (sc : Sched) (l : Launch) (n : Nat) : ∃ (a b : Nat) (last : Bool) (fr : Memory), cutChunk sc l n = { l with
    chunkFirst := a, chunkLen := b, chunkLast := last, chunkSlugs := [], frame := fr } := by
  unfold cutChunk
  dsimp only
  split <;> exact ⟨_, _, _, _, rfl⟩

/-- The launch as it runs. -/
def running (x : Forme) (l : Launch) (v : Version) : Launch :=
  let launch := cutChunk x.sched { l with phase := .running, version := v.number, order := x.admitted, frame := makeFrame l.entry }
    (entryPositions l.entry)
  if isToken l.entry then { launch with frame := makeFrame l.entry } else launch

/-- A launch that runs keeps its entry, its number and the tick at which it came. -/
theorem running_spec (x : Forme) (l : Launch) (v : Version) : (running x l v).ring = l.ring ∧ (running x l v).seq = l.seq ∧
    (running x l v).phase = .running ∧ (running x l v).version = v.number ∧ (running x l v).entry = l.entry ∧
    (running x l v).fetched = l.fetched ∧ (running x l v).ended = l.ended := by
  obtain ⟨a, b, last, fr, h⟩ := cutChunk_eq x.sched
    { l with phase := .running, version := v.number, order := x.admitted, frame := makeFrame l.entry } (entryPositions l.entry)
  unfold running
  dsimp only
  rw [h]
  split <;> exact ⟨rfl, rfl, rfl, rfl, rfl, rfl, rfl⟩

/-- The context of a launch as it enters. -/
def entered (l : Launch) (r : RingId) (v : Version) (w : Word) (order : Nat) (k : Context) : Context :=
  { k with
    weight := fld w 15 0, batch := bitOf w 16, active := true, ring := r, matter := entryMatter l.entry, version := v.number,
    shape := (entrySequences l.entry, entryPositions l.entry + entryNewPositions l.entry),
    releasing := if entryReleaseCtx l.entry then some order else k.releasing }

theorem enterLaunch_forme (s : State) (f : FormeId) (r : RingId) (q : Seq) (l : Launch) (v : Version) (w : Word) : ∃ y cs,
    (enterLaunch s f r q l v w).forme f = { y with ctxs := cs } ∧ y = modLaunch { s.forme f with admitted := (s.forme f).admitted + 1 } r q
      (fun _ => running (s.forme f) l v) ∧
    cs = updFirst (·.num == entryContext l.entry) (entered l r v w (s.forme f).admitted)
      (if entryNewCtx l.entry then (s.forme f).ctxs ++ [newContext s f l v (fld w 15 0) (bitOf w 16)] else (s.forme f).ctxs) := by
  refine ⟨_, _, ?_, rfl, rfl⟩
  rw [enterLaunch, State.forme_modForme_self]
  dsimp only
  split <;> rfl

/-- A launch enters with its own state and touches nothing that the checks of a launch read. -/
theorem enterLaunch_sees (s : State) (f : FormeId) (r : RingId) (q : Seq) (l : Launch) (v : Version) (w : Word) :
    Sees f s (enterLaunch s f r q l v w) := by
  unfold enterLaunch
  dsimp only
  refine State.modForme_sees ?_ ?_ ?_ ?_ ?_ ?_ <;> (split <;> rfl)

theorem noteKeyMaker_spec (s t : State) (f : FormeId) (r : RingId) (q : Seq) : Sees f t (noteKeyMaker s t f r q) ∧
    (noteKeyMaker s t f r q).out = t.out ∧ ((noteKeyMaker s t f r q).forme f).launches = (t.forme f).launches ∧
    ((noteKeyMaker s t f r q).forme f).ctxs = (t.forme f).ctxs := by
  unfold noteKeyMaker
  split
  · exact ⟨⟨rfl, rfl, rfl, rfl, rfl, rfl, rfl, rfl, rfl, rfl, rfl⟩, rfl, rfl, rfl⟩
  · refine ⟨State.modForme_sees rfl rfl rfl rfl rfl rfl, rfl, ?_, ?_⟩ <;> rw [State.forme_modForme_self]

end Sys2Proof.Machine
end

section
/-! Settling what an entry does (R247, R249, R250, R260). -/
namespace Sys2Proof.Machine

variable {s t : State} {f : FormeId} {r : RingId} {q : Seq} {c : FormeCfg} {l : Launch} {e : RingEntry} {v : Version}

/-! ### Admission -/

theorem contextStatus_congr (hctxs : (t.forme f).ctxs = (s.forme f).ctxs) (hcfg : (t.forme f).cfg = (s.forme f).cfg) (w : Option Word) :
    contextStatus t f e w = contextStatus s f e w := by
  have hfind : findCtx (t.forme f) = findCtx (s.forme f) := by
    funext n
    simp only [findCtx, hctxs]
  unfold contextStatus
  dsimp only
  rw [hfind, hcfg, hctxs]

/-- The word of the context table that a launch goes by. -/
def recordWord (s : State) (f : FormeId) (e : RingEntry) : Word := ((contextRecord s f (entryContext e)).map (·.1)).getD 0

/-- A launch that nothing refuses enters, and stands. -/
theorem admitLaunch_stands (hpos : entryPositions l.entry + entryNewPositions l.entry ≤ Config.maxPositions)
    (hctx : contextStatus s f l.entry ((contextRecord s f (entryContext l.entry)).map (·.1)) = none)
    (hrefusal : launchRefusal s f v l.entry = none) : admitLaunch s f r q l v =
      noteKeyMaker (afterRead s (contextRecord s f (entryContext l.entry)))
        (enterLaunch (afterRead s (contextRecord s f (entryContext l.entry))) f r q l v (recordWord s f l.entry)) f r q := by
  have hcounted := afterRead_counted s f (entryContext l.entry)
  have hsees := hcounted.sees
  obtain ⟨⟨d, hforme⟩, -⟩ := hcounted
  have hctx' : contextStatus (afterRead s (contextRecord s f (entryContext l.entry))) f l.entry
      ((contextRecord s f (entryContext l.entry)).map (·.1)) = none :=
    (contextStatus_congr (s := s) (by rw [hforme]) (by rw [hforme]) _).trans hctx
  have hnote := (hsees.trans (enterLaunch_sees _ f r q l v (recordWord s f l.entry))).trans
    (noteKeyMaker_spec (afterRead s (contextRecord s f (entryContext l.entry))) _ f r q).1
  simp only [admitLaunch, if_neg (Nat.not_lt_of_le hpos), hctx', launchStands]
  rw [recordWord] at hnote
  rw [hnote.launchRefusal, hrefusal]
  rfl

/-- The context a launch enters with is found where its context may be made, or stands. -/
theorem findCtx_entered {x : Forme} {k : Context} {n : BitVec 16} {g : Context → Context} (hk : k.num = n)
    (hold : if entryNewCtx e then findCtx x n = none else (findCtx x n).isSome = true) (hg : ∀ c, (g c).num = c.num) : ∃ j,
    (updFirst (·.num == n) g (if entryNewCtx e then x.ctxs ++ [k] else x.ctxs)).find? (·.num == n) = some (g j) := by
  rw [find?_updFirst (fun c hc => by rw [hg c]; exact hc)]
  split at hold
  next hnew =>
    rw [if_pos hnew, List.find?_append, show x.ctxs.find? (·.num == n) = none from hold]
    refine ⟨k, ?_⟩
    simp [hk]
  next hnew =>
    rw [if_neg hnew]
    obtain ⟨j, hj⟩ := Option.isSome_iff_exists.mp hold
    exact ⟨j, by rw [show x.ctxs.find? (·.num == n) = some j from hj]; rfl⟩

/-- What a launch that enters leaves of itself and of its context. -/
theorem noteKeyMaker_enterLaunch {w : Word} {k : Launch} (t : State) (hring : l.ring = r) (hseq : l.seq = q)
    (hk : findLaunch (s.forme f) r q = some k)
    (hold : if entryNewCtx l.entry then findCtx (s.forme f) (entryContext l.entry) = none
      else (findCtx (s.forme f) (entryContext l.entry)).isSome = true) :
    findLaunch ((noteKeyMaker t (enterLaunch s f r q l v w) f r q).forme f) r q = some (running (s.forme f) l v) ∧
    ∃ j, findCtx ((noteKeyMaker t (enterLaunch s f r q l v w) f r q).forme f) (entryContext l.entry) =
      some (entered l r v w (s.forme f).admitted j) := by
  obtain ⟨-, -, hlaunches, hctxs⟩ := noteKeyMaker_spec t (enterLaunch s f r q l v w) f r q
  obtain ⟨y, cs, hforme, hy, hcs⟩ := enterLaunch_forme s f r q l v w
  obtain ⟨hrr, hrq, -⟩ := running_spec (s.forme f) l v
  constructor
  · have hmatch : ∀ d : Launch, (d.ring == r && d.seq == q) = true →
        ((running (s.forme f) l v).ring == r && (running (s.forme f) l v).seq == q) = true := fun d _ => by
      rw [hrr, hrq, hring, hseq, beq_self_eq_true, beq_self_eq_true]
      rfl
    rw [findLaunch, hlaunches, hforme, hy]
    refine (find?_updFirst (g := fun _ => running (s.forme f) l v) hmatch (s.forme f).launches).trans ?_
    rw [show (s.forme f).launches.find? (fun d => d.ring == r && d.seq == q) = some k from hk]
    rfl
  · rw [findCtx, hctxs, hforme, hcs]
    exact findCtx_entered (x := s.forme f) (k := newContext s f l v (fld w 15 0) (bitOf w 16)) rfl hold (fun _ => rfl)

/-- A launch whose context may enter makes a new one, or has one that stands. -/
theorem ctx_of_contextStatus {w : Option Word} (h : contextStatus s f e w = none) :
    if entryNewCtx e then findCtx (s.forme f) (entryContext e) = none else (findCtx (s.forme f) (entryContext e)).isSome = true := by
  unfold contextStatus at h
  dsimp only at h
  cases hnew : entryNewCtx e with
  | true =>
    rw [if_pos rfl]
    cases hctx : findCtx (s.forme f) (entryContext e) with
    | none => rfl
    | some k => simp [hnew, hctx] at h
  | false =>
    rw [if_neg Bool.false_ne_true]
    cases hctx : findCtx (s.forme f) (entryContext e) with
    | none => simp [hnew, hctx] at h
    | some k => rfl

/-! ### The opcodes -/

section
variable (hfetch : ((s.forme f).ring r).fetching = true) (hnone : ∀ k ∈ (s.forme f).launches, k.ring ≠ r)
variable (htimer : timerExpired s (bellTick ((s.forme f).ring r) ((s.forme f).ring r).head) = false)
variable (hok : entryStatus (s.forme f) s.time.ticks ((s.forme f).ring r).head e = none)
include hfetch hnone htimer hok

theorem arriveEntry_launch (hop : entryOpcode e = 1) (hpin : pinVersion (s.forme f) s.time.ticks e = some v) : arriveEntry s f r e =
    admitLaunch (arrived s f r e) f r ((s.forme f).ring r).head (arrivingLaunch s f r e) v := by
  have hl := findLaunch_arrived (e := e) hnone
  have htimer' : timerExpired (arrived s f r e) (arrivingLaunch s f r e).timer = false := htimer
  have hok' : entryStatus ((arrived s f r e).forme f) (arrived s f r e).time.ticks ((s.forme f).ring r).head (arrivingLaunch s f r e).entry =
      none := by
    rw [arrived_forme]
    exact hok
  have hpin' : pinVersion ((arrived s f r e).forme f) (arrived s f r e).time.ticks (arrivingLaunch s f r e).entry = some v := by
    rw [arrived_forme]
    exact hpin
  have hop' : entryOpcode (arrivingLaunch s f r e).entry = 1 := hop
  rw [arriveEntry_processed hfetch hnone]
  simp only [processEntry, hl, htimer', Bool.false_eq_true, if_false, hok', hop', hpin']

theorem arriveEntry_image (hop : (entryOpcode e = 2 ∧ findMatter (s.forme f) (entryMatter e) = none) ∨ entryOpcode e = 3) :
    arriveEntry s f r e = startImageRead (arrived s f r e) f r ((s.forme f).ring r).head e := by
  have hl := findLaunch_arrived (e := e) hnone
  have htimer' : timerExpired (arrived s f r e) (arrivingLaunch s f r e).timer = false := htimer
  have hok' : entryStatus ((arrived s f r e).forme f) (arrived s f r e).time.ticks ((s.forme f).ring r).head (arrivingLaunch s f r e).entry =
      none := by
    rw [arrived_forme]
    exact hok
  rw [arriveEntry_processed hfetch hnone]
  rcases hop with ⟨hop, hnew⟩ | hop
  · have hop' : entryOpcode (arrivingLaunch s f r e).entry = 2 := hop
    have hnew' : findMatter ((arrived s f r e).forme f) (entryMatter (arrivingLaunch s f r e).entry) = none := by
      rw [arrived_forme]
      exact hnew
    simp only [processEntry, hl, htimer', Bool.false_eq_true, if_false, hok', hop', hnew', Option.any_none]
    rfl
  · have hop' : entryOpcode (arrivingLaunch s f r e).entry = 3 := hop
    simp only [processEntry, hl, htimer', Bool.false_eq_true, if_false, hok', hop']
    rfl

/-- The forme whose matter of an entry has no newest version any more. -/
def freed (x : Forme) (e : RingEntry) : Forme :=
  Forme.freeVersions { x with matters := x.matters.map (fun m => if m.id == entryMatter e then { m with newest := none } else m) }

theorem arriveEntry_free (hop : entryOpcode e = 4) : arriveEntry s f r e =
    ((arrived s f r e).modForme f (fun x => freed x e)).completeWith f r ((s.forme f).ring r).head 0 := by
  have hl := findLaunch_arrived (e := e) hnone
  have htimer' : timerExpired (arrived s f r e) (arrivingLaunch s f r e).timer = false := htimer
  have hok' : entryStatus ((arrived s f r e).forme f) (arrived s f r e).time.ticks ((s.forme f).ring r).head (arrivingLaunch s f r e).entry =
      none := by
    rw [arrived_forme]
    exact hok
  have hop' : entryOpcode (arrivingLaunch s f r e).entry = 4 := hop
  rw [arriveEntry_processed hfetch hnone]
  simp only [processEntry, hl, htimer', Bool.false_eq_true, if_false, hok', hop']
  rfl

end

/-- The read of an image marks its launch, and leaves on the forme's port. -/
theorem startImageRead_spec (hl : findLaunch (s.forme f) r q = some l) (hcfg : (s.forme f).cfg = some c) : ∃ tag,
    findLaunch ((startImageRead s f r q e).forme f) r q = some { l with phase := .reading } ∧
    (startImageRead s f r q e).out = s.out ++ [.drd c.port c.fnId tag false (entrySource e) (entryLength e)] := by
  have hcfg' : ((s.modForme f (fun x => modLaunch x r q (fun l => { l with phase := .reading }))).forme f).cfg = some c := by
    rw [State.forme_modForme_self]
    exact hcfg
  obtain ⟨hport, hout⟩ := State.formeDrd_sentOn hcfg' (.matterImage f r q) false (entrySource e) (entryLength e)
  refine ⟨_, ?_, hout⟩
  rw [startImageRead, hport.forme f, State.forme_modForme_self, findLaunch_modLaunch (g := fun l => { l with phase := .reading })
    (fun _ => ⟨rfl, rfl⟩), hl]
  rfl

/-- The matter of an entry, freed, has no newest version. -/
theorem newest_of_mem_freed {x : Forme} {m : Matter} (hm : m ∈ (freed x e).matters) (hid : m.id = entryMatter e) : m.newest = none := by
  obtain ⟨k, hk, hkid, hknew⟩ := Forme.mem_freeVersions hm
  obtain ⟨j, -, rfl⟩ := List.mem_map.mp hk
  split at hkid
  next hj => rw [hknew, if_pos hj]
  next hj => exact absurd (by rw [← hkid, hid]; exact beq_self_eq_true _) hj

/-- Completion brings no matter back. -/
theorem mem_matters_completeWith {code : Code} {m : Matter} (hm : m ∈ ((s.completeWith f r q code).forme f).matters) :
    ∃ k ∈ (s.forme f).matters, m.id = k.id ∧ m.newest = k.newest := by
  obtain ⟨t, ht, hforme, -⟩ := completeWith_forme s f r q code
  obtain ⟨-, -, -, hmatters, -⟩ := Feed.mk.inj (ending_feed (s.forme f) r q code)
  have hback : (t.forme f).matters = (s.forme f).matters := by
    rw [hforme]
    exact hmatters
  rw [ht] at hm
  rw [← hback]
  cases hl : findLaunch (t.forme f) r q with
  | none =>
    simp only [State.completeEntry, hl] at hm
    exact ⟨m, hm, rfl, rfl⟩
  | some l =>
    obtain ⟨k, h | h⟩ := completeEntry_forme hl
    · rw [h] at hm
      exact (completing_feed (t.forme f) r q k).2.2.2 m hm
    · rw [h] at hm
      exact (completing_feed (t.forme f) r q k).2.2.2 m hm

/-- Settles O23: what an entry does follows from its arrival, case by case of its opcode. -/
theorem entryOpcodes : Obligations.EntryOpcodes := by
  refine ⟨fun s f r e c hfetch hcfg hstate hnone htimer hop => ?_, fun s f r e c hfetch hcfg hstate hnone htimer hop hseq => ?_,
    fun s f r e v hfetch hnone htimer hop hok hpin hpos hctx hrefusal => ?_, fun s f r e c hfetch hcfg hnone htimer hok hop => ?_,
    fun s f r e hfetch hnone htimer hok hop => ?_⟩
  · refine ⟨_, by rw [exec, execNop, if_pos (by simpa using hop)], ?_⟩
    cases hcode : entryStatus (s.forme f) s.time.ticks ((s.forme f).ring r).head e with
    | none =>
      rw [arriveEntry_nop hfetch hnone htimer hcode hop]
      exact arrived_recordSent hcfg hstate hnone
    | some code =>
      rw [arriveEntry_refused hfetch hnone htimer hcode]
      exact arrived_recordSent hcfg hstate hnone
  · have hcode : entryStatus (s.forme f) s.time.ticks ((s.forme f).ring r).head e = some 0x0D02 := if_pos (by simpa using hseq)
    refine ⟨_, by rw [exec, execLaunch, if_pos (by simp [hop])], ?_⟩
    rw [arriveEntry_refused hfetch hnone htimer hcode]
    exact arrived_recordSent hcfg hstate hnone
  · have harrived : ((arrived s f r e).forme f) = _ := arrived_forme s f r e
    have hsees : Sees f s (arrived s f r e) := by
      constructor
      case cores | mem | poisoned | poisonSets | galley => rfl
      all_goals rw [harrived]; rfl
    have hword : (contextRecord (arrived s f r e) f (entryContext e)).map (·.1) = (contextRecord s f (entryContext e)).map (·.1) :=
      hsees.contextRecord rfl (by rw [harrived]; rfl) _
    have hctx' : contextStatus (arrived s f r e) f e ((contextRecord (arrived s f r e) f (entryContext e)).map (·.1)) = none := by
      rw [hword]
      exact (contextStatus_congr (s := s) (by rw [harrived]; rfl) (by rw [harrived]; rfl) _).trans hctx
    have hrefusal' : launchRefusal (arrived s f r e) f v e = none := by rw [hsees.launchRefusal, hrefusal]
    refine ⟨_, by rw [exec, execLaunch, if_pos (by simp [hop]), arriveEntry_launch hfetch hnone htimer hok hop hpin,
      admitLaunch_stands (l := arrivingLaunch s f r e) hpos hctx' hrefusal'], ?_⟩
    obtain ⟨⟨d, hforme⟩, -, -, -, hout, -⟩ := afterRead_counted (arrived s f r e) f (entryContext e)
    have hfind : findLaunch ((afterRead (arrived s f r e) (contextRecord (arrived s f r e) f (entryContext e))).forme f) r
        ((s.forme f).ring r).head = some (arrivingLaunch s f r e) := by
      rw [hforme]
      exact findLaunch_arrived hnone
    have hold : if entryNewCtx e then findCtx ((afterRead (arrived s f r e) (contextRecord (arrived s f r e) f (entryContext e))).forme f)
          (entryContext e) = none
        else (findCtx ((afterRead (arrived s f r e) (contextRecord (arrived s f r e) f (entryContext e))).forme f)
          (entryContext e)).isSome = true := by
      rw [hforme]
      exact ctx_of_contextStatus hctx'
    obtain ⟨hlaunch, j, hj⟩ := noteKeyMaker_enterLaunch (v := v) (w := recordWord (arrived s f r e) f e)
      (afterRead (arrived s f r e) (contextRecord (arrived s f r e) f (entryContext e))) (l := arrivingLaunch s f r e) rfl rfl hfind hold
    obtain ⟨-, -, hphase, hversion, hentry, hfetched, hended⟩ := running_spec
      ((afterRead (arrived s f r e) (contextRecord (arrived s f r e) f (entryContext e))).forme f) (arrivingLaunch s f r e) v
    refine ⟨?_, ⟨_, hlaunch, hphase, hversion, hentry, hfetched, hended⟩, _, hj, rfl, rfl, rfl, rfl, ?_⟩
    · rw [(noteKeyMaker_spec _ _ f r _).2.1]
      exact hout
    · rw [← hword]
      rfl
  · refine ⟨startImageRead (arrived s f r e) f r ((s.forme f).ring r).head e, ?_, ?_, ?_⟩
    · rw [← arriveEntry_image hfetch hnone htimer hok hop]
      rcases hop with ⟨hop, -⟩ | hop
      · rw [if_pos hop, exec, execStore, if_pos (by simpa using hop)]
      · rw [if_neg (by omega), exec, execPatch, if_pos (by simpa using hop)]
    · obtain ⟨tag, hfind, -⟩ := startImageRead_spec (s := arrived s f r e) (findLaunch_arrived hnone) (by rw [arrived_forme]; exact hcfg) (e := e)
      exact ⟨_, hfind, rfl, rfl⟩
    · obtain ⟨tag, -, hout⟩ := startImageRead_spec (s := arrived s f r e) (findLaunch_arrived hnone) (by rw [arrived_forme]; exact hcfg) (e := e)
      exact ⟨tag, hout⟩
  · refine ⟨_, by rw [exec, execFree, if_pos (by simpa using hop)], fun m hm hid => ?_⟩
    rw [arriveEntry_free hfetch hnone htimer hok hop] at hm
    obtain ⟨k, hk, hkid, hknew⟩ := mem_matters_completeWith hm
    rw [State.forme_modForme_self] at hk
    rw [hknew]
    exact newest_of_mem_freed hk (hkid ▸ hid)

end Sys2Proof.Machine
end

section
/-! The pass point, proofs that land, and flags (R181, R184, R195, R288 to R291). -/
namespace Sys2Proof.Machine

variable {s : State} {f : FormeId} {t : SlugTag} {sl : Slug} {l : Launch} {a : Nat} {d : List Byte}

/-! ### The pass point (R181, R195) -/

/-- The slug as it passes. -/
def passingSlug (z : Slug) : Slug := { z with state := .passing, wait := .none }

/-- The slug whose proofs have landed. -/
def landedSlug (z : Slug) : Slug := { z with written := true }

/-- A slug that may pass, and asks for nothing of another forme or of the host, is PASSING. -/
theorem exec_slugPassPoint (hfind : findSlug (s.forme f) t = some sl) (hpass : mayPass (s.forme f) sl = true) (hgood : readsBad s f sl = false)
    (hmatched : sl.matched = 0) (hhost : hostProofs sl = []) : exec (.slugPassPoint f t) s =
      .next ((s.modForme f (fun x => modSlug x t passingSlug)).settle f) := by
  have hforeign : foreignHit f sl = none := by
    rw [foreignHit, hmatched]
    cases sl.hit <;> simp
  simp only [exec, execSlugPassPoint, passPoint, hfind, hpass, hgood, hforeign, hhost, Bool.not_true, Bool.false_eq_true, if_false, List.foldl_nil]
  rfl

/-! ### Proofs that land (R181, R184) -/

/-- A slug whose one proof is of galley writes no page of the spill range. -/
theorem passPages_galley {x : Forme} (hproofs : sl.proofs = [.galley a d]) : passPages x sl = [] := by
  rw [passPages, hproofs]
  rfl

/-- The one proof of galley lands: its bytes are written, and the slug remembers it. -/
theorem landAll_galley (hproofs : sl.proofs = [.galley a d]) (hmatched : sl.matched = 0) (happended : sl.appended = 0) :
    landAll s f sl = (s.galleyWrite a d).modForme f (fun x => modSlug x sl.tag landedSlug) := by
  have hlost : spillLost s f [] = none := rfl
  rw [landAll, passPages_galley hproofs, hlost]
  simp only [passFaults, landProofs, hproofs, hmatched, happended, Nat.lt_irrefl, if_false]
  rfl

/-- The slug as it has passed. -/
def passedSlug (z : Slug) : Slug :=
  { z with state := .passed, reserved := false, proofs := [], locals := [], sealed := none, inStep := false, cores := [] }

/-- The launch with one more slug passed. -/
def passedLaunch (sl : Slug) (l : Launch) : Launch := { l with passed := satInc l.passed, flags := l.flags ||| sl.flags }

theorem slugPassed_eq (hmatched : sl.matched = 0) : slugPassed s f sl =
    (s.modForme f (fun x => modLaunch (modSlug x sl.tag passedSlug) sl.ring sl.seq (passedLaunch sl))).settle f := by
  have hcut : ∀ x, cutFromMatch x sl = x := fun x => if_pos hmatched
  simp only [slugPassed, hcut]
  rfl

/-- What a slug that has passed leaves of itself and of its launch. -/
theorem slugPassed_spec (hmatched : sl.matched = 0) (hfind : findSlug (s.forme f) t = some sl) (hl : findLaunch (s.forme f) sl.ring sl.seq = some l) :
    (∃ z, findSlug ((slugPassed s f sl).forme f) t = some z ∧ z.state = .passed ∧ z.proofs = [] ∧ z.reserved = false) ∧
    (∃ k, findLaunch ((slugPassed s f sl).forme f) sl.ring sl.seq = some k ∧ k.passed = satInc l.passed ∧ k.flags = (l.flags ||| sl.flags)) ∧
    Beside f s (slugPassed s f sl) ∧ (slugPassed s f sl).stack = s.stack ∧ (slugPassed s f sl).out = s.out := by
  rw [slugPassed_eq hmatched]
  generalize hu : s.modForme f (fun x => modLaunch (modSlug x sl.tag passedSlug) sl.ring sl.seq (passedLaunch sl)) = u
  have hforme : u.forme f = modLaunch (modSlug (s.forme f) sl.tag passedSlug) sl.ring sl.seq (passedLaunch sl) := by
    rw [← hu, State.forme_modForme_self]
  have hslug : findSlug (u.forme f) t = some (passedSlug sl) := by
    have htag := findSlug_tag hfind
    rw [hforme, htag]
    refine (findSlug_modSlug_self (x := s.forme f) (g := passedSlug) (fun _ => rfl)).trans ?_
    rw [hfind]
    rfl
  have hlaunch : findLaunch (u.forme f) sl.ring sl.seq = some (passedLaunch sl l) := by
    rw [hforme, findLaunch_modLaunch (g := passedLaunch sl) (fun _ => ⟨rfl, rfl⟩)]
    rw [show findLaunch (modSlug (s.forme f) sl.tag passedSlug) sl.ring sl.seq = some l from hl]
    rfl
  obtain ⟨hbeside, hstack, hout⟩ := u.settle_beside f
  refine ⟨?_, ?_, ?_, by rw [hstack, ← hu]; rfl, by rw [hout, ← hu]; rfl⟩
  · obtain ⟨b, hb⟩ := State.findSlug_settle hslug nofun
    exact ⟨_, hb, rfl, rfl, rfl⟩
  · obtain ⟨x, y, last, ts, cut, fr, hn⟩ := nextChunk_eq (u.forme f) (passedLaunch sl l)
    refine ⟨_, by rw [State.findLaunch_settle, hlaunch]; rfl, ?_, ?_⟩ <;> rw [hn] <;> rfl
  · rw [← hu] at hbeside ⊢
    exact (s.modForme_beside f _).trans hbeside

theorem exec_proofWritesDone (hfind : findSlug (s.forme f) t = some sl) (hstate : sl.state = .passing) (hwait : sl.wait = .none)
    (hwritten : sl.written = false) (hproofs : sl.proofs = [.galley a d]) (hresult : useOut s (.result f sl.ring sl.seq) = false)
    (hheld : ((s.forme f).ring sl.ring).heldResults = []) : exec (.proofWritesDone f t) s = .next (writesEnd (landAll s f sl) f t) := by
  have hnowait : spillWaits s f (passPages (s.forme f) sl) = false := by
    rw [passPages_galley hproofs, spillWaits, List.any_nil, Bool.and_false]
  simp only [exec, execProofWritesDone, writesDone, hfind, hstate, hwait, hresult, hheld, hwritten, hnowait, List.contains_nil,
    bne_self_eq_false, Bool.or_false, Bool.false_eq_true, if_false]
  rfl

/-- Settles O28: the pass point is one change of the slug, and a proof of galley that lands lets the slug pass at once. -/
theorem slugsPassAndLand : Obligations.SlugsPassAndLand := by
  refine ⟨fun s f t sl hfind hpass hgood hmatched hhost => ?_, fun s f t sl l a d hok hfind hstate hwait hwritten hproofs hmatched happended
    hdue hreleased hreleases hresult hwrite hheld hl => ?_⟩
  · refine ⟨_, exec_slugPassPoint hfind hpass hgood hmatched hhost, ?_⟩
    generalize hu : s.modForme f (fun x => modSlug x t passingSlug) = u
    obtain ⟨hbeside, hstack, hout⟩ := u.settle_beside f
    have hslug : findSlug (u.forme f) t = some (passingSlug sl) := by
      rw [← hu, State.forme_modForme_self, findSlug_modSlug_self (g := passingSlug) (fun _ => rfl), hfind]
      rfl
    obtain ⟨b, hb⟩ := State.findSlug_settle hslug nofun
    refine ⟨?_, by rw [hout, ← hu]; rfl, _, hb, rfl, rfl, findSlug_tag (x := s.forme f) (sl := sl) hfind⟩
    rw [← hu] at hbeside hstack ⊢
    exact ((s.modForme_beside f _).trans hbeside).elsewhereKept hstack
  · refine ⟨_, exec_proofWritesDone hfind hstate hwait hwritten hproofs hresult hheld, ?_⟩
    rw [landAll_galley hproofs hmatched happended]
    generalize hu : (s.galleyWrite a d).modForme f (fun x => modSlug x sl.tag landedSlug) = u
    have hforme : u.forme f = modSlug (s.forme f) sl.tag landedSlug := by
      rw [← hu, State.forme_modForme_self]
      rfl
    have hslug : findSlug (u.forme f) t = some (landedSlug sl) := by
      rw [hforme, findSlug_tag hfind, findSlug_modSlug_self (g := landedSlug) (fun _ => rfl), hfind]
      rfl
    have hlaunch : findLaunch (u.forme f) sl.ring sl.seq = some l := by
      rw [hforme]
      exact hl
    have hops : releaseOps (u.forme f) (landedSlug sl) = [] := by
      rw [hforme]
      exact hreleases
    have hquiet : useOut u (.slugWrite f t) = false := by
      rw [← hu]
      exact hwrite
    have hend : writesEnd u f t = slugPassed u f (landedSlug sl) := by
      have hdue' : (landedSlug sl).remoteDue = [] := hdue
      simp only [writesEnd, hslug, hops, hquiet, hdue', List.isEmpty_nil, List.length_nil, Nat.zero_le, decide_true, Bool.true_or,
        Bool.not_false, Bool.and_true, if_true]
    obtain ⟨hpassed, hcount, hbeside, hstack, hout⟩ := slugPassed_spec (sl := (landedSlug sl)) hmatched hslug hlaunch
    rw [hend]
    refine ⟨fun x => ?_, hpassed, hcount, ?_, ?_, ?_, fun g hg => ?_⟩
    · rw [hbeside.galley, ← hu]
      exact galleyByte_putAll hok.2 x
    · rw [hstack, ← hu]
      rfl
    · rw [hout, ← hu]
      rfl
    · rw [hbeside.time, ← hu]
      rfl
    · rw [hbeside.formes g hg, ← hu]
      exact (State.modForme_beside f (s.galleyWrite a d) _).formes g hg

end Sys2Proof.Machine
end

section
/-! Flags (R288 to R291). -/
namespace Sys2Proof.Machine

variable {s u : State} {f : FormeId} {t : SlugTag} {sl : Slug} {o : OpRec} {off : Nat}

/-! ### The flag write of a RELEASE (R288) -/

/-- A place in the forme's stack space lies inside it. -/
theorem place_stack_le {a : BitVec 56} {n : Nat} {c : FormeCfg} (hcfg : (s.forme f).cfg = some c) (h : place? s f a n = .stack off) :
    off + n ≤ c.stackGib * 2 ^ 30 := by
  simp only [place?, hcfg] at h
  split at h
  · split at h
    next hin =>
      obtain rfl := Place.stack.inj h
      rw [Bool.and_eq_true, decide_eq_true_iff, decide_eq_true_iff] at hin
      exact hin.2
    next => contradiction
  · split at h
    · contradiction
    · split at h <;> contradiction
  · split at h <;> contradiction
  all_goals first | contradiction | (split at h <;> contradiction)

theorem leBytes_length (n x : Nat) : (leBytes n x).length = n := by
  induction n generalizing x with
  | zero => rfl
  | succ n ih => rw [leBytes, List.length_cons, ih]

/-- The slug whose next RELEASE is under way. -/
def releasedSlug (z : Slug) : Slug := { z with released := z.released + 1 }

theorem exec_releaseDrainDone (hfind : findSlug (s.forme f) t = some sl) (hstate : sl.state = .passing) (hdrained : drained s f sl = true)
    (ho : (releaseOps (s.forme f) sl)[sl.released]? = some o) : exec (.releaseDrainDone f t) s =
      .next (writeFlag (s.modForme f (fun x => modSlug x t releasedSlug)) f t o) := by
  simp only [exec, execReleaseDrainDone, releaseNext, hfind, hstate, hdrained, beq_self_eq_true, Bool.and_self, if_true, ho]
  rfl

/-- The word that a RELEASE writes over an old one. -/
def flagWord (o : OpRec) (old : Word) : Word := if fld (opWord o 0) 9 8 = 1 then old + opWord o 2 else opWord o 2

/-- A flag of the forme's own stack space is written where it lies; an ADD reads it first. -/
theorem writeFlag_stack (hwrites : fld (opWord o 0) 9 8 < 2) (hplace : place? s f (devAddr (opWord o 1)) 8 = .stack off) :
    ∃ u, (u = s ∨ u = countPoison s f off 8) ∧
      writeFlag s f t o = watchedWrite u f off (leBytes 8 (flagWord o ((s.stackWord f off).getD 0)).toNat) := by
  have hno : ¬ (!releaseWrites o) = true := by simp [releaseWrites, hwrites]
  refine ⟨if fld (opWord o 0) 9 8 = 1 then countPoison s f off 8 else s, ?_, ?_⟩
  · split
    · exact .inr rfl
    · exact .inl rfl
  · rw [writeFlag, if_neg hno]
    simp only [hplace]
    rfl

/-! ### An acquire that is satisfied (R289, R291) -/

/-- Dropping copies touches neither slugs nor bytes, and nothing leaves. -/
theorem dropScope_spec (s : State) (f : FormeId) (ws : List Word) : ((dropScope s f ws).forme f).slugs = (s.forme f).slugs ∧
    (dropScope s f ws).stack.mem = s.stack.mem ∧ (dropScope s f ws).galley = s.galley ∧ (dropScope s f ws).out = s.out := by
  have hslugs : ((dropRemote (s.modForme f (dropCopies ws)) f ws).forme f).slugs = (s.forme f).slugs := by
    rw [dropRemote, State.forme_modForme_self]
    change ((s.modForme f (dropCopies ws)).forme f).slugs = _
    rw [State.forme_modForme_self]
    rfl
  unfold dropScope
  dsimp only
  split
  · exact ⟨hslugs, rfl, rfl, rfl⟩
  · exact ⟨hslugs, rfl, rfl, rfl⟩

/-- The slug whose opening acquire is satisfied. -/
def acquiredSlug (z : Slug) : Slug := { z with acquired := true, op := 1, asked := [], fetched := [] }

theorem acquireDone_queued (hstate : sl.state = .queued) : acquireDone s f sl o =
    ((dropScope s f ((scopeOf s f o).getD [])).modForme f (fun x => modSlug x sl.tag acquiredSlug)).settle f := by
  rw [acquireDone, hstate]
  rfl

theorem exec_acquireFlagPoll_holds {w : Word} (hfind : findSlug (s.forme f) t = some sl) (hop : acquireOp (s.forme f) sl = some o)
    (hheld : acquireNoFlag o = true ∨
      (place? s f (devAddr (opWord o 1)) 8 = .stack off ∧ s.poisonedLine f off 8 = none ∧ flagHolds s f o off = true)) :
    exec (.acquireFlagPoll f t w) s = .next (acquireDone s f sl o) := by
  rcases hheld with hno | ⟨hplace, hclean, hholds⟩
  · simp only [exec, execAcquireFlagPoll, pollFlag, hfind, hop, hno, if_true]
  · simp only [exec, execAcquireFlagPoll, pollFlag, hfind, hop, hplace, hclean, hholds, if_true, ite_self]

theorem exec_acquireFlagPoll_waits {w : Word} (hfind : findSlug (s.forme f) t = some sl) (hop : acquireOp (s.forme f) sl = some o)
    (hno : acquireNoFlag o = false) (hplace : place? s f (devAddr (opWord o 1)) 8 = .stack off) (hclean : s.poisonedLine f off 8 = none)
    (hbelow : flagHolds s f o off = false) : exec (.acquireFlagPoll f t w) s = .next s := by
  simp only [exec, execAcquireFlagPoll, pollFlag, hfind, hop, hno, hplace, hclean, hbelow, Bool.false_eq_true, if_false]

/-- Settles O29: a flag's write is a write of eight bytes of stack space, and an acquire reads it. -/
theorem flagsReleaseAndAcquire : Obligations.FlagsReleaseAndAcquire := by
  refine ⟨fun s f t sl o c g off hfind hstate hdrained ho hcfg hc hwrites hplace => ?_, fun s f t w sl o off hfind hop hstate hin hheld => ?_,
    fun s f t w sl o off hfind hop hno hplace hclean hbelow => exec_acquireFlagPoll_waits hfind hop hno hplace hclean hbelow⟩
  · refine ⟨_, exec_releaseDrainDone hfind hstate hdrained ho, ?_⟩
    generalize hm : s.modForme f (fun x => modSlug x t releasedSlug) = m
    have hsees : Sees f s m := by
      rw [← hm]
      exact State.modForme_sees rfl rfl rfl rfl rfl rfl
    have hplace' : place? m f (devAddr (opWord o 1)) 8 = .stack off := by rw [hsees.place, hplace]
    obtain ⟨u, hu, hwrite⟩ := writeFlag_stack (t := t) hwrites hplace'
    have hcounted : Counted f m u := by
      rcases hu with rfl | rfl
      · exact Counted.refl f u
      · exact countPoison_counted m f off 8
    have hbeside : Beside f m u := by
      rcases hu with rfl | rfl
      · exact Beside.refl f u
      · exact (countPoison_steady m f 0 off 8).beside
    obtain ⟨⟨n, hforme⟩, ⟨ds, hstack⟩, -, hgalley, hout, htime, -, -⟩ := hcounted
    have hcfg' : (u.forme f).cfg = some c := by rw [hforme]; exact hsees.cfg.trans hcfg
    have hend := place_stack_le (hsees.cfg.trans hcfg) hplace'
    rw [hwrite]
    have hbytes := State.stackStore_byte (d := leBytes 8 (flagWord o ((m.stackWord f off).getD 0)).toNat) (off := off) hcfg' hc .normal
      (by rw [leBytes_length]; exact hend)
    have hword : m.stackWord f off = s.stackWord f off := by rw [State.stackWord, hsees.stackRead, ← State.stackWord]
    obtain ⟨k, p, hwatched⟩ := watchedWrite_eq u f off (leBytes 8 (flagWord o ((m.stackWord f off).getD 0)).toNat)
    refine ⟨fun key x => ?_, ?_, ?_, ?_, ?_, fun h hh => ?_⟩
    · rw [watchedWrite_stack, hbytes key x, leBytes_length, hword, hstack]
      rw [← hm]
      rfl
    · rw [hwatched, State.forme_modForme_self]
      change findSlug (u.forme f) t = _
      rw [hforme]
      change findSlug (m.forme f) t = _
      rw [← hm, State.forme_modForme_self, findSlug_modSlug_self (g := releasedSlug) (fun _ => rfl), hfind]
      rfl
    · rw [hwatched]
      exact hgalley.trans (by rw [← hm]; rfl)
    · rw [hwatched]
      exact hout.trans (by rw [← hm]; rfl)
    · rw [hwatched]
      exact htime.trans (by rw [← hm]; rfl)
    · rw [hwatched, State.forme_modForme_of_ne _ _ _ _ (Ne.symm hh)]
      refine (hbeside.formes h hh).trans ?_
      rw [← hm, State.forme_modForme_of_ne _ _ _ _ (Ne.symm hh)]
  · refine ⟨_, exec_acquireFlagPoll_holds hfind hop hheld, ?_⟩
    rw [acquireDone_queued hstate]
    obtain ⟨hslugs, hmem, hgalley, hout⟩ := dropScope_spec s f ((scopeOf s f o).getD [])
    generalize dropScope s f ((scopeOf s f o).getD []) = v at hslugs hmem hgalley hout
    have hfound : findSlug ((v.modForme f (fun x => modSlug x sl.tag acquiredSlug)).forme f) t = some (acquiredSlug sl) := by
      have htag := findSlug_tag hfind
      rw [State.forme_modForme_self, htag, findSlug_modSlug_self (g := acquiredSlug) (fun _ => rfl), findSlug, hslugs]
      rw [show (s.forme f).slugs.find? (fun d => d.tag == t) = some sl from hfind]
      rfl
    obtain ⟨b, hb⟩ := State.findSlug_settle_of hfound (fun _ => hin)
    obtain ⟨hbeside, hstack', hout'⟩ := (v.modForme f (fun x => modSlug x sl.tag acquiredSlug)).settle_beside f
    exact ⟨⟨_, hb, rfl, rfl, hstate, rfl⟩, by rw [hstack']; exact hmem, hbeside.galley.trans hgalley, hout'.trans hout⟩

end Sys2Proof.Machine
end

section
/-! Packets of a job: a link that is ready sends what is put on it, and a packet that comes in order is delivered at once (R307 to R309,
R313, R316 to R318). -/
namespace Sys2Proof.Machine

variable {s t u : State} {f : FormeId} {k : JobSlot} {j : Job} {p : Packet} {l : LinkId}

/-! ### Jobs of a forme -/

@[simp] theorem Forme.job_setJob_self (x : Forme) (k : JobSlot) (j : Option Job) : (x.setJob k j).job k = j := by
  simp [Forme.job, Forme.setJob]

theorem Forme.job_setJob_of_ne (x : Forme) {i k : JobSlot} (j : Option Job) (h : i ≠ k) : (x.setJob k j).job i = x.job i := by
  have hne : k.val ≠ i.val := fun e => h (Fin.ext e.symm)
  simp [Forme.job, Forme.setJob, hne]

theorem Forme.setJob_setJob (x : Forme) (k : JobSlot) (i j : Option Job) : (x.setJob k i).setJob k j = x.setJob k j := by
  simp [Forme.setJob]

/-- A change of a job that is there. -/
theorem State.modJob_of_some (hj : (s.forme f).job k = some j) (g : Job → Job) :
    (s.modJob f k g).forme f = (s.forme f).setJob k (some (g j)) := by
  rw [State.modJob, State.forme_modForme_self]
  simp only [hj]

theorem State.modJob_onlyForme (s : State) (f : FormeId) (k : JobSlot) (g : Job → Job) : OnlyForme f s (s.modJob f k g) :=
  s.modForme_onlyForme f _

/-! ### Changes of one forme alone -/

theorem onlyForme_iff : OnlyForme f s t ↔ ∃ x, t = s.setForme f x := by
  refine ⟨fun h => ⟨_, h⟩, ?_⟩
  rintro ⟨x, rfl⟩
  rw [OnlyForme, State.forme_setForme_self]

theorem State.setForme_setForme (s : State) (f : FormeId) (x y : Forme) : (s.setForme f x).setForme f y = s.setForme f y := by
  simp [State.setForme]

theorem OnlyForme.trans (h : OnlyForme f s t) (g : OnlyForme f t u) : OnlyForme f s u := by
  obtain ⟨x, rfl⟩ := onlyForme_iff.mp h
  obtain ⟨y, rfl⟩ := onlyForme_iff.mp g
  exact onlyForme_iff.mpr ⟨y, State.setForme_setForme s f x y⟩

theorem OnlyForme.beside (h : OnlyForme f s t) : Beside f s t := by
  obtain ⟨x, rfl⟩ := onlyForme_iff.mp h
  exact s.modForme_beside f (fun _ => x)

theorem OnlyForme.rest (h : OnlyForme f s t) : t.links = s.links ∧ t.selfReg = s.selfReg ∧ t.stack = s.stack ∧ t.galley = s.galley ∧
    t.out = s.out ∧ t.time = s.time ∧ t.cores = s.cores ∧ t.free = s.free := by
  obtain ⟨x, rfl⟩ := onlyForme_iff.mp h
  exact ⟨rfl, rfl, rfl, rfl, rfl, rfl, rfl, rfl⟩

/-! ### Sending (R307 to R309, R313) -/

theorem linkReady_congr (h : t.links = s.links) (hr : LinkReady s l) : LinkReady t l := by
  have hlink : t.link l = s.link l := by rw [State.link, h, State.link]
  unfold LinkReady at hr ⊢
  rw [hlink]
  exact hr

/-- A route goes by ACZ_SELF and the state of the links. -/
theorem route_congr (hself : t.selfReg = s.selfReg) (hlinks : t.links = s.links) (dst : BitVec 12) (rev : Bool) (via : Option LinkId) :
    route t dst rev via = route s dst rev via := by
  have hus : linkUsable t = linkUsable s := by
    funext l
    simp only [linkUsable, State.link, hlinks]
  have hme : t.selfModule = s.selfModule := by rw [State.selfModule, hself, State.selfModule]
  have hnx : t.nx = s.nx := by rw [State.nx, hself, State.nx]
  have hny : t.ny = s.ny := by rw [State.ny, hself, State.ny]
  unfold route
  rw [hme, hnx, hny, hus]

theorem packetBytes_le (h : p.ptype ≠ 7) : packetBytes p ≤ 559 := by
  have hlen := p.len.isLt
  have hno : ¬ (p.ptype == 7) = true := by simpa using h
  rw [packetBytes, if_neg hno]
  omega

/-- The last flit of a packet carries it. -/
theorem mem_packetFlits (p : Packet) (q : BitVec 12) : ∃ n, (n, [p]) ∈ packetFlits p q := by
  have hpos : flitsOf p - 1 + 1 = flitsOf p := Nat.sub_add_cancel (Nat.le_max_left 1 _)
  refine ⟨q + BitVec.ofNat 12 (flitsOf p - 1), List.mem_map.mpr ⟨flitsOf p - 1, List.mem_range.mpr (by omega), ?_⟩⟩
  rw [if_pos hpos]

/-- Flits put out one after the other. -/
theorem foldl_emit_flit (l : LinkId) (fs : List (BitVec 12 × List Packet)) (s : State) :
    fs.foldl (fun t f => t.emit (.flit l f.1 f.2)) s = { s with out := s.out ++ fs.map (fun f => .flit l f.1 f.2) } := by
  induction fs generalizing s with
  | nil => simp
  | cons f fs ih => rw [List.foldl_cons, ih, State.emit, List.map_cons, List.append_assoc, List.singleton_append]

/-- A link that is ready sends a packet of any type but JOB at once. -/
theorem enqueue_ready (hr : LinkReady s l) (hp : p.ptype ≠ 7) : ∃ ls fl, enqueue s l p = { s with links := ls, out := s.out ++ fl } ∧
    ∃ q, Output.flit l q [{ p with cls := classOn s l p.cls }] ∈ fl := by
  obtain ⟨hup, -, hqueue, hreplay, hcredits⟩ := hr
  generalize hq : ({ p with cls := classOn s l p.cls } : Packet) = q
  have hbytes : packetBytes q ≤ 559 := packetBytes_le (by rw [← hq]; exact hp)
  have hneed : creditNeed q ≤ 16 := by
    have hdiv : creditNeed q = (packetBytes q + 64 - 1) / 64 := rfl
    omega
  have hflits : flitsOf q ≤ 2048 := by
    have hdiv : flitsOf q = max 1 ((packetBytes q + 232 - 1) / 232) := rfl
    omega
  have hlink : (s.modLink l (fun k => { k with queue := k.queue ++ [q] })).link l = { s.link l with queue := [q] } := by
    rw [State.link_modLink_self, hqueue]
    rfl
  have hgo : ((s.link l).state == .up && decide ((s.link l).replay.length + flitsOf q ≤ 2048) &&
      decide (creditNeed q ≤ (s.link l).credits[(creditIndex q).val])) = true := by
    rw [hup, hreplay, List.length_nil, Nat.zero_add, decide_eq_true hflits, decide_eq_true (Nat.le_trans hneed (hcredits (creditIndex q)))]
    rfl
  obtain ⟨n, hn⟩ := mem_packetFlits q (s.link l).txSeq
  have henqueue : enqueue s l p = drainQueue ((s.modLink l (fun k => { k with queue := k.queue ++ [q] })).link l).queue.length
      (s.modLink l (fun k => { k with queue := k.queue ++ [q] })) l := by rw [← hq]; rfl
  rw [henqueue, hlink, List.length_singleton, drainQueue]
  simp only [hlink]
  rw [if_pos hgo, drainQueue, foldl_emit_flit]
  exact ⟨_, _, rfl, n, List.mem_map.mpr ⟨(n, [q]), hn, rfl⟩⟩

/-- A packet from here with a route over a ready link leaves at once. -/
theorem forward_ready {rev : Bool} (hrev : p.reversed = false) (hroute : route s p.dst false none = some (l, rev)) (hr : LinkReady s l)
    (hp : p.ptype ≠ 7) : ∃ ls fl, forward s none p = { s with links := ls, out := s.out ++ fl } ∧
      ∃ q c, Output.flit l q [{ p with reversed := rev, cls := c }] ∈ fl := by
  have hpacket : forward s none p = enqueue s l { p with reversed := rev, cls := p.cls && true } := by
    rw [forward, hrev, hroute]
    rfl
  obtain ⟨ls, fl, h, q, hq⟩ := enqueue_ready (p := { p with reversed := rev, cls := p.cls && true }) hr hp
  rw [hpacket, h]
  exact ⟨ls, fl, rfl, q, _, hq⟩

/-- What a packet of a job carries. -/
def Carries (s : State) (j : Job) (dst : BitVec 12) (ptype : BitVec 4) (body : PacketBody) (q : Packet) : Prop :=
  q.ptype = ptype ∧ q.dst = dst ∧ q.src = s.selfModule ∧ q.jobId = j.jobId ∧ q.body = body

/-- A packet of a job leaves over a ready link; of the job its numbers move on. -/
theorem sendJob_ready {dst : BitVec 12} {ty : BitVec 4} {vc : Fin 4} {n : Nat} {arg : BitVec 32} {body : PacketBody} {rev : Bool}
    (hj : (s.forme f).job k = some j) (hroute : route s dst false none = some (l, rev)) (hr : LinkReady s l) (hty : ty ≠ 7) :
    PacketSent l (Carries s j dst ty body) s (sendJob s f k dst ty vc n arg body) ∧
    (sendJob s f k dst ty vc n arg body).stack = s.stack ∧ (sendJob s f k dst ty vc n arg body).galley = s.galley ∧
    ∃ a b, ((sendJob s f k dst ty vc n arg body).forme f).job k = some { j with pktNum := a, dseq := b } := by
  generalize hu : s.modJob f k (fun j => { j with
    pktNum := j.pktNum + 1, dseq := (j.dseq.filter (·.1 != dst)) ++ [(dst, dseqOf j dst + 1)] }) = u
  have hsend : sendJob s f k dst ty vc n arg body = forward u none {
      ptype := ty, vc := vc, src := s.selfModule, dst := dst, len := BitVec.ofNat 9 n, cls := false, reversed := false,
      hops := 0, jobId := j.jobId, pktNum := j.pktNum, dseq := dseqOf j dst, arg := arg, body := body, tagOk := true } := by
    simp only [sendJob, jobPacket, hj]
    rw [← hu]
  have honly : OnlyForme f s u := by
    rw [← hu]
    exact s.modJob_onlyForme f k _
  have hjob : (u.forme f).job k = some { j with
      pktNum := j.pktNum + 1, dseq := (j.dseq.filter (·.1 != dst)) ++ [(dst, dseqOf j dst + 1)] } := by
    rw [← hu, State.modJob_of_some hj, Forme.job_setJob_self]
  obtain ⟨hlinks, hself, hstack, hgalley, hout, -⟩ := honly.rest
  have hroute' : route u dst false none = some (l, rev) := by rw [route_congr hself hlinks, hroute]
  obtain ⟨ls, fl, hforward, q, c, hq⟩ := forward_ready (s := u) (p := {
      ptype := ty, vc := vc, src := s.selfModule, dst := dst, len := BitVec.ofNat 9 n, cls := false, reversed := false,
      hops := 0, jobId := j.jobId, pktNum := j.pktNum, dseq := dseqOf j dst, arg := arg, body := body, tagOk := true }) rfl hroute'
    (linkReady_congr hlinks hr) hty
  rw [hsend, hforward]
  have hmem : ∀ o ∈ fl, o ∈ (u.out ++ fl).drop s.out.length := fun o ho => by
    rw [hout, List.drop_left]
    exact ho
  exact ⟨⟨q, _, ⟨rfl, rfl, rfl, rfl, rfl⟩, hmem _ hq⟩, hstack, hgalley, _, _, hjob⟩

/-! ### Delivery (R316, R318) -/

/-- A job is held in its slot. -/
theorem job_of_jobById {id : Word} (h : jobById s id = some (f, k, j)) : (s.forme f).job k = some j ∧ j.jobId = id ∧ j.isOpen = true := by
  obtain ⟨g, -, hg⟩ := List.exists_of_findSome?_eq_some h
  obtain ⟨i, -, hi⟩ := List.exists_of_findSome?_eq_some hg
  cases hjob : (s.forme g).job i with
  | none => simp [hjob] at hi
  | some b =>
    simp only [hjob] at hi
    split at hi
    next hb =>
      obtain ⟨rfl, rfl, rfl⟩ : g = f ∧ i = k ∧ b = j := by simpa using hi
      rw [Bool.and_eq_true, beq_iff_eq] at hb
      exact ⟨hjob, hb⟩
    next => contradiction

theorem reorderOf_src (j : Job) (src : BitVec 12) : (reorderOf j src).src = src := by
  unfold reorderOf
  cases h : j.rx.find? (·.src == src) with
  | none => rfl
  | some r => simpa using List.find?_some h

/-- A job with a source's delivery state put back. -/
def withReorder (j : Job) (r : Reorder) : Job := { j with rx := j.rx.filter (·.src != r.src) ++ [r] }

/-- The delivery state put back is the one found. -/
theorem reorderOf_withReorder (j : Job) (r : Reorder) : reorderOf (withReorder j r) r.src = r := by
  have hnone : (j.rx.filter (·.src != r.src)).find? (·.src == r.src) = none := by
    rw [List.find?_eq_none]
    intro d hd
    simpa using (List.mem_filter.mp hd).2
  rw [reorderOf, withReorder, List.find?_append, hnone, Option.none_or]
  simp

theorem putReorder_forme (hj : (s.forme f).job k = some j) (r : Reorder) :
    (putReorder s f k r).forme f = (s.forme f).setJob k (some (withReorder j r)) := State.modJob_of_some hj _

/-- The state in which a packet that came in order acts: its source's count has moved on, and nothing more of it is held. -/
structure Delivering (s : State) (f : FormeId) (k : JobSlot) (j : Job) (src : BitVec 12) (t : State) : Prop where
  onlyForme : OnlyForme f s t
  forme : ∃ i, t.forme f = (s.forme f).setJob k (some i) ∧ (∃ rx, i = { j with rx := rx }) ∧ (reorderOf i src).window = []

/-- Nothing more is delivered from a source of which nothing is held. -/
theorem deliverNext_of_empty {src : BitVec 12} (h : ∀ i, (s.forme f).job k = some i → (reorderOf i src).window = []) (n : Nat) :
    deliverNext n s f k src = s := by
  cases n with
  | zero => rfl
  | succ n =>
    rw [deliverNext]
    cases hjob : (s.forme f).job k with
    | none => rfl
    | some i => simp only [h i hjob, List.find?_nil]

/-- A packet in order is delivered, and acts in a state in which nothing more of its source waits. -/
theorem endpoint_inOrder (h : InOrder s f k j p) (h7 : p.ptype ≠ 7) (h8 : p.ptype ≠ 8) : ∃ t, Delivering s f k j p.src t ∧
    ((∀ i, ((actPacket t f k p).forme f).job k = some i → (reorderOf i p.src).window = []) → endpoint s p = actPacket t f k p) := by
  obtain ⟨-, -, hjob, htag, hmember, hdseq, hwindow⟩ := h
  obtain ⟨hj, -, -⟩ := job_of_jobById hjob
  have hsrc := reorderOf_src j p.src
  generalize hr : reorderOf j p.src = r at hdseq hwindow hsrc
  have hbegin : endpoint s p = deliverNext 1024 (putReorder s f k { r with window := [p] }) f k p.src := by
    have hin : (decide ((p.dseq - r.next).toNat < 1024) && !r.window.any (fun q => q.dseq == p.dseq)) = true := by
      rw [hdseq, hwindow, BitVec.sub_self]
      rfl
    have h7' : ¬ (p.ptype == 7) = true := by simpa using h7
    have h8' : ¬ (p.ptype == 8) = true := by simpa using h8
    simp only [endpoint, if_neg h7', hjob, htag, Bool.not_true, Bool.false_eq_true, if_false, if_neg h8', hmember, hr]
    rw [if_pos hin]
    simp only [hwindow, List.nil_append]
  generalize hr1 : ({ r with window := [p] } : Reorder) = r1 at hbegin
  have hsrc1 : r1.src = p.src := by rw [← hr1]; exact hsrc
  have hheld := putReorder_forme hj r1
  have hfound : reorderOf (withReorder j r1) p.src = r1 := hsrc1 ▸ reorderOf_withReorder j r1
  have hjob1 : ((putReorder s f k r1).forme f).job k = some (withReorder j r1) := by rw [hheld, Forme.job_setJob_self]
  generalize hu : putReorder s f k r1 = u at *
  generalize hr2 : ({ r1 with next := r1.next + 1, window := r1.window.filter (fun q => q.dseq != r1.next) } : Reorder) = r2
  have hsrc2 : r2.src = p.src := by rw [← hr2]; exact hsrc1
  have hempty : r2.window = [] := by
    rw [← hr2, ← hr1]
    simp [hdseq]
  have hnext : r1.window.find? (fun q => q.dseq == r1.next) = some p := by
    rw [← hr1, List.find?_singleton]
    exact if_pos (by rw [hdseq]; exact beq_self_eq_true _)
  refine ⟨putReorder u f k r2, ⟨?_, withReorder (withReorder j r1) r2, ?_, ⟨_, rfl⟩, ?_⟩, fun hdone => ?_⟩
  · rw [← hu]
    exact (s.modJob_onlyForme f k _).trans (State.modJob_onlyForme _ f k _)
  · rw [putReorder_forme hjob1, hheld, Forme.setJob_setJob]
  · have hput := reorderOf_withReorder (withReorder j r1) r2
    rw [hsrc2] at hput
    exact (congrArg Reorder.window hput).trans hempty
  · rw [hbegin, deliverNext]
    simp only [hjob1, hfound, hnext, hr2]
    exact deliverNext_of_empty hdone 1023

end Sys2Proof.Machine
end

section
/-! Remote loads and stores at their target (R314, R316, R319, R320). -/
namespace Sys2Proof.Machine

variable {s t u : State} {f : FormeId} {k : JobSlot} {j : Job} {p : Packet} {l : LinkId} {rev : Bool}

/-- A packet command of the type it is for presents the packet. -/
theorem packetCommand_here {types : List (BitVec 4)} (hpower : s.boot.power = .on) (hdst : p.dst = s.selfModule)
    (hty : types.contains p.ptype = true) : packetCommand s types p = .next (endpoint s p) := by
  have hgo : (s.isOn && p.dst == s.selfModule && types.contains p.ptype) = true := by
    rw [State.isOn, hpower, hdst, hty, beq_self_eq_true, beq_self_eq_true]
    rfl
  rw [packetCommand, if_pos hgo]

/-! ### What a delivery leaves of the module -/

namespace Delivering
variable {src : BitVec 12} (h : Delivering s f k j src t)
include h

theorem job : ∃ i, (t.forme f).job k = some i ∧ i.jobId = j.jobId ∧ i.coll = j.coll ∧
    ∀ i' : Job, i'.rx = i.rx → (reorderOf i' src).window = [] := by
  obtain ⟨i, hforme, ⟨rx, rfl⟩, hwindow⟩ := h.forme
  refine ⟨{ j with rx := rx }, by rw [hforme, Forme.job_setJob_self], rfl, rfl, fun i' hi' => ?_⟩
  rw [reorderOf, hi', ← reorderOf]
  exact hwindow

theorem sees : Sees f s t := by
  obtain ⟨i, hforme, -, -⟩ := h.forme
  obtain ⟨-, -, hstack, hgalley, -, -, hcores, -⟩ := h.onlyForme.rest
  constructor
  case cores => exact hcores
  case galley => exact hgalley
  case mem | poisoned | poisonSets => rw [hstack]
  all_goals rw [hforme]; rfl

theorem servesRemote (off n : Nat) : servesRemote t f off n = servesRemote s f off n := by
  obtain ⟨i, hforme, -, -⟩ := h.forme
  rw [Machine.servesRemote, hforme]
  rfl

end Delivering

/-! ### Refusals (R314, R320) -/

/-- A refusal leaves over a ready link. -/
theorem nackBack_ready (hroute : route s p.src false none = some (l, rev)) (hr : LinkReady s l) (h7 : p.ptype ≠ 7) (h8 : p.ptype ≠ 8) :
    PacketSent l (fun q => q.ptype = 8 ∧ q.dst = p.src ∧ q.body = .nack p.ptype (bodyTag p.body) s.selfModule) s (nackBack s p) ∧
    (nackBack s p).stack = s.stack ∧ (nackBack s p).formes = s.formes := by
  have hno : ¬ (p.ptype == 8 || p.ptype == 7) = true := by
    rw [Bool.or_eq_true, beq_iff_eq, beq_iff_eq, not_or]
    exact ⟨h8, h7⟩
  obtain ⟨ls, fl, hforward, q, c, hq⟩ := forward_ready (p := { p with
    ptype := 8, vc := 0, src := s.selfModule, dst := p.src, len := 0, cls := false, reversed := false, hops := 0,
    body := .nack p.ptype (bodyTag p.body) s.selfModule, tagOk := true }) rfl hroute hr (show (8 : BitVec 4) ≠ 7 by decide)
  rw [nackBack, if_neg hno, hforward]
  have hmem : ∀ o ∈ fl, o ∈ (s.out ++ fl).drop s.out.length := fun o ho => by
    rw [List.drop_left]
    exact ho
  exact ⟨⟨q, _, ⟨rfl, rfl, rfl⟩, hmem _ hq⟩, rfl, rfl⟩

/-! ### A load at its target (R319) -/

section
variable {tag : BitVec 16} {off : BitVec 40} {n : Nat}
variable (hroute : route s p.src false none = some (l, rev)) (hr : LinkReady s l)
include hroute hr

/-- A load that the forme serves is answered with the bytes it holds. -/
theorem serveLoad_served (hj : (s.forme f).job k = some j) (hserves : servesRemote s f off.toNat (64 * n) = true)
    (hclean : s.stackPoisoned f off.toNat (64 * n) = false) :
    PacketSent l (Carries s j p.src 2 (.loadResp tag off ((s.stackRead f off.toNat (64 * n)).getD []))) s (serveLoad s f k p tag off n) ∧
    (serveLoad s f k p tag off n).stack.mem = s.stack.mem ∧ (serveLoad s f k p tag off n).galley = s.galley ∧
    ∀ i, ((serveLoad s f k p tag off n).forme f).job k = some i → i.rx = j.rx := by
  have hgo : (servesRemote s f off.toNat (64 * n) && !s.stackPoisoned f off.toNat (64 * n)) = true := by rw [hserves, hclean]; rfl
  obtain ⟨st, pl, hfetch⟩ := formeFetch_eq s f .normal false off.toNat (64 * n)
  rw [serveLoad, if_pos hgo, hfetch]
  generalize hu : ({ s with stack := { s.stack with stone := st }, platen := pl } : State) = u
  have hju : (u.forme f).job k = some j := by rw [← hu]; exact hj
  have hlinks : u.links = s.links := by rw [← hu]
  have hself : u.selfReg = s.selfReg := by rw [← hu]
  obtain ⟨⟨q, x, hx, hmem⟩, hstack, hgalley, a, b, hjob⟩ := sendJob_ready (f := f) (k := k) (vc := 0) (n := 16 + 64 * n) (arg := 0) (ty := 2)
    (body := .loadResp tag off ((s.stackRead f off.toNat (64 * n)).getD [])) hju (by rw [route_congr hself hlinks, hroute])
    (linkReady_congr hlinks hr) (by decide)
  refine ⟨⟨q, x, ?_, ?_⟩, ?_, ?_, fun i hi => ?_⟩
  · rw [← hu] at hx
    exact hx
  · rw [← hu] at hmem ⊢
    exact hmem
  · rw [hstack, ← hu]
  · rw [hgalley, ← hu]
  · rw [hjob] at hi
    rw [← Option.some.inj hi]

/-- A write that the forme serves lands, and is acknowledged. -/
theorem serveStore_served {d : List Byte} {c : FormeCfg} {g : Region} (hj : (s.forme f).job k = some j)
    (hserves : servesRemote s f off.toNat d.length = true) (hcfg : (s.forme f).cfg = some c) (hc : c.regions = [g]) :
    PacketSent l (Carries s j p.src 4 (.storeAck tag)) s (serveStore s f k p tag off d) ∧
    (∀ key x : Nat, stackByte (serveStore s f k p tag off d).stack.mem key x =
      if g.base * 2 ^ 30 + off.toNat ≤ x ∧ x < g.base * 2 ^ 30 + off.toNat + d.length then d.getD (x - (g.base * 2 ^ 30 + off.toNat)) 0
      else stackByte s.stack.mem key x) ∧ (serveStore s f k p tag off d).galley = s.galley ∧
    ∀ i, ((serveStore s f k p tag off d).forme f).job k = some i → i.rx = j.rx := by
  have hend : off.toNat + d.length ≤ c.stackGib * 2 ^ 30 := by
    simp only [servesRemote, hcfg, Bool.and_eq_true, decide_eq_true_iff] at hserves
    exact hserves.2
  have hbytes := State.stackStore_byte (d := d) (off := off.toNat) hcfg hc .normal hend
  obtain ⟨st, pl, hwrite⟩ := watchedWrite_eq s f off.toNat d
  rw [serveStore, if_pos hserves]
  rw [← watchedWrite_stack] at hbytes
  generalize hu : watchedWrite s f off.toNat d = u at hwrite hbytes ⊢
  have hju : (u.forme f).job k = some j := by
    rw [hwrite, State.forme_modForme_self]
    exact hj
  have hlinks : u.links = s.links := by rw [hwrite]; rfl
  have hself : u.selfReg = s.selfReg := by rw [hwrite]; rfl
  have hout : u.out = s.out := by rw [hwrite]; rfl
  obtain ⟨⟨q, x, hx, hmem⟩, hstack, hgalley, a, b, hjob⟩ := sendJob_ready (f := f) (k := k) (vc := 0) (n := 16) (arg := 0) (ty := 4)
    (body := .storeAck tag) hju (by rw [route_congr hself hlinks, hroute]) (linkReady_congr hlinks hr) (by decide)
  refine ⟨⟨q, x, ?_, ?_⟩, fun key x => ?_, ?_, fun i hi => ?_⟩
  · obtain ⟨h1, h2, h3, h4, h5⟩ := hx
    refine ⟨h1, h2, ?_, h4, h5⟩
    rw [h3, State.selfModule, hself, State.selfModule]
  · rw [hout] at hmem
    exact hmem
  · rw [hstack]
    exact hbytes key x
  · rw [hgalley, hwrite]
    rfl
  · rw [hjob] at hi
    rw [← Option.some.inj hi]

end

/-- A packet in order over a route that is ready: what acts on it sees the same route and link. -/
theorem Delivering.route {src dst : BitVec 12} (h : Delivering s f k j src t) (hroute : Machine.route s dst false none = some (l, rev))
    (hr : LinkReady s l) : Machine.route t dst false none = some (l, rev) ∧ LinkReady t l ∧ t.selfModule = s.selfModule ∧ t.out = s.out := by
  obtain ⟨hlinks, hself, -, -, hout, -⟩ := h.onlyForme.rest
  exact ⟨by rw [route_congr hself hlinks, hroute], linkReady_congr hlinks hr, by rw [State.selfModule, hself, State.selfModule], hout⟩

/-- Settles O40: a request in order is delivered at once, and its answer leaves on the route back. -/
theorem remoteServed : Obligations.RemoteServed := by
  refine ⟨fun s f k j p tag off n l rev h hty hbody hn hroute hr hserves hclean => ?_,
    fun s f k j p tag off n l rev h hty hbody hroute hr hserves => ?_,
    fun s f k j p tag off d l rev c g h hty hbody hroute hr hserves hcfg hc => ?_,
    fun s p l rev hpower hdst hty hnone hroute hr => ?_⟩
  · obtain ⟨t, ht, hend⟩ := endpoint_inOrder h (by rw [hty]; decide) (by rw [hty]; decide)
    obtain ⟨i, hi, hid, -, hwindow⟩ := ht.job
    obtain ⟨hroute', hr', hself, hout⟩ := ht.route hroute hr
    have hact : actPacket t f k p = serveLoad t f k p tag off n := by simp only [actPacket, hi, hbody]
    obtain ⟨⟨q, x, ⟨h1, h2, h3, h4, h5⟩, hmem⟩, hstack, hgalley, hrx⟩ := serveLoad_served (p := p) (tag := tag) (off := off) (n := n) hroute' hr' hi
      (by rw [ht.servesRemote, hserves]) (by rw [ht.sees.stackPoisoned, hclean])
    rw [hact] at hend
    refine ⟨_, by rw [exec, execLoadReq, packetCommand_here h.1 h.2.1 (by rw [hty]; rfl), hend (fun i' hi' => hwindow i' (hrx i' hi'))],
      hstack.trans ht.sees.mem, hgalley.trans ht.sees.galley, q, x, ⟨h1, h2, h3.trans hself, h4.trans hid, ?_⟩, by rw [← hout]; exact hmem⟩
    rw [h5, ht.sees.stackRead]
  · obtain ⟨t, ht, hend⟩ := endpoint_inOrder h (by rw [hty]; decide) (by rw [hty]; decide)
    obtain ⟨i, hi, hid, -, hwindow⟩ := ht.job
    obtain ⟨hroute', hr', hself, hout⟩ := ht.route hroute hr
    have hno : servesRemote t f off.toNat (64 * n) = false := by rw [ht.servesRemote, hserves]
    have hact : actPacket t f k p = nackBack t p := by
      simp only [actPacket, hi, hbody, serveLoad, hno, Bool.false_and, Bool.false_eq_true, if_false]
    obtain ⟨⟨q, x, ⟨h1, h2, h3⟩, hmem⟩, hstack, hformes⟩ := nackBack_ready hroute' hr' (by rw [hty]; decide) (by rw [hty]; decide)
    rw [hact] at hend
    have hdone : ∀ i', ((nackBack t p).forme f).job k = some i' → (reorderOf i' p.src).window = [] := fun i' hi' => by
      rw [State.forme, hformes, ← State.forme, hi] at hi'
      exact hwindow i' (by rw [Option.some.inj hi'])
    refine ⟨_, by rw [exec, execLoadReq, packetCommand_here h.1 h.2.1 (by rw [hty]; rfl), hend hdone], ?_, q, x, ⟨h1, h2, ?_⟩,
      by rw [← hout]; exact hmem⟩
    · rw [hstack]
      exact ht.onlyForme.rest.2.2.1
    · rw [h3, hty, hbody, hself]
      rfl
  · obtain ⟨t, ht, hend⟩ := endpoint_inOrder h (by rw [hty]; decide) (by rw [hty]; decide)
    obtain ⟨i, hi, hid, -, hwindow⟩ := ht.job
    obtain ⟨hroute', hr', hself, hout⟩ := ht.route hroute hr
    have hact : ∃ u, Counted f t u ∧ actPacket t f k p = serveStore u f k p tag off d := by
      rcases hbody with hbody | ⟨v, hbody, rfl⟩
      · exact ⟨t, Counted.refl f t, by simp only [actPacket, hi, hbody]⟩
      · have hword : t.stackWord f off.toNat = s.stackWord f off.toNat := by rw [State.stackWord, ht.sees.stackRead, ← State.stackWord]
        exact ⟨countPoison t f off.toNat 8, countPoison_counted t f off.toNat 8, by simp only [actPacket, hi, hbody, hword]⟩
    obtain ⟨u, hu, hserve⟩ := hact
    obtain ⟨e, hforme⟩ := hu.forme
    have hself' : u.selfModule = s.selfModule := by rw [State.selfModule, hu.selfReg, ← State.selfModule, hself]
    obtain ⟨⟨q, x, ⟨h1, h2, h3, h4, h5⟩, hmem⟩, hbytes, hgalley, hrx⟩ := serveStore_served (p := p) (tag := tag) (off := off) (d := d)
      (by rw [route_congr hu.selfReg hu.links, hroute']) (linkReady_congr hu.links hr') (j := i) (by rw [hforme]; exact hi)
      (by rw [servesRemote, hforme]; exact (ht.servesRemote _ _).trans hserves) (hu.sees.cfg.trans (ht.sees.cfg.trans hcfg)) hc
    rw [hserve] at hend
    refine ⟨_, by rw [exec, execStorePacket, packetCommand_here h.1 h.2.1 (by rw [hty]; rfl), hend (fun i' hi' => hwindow i' (hrx i' hi'))],
      fun key y => ?_, hgalley.trans (hu.galley.trans ht.sees.galley), q, x, ⟨h1, h2, h5⟩, by rw [← hout, ← hu.out]; exact hmem⟩
    rw [hbytes key y, hu.sees.mem, ht.sees.mem]
  · have hend : endpoint s p = nackBack s p := by
      have hno : ¬ (p.ptype == 7) = true := by rcases hty with h | h <;> rw [h] <;> decide
      simp only [endpoint, if_neg hno, hnone]
    obtain ⟨hsent, hstack, -⟩ := nackBack_ready hroute hr (by rcases hty with h | h <;> rw [h] <;> decide)
      (by rcases hty with h | h <;> rw [h] <;> decide)
    refine ⟨nackBack s p, ?_, hstack, hsent⟩
    rw [← hend]
    rcases hty with h | h
    · rw [if_pos h, exec, execLoadReq, packetCommand_here hpower hdst (by rw [h]; rfl)]
    · rw [if_neg (by rw [h]; decide), exec, execStorePacket, packetCommand_here hpower hdst (by rw [h]; rfl)]

end Sys2Proof.Machine
end

section
/-! A slug that fails, and remote answers at the requester (R184, R319 to R321, R413). -/
namespace Sys2Proof.Machine

variable {s t : State} {f : FormeId} {k : JobSlot} {j : Job} {p : Packet} {tag : SlugTag} {sl : Slug} {c : Code}

/-! ### The fault of a slug (R413) -/

/-- A fault of a slug is noted on its launch, and touches nothing else. -/
theorem Forme.noteSlugFault_eq (x : Forme) (d : SlugTag) (now : Word) (c : Code) : ∃ ls, x.noteSlugFault d now c = { x with launches := ls } := by
  unfold Forme.noteSlugFault
  split
  · exact ⟨_, rfl⟩
  · exact ⟨x.launches, rfl⟩

theorem noteFormeCode_slugs (x : Forme) (c : Code) : (noteFormeCode x c).slugs = x.slugs := by
  unfold noteFormeCode
  split
  case h_1 => split <;> rfl
  all_goals rfl

/-- But for the codes of host access, keeping a code raises no event. -/
theorem State.noteCode_of_ne (h : c.toNat / 256 ≠ 0x11) : s.noteCode f c = s.modForme f (fun x => noteFormeCode x c) := if_neg h

/-- A slug that faults has ended with its code, and what is in flight with it is the forme's own affair. -/
theorem State.faultSlug_spec {st : SlugState} (h : Sole (s.forme f) tag sl) (hopen : slugEnded sl = false) (hpast : pastPoint sl = false)
    (hst : st = .failed ∨ st = .discarded) :
    (∃ z, findSlug ((s.faultSlug f tag st c).forme f) tag = some z ∧ z.state = st ∧ z.status = c) ∧
    Beside f s (s.faultSlug f tag st c) ∧ (s.faultSlug f tag st c).stack = s.stack ∧
    (c.toNat / 256 ≠ 0x11 → (s.faultSlug f tag st c).out = s.out) := by
  have hended : slugEnded (slugDrop st c sl) = true := by rcases hst with rfl | rfl <;> rfl
  have hno : ¬ (slugEnded sl || pastPoint sl) = true := by rw [hopen, hpast]; exact Bool.false_ne_true
  generalize hu : s.modForme f (fun x => (x.noteSlugFault tag s.time.ticks c).endSlug tag st c) = u
  have hfault : s.faultSlug f tag st c = (u.noteCode f c).settle f := by
    simp only [State.faultSlug, h.findSlug, if_neg hno, ← hu]
  obtain ⟨ls, hnote⟩ := (s.forme f).noteSlugFault_eq tag s.time.ticks c
  have hsole : Sole (u.forme f) tag (slugDrop st c sl) := by
    rw [← hu, State.forme_modForme_self, hnote]
    exact Sole.endSlug (x := { s.forme f with launches := ls }) h hopen hpast hended
  have hcode : Sole ((u.noteCode f c).forme f) tag (slugDrop st c sl) := by
    rw [Sole, State.noteCode_forme, noteFormeCode_slugs]
    exact hsole
  obtain ⟨hbeside, hstack, hout⟩ := (u.noteCode f c).settle_beside f
  obtain ⟨hbesideN, hstackN, -⟩ := u.noteCode_beside f c
  have hu' : Beside f s u := by
    rw [← hu]
    exact s.modForme_beside f _
  rw [hfault]
  refine ⟨?_, (hu'.trans hbesideN).trans hbeside, ?_, fun hne => ?_⟩
  · have hne : (slugDrop st c sl).state ≠ .queued := by rcases hst with rfl | rfl <;> exact nofun
    obtain ⟨b, hb⟩ := State.findSlug_settle hcode.findSlug hne
    exact ⟨_, hb, rfl, rfl⟩
  · rw [hstack, hstackN, ← hu]
    rfl
  · rw [hout, State.noteCode_of_ne hne, ← hu]
    rfl

/-! ### A lost store (R321) -/

/-- The slug whose store is lost. -/
def lostSlug (due : List (BitVec 12)) (z : Slug) : Slug := { z with remoteDue := due, remoteLost := true }

theorem storeLost_spec (due : List (BitVec 12)) (hfind : findSlug (s.forme f) tag = some sl) : OnlyForme f s (storeLost s f tag due) ∧
    (storeLost s f tag due).forme f = { modLaunch (modSlug (s.forme f) tag (lostSlug due)) sl.ring sl.seq
      (fun l => { l with fault := mergeFault l.fault s.time.ticks 0x1003 }) with collCode := 0x1003 } := by
  have hlost : findSlug (modSlug (s.forme f) tag (lostSlug due)) tag = some (lostSlug due sl) := by
    rw [findSlug_modSlug_self (g := lostSlug due) (fun _ => rfl), hfind]
    rfl
  have heq : storeLost s f tag due = (s.modForme f (fun x => (modSlug x tag (lostSlug due)).noteSlugFault tag s.time.ticks 0x1003)).modForme f
      (fun x => noteFormeCode x 0x1003) := State.noteCode_of_ne (by decide)
  rw [heq]
  refine ⟨(s.modForme_onlyForme f _).trans (State.modForme_onlyForme _ f _), ?_⟩
  rw [State.forme_modForme_self, State.forme_modForme_self, Forme.noteSlugFault, hlost]
  rfl

/-! ### A load's data (R319, R320) -/

/-- The slug with another piece of what it asked for. -/
def withPiece (piece : BitVec 56 × List Byte) (z : Slug) : Slug := { z with fetched := z.fetched ++ [piece] }

/-- The slug that has what it asked for. -/
def givenSlug (a : BitVec 56) (bs : List Byte) (z : Slug) : Slug :=
  { z with fetched := z.fetched ++ [(a, bs)], asked := [], wait := if z.wait == .remote then .none else z.wait }

/-- The slug one of whose stores is acknowledged. -/
def ackedSlug (src : BitVec 12) (z : Slug) : Slug := { z with remoteDue := z.remoteDue.erase src }

/-- A refusal of a load or a store reaches the slug it names, whatever its place in the order. -/
theorem endpoint_nack {ty : BitVec 4} {who : BitVec 12} (hjob : jobById s p.jobId = some (f, k, j)) (htag : p.tagOk = true)
    (hty : p.ptype = 8) (hbody : p.body = .nack ty tag who) (hcoll : (ty == 5 || ty == 6) = false) :
    endpoint s p = takeNack s f k ty tag who := by
  obtain ⟨hj, -, -⟩ := job_of_jobById hjob
  have h7 : ¬ (p.ptype == 7) = true := by rw [hty]; decide
  have h8 : (p.ptype == 8) = true := by rw [hty]; rfl
  simp only [endpoint, if_neg h7, hjob, htag, Bool.not_true, Bool.false_eq_true, if_false, if_pos h8, actPacket, hj, hbody, hcoll, Bool.false_and]

/-- The forme that keeps the sectors of a load's data. -/
def withSectors (s : State) (f : FormeId) (src : BitVec 12) (off : Nat) (d : List Byte) (x : Forme) : Forme :=
  let sectors := (List.range (d.length / 64)).map (fun i => (src, off / 64 + i, (d.drop (64 * i)).take 64))
  { x with remoteLines := x.remoteLines.filter (fun l => stoneHolds s.stack.stone f (.remote l.1 (l.2.1 / 4)) &&
    !sectors.any (fun g => g.1 == l.1 && g.2.1 == l.2.1)) ++ sectors }

/-- The state in which a load's data has come, and is not yet given to the slug. -/
def loadHeld (s : State) (f : FormeId) (src : BitVec 12) (tag : SlugTag) (off : BitVec 40) (d : List Byte) : State :=
  (remoteCached s f src off.toNat d.length).modForme f (fun x => modSlug (withSectors s f src off.toNat d x) tag
    (withPiece (BitVec.ofNat 56 (8 * 2 ^ 52 + src.toNat * 2 ^ 40 + off.toNat), d)))

/-- Data that is all a slug asked for is given to it. -/
theorem takeLoad_spec {src : BitVec 12} {off : BitVec 40} {d : List Byte} {a : BitVec 56} {n : Nat} {rest : List (BitVec 56 × Nat)} {bs : List Byte}
    (hfind : findSlug (s.forme f) tag = some sl) (hasked : sl.asked = (a, n) :: rest) (hacq : acquireOp (s.forme f) sl = none)
    (hbs : pieceBytes (sl.fetched ++ [(BitVec.ofNat 56 (8 * 2 ^ 52 + src.toNat * 2 ^ 40 + off.toNat), d)]) a.toNat n = some bs) :
    (takeLoad s f src tag off d).out = s.out ∧ (takeLoad s f src tag off d).stack.mem = s.stack.mem ∧
    ((takeLoad s f src tag off d).forme f).jobs = (s.forme f).jobs ∧
    ∃ z, findSlug ((takeLoad s f src tag off d).forme f) tag = some z ∧ z.wait = (if sl.wait == .remote then .none else sl.wait) ∧ z.asked = [] ∧
      (a, bs) ∈ z.fetched ∧ z.proofs = sl.proofs := by
  have hcached : ∀ m o b, (remoteCached s f m o b).out = s.out ∧ (remoteCached s f m o b).stack.mem = s.stack.mem ∧
      (remoteCached s f m o b).forme f = s.forme f := fun m o b => by
    unfold remoteCached
    split <;> exact ⟨rfl, rfl, rfl⟩
  obtain ⟨hout, hmem, hforme⟩ := hcached src off.toNat d.length
  have hno : ¬ (acquireOp (s.forme f) sl).isSome = true := by rw [hacq]; exact Bool.false_ne_true
  have hheld : (loadHeld s f src tag off d).forme f = modSlug (withSectors s f src off.toNat d (s.forme f)) tag
      (withPiece (BitVec.ofNat 56 (8 * 2 ^ 52 + src.toNat * 2 ^ 40 + off.toNat), d)) := by
    rw [loadHeld, State.forme_modForme_self, hforme]
  have hfound : findSlug ((loadHeld s f src tag off d).forme f) tag =
      some (withPiece (BitVec.ofNat 56 (8 * 2 ^ 52 + src.toNat * 2 ^ 40 + off.toNat), d) sl) := by
    rw [hheld, findSlug_modSlug_self (g := withPiece _) (fun _ => rfl)]
    rw [show findSlug (withSectors s f src off.toNat d (s.forme f)) tag = some sl from hfind]
    rfl
  have hload : takeLoad s f src tag off d = slugHas (loadHeld s f src tag off d) f tag a bs := by
    have hgiven : (findSlug ((loadHeld s f src tag off d).forme f) tag).bind (fun z => pieceBytes z.fetched a.toNat n) = some bs := by
      rw [hfound]
      exact hbs
    unfold takeLoad
    rw [hfind]
    dsimp only
    rw [hasked]
    dsimp only
    rw [if_neg hno]
    change (match (findSlug ((loadHeld s f src tag off d).forme f) tag).bind (fun z => pieceBytes z.fetched a.toNat n) with
      | some bs => slugHas (loadHeld s f src tag off d) f tag a bs
      | none => loadHeld s f src tag off d) = _
    rw [hgiven]
  rw [hload]
  refine ⟨hout, hmem, ?_, ?_⟩
  · rw [slugHas, State.forme_modForme_self, hheld]
    rfl
  · refine ⟨givenSlug a bs (withPiece (BitVec.ofNat 56 (8 * 2 ^ 52 + src.toNat * 2 ^ 40 + off.toNat), d) sl), ?_, rfl, rfl,
      List.mem_append_right _ (List.mem_singleton_self _), rfl⟩
    rw [slugHas, State.forme_modForme_self]
    refine (findSlug_modSlug_self (g := givenSlug a bs) (fun _ => rfl)).trans ?_
    rw [hfound]
    rfl

/-- Settles O41: an answer in order acts on its slug, and a loss faults the slug or its launch. -/
theorem remoteAnswers : Obligations.RemoteAnswers := by
  refine ⟨fun s f k j p tag off d sl a n rest bs h hty hbody hfind hasked hacq hwait hbs => ?_,
    fun s f k j p tag sl h hty hbody hfind => ?_,
    fun s f k j p tag who sl hpower hdst hjob htag hty hbody hsole hstate hasked => ?_,
    fun s f k j p tag who sl hpower hdst hjob htag hty hbody hfind hdue => ?_,
    fun s f tag sl hsole hstate hasked hlate => ?_, fun s f tag sl l hfind hdue hlate hl hfault => ?_⟩
  · obtain ⟨t, ht, hend⟩ := endpoint_inOrder h (by rw [hty]; decide) (by rw [hty]; decide)
    obtain ⟨i, hi, -, -, hwindow⟩ := ht.job
    obtain ⟨i', hforme, -⟩ := ht.forme
    have hact : actPacket t f k p = takeLoad t f p.src tag off d := by simp only [actPacket, hi, hbody]
    obtain ⟨hout, hmem, hjobs, z, hz, hzwait, hzasked, hzmem, hzproofs⟩ := takeLoad_spec (s := t) (f := f) (src := p.src)
      (by rw [hforme]; exact hfind) hasked (by rw [hforme]; exact hacq) hbs
    have hdone : ∀ i'', ((actPacket t f k p).forme f).job k = some i'' → (reorderOf i'' p.src).window = [] := fun i'' hi'' => by
      rw [hact, Forme.job, hjobs, ← Forme.job, hi] at hi''
      exact hwindow i'' (by rw [Option.some.inj hi''])
    refine ⟨_, by rw [exec, execLoadResp, packetCommand_here h.1 h.2.1 (by rw [hty]; rfl), hend hdone, hact], hout.trans ht.onlyForme.rest.2.2.2.2.1,
      hmem.trans ht.sees.mem, z, hz, ?_, hzasked, hzmem, hzproofs⟩
    rw [hzwait, hwait]
    rfl
  · obtain ⟨t, ht, hend⟩ := endpoint_inOrder h (by rw [hty]; decide) (by rw [hty]; decide)
    obtain ⟨i, hi, -, -, hwindow⟩ := ht.job
    obtain ⟨i', hforme, -⟩ := ht.forme
    have hact : actPacket t f k p = t.modForme f (fun x => modSlug x tag (ackedSlug p.src)) := by
      simp only [actPacket, hi, hbody]
      rfl
    have hdone : ∀ i'', ((actPacket t f k p).forme f).job k = some i'' → (reorderOf i'' p.src).window = [] := fun i'' hi'' => by
      rw [hact, State.forme_modForme_self] at hi''
      exact hwindow i'' (by rw [Option.some.inj (hi.symm.trans hi'')])
    refine ⟨t.modForme f (fun x => modSlug x tag (ackedSlug p.src)),
      by rw [exec, execStoreAck, packetCommand_here h.1 h.2.1 (by rw [hty]; rfl), hend hdone, hact], ht.onlyForme.rest.2.2.2.2.1,
      ht.onlyForme.rest.2.2.1, ?_⟩
    rw [State.forme_modForme_self, findSlug_modSlug_self (g := ackedSlug p.src) (fun _ => rfl), hforme]
    rw [show findSlug ((s.forme f).setJob k (some i')) tag = some sl from hfind]
    rfl
  · have hact : endpoint s p = s.failSlug f tag 0x1002 := by
      rw [endpoint_nack hjob htag hty hbody (by decide)]
      rw [takeNack, Sole.findSlug hsole]
      dsimp only
      rw [hasked]
      rfl
    obtain ⟨⟨z, hz, hzstate, hzstatus⟩, -⟩ := State.faultSlug_spec (s := s) (f := f) (c := 0x1002) (st := .failed) hsole
      (by rw [slugEnded, hstate]; rfl) (by rw [pastPoint, hstate]; rfl) (.inl rfl)
    exact ⟨_, z, by rw [exec, execNackRemote, packetCommand_here hpower hdst (by rw [hty]; rfl), hact]; rfl, hz, hzstate, hzstatus⟩
  · have hmem : sl.remoteDue.contains who = true := List.contains_iff_mem.mpr hdue
    have hact : endpoint s p = storeLost s f tag (sl.remoteDue.erase who) := by
      rw [endpoint_nack hjob htag hty hbody (by decide)]
      simp only [takeNack, hfind, hmem]
      rfl
    obtain ⟨-, hforme⟩ := storeLost_spec (sl.remoteDue.erase who) hfind
    refine ⟨_, by rw [exec, execNackRemote, packetCommand_here hpower hdst (by rw [hty]; rfl), hact], by rw [hforme], ?_⟩
    rw [hforme]
    refine (findSlug_modSlug_self (x := s.forme f) (g := lostSlug (sl.remoteDue.erase who)) (fun _ => rfl)).trans ?_
    rw [hfind]
    rfl
  · obtain ⟨⟨z, hz, hzstate, hzstatus⟩, hbeside, hstack, hout⟩ := State.faultSlug_spec (s := s) (f := f) (c := 0x1002) (st := .failed) hsole
      (by rw [slugEnded, hstate]; rfl) (by rw [pastPoint, hstate]; rfl) (.inl rfl)
    refine ⟨_, z, ?_, hbeside.elsewhereKept hstack, hout (by decide), hz, hzstate, hzstatus⟩
    simp only [exec, execRemoteLoadTimeout, Sole.findSlug hsole, hasked, decide_eq_true hlate, Bool.and_self, if_true]
    rfl
  · obtain ⟨honly, hforme⟩ := storeLost_spec [] hfind
    have hgo : (!sl.remoteDue.isEmpty && decide (1000 ≤ (s.time.ticks - sl.storesAt).toNat)) = true := by
      rw [decide_eq_true hlate, List.isEmpty_eq_false_iff.mpr hdue]
      rfl
    refine ⟨_, by simp only [exec, execRemoteStoreTimeout, hfind, if_pos hgo], honly, by rw [hforme], ?_, ?_⟩
    · rw [hforme]
      refine (findSlug_modSlug_self (x := s.forme f) (g := lostSlug []) (fun _ => rfl)).trans ?_
      rw [hfind]
      rfl
    · rw [hforme]
      refine (findLaunch_modLaunch (x := modSlug (s.forme f) tag (lostSlug []))
        (g := fun l => { l with fault := mergeFault l.fault s.time.ticks 0x1003 }) (fun _ => ⟨rfl, rfl⟩)).trans ?_
      rw [show findLaunch (modSlug (s.forme f) tag (lostSlug [])) sl.ring sl.seq = some l from hl, Option.map_some, hfault]
      rfl

end Sys2Proof.Machine
end

section
/-! Jobs (R315, R364, R368): a member other than member 0 draws an ephemeral key for its offer, so its JOB_OPEN does not wait where no
key can be drawn. -/
namespace Sys2Proof.Machine

/-- A forme that may hold a job of any two modules of this column. -/
def memberCfg : FormeCfg :=
  { octets := 1, compositor := 0, clientTag := 0, domain := 0, galleyMib := 0, proofMib := 0, swapMib := 0, regions := [], port := 0,
    fn := 0, spillGib := 0, linkMask := 0, remoteLoad := true, remoteStore := false, collective := false, remoteBase := 0, remoteCount := 2,
    maxJobs := 1, weight := 0, capShare := 0, localTime := false, rings := 0, allot := 0 }

/-- JOB_OPEN of job 7 in slot 0: modules 0 and 1 of row 0 of pod 0. -/
def memberOpen : Vector Word 16 := #v[3, 7, 0x01002000, 1, 0, 0, 0, 0, 0, 0, 0, 0, 0, 0, 0, 0]

/-- Module 1 of a row of two, management only after a failure of its entropy source, with the JOB_OPEN waiting. -/
def memberState : State :=
  { State.reset with
    boot := { Boot.reset with power := .on, ready := true }
    colo := { Colophon.reset with identityUp := true, mgmtOnly := true }
    comps := Vector.replicate 16 { Compositor.reset with powered := true }
    selfReg := 0x01020001
    formes := Vector.replicate 16 { Forme.reset with
      cfg := some memberCfg
      mbox := { Mbox.reset with full := true, inData := memberOpen } } }

/-- The slot after the JOB_OPEN: empty, for no key is issued (R364). -/
theorem memberState_slot_free : ∀ t, exec (.jobOpen 0) memberState = .next t → (t.forme 0).job 0 = none := by
  intro t ht
  obtain rfl : _ = t := Host.Outcome.next.inj ht
  decide +kernel

/-- Refutes O44: the second clause lets every JOB_OPEN that is not refused take its slot and wait with nothing drawn, but a member other than
member 0 needs a key for its offer, and without entropy its JOB_OPEN completes with 0x130A and the slot is free. -/
theorem not_jobs : ¬ Obligations.Jobs := by
  intro ⟨_, hopen, _⟩
  obtain ⟨t, ht, -, hjob, -⟩ := hopen memberState 0 0 memberOpen (by decide +kernel) (by decide +kernel) (by decide +kernel) (by decide +kernel)
    (by decide +kernel)
  rw [memberState_slot_free t ht] at hjob
  exact nomatch hjob

end Sys2Proof.Machine
end

section
/-! Scrubbed memory, the colophon's own requests, and quoin openings (R153, R378 to R382). -/
namespace Sys2Proof.Machine

/-! ### What a scrub leaves of a memory (R153) -/

theorem memGet_filter (q : Nat → Bool) (m : Memory) (x : Nat) :
    memGet (m.filter (fun c => q c.1)) x = if q x = true then memGet m x else none := by
  induction m with
  | nil => simp [memGet]
  | cons c m ih =>
    obtain ⟨a, b⟩ := c
    by_cases ha : a = x
    · subst ha
      cases hq : q a <;> simp [hq, memGet, ih]
    · cases hq : q a <;> simp [hq, memGet, ih, ha]

theorem memGet_memClear (m : Memory) (b n x : Nat) : memGet (memClear m b n) x = if b ≤ x ∧ x < b + n then none else memGet m x := by
  rw [memClear, memGet_filter (fun a => decide (a < b) || decide (b + n ≤ a))]
  by_cases h : b ≤ x ∧ x < b + n
  · rw [if_pos h, if_neg (by simp only [Bool.or_eq_true, decide_eq_true_eq]; omega)]
  · rw [if_neg h, if_pos (by simp only [Bool.or_eq_true, decide_eq_true_eq]; omega)]

/-- An unlisted byte stays so. -/
theorem memGet_foldl_memClear_none {α : Type} {base len : α → Nat} {l : List α} {m : Memory} {x : Nat} (h : memGet m x = none) :
    memGet (l.foldl (fun m r => memClear m (base r) (len r)) m) x = none := by
  induction l generalizing m with
  | nil => exact h
  | cons a l ih => exact ih (by rw [memGet_memClear, h, ite_self])

/-- A byte that one of the clears covers is unlisted. -/
theorem memGet_foldl_memClear_of_mem {α : Type} {base len : α → Nat} {l : List α} {r : α} (hr : r ∈ l) {x : Nat} (hlo : base r ≤ x)
    (hhi : x < base r + len r) (m : Memory) : memGet (l.foldl (fun m r => memClear m (base r) (len r)) m) x = none := by
  induction l generalizing m with
  | nil => cases hr
  | cons a l ih =>
    rcases List.mem_cons.mp hr with rfl | hr
    · exact memGet_foldl_memClear_none (m := memClear m (base r) (len r)) (by rw [memGet_memClear, if_pos ⟨hlo, hhi⟩])
    · exact ih hr _

/-- A byte that none of the clears covers stands. -/
theorem memGet_foldl_memClear_of_not {α : Type} {base len : α → Nat} {l : List α} {x : Nat}
    (h : ∀ r ∈ l, x < base r ∨ base r + len r ≤ x) (m : Memory) :
    memGet (l.foldl (fun m r => memClear m (base r) (len r)) m) x = memGet m x := by
  induction l generalizing m with
  | nil => rfl
  | cons a l ih =>
    have ha := h a List.mem_cons_self
    refine (ih (fun r hr => h r (List.mem_cons_of_mem a hr)) _).trans ?_
    rw [memGet_memClear, if_neg (by omega)]

/-- Galley reads zero once every core's is cleared (R379). -/
theorem galleyByte_clearGalley (s : State) {x : Nat} (hx : x < 2 ^ 35) : galleyByte (s.clearGalley allCores).galley x = 0 := by
  have hcore : x / 2 ^ 28 < 128 := by omega
  have hin : allCores.any (fun k => decide (k.val * 2 ^ 28 ≤ x) && decide (x < (k.val + 1) * 2 ^ 28)) = true := by
    refine List.any_eq_true.mpr ⟨⟨x / 2 ^ 28, hcore⟩, List.mem_finRange _, ?_⟩
    simp only [Bool.and_eq_true, decide_eq_true_eq]
    omega
  rw [galleyByte, State.clearGalley,
    memGet_filter (fun a => !allCores.any (fun k => decide (k.val * 2 ^ 28 ≤ a) && decide (a < (k.val + 1) * 2 ^ 28))),
    hin]
  rfl

/-! ### The colophon's own requests to the host (R24, R403) -/

/-- A request of the colophon leaves: ports change, and no mailbox. -/
structure AskedHost (o : Output) (s t : State) : Prop where
  onlyPorts : OnlyPorts s t
  mbox      : ∀ c, t.mbox c = s.mbox c
  out       : t.out = s.out ++ [o]

section
variable (s : State) (p : PortId)

/-- A port whose mailbox stands under a change keeps every mailbox of the module. -/
theorem State.modPort_mbox_of {g : Port → Port} (hg : ∀ x, (g x).mbox = x.mbox) (c : Chan) : (s.modPort p g).mbox c = s.mbox c := by
  cases c with
  | plain f => rfl
  | secure q =>
    simp only [State.mbox]
    by_cases hq : p = q
    · subst hq
      rw [State.port_modPort_self, hg]
    · rw [State.port_modPort_of_ne _ _ _ _ hq]

theorem State.retireUse_mbox (u : EcpUse) (c : Chan) : (s.retireUse u).mbox c = s.mbox c := by
  cases c with
  | plain f => rfl
  | secure q => simp [State.mbox, State.port, State.retireUse]

theorem State.retireUse_onlyPorts (u : EcpUse) : OnlyPorts s (s.retireUse u) := rfl

theorem colophonRead_asked (a : Word) (n : Nat) : AskedHost (.drd p 16 (s.reqTag p) false a n) s (colophonRead s p a n) where
  onlyPorts := (State.sendDrd_sentOn s p 16 .colophon false a n).1.onlyPorts.trans (State.retireUse_onlyPorts _ _)
  mbox c := by
    rw [colophonRead, State.retireUse_mbox, State.sendDrd]
    rw [State.ecpOut_mbox, State.modPort_mbox_of]
    exact fun _ => rfl
  out := (State.sendDrd_sentOn s p 16 .colophon false a n).2

theorem colophonWrite_asked (a : Word) (d : List Byte) : AskedHost (.dwr p 16 (s.reqTag p) a d) s (colophonWrite s p a d) where
  onlyPorts := (State.sendDwr_sentOn s p 16 .colophon a d).1.onlyPorts.trans (State.retireUse_onlyPorts _ _)
  mbox c := by
    rw [colophonWrite, State.retireUse_mbox, State.sendDwr]
    rw [State.ecpOut_mbox, State.modPort_mbox_of]
    exact fun _ => rfl
  out := (State.sendDwr_sentOn s p 16 .colophon a d).2

end

end Sys2Proof.Machine
end

section
/-! Quoin openings (R378 to R380). -/
namespace Sys2Proof.Machine

/-! ### Keys that are drawn (R364 to R366) -/

/-- Only keys are drawn: of the colophon's own keys those of the domains. -/
def OnlyKeys (s t : State) : Prop := t = { s with draws := t.draws, formes := t.formes, colo := { s.colo with kDom := t.colo.kDom } }

theorem onlyKeys_iff {s t : State} : OnlyKeys s t ↔ ∃ n fs ks, t = { s with draws := n, formes := fs, colo := { s.colo with kDom := ks } } := by
  refine ⟨fun h => ⟨_, _, _, h⟩, ?_⟩
  rintro ⟨n, fs, ks, rfl⟩
  rfl

theorem OnlyKeys.refl (s : State) : OnlyKeys s s := rfl

theorem OnlyKeys.trans {s t u : State} (h : OnlyKeys s t) (k : OnlyKeys t u) : OnlyKeys s u := by
  obtain ⟨n, fs, ks, rfl⟩ := onlyKeys_iff.mp h
  obtain ⟨n', fs', ks', rfl⟩ := onlyKeys_iff.mp k
  rfl

theorem keyDomain_onlyKeys (s : State) (d : Fin 16) : OnlyKeys s (keyDomain s d) := by
  unfold keyDomain
  split
  · exact OnlyKeys.refl s
  · rfl

theorem keyForme_onlyKeys (s : State) (f : FormeId) (d : Fin 16) : OnlyKeys s (keyForme s f d) :=
  OnlyKeys.trans (t := (s.draw.2.draw.2).modForme f (fun x => { x with kStack := some s.draws, inkKey := some (s.draws + 1) })) rfl
    (keyDomain_onlyKeys _ d)

theorem openingKeys_onlyKeys (s : State) (f : FormeId) : OnlyKeys s (openingKeys s f) := by
  unfold openingKeys
  split
  · exact (keyForme_onlyKeys s f _).trans rfl
  · exact OnlyKeys.refl s

theorem foldl_onlyKeys {α : Type} {g : State → α → State} (hg : ∀ u x, OnlyKeys u (g u x)) (l : List α) (s : State) :
    OnlyKeys s (l.foldl g s) := by
  induction l generalizing s with
  | nil => exact OnlyKeys.refl s
  | cons x l ih => exact (hg s x).trans (ih _)

/-! ### A request for an opening (R378) -/

/-- The checks read nothing that the read of the request changes. -/
theorem quoinCheck_of_onlyPorts {s t : State} (h : OnlyPorts s t) : quoinCheck t = quoinCheck s := by
  obtain ⟨ps, o, rfl⟩ := onlyPorts_iff.mp h
  rfl

theorem taken_secure_onlyPorts (s : State) (p : PortId) : OnlyPorts s (s.taken (.secure p)) :=
  (State.modMbox_secure_onlyPort s p (fun x => { x with full := false })).onlyPorts

section
variable {s t : State} {p : PortId} {m : Vector Word 16} {r : QuoinRequest}

theorem quoinOpen_of_refused (h : quoinCheck s r (BitVec.ofNat 3 (fld m[2] 2 0)) ≠ 0) :
    quoinOpen s p m (.data r) = dropNonce (colophonAnswer (colophonRead s p m[1] 5261) p 0x0105 (msgTag m)
      (quoinCheck s r (BitVec.ofNat 3 (fld m[2] 2 0))) []) := by
  simp only [quoinOpen, quoinCheck_of_onlyPorts (colophonRead_asked s p m[1] 5261).onlyPorts, if_neg h]

theorem quoinOpen_of_accepted (h : quoinCheck s r (BitVec.ofNat 3 (fld m[2] 2 0)) = 0) :
    quoinOpen s p m (.data r) =
      openingStarts (dropNonce (colophonRead s p m[1] 5261)) p (msgTag m) (BitVec.ofNat 3 (fld m[2] 2 0)) := by
  simp only [quoinOpen, quoinCheck_of_onlyPorts (colophonRead_asked s p m[1] 5261).onlyPorts, if_pos h]

/-! ### The end of an opening (R379, R383) -/

/-- With no REPORT waiting there is nothing to answer. -/
theorem answerHeld_of_none (h : s.colo.heldReports = []) : answerHeld s = s := by
  have hcolo : ({ s.colo with heldReports := [] } : Colophon) = s.colo := by rw [← h]
  rw [answerHeld, h, List.foldl_nil, hcolo]

theorem scrubEnds_spec (s : State) : ∃ k, scrubEnds s = { s with colo := { s.colo with scrub := k } } := by
  unfold scrubEnds
  split <;> exact ⟨_, rfl⟩

/-- The state in which an opening is over and its keys are not drawn. -/
theorem openingScrub_over (s : State) : ∃ k, scrubEnds (openingScrub s) =
    { s with stack := (openingScrub s).stack, colo := { s.colo with scrub := k } } := by
  obtain ⟨k, hk⟩ := scrubEnds_spec (openingScrub s)
  exact ⟨k, hk⟩

/-- The scrub of an opening reaches GiB 0 to 951 whatever SCRUB_ALL says. -/
theorem openingScrub_unlisted (s : State) {x : Nat} (hx : x < 952 * 2 ^ 30) : memGet (openingScrub s).stack.mem x = none := by
  have hgib : 952 ≤ openingGib s := by
    unfold openingGib
    split
    · split <;> decide
    · decide
  exact memGet_foldl_memClear_of_mem (base := fun r : Region => r.base * 2 ^ 30) (len := fun r : Region => r.len * 2 ^ 30)
    (l := [{ base := 0, len := openingGib s }]) List.mem_cons_self (by dsimp only; omega) (by dsimp only; omega) _

/-- The state in which an opening's keys are drawn and its scope is open. -/
def openedScope (s : State) (o : Opening) : State :=
  let s2 := scrubEnds (openingScrub s)
  let s3 := { s2 with colo := { s2.colo with opening := none } }
  let s4 := (imposedFormes s3).foldl openingKeys (keyModule s3)
  { s4 with colo := { s4.colo with scopes := s4.colo.scopes ||| o.scope } }

/-- The state in which an opening has ended without entropy. -/
def unopenedScope (s : State) : State :=
  let s2 := scrubEnds (openingScrub s)
  entropyFails { s2 with colo := { s2.colo with opening := none } }

theorem openedScope_spec (s : State) (o : Opening) : ∃ n fs ks k, openedScope s o = { s with
    draws := n, formes := fs, stack := (openingScrub s).stack,
    colo := { s.colo with kDom := ks, scrub := k, opening := none, kHeld := some s.draws, kShared := some (s.draws + 1),
                          scopes := s.colo.scopes ||| o.scope } } := by
  obtain ⟨k, hk⟩ := scrubEnds_spec (openingScrub s)
  unfold openedScope
  rw [hk]
  dsimp only
  generalize hu : keyModule _ = u
  obtain ⟨n, fs, ks, hkeys⟩ := onlyKeys_iff.mp (foldl_onlyKeys openingKeys_onlyKeys (imposedFormes
    { openingScrub s with colo := { (openingScrub s).colo with scrub := k, opening := none } }) u)
  rw [hkeys, ← hu]
  exact ⟨n, fs, ks, k, rfl⟩

theorem unopenedScope_spec (s : State) : ∃ fs k, unopenedScope s = { s with
    formes := fs, stack := (openingScrub s).stack, colo := { s.colo with scrub := k, opening := none, mgmtOnly := true } } := by
  obtain ⟨k, hk⟩ := scrubEnds_spec (openingScrub s)
  unfold unopenedScope
  rw [hk]
  exact ⟨_, k, rfl⟩

/-- Whatever else changed, the answer waits behind what the channel held. -/
theorem colophonAnswer_answered {u : State} (hu : u.mbox (.secure p) = s.mbox (.secure p)) (op : Nat) (tag : BitVec 16) (c : Code)
    (ws : List Word) : Answered (.secure p) (mkResponse op tag c ws) s (colophonAnswer u p op tag c ws) := by
  have h := State.respond_answered (s := { u with colo := { u.colo with quoinCode := c } }) (.secure p) (mkResponse op tag c ws)
  have hmbox : ({ u with colo := { u.colo with quoinCode := c } } : State).mbox (.secure p) = s.mbox (.secure p) := hu
  rwa [Answered, hmbox] at h

/-- With no REPORT waiting an answer of the colophon leaves none. -/
theorem colophonAnswer_held {op : Nat} {tag : BitVec 16} {c : Code} (u : State) (p : PortId) (hheld : u.colo.heldReports = []) :
    answerHeld (colophonAnswer u p op tag c []) = colophonAnswer u p op tag c [] := by
  obtain ⟨x, o, ht⟩ := onlyPort_iff.mp (colophonAnswer_onlyPort u p op tag c [])
  refine answerHeld_of_none ?_
  rw [ht]
  exact hheld

end

/-- Settles O54: a refusal is one answer of the colophon, an opening is read off its steps, and its end is the scrub, the keys and the answer. -/
theorem quoinOpenings : Obligations.QuoinOpenings := by
  refine ⟨fun s p m r hm hready hcheck => ?_, fun s p m r hm hready hcheck => ?_, fun s o ok ho hoff hheld => ?_, fun s p m hm hready => ?_⟩
  · have htaken := quoinCheck_of_onlyPorts (taken_secure_onlyPorts s p)
    have hexec := exec_quoinOpen_of_delivered hm hready (.data r)
    rw [quoinOpen_of_refused (by rw [htaken]; exact hcheck), htaken] at hexec
    have hasked := colophonRead_asked (s.taken (.secure p)) p m[1] 5261
    refine ⟨_, hexec, colophonAnswer_respondedWith (hasked.mbox _) .., ?_⟩
    obtain ⟨x, o, ht⟩ := onlyPort_iff.mp (colophonAnswer_onlyPort (colophonRead (s.taken (.secure p)) p m[1] 5261) p 0x0105 (msgTag m)
      (quoinCheck s r (BitVec.ofNat 3 (fld m[2] 2 0))) [])
    obtain ⟨ps, o', hread⟩ := onlyPorts_iff.mp ((taken_secure_onlyPorts s p).trans hasked.onlyPorts)
    rw [ht, hread]
    exact ⟨rfl, rfl, rfl, rfl, rfl, rfl⟩
  · have hexec := exec_quoinOpen_of_delivered hm hready (.data r)
    rw [quoinOpen_of_accepted (by rw [quoinCheck_of_onlyPorts (taken_secure_onlyPorts s p)]; exact hcheck)] at hexec
    obtain ⟨ps, o', hread⟩ := onlyPorts_iff.mp ((taken_secure_onlyPorts s p).trans
      (colophonRead_asked (s.taken (.secure p)) p m[1] 5261).onlyPorts)
    refine ⟨_, hexec, ?_, rfl, rfl, fun d => ?_, rfl, fun x hx => ?_, rfl, rfl⟩
    · rw [hread]
      rfl
    · exact Vector.getElem_replicate ..
    · exact galleyByte_clearGalley _ hx
  · have hexec : exec (.quoinOpeningDone ok) s = .next (openingEnds s o ok) := by
      simp only [exec, execQuoinOpeningDone, ho, hoff, Bool.false_eq_true, if_false]
    by_cases hkeys : ok = true ∧ s.colo.mgmtOnly = false
    · obtain ⟨n, fs, ks, k, hopened⟩ := openedScope_spec s o
      have hends : openingEnds s o ok = colophonAnswer (openedScope s o) o.port 0x0105 o.tag 0 [] := by
        rw [← colophonAnswer_held (openedScope s o) o.port (by rw [hopened]; exact hheld)]
        simp only [openingEnds, hkeys, Bool.not_false, Bool.and_self, if_true, openedScope]
      obtain ⟨x, out, ht⟩ := onlyPort_iff.mp (colophonAnswer_onlyPort (openedScope s o) o.port 0x0105 o.tag 0 [])
      have hans := colophonAnswer_answered (s := s) (u := openedScope s o) (p := o.port) (by rw [hopened]; rfl) 0x0105 o.tag 0 []
      refine ⟨_, hexec.trans (by rw [hends]), ?_, fun a ha => ?_, ?_⟩
      · rw [ht, hopened]
        rfl
      · rw [ht, hopened]
        exact openingScrub_unlisted s ha
      · rw [if_pos hkeys]
        refine ⟨?_, ?_, ?_, hans⟩ <;> rw [ht, hopened] <;> rfl
    · obtain ⟨fs, k, hopened⟩ := unopenedScope_spec s
      have hno : (ok && !s.colo.mgmtOnly) = false := by
        cases ok <;> cases hm : s.colo.mgmtOnly <;> simp_all
      have hends : openingEnds s o ok = colophonAnswer (unopenedScope s) o.port 0x0105 o.tag 0x130A [] := by
        rw [← colophonAnswer_held (unopenedScope s) o.port (by rw [hopened]; exact hheld)]
        simp only [openingEnds, hno, Bool.false_eq_true, if_false, unopenedScope]
      obtain ⟨x, out, ht⟩ := onlyPort_iff.mp (colophonAnswer_onlyPort (unopenedScope s) o.port 0x0105 o.tag 0x130A [])
      have hans := colophonAnswer_answered (s := s) (u := unopenedScope s) (p := o.port) (by rw [hopened]; rfl) 0x0105 o.tag 0x130A []
      refine ⟨_, hexec.trans (by rw [hends]), ?_, fun a ha => ?_, ?_⟩
      · rw [ht, hopened]
        rfl
      · rw [ht, hopened]
        exact openingScrub_unlisted s ha
      · rw [if_neg hkeys]
        refine ⟨?_, ?_, ?_, hans⟩ <;> rw [ht, hopened] <;> rfl
  · have hexec : exec (.quoinClose p) s = .next (startReset (s.taken (.secure p)) 2) := by
      simp only [exec, execQuoinClose, secureExchange_of_delivered hm hready]
    obtain ⟨ps, out, htaken⟩ := onlyPorts_iff.mp (taken_secure_onlyPorts s p)
    have hfrom := startReset_resetFrom (s := s.taken (.secure p)) 2
    have hboot := startReset_boot (s := s.taken (.secure p)) 2
    have hsame : (s.taken (.secure p)).boot = s.boot := by rw [htaken]
    rw [hsame] at hboot
    refine ⟨_, hexec, by rw [hboot], by rw [hboot], by rw [hboot], by rw [hboot], ?_, hfrom.colo, hfrom.formes, hfrom.stack, hfrom.galley,
      by rw [hfrom.fuses, htaken], by rw [hfrom.flash, htaken]⟩
    rw [hboot]
    rfl

end Sys2Proof.Machine
end

section
/-! The per-function reset (R364, R366, R381, R382, R407, R408). -/
namespace Sys2Proof.Machine

/-- A relation that every step of a fold keeps holds across the fold. -/
theorem foldl_related {α : Type} {R : State → State → Prop} (hrefl : ∀ s, R s s) (htrans : ∀ {s t u}, R s t → R t u → R s u)
    {g : State → α → State} (hg : ∀ u x, R u (g u x)) (l : List α) (s : State) : R s (l.foldl g s) := by
  induction l generalizing s with
  | nil => exact hrefl s
  | cons x l ih => exact htrans (hg s x) (ih _)

/-! ### Shared images (R231) -/

/-- Of the formes only what ink holds has changed. -/
def OnlyInkers (s t : State) : Prop := ∀ g : FormeId, ∃ i, t.forme g = { s.forme g with inker := i }

theorem OnlyInkers.refl (s : State) : OnlyInkers s s := fun g => ⟨(s.forme g).inker, rfl⟩

theorem OnlyInkers.trans {s t u : State} (h : OnlyInkers s t) (k : OnlyInkers t u) : OnlyInkers s u := fun g => by
  obtain ⟨i, hi⟩ := h g
  obtain ⟨i', hi'⟩ := k g
  exact ⟨i', by rw [hi', hi]⟩

theorem State.modBinding_onlyInkers (s : State) (f : FormeId) (b : BindingId) (g : Binding → Binding) : OnlyInkers s (s.modBinding f b g) :=
  fun a => by
    by_cases ha : f = a
    · subst ha
      exact ⟨_, by rw [State.modBinding, State.forme_modForme_self]⟩
    · exact ⟨(s.forme a).inker, by rw [State.modBinding, State.forme_modForme_of_ne _ _ _ _ ha]⟩

/-- One binding drops the old copies of shared images that nothing reads. -/
def trimBinding (u : State) (o : FormeId) (b : BindingId) : State :=
  u.modBinding o b (fun k => { k with old := k.old.filter (fun i => !i.shared || copyRead (u.forme o) b i.gen || copyAttached u i.gen) })

theorem trimShared_eq (s : State) : trimShared s = { allFormes.foldl (fun t o => allBindings.foldl (fun u b => trimBinding u o b) t) s with
    orphans := s.orphans.filter (fun i => copyAttached s i.gen) } := rfl

theorem trimShared_onlyInkers (s : State) : OnlyInkers s (trimShared s) := by
  have hforme : ∀ (t : State) (o : FormeId), OnlyInkers t (allBindings.foldl (fun u b => trimBinding u o b) t) := fun t o =>
    foldl_related (R := OnlyInkers) OnlyInkers.refl OnlyInkers.trans (fun u b => u.modBinding_onlyInkers o b _) allBindings t
  have hall := foldl_related (R := OnlyInkers) OnlyInkers.refl OnlyInkers.trans hforme allFormes s
  intro g
  rw [trimShared_eq]
  generalize List.foldl _ s allFormes = v at hall
  exact hall g

theorem State.scrubBytes_formes (s : State) (a n : Nat) : (s.scrubBytes a n).formes = s.formes := rfl

theorem leaveShared_formes (before s : State) : (leaveShared before s).formes = s.formes := by
  unfold leaveShared
  refine foldl_keeps_of_step (proj := State.formes) (fun t i => ?_) _ _
  exact t.scrubBytes_formes ..

/-- What a cleared forme is left with: what replaces it, with its records and counts, its keys gone and its domains off (R406). -/
theorem clearForme_forme (s : State) (f : FormeId) (y : Forme) : ∃ i, (clearForme s f y).forme f = { y with
    cfg := (s.forme f).cfg, live := false, kStack := none, inkKey := none, epoch := (s.forme f).epoch, geoGen := (s.forme f).geoGen,
    ringsHeld := (s.forme f).ringsHeld, domainsOff := true, offSince := s.time.ticks, inker := i } := by
  unfold clearForme
  dsimp only
  rw [State.forme, leaveShared_formes, ← State.forme]
  generalize hu : State.setForme _ f _ = u
  obtain ⟨i, hi⟩ := trimShared_onlyInkers { u with
    stack := { u.stack with stone := u.stack.stone.filter (fun e => e.owner != f) }
    index := u.index.filter (fun e => e.forme != f), poolQueue := u.poolQueue.filter (· != f),
    orphans := u.orphans ++ orphanCopies s f } f
  refine ⟨i, hi.trans ?_⟩
  change { u.forme f with inker := i } = _
  rw [← hu, State.forme_setForme_self]

/-! ### The start of the reset (R407) -/

section
variable {s : State} {h : HostReq} {f : FormeId} {c : FormeCfg}

theorem exec_freset (htarget : hostTarget s h = .forme f) (hcfg : (s.forme f).cfg = some c) (hopen : s.colo.opening = none)
    (hreimp : s.colo.reimp = none) : exec (.freset h) s = .next (scrubStarts ((clearForme (stopForme s f 0x0D05) f Forme.reset).modForme f
      (fun x => { x with ecp := { x.ecp with phase := 3, totalMib := BitVec.ofNat 32 (ceilDiv (scrubBytes c) (2 ^ 20)) } })) 1 f.val
      (ceilDiv (scrubBytes c) (2 ^ 30))) := by
  simp only [exec, execFreset, formeWrite, htarget, fresetForme, hopen, hreimp, functionReset, hcfg, Option.isSome_none, Bool.false_eq_true,
    if_false]

/-! ### The end of the scrub (R364, R366, R381) -/

/-- The forme's scrub leaves all but the two memories' contents and poison. -/
theorem scrubForme_spec (s : State) (f : FormeId) : ∃ k, scrubForme s f = { s with stack := k } := by
  have hbytes : ∀ (u : State) (l : List Nat) (a : Nat → Nat) (n : Nat), ∃ k, l.foldl (fun t i => t.scrubBytes (a i) n) u = { u with stack := k } := by
    intro u l a n
    induction l generalizing u with
    | nil => exact ⟨u.stack, rfl⟩
    | cons i l ih =>
      obtain ⟨k, hk⟩ := ih (u.scrubBytes (a i) n)
      exact ⟨k, hk⟩
  unfold scrubForme
  split
  case h_1 c _ => exact hbytes (s.scrubRegions c.regions) _ _ _
  case h_2 => exact ⟨s.stack, rfl⟩

theorem foldl_scrubBytes_mem (u : State) (l : List Nat) (a : Nat → Nat) (n : Nat) :
    (l.foldl (fun t i => t.scrubBytes (a i) n) u).stack.mem = l.foldl (fun m i => memClear m (a i) n) u.stack.mem := by
  induction l generalizing u with
  | nil => rfl
  | cons i l ih => exact ih (u.scrubBytes (a i) n)

/-- What the forme's scrub clears: its regions, then its blocks of the save area. -/
theorem scrubForme_mem (hcfg : (s.forme f).cfg = some c) : (scrubForme s f).stack.mem =
    (List.range c.blocks).foldl (fun m i => memClear m (saveAddr c (24576 * i)) (24576 * 65536))
      (c.regions.foldl (fun m r => memClear m (r.base * 2 ^ 30) (r.len * 2 ^ 30)) s.stack.mem) := by
  simp only [scrubForme, hcfg]
  exact foldl_scrubBytes_mem (s.scrubRegions c.regions) _ _ _

/-- The forme whose new keys are issued: imposed but idle. -/
def rekeyedForme (x : Forme) : Forme := { x with live := true, epoch := x.epoch + 1, ecp := { x.ecp with phase := 0, totalMib := 0 } }

/-- The forme that waits for entropy. -/
def unkeyedForme (x : Forme) : Forme := { x with ecp := { x.ecp with phase := 5 } }

theorem exec_functionResetScrubDone_keyed (hcfg : (s.forme f).cfg = some c) (hphase : (s.forme f).ecp.phase = 4)
    (hmgmt : s.colo.mgmtOnly = false) : exec (.functionResetScrubDone f true) s =
      .next (scrubEnds ((keyForme (scrubForme s f) f c.domain).modForme f rekeyedForme)) := by
  simp only [exec, execFunctionResetScrubDone, resetScrubDone, hcfg, hphase, hmgmt, Bool.not_false, Bool.and_self, if_true]
  rfl

theorem exec_functionResetScrubDone_unkeyed (hcfg : (s.forme f).cfg = some c) (hphase : (s.forme f).ecp.phase = 4) :
    exec (.functionResetScrubDone f false) s = .next (entropyFails (scrubEnds ((scrubForme s f).modForme f unkeyedForme))) := by
  simp only [exec, execFunctionResetScrubDone, resetScrubDone, hcfg, hphase, Bool.false_and, Bool.false_eq_true, if_false, if_true]
  rfl

/-- A secret of a domain is the colophon's own. -/
theorem keyDomain_formes (s : State) (d : Fin 16) : (keyDomain s d).formes = s.formes := by
  unfold keyDomain
  split <;> rfl

/-- What a forme's new keys change: the two of the forme, and the module's draws and domain secrets. -/
theorem keyForme_forme (s : State) (f : FormeId) (d : Fin 16) : OnlyKeys s (keyForme s f d) ∧
    (keyForme s f d).forme f = { s.forme f with kStack := some s.draws, inkKey := some (s.draws + 1) } ∧
    ∀ g : FormeId, g ≠ f → (keyForme s f d).forme g = s.forme g := by
  refine ⟨keyForme_onlyKeys s f d, ?_, fun g hg => ?_⟩
  all_goals
    rw [keyForme, State.forme, keyDomain_formes, ← State.forme]
  · rw [State.forme_modForme_self]
    rfl
  · rw [State.forme_modForme_of_ne _ _ _ _ (Ne.symm hg)]
    rfl

end

/-- Settles O11: what replaces a cleared forme, the discharge, and the scrub with its keys, each read off its own step. -/
theorem functionReset_spec : Obligations.FunctionReset := by
  refine ⟨fun s h f c htarget hcfg hopen hreimp => ?_, fun s f hoff hdue => ?_, fun s o ho hoff hdue => ?_,
    fun s f c hcfg hphase hmgmt => ?_, fun s f c hcfg hphase => ?_⟩
  · obtain ⟨i, hi⟩ := clearForme_forme (stopForme s f 0x0D05) f Forme.reset
    refine ⟨_, exec_freset htarget hcfg hopen hreimp, ?_, ?_, ?_, ?_, ?_, ?_, ?_, ?_, ?_, rfl, rfl⟩
    all_goals
      rw [scrubStarts, State.forme]
      dsimp only
      rw [← State.forme, State.forme_modForme_self, hi] <;> rfl
  · have hdue' : discharged s (s.forme f).offSince = true := decide_eq_true hdue
    refine ⟨_, by simp only [exec, execDomainDischargeDone, hoff, hdue', Bool.and_self, if_true]; rfl, State.modForme_onlyForme s f _, ?_, ?_⟩
    all_goals rw [State.forme_modForme_self]
  · have hdue' : discharged s o.offSince = true := decide_eq_true hdue
    refine ⟨_, by simp only [exec, execDomainDischargeDone, ho, hoff, hdue', Bool.and_self, if_true]; rfl, rfl, fun f => ?_⟩
    simp [State.forme, State.mapFormes]
  · obtain ⟨k, hscrub⟩ := scrubForme_spec s f
    obtain ⟨hkeys, hforme, hother⟩ := keyForme_forme (scrubForme s f) f c.domain
    obtain ⟨n, fs, ks, hkeyed⟩ := onlyKeys_iff.mp hkeys
    generalize hu : (keyForme (scrubForme s f) f c.domain).modForme f rekeyedForme = u
    obtain ⟨e, hends⟩ := scrubEnds_spec u
    have hself : u.forme f = rekeyedForme { s.forme f with kStack := some s.draws, inkKey := some (s.draws + 1) } := by
      rw [← hu, State.forme_modForme_self, hforme, hscrub]
      rfl
    have hrest : u.stack = (scrubForme s f).stack ∧ u.fuses = s.fuses ∧ u.flash = s.flash ∧ u.time = s.time := by
      rw [← hu, hkeyed, hscrub]
      exact ⟨rfl, rfl, rfl, rfl⟩
    obtain ⟨hstack, hfuses, hflash, htime⟩ := hrest
    refine ⟨{ u with colo := { u.colo with scrub := e } }, by rw [exec_functionResetScrubDone_keyed hcfg hphase hmgmt, hu, hends],
      congrArg Forme.kStack hself, congrArg Forme.inkKey hself,
      congrArg Forme.live hself, congrArg Forme.epoch hself, congrArg (fun x => x.ecp.phase) hself, fun r hr a hlo hhi => ?_,
      fun i hi a hlo hhi => ?_, fun a hregions hblocks => ?_, fun g hg => ?_, hfuses, hflash, htime⟩
    · have hend : a < r.base * 2 ^ 30 + r.len * 2 ^ 30 := by rwa [Nat.add_mul] at hhi
      have hregion := memGet_foldl_memClear_of_mem (base := fun r : Region => r.base * 2 ^ 30) (len := fun r : Region => r.len * 2 ^ 30) hr hlo
        hend s.stack.mem
      rw [hstack, scrubForme_mem hcfg]
      exact memGet_foldl_memClear_none (base := fun i => saveAddr c (24576 * i)) (len := fun _ => 24576 * 65536) hregion
    · rw [hstack, scrubForme_mem hcfg]
      exact memGet_foldl_memClear_of_mem (base := fun i => saveAddr c (24576 * i)) (len := fun _ => 24576 * 65536) (List.mem_range.mpr hi) hlo
        (by omega) _
    · rw [hstack, scrubForme_mem hcfg]
      rw [memGet_foldl_memClear_of_not (base := fun i => saveAddr c (24576 * i)) (len := fun _ => 24576 * 65536)
        (fun i hi => (hblocks i (List.mem_range.mp hi)).imp_right (by omega))]
      exact memGet_foldl_memClear_of_not (base := fun r : Region => r.base * 2 ^ 30) (len := fun r : Region => r.len * 2 ^ 30)
        (fun r hr => (hregions r hr).imp_right (by omega)) _
    · change u.forme g = s.forme g
      rw [← hu, State.forme_modForme_of_ne _ _ _ _ (Ne.symm hg), hother g hg, hscrub]
      rfl
  · obtain ⟨k, hscrub⟩ := scrubForme_spec s f
    obtain ⟨e, hends⟩ := scrubEnds_spec ((scrubForme s f).modForme f unkeyedForme)
    have hexec := exec_functionResetScrubDone_unkeyed hcfg hphase
    rw [hends, hscrub] at hexec
    refine ⟨_, hexec, ?_, ?_, ?_, rfl, rfl⟩
    all_goals
      simp [State.forme, entropyFails, State.mapFormes, State.modForme, State.setForme, unkeyedForme]

end Sys2Proof.Machine
end

section
/-! Flits of links and host ports, and invalidations of host pages (R307, R308, R340, R342, R347). -/
namespace Sys2Proof.Machine

/-! ### What a command of one link may touch -/

section
variable {l : LinkId} {s t u : State}

theorem onlyLink_iff : OnlyLink l s t ↔ ∃ x o, t = { s.modLink l (fun _ => x) with out := o } := by
  refine ⟨fun h => ⟨_, _, h⟩, ?_⟩
  rintro ⟨x, o, rfl⟩
  simp [OnlyLink, State.modLink, State.link]

theorem OnlyLink.refl (l : LinkId) (s : State) : OnlyLink l s s := by
  simp [OnlyLink, State.modLink, State.link]

theorem OnlyLink.trans (hst : OnlyLink l s t) (htu : OnlyLink l t u) : OnlyLink l s u := by
  obtain ⟨x, o, rfl⟩ := onlyLink_iff.mp hst
  obtain ⟨y, o', rfl⟩ := onlyLink_iff.mp htu
  exact onlyLink_iff.mpr ⟨y, o', by simp [State.modLink]⟩

theorem State.modLink_onlyLink (s : State) (l : LinkId) (g : Link → Link) : OnlyLink l s (s.modLink l g) :=
  onlyLink_iff.mpr ⟨g (s.link l), s.out, rfl⟩

theorem State.emit_onlyLink (s : State) (l : LinkId) (o : Output) : OnlyLink l s (s.emit o) :=
  (OnlyLink.refl l s).trans (onlyLink_iff.mpr ⟨s.link l, s.out ++ [o], by simp [State.emit, State.modLink, State.link]⟩)

end

/-! ### Flits of a link (R307, R308) -/

section
variable {s : State} {l : LinkId} {x : AczFlit}

/-- A link that is up takes a flit whose CRC holds. -/
theorem exec_flitReceive_good (hup : (s.link l).state = .up) (hon : (s.link l).disable = false) (hcrc : x.crcOk = true) :
    exec (.flitReceive l x) s = .next (goodFlit s l x) := by
  simp [exec, execFlitReceive, hup, hon, hcrc]

theorem exec_flitReceive_bad (hup : (s.link l).state = .up) (hon : (s.link l).disable = false) (hcrc : x.crcOk = false) :
    exec (.flitReceive l x) s = .next (rejectFlit s l) := by
  simp [exec, execFlitReceive, hup, hon, hcrc]

/-- With nothing to send again and nothing waiting, a data flit returns its credits and no more before it is looked at. -/
theorem goodFlit_of_quiet (hty : x.type = 0) (hnak : x.nak = false) (hreplay : (s.link l).replay = []) (hqueue : (s.link l).queue = []) :
    goodFlit s l x = dataFlit (s.modLink l (fun k => takeCredits k x.credits)) l x := by
  have hlink : (s.modLink l (fun k => takeCredits (takeAck k x.ack) x.credits)) = s.modLink l (fun k => takeCredits k x.credits) := by
    simp only [State.modLink, takeAck, hreplay]
  have hempty : ((s.modLink l (fun k => takeCredits k x.credits)).link l).queue = [] := by
    rw [State.link_modLink_self]
    exact hqueue
  simp only [goodFlit, hlink, hnak, Bool.false_eq_true, if_false, hempty, List.length_nil, drainQueue, hty, if_true]

theorem dataFlit_inOrder (hseq : x.seq = (s.link l).rxExpect) (hempty : x.packets = []) : dataFlit s l x =
    (s.modLink l (fun k => { k with rxExpect := k.rxExpect + 1, nakSent := false })).emit
      (.linkAck l (x.seq + 1) [0, 0, 0, 0, 0, 0, 0, 0]) := by
  have hno : ¬ (x.seq != (s.link l).rxExpect) = true := by rw [hseq, bne_self_eq_false]; exact Bool.false_ne_true
  rw [dataFlit, if_neg hno, hempty]
  rfl

theorem dataFlit_outOfOrder (hseq : x.seq ≠ (s.link l).rxExpect) : dataFlit s l x = rejectFlit s l := if_pos (bne_iff_ne.mpr hseq)

/-- A rejected flit changes nothing of its link but that NAK is sent, and NAK is sent once. -/
theorem rejectFlit_spec (s : State) (l : LinkId) : OnlyLink l s (rejectFlit s l) ∧
    (rejectFlit s l).link l = { s.link l with nakSent := true } ∧
    (rejectFlit s l).out = s.out ++ (if (s.link l).nakSent then [] else [.linkNak l (s.link l).rxExpect]) := by
  unfold rejectFlit
  by_cases hsent : (s.link l).nakSent = true
  · rw [if_pos hsent, if_pos hsent, ← hsent, List.append_nil]
    exact ⟨OnlyLink.refl l s, rfl, rfl⟩
  · rw [if_neg hsent, if_neg hsent]
    refine ⟨(s.modLink_onlyLink l _).trans (State.emit_onlyLink _ l _), ?_, rfl⟩
    exact s.link_modLink_self l (fun k => { k with nakSent := true })

end

/-- Settles O39: a data flit by whether its SEQ is the expected one; every other way is a rejection. -/
theorem flitsInOrder : Obligations.FlitsInOrder := by
  refine ⟨fun s l x hup hon hcrc hty hnak hempty hreplay hqueue hseq => ?_, fun s l x hup hon hcrc => ?_,
    fun s l x hup hon hcrc hty hnak hreplay hqueue hseq hsent => ?_⟩
  · have hexec := exec_flitReceive_good hup hon hcrc
    rw [goodFlit_of_quiet hty hnak hreplay hqueue, dataFlit_inOrder (by rw [State.link_modLink_self]; exact hseq) hempty] at hexec
    refine ⟨_, hexec, ((s.modLink_onlyLink l _).trans (State.modLink_onlyLink _ l _)).trans (State.emit_onlyLink _ l _), ?_, ?_,
      fun i => ?_, rfl⟩
    all_goals
      rw [State.link_emit, State.link_modLink_self, State.link_modLink_self]
    · rfl
    · simp [takeCredits]
  · exact ⟨_, exec_flitReceive_bad hup hon hcrc, rejectFlit_spec s l⟩
  · have hexec := exec_flitReceive_good hup hon hcrc
    rw [goodFlit_of_quiet hty hnak hreplay hqueue, dataFlit_outOfOrder (by rw [State.link_modLink_self]; exact hseq)] at hexec
    obtain ⟨honly, hlink, hout⟩ := rejectFlit_spec (s.modLink l (fun k => takeCredits k x.credits)) l
    rw [State.link_modLink_self] at hlink hout
    refine ⟨_, hexec, (s.modLink_onlyLink l _).trans honly, by rw [hlink]; rfl, hout.trans ?_⟩
    rw [show (takeCredits (s.link l) x.credits).nakSent = false from hsent]
    rfl

/-! ### Flits of a host port (R308, R342) -/

/-- What a port pumps out: its units, its counts, and what is not acknowledged. -/
theorem pumpPort_spec (x : Port) : ∃ w c b u q, pumpPort x = { x with waiting := w, credits := c, backlog := b, unacked := u, txSeq := q } := by
  have hstart : ∀ (cs : List (Fin 4)) (y : Port), ∃ w c b, cs.foldl startUnits y = { y with waiting := w, credits := c, backlog := b } := by
    intro cs
    induction cs with
    | nil => exact fun y => ⟨_, _, _, rfl⟩
    | cons i cs ih =>
      intro y
      obtain ⟨w, c, b, h⟩ := ih (startUnits y i)
      exact ⟨w, c, b, h⟩
  obtain ⟨w, c, b, h⟩ := hstart (List.finRange 4) x
  unfold pumpPort
  rw [h]
  exact ⟨w, c, _, _, _, rfl⟩

section
variable {s : State} {p : PortId} {x : EcpFlit}

theorem exec_ecpFlitReceive_good (hup : s.portUp p = true) (hcrc : x.crcOk = true) :
    exec (.ecpFlitReceive p x) s = .next (ecpGoodFlit s p x) := by
  simp [exec, execEcpFlitReceive, hup, hcrc]

theorem exec_ecpFlitReceive_bad (hup : s.portUp p = true) (hcrc : x.crcOk = false) :
    exec (.ecpFlitReceive p x) s = .next (ecpRejects s p) := by
  simp [exec, execEcpFlitReceive, hup, hcrc]

theorem ecpGoodFlit_data (hty : x.type = 0) (hnak : x.nak = false) :
    ecpGoodFlit s p x = ecpDataFlit (s.modPort p (fun k => ecpReturns k x)) p x := by
  simp only [ecpGoodFlit, hnak, Bool.false_eq_true, if_false, hty, if_true]

/-- What is acknowledged and credited says nothing of what is expected next. -/
theorem ecpReturns_receives (k : Port) (x : EcpFlit) : (ecpReturns k x).rxExpect = k.rxExpect ∧ (ecpReturns k x).nakSent = k.nakSent := by
  unfold ecpReturns
  dsimp only
  generalize hy : ({ k with unacked := _, credits := _ } : Port) = y
  obtain ⟨w, c, b, u, q, h⟩ := pumpPort_spec y
  rw [h, ← hy]
  exact ⟨rfl, rfl⟩

theorem ecpRejects_spec (hsent : (s.port p).nakSent = false) : OnlyPort p s (ecpRejects s p) ∧
    (ecpRejects s p).port p = { s.port p with nakSent := true } ∧ (ecpRejects s p).out = s.out ++ [.ecpNak p (s.port p).rxExpect] := by
  have hno : ¬ (s.port p).nakSent = true := by rw [hsent]; exact Bool.false_ne_true
  rw [ecpRejects, if_neg hno]
  refine ⟨onlyPort_iff.mpr ⟨_, _, rfl⟩, ?_, rfl⟩
  exact s.port_modPort_self p (fun k => { k with nakSent := true })

end

/-! ### Invalidations (R340, R347) -/

/-- What an invalidated page takes from a forme's makeup leaves its spill map. -/
theorem invalidateSpill_ecp (x : Forme) (pages : List Nat) : (invalidateSpill x pages).ecp = x.ecp := rfl

theorem exec_snpInv {s : State} {p : PortId} {page : BitVec 40} (hup : s.portUp p = true) :
    exec (.snpInv p page) s = .next (snoop s p page) := by
  simp only [exec, execSnpInv, hup, if_true]

/-- The copies of other pages stay, and no copy of the page. -/
theorem snoop_copies (s : State) (p : PortId) (page : BitVec 40) :
    ((snoop s p page).port p).copies = (s.port p).copies.filter (·.2 != page) := by
  unfold snoop
  dsimp only
  rw [State.ecpOut, State.port_emit, State.port_modPort_self]
  generalize hy : ({ State.port _ p with waiting := _ } : Port) = y
  obtain ⟨w, c, b, u, q, h⟩ := pumpPort_spec y
  rw [h, ← hy]
  dsimp only
  rw [State.port_mapFormes, State.port_modPort_self]

/-- ECP_SPILL_INVAL names a page: COUNT is 0, or the page is in its range. -/
def spillHit (v : Word) (page : Nat) : Bool := fld v 63 32 = 0 || (fld v 31 0 ≤ page && page < fld v 31 0 + fld v 63 32)

theorem spillHit_iff {v : Word} {page : Nat} : spillHit v page = true ↔
    v.toNat / 2 ^ 32 = 0 ∨ (v.toNat % 2 ^ 32 ≤ page ∧ page < v.toNat % 2 ^ 32 + v.toNat / 2 ^ 32) := by
  have hcount : fld v 63 32 = v.toNat / 2 ^ 32 := by
    rw [fld, Nat.shiftRight_eq_div_pow]
    exact Nat.mod_eq_of_lt (by omega)
  have hfirst : fld v 31 0 = v.toNat % 2 ^ 32 := rfl
  simp [spillHit, hcount, hfirst]

/-- A forme without the spill-map entries that ECP_SPILL_INVAL names. -/
def withoutSpill (v : Word) (x : Forme) : Forme :=
  invalidateSpill { x with ecp := { x.ecp with spillMap := x.ecp.spillMap.filter (fun e => !spillHit v e.1) } } ((knownSpill x).filter (spillHit v))

/-- Besides the forme only the requests of its port change. -/
theorem spillInval_ports (s : State) (f : FormeId) (v : Word) : ∃ ps, spillInval s f v = { s.modForme f (withoutSpill v) with ports := ps } := by
  unfold spillInval
  dsimp only
  split
  · exact ⟨_, rfl⟩
  · exact ⟨s.ports, rfl⟩

/-- Settles O46: a data flit by whether its SEQ is the expected one, and an invalidation by the entries it names. -/
theorem portFlitsAndInvalidations : Obligations.PortFlitsAndInvalidations := by
  refine ⟨fun s p x hup hcrc hty hnak hseq => ?_, fun s p x hup hbad hsent => ?_, fun s p page hup => ?_, fun s h f v htarget => ?_⟩
  · have hexec := exec_ecpFlitReceive_good hup hcrc
    obtain ⟨hexpect, -⟩ := ecpReturns_receives (s.port p) x
    have hno : ¬ (x.seq != ((s.modPort p (fun k => ecpReturns k x)).port p).rxExpect) = true := by
      rw [State.port_modPort_self, hexpect, hseq, bne_self_eq_false]
      exact Bool.false_ne_true
    rw [ecpGoodFlit_data hty hnak, ecpDataFlit, if_neg hno] at hexec
    refine ⟨_, hexec, (s.modPort_onlyPort p _).trans (onlyPort_iff.mpr ⟨_, _, rfl⟩), ?_, ?_, rfl⟩
    all_goals rw [State.port_emit, State.port_modPort_self, State.port_modPort_self]
    rw [hexpect]
  · rcases hbad with hcrc | ⟨hcrc, hty, hnak, hseq⟩
    · obtain ⟨honly, hport, hout⟩ := ecpRejects_spec hsent
      exact ⟨_, exec_ecpFlitReceive_bad hup hcrc, honly, by rw [hport], by rw [hport], hout⟩
    · have hexec := exec_ecpFlitReceive_good hup hcrc
      obtain ⟨hexpect, hnaks⟩ := ecpReturns_receives (s.port p) x
      have hyes : (x.seq != ((s.modPort p (fun k => ecpReturns k x)).port p).rxExpect) = true := by
        rw [State.port_modPort_self, hexpect]
        exact bne_iff_ne.mpr hseq
      rw [ecpGoodFlit_data hty hnak, ecpDataFlit, if_pos hyes] at hexec
      obtain ⟨honly, hport, hout⟩ := ecpRejects_spec (s := s.modPort p (fun k => ecpReturns k x)) (p := p)
        (by rw [State.port_modPort_self, hnaks]; exact hsent)
      rw [State.port_modPort_self] at hport hout
      exact ⟨_, hexec, (s.modPort_onlyPort p _).trans honly, by rw [hport]; exact hexpect, by rw [hport], hout.trans (by rw [hexpect]; rfl)⟩
  · refine ⟨_, exec_snpInv hup, rfl, ?_, ?_, rfl, rfl⟩
    all_goals rw [snoop_copies]
    · exact fun k hk => bne_iff_ne.mp (List.mem_filter.mp hk).2
    · exact fun k hk hne => List.mem_filter.mpr ⟨hk, bne_iff_ne.mpr hne⟩
  · refine ⟨spillInval s f v, by simp only [exec, execEcpSpillInval, formeWrite, htarget], ?_⟩
    obtain ⟨ps, hinval⟩ := spillInval_ports s f v
    rw [hinval]
    refine ⟨rfl, rfl, rfl, fun e => ?_⟩
    change e ∈ ((s.modForme f (withoutSpill v)).forme f).ecp.spillMap ↔ _
    rw [State.forme_modForme_self, withoutSpill, invalidateSpill_ecp]
    simp only [List.mem_filter, Bool.not_eq_true', ← Bool.not_eq_true, spillHit_iff]

end Sys2Proof.Machine
end

section
/-! Reports, the identity certificate, and the programming of fuses (R358 to R363, R370 to R374). -/
namespace Sys2Proof.Machine

variable {s t : State} {p : PortId} {m : Vector Word 16}

/-! ### What the colophon reads of the module while it answers -/

/-- Requests in flight stand while the message is taken, so the next tag does. -/
theorem taken_secure_reqTag (s : State) (p : PortId) : (s.taken (.secure p)).reqTag p = s.reqTag p := by
  simp [State.reqTag, State.taken, State.modMbox]

theorem taken_secure_out (s : State) (p : PortId) : (s.taken (.secure p)).out = s.out := rfl

theorem reportBytes_of_onlyPorts (h : OnlyPorts s t) : reportBytes t = reportBytes s := by
  obtain ⟨ps, o, rfl⟩ := onlyPorts_iff.mp h
  rfl

theorem identityBytes_of_onlyPorts (h : OnlyPorts s t) : identityBytes t = identityBytes s := by
  obtain ⟨ps, o, rfl⟩ := onlyPorts_iff.mp h
  rfl

theorem fuseCheck_of_onlyPorts (h : OnlyPorts s t) : fuseCheck t = fuseCheck s := by
  obtain ⟨ps, o, rfl⟩ := onlyPorts_iff.mp h
  rfl

/-! ### The length of a report (R371, R372) -/

theorem fitBytes_length (n : Nat) (bs : List Byte) : (fitBytes n bs).length = n := by
  simp [fitBytes]

theorem length_flatMap_of_const {α β : Type} {g : α → List β} {n : Nat} (hg : ∀ a, (g a).length = n) (l : List α) :
    (l.flatMap g).length = n * l.length := by
  induction l with
  | nil => rfl
  | cons a l ih => rw [List.flatMap_cons, List.length_append, hg, ih, List.length_cons, Nat.mul_succ, Nat.add_comm]

theorem reportImages_length (s : State) (f : FormeId) :
    ((List.finRange 8).flatMap (fun b => leBytes 32 (reportImage s f b))).length = 256 :=
  (length_flatMap_of_const (fun b => leBytes_length 32 (reportImage s f b)) (List.finRange 8)).trans (by rw [List.length_finRange])

theorem reportForme_length (s : State) (f : FormeId) (r : FormeRecs) : (reportForme s f r).length = 1888 := by
  unfold reportForme
  rw [List.length_append, reportImages_length, List.length_append, fitBytes_length]
  simp only [List.length_append, leBytes_length]

theorem reportNonce_length {nonce : List Word} (hn : nonce.length = 4) : (nonce.flatMap (fun w => leBytes 8 w.toNat)).length = 32 :=
  (length_flatMap_of_const (fun w => leBytes_length 8 w.toNat) nonce).trans (by rw [hn])

theorem reportModule_length {nonce : List Word} (hn : nonce.length = 4) (n : Nat) : (reportModule s nonce n).length = 512 := by
  unfold reportModule
  dsimp only
  simp only [List.length_append]
  rw [reportNonce_length hn]
  simp only [leBytes_length]

theorem reportBytes_length (s : State) (mask : Nat) {nonce : List Word} (hn : nonce.length = 4) :
    (reportBytes s mask nonce).length = 512 + 1888 * (reportFormes s mask).length + 16 + 3309 := by
  have hformes : ((reportFormes s mask).flatMap (fun p => reportForme s p.1 p.2)).length = 1888 * (reportFormes s mask).length := by
    generalize reportFormes s mask = ps
    refine length_flatMap_of_const (fun p => ?_) ps
    exact reportForme_length s p.1 p.2
  simp only [reportBytes, identitySign, fitBytes_length, List.length_append, reportModule_length hn, hformes, leBytes_length]

/-! ### REPORT and IDENTITY (R363, R370, R374) -/

/-- What is written and answered, as of the message's words. -/
theorem reportAnswer_of_message (s : State) (p : PortId) (m : Vector Word 16) (w : Option EcpStatus) : reportAnswer s p m.toList w =
    colophonAnswer (colophonWrite s p m[1] (reportBytes s (fld m[2] 15 0) [m[3], m[4], m[5], m[6]])) p 0x0102 (msgTag m)
      (if w.isSome then 0x1309 else 0)
      (if w.isSome then [] else [BitVec.ofNat 64 (reportBytes s (fld m[2] 15 0) [m[3], m[4], m[5], m[6]]).length]) := by
  have hget : ∀ i (h : i < 16), m.toList.getD i 0 = m[i] := fun i h => by
    rw [List.getD_eq_getElem?_getD, List.getElem?_eq_getElem (by rw [Vector.length_toList]; exact h), Option.getD_some, Vector.getElem_toList]
  have hnonce : (m.toList.drop 3).take 4 = [m[3], m[4], m[5], m[6]] := by
    refine List.ext_getElem (by simp) fun i h1 h2 => ?_
    match i, h2 with
    | 0, _ | 1, _ | 2, _ | 3, _ => simp
  have htag : BitVec.ofNat 16 (fld (m.toList.getD 0 0) 31 16) = msgTag m := by rw [hget 0 (by decide), msgTag]
  rw [reportAnswer, hget 2 (by decide), hget 1 (by decide), hnonce, htag]
  cases w <;> rfl

/-- What stands of the module behind an answer of the colophon: what left before it, the formes, the stack and the fuses. -/
structure AnsweredOver (s t : State) : Prop where
  out    : ∀ o ∈ s.out, o ∈ t.out
  formes : t.formes = s.formes
  stack  : t.stack = s.stack
  fuses  : t.fuses = s.fuses

theorem colophonAnswer_over (s : State) (p : PortId) (op : Nat) (tag : BitVec 16) (c : Code) (ws : List Word) :
    AnsweredOver s (colophonAnswer s p op tag c ws) := by
  obtain ⟨x, o, ht⟩ := onlyPort_iff.mp (colophonAnswer_onlyPort s p op tag c ws)
  obtain ⟨new, hnew⟩ := (colophonAnswer_keeps (Keeps.refl s) p op tag c ws).out
  refine ⟨fun o' ho => ?_, ?_, ?_, ?_⟩
  · rw [hnew]
    exact List.mem_append_left new ho
  all_goals
    rw [ht]
    rfl

/-- Settles O52: the report's length is the sum of its sections', and both requests are a write and an answer. -/
theorem reportsAndIdentity : Obligations.ReportsAndIdentity := by
  refine ⟨fun s mask nonce hn => reportBytes_length s mask hn, fun s p m w hm hready hopen hphase => ?_,
    fun s p m w hm hready hopen hphase => ?_, fun s p m w hm => ?_⟩
  · have htaken := taken_secure_onlyPorts s p
    have hasked := colophonWrite_asked (s.taken (.secure p)) p m[1] (reportBytes s (fld m[2] 15 0) [m[3], m[4], m[5], m[6]])
    rw [taken_secure_reqTag] at hasked
    have hexec : exec (.report p w) s = .next (reportAnswer (s.taken (.secure p)) p m.toList w) := by
      have hopen' : ¬ (s.taken (.secure p)).colo.opening.isSome = true := by
        rw [show (s.taken (.secure p)).colo.opening = none from hopen]
        exact Bool.false_ne_true
      simp only [exec, execReport, secureExchange_of_delivered hm hready, if_neg hopen',
        if_neg (show ¬ (s.taken (.secure p)).colo.phase = 1 from hphase)]
    rw [reportAnswer_of_message, reportBytes_of_onlyPorts htaken] at hexec
    obtain ⟨ps, o, hall⟩ := onlyPorts_iff.mp (htaken.trans hasked.onlyPorts)
    obtain ⟨hout, hformes, hstack, hfuses⟩ := colophonAnswer_over (colophonWrite (s.taken (.secure p)) p m[1]
      (reportBytes s (fld m[2] 15 0) [m[3], m[4], m[5], m[6]])) p 0x0102 (msgTag m) (if w.isSome then 0x1309 else 0)
      (if w.isSome then [] else [BitVec.ofNat 64 (reportBytes s (fld m[2] 15 0) [m[3], m[4], m[5], m[6]]).length])
    refine ⟨_, hexec, ?_, hout _ (by rw [hasked.out]; exact List.mem_append_right _ (List.mem_singleton_self _)), by rw [hformes, hall],
      by rw [hstack, hall], by rw [hfuses, hall]⟩
    cases w <;> exact colophonAnswer_respondedWith (hasked.mbox _) ..
  · have hexec : exec (.report p w) s = .next (colophonAnswer (s.taken (.secure p)) p 0x0102 (msgTag m) 0x1305 []) := by
      have hopen' : ¬ (s.taken (.secure p)).colo.opening.isSome = true := by
        rw [show (s.taken (.secure p)).colo.opening = none from hopen]
        exact Bool.false_ne_true
      simp only [exec, execReport, secureExchange_of_delivered hm hready, if_neg hopen',
        if_pos (show (s.taken (.secure p)).colo.phase = 1 from hphase)]
    exact ⟨_, hexec, colophonAnswer_respondedWith rfl ..⟩
  · have htaken := taken_secure_onlyPorts s p
    by_cases hup : s.colo.identityUp = true
    · have hasked := colophonWrite_asked (s.taken (.secure p)) p m[1] (identityBytes s)
      rw [taken_secure_reqTag] at hasked
      have hexec : exec (.identity p w) s = .next (colophonAnswer (colophonWrite (s.taken (.secure p)) p m[1] (identityBytes s)) p 0x0103 (msgTag m)
          (if w.isSome then 0x1309 else 0) []) := by
        have hup' : ¬ (!(s.taken (.secure p)).colo.identityUp) = true := by
          rw [show (s.taken (.secure p)).colo.identityUp = true from hup]
          exact Bool.false_ne_true
        simp only [exec, execIdentity, exchange_of_delivered hm, if_neg hup', identityBytes_of_onlyPorts htaken]
      obtain ⟨ps, o, hall⟩ := onlyPorts_iff.mp (htaken.trans hasked.onlyPorts)
      obtain ⟨hout, hformes, hstack, hfuses⟩ := colophonAnswer_over (colophonWrite (s.taken (.secure p)) p m[1] (identityBytes s)) p 0x0103
        (msgTag m) (if w.isSome then 0x1309 else 0) []
      rw [if_neg (by rw [hup]; exact Bool.noConfusion)]
      refine ⟨_, hexec, colophonAnswer_respondedWith (hasked.mbox _) .., fun _ => hout _ ?_, by rw [hformes, hall], by rw [hstack, hall],
        by rw [hfuses, hall]⟩
      rw [hasked.out]
      exact List.mem_append_right _ (List.mem_singleton_self _)
    · have hdown : s.colo.identityUp = false := Bool.eq_false_iff.mpr hup
      have hexec : exec (.identity p w) s = .next (colophonAnswer (s.taken (.secure p)) p 0x0103 (msgTag m) 0x130B []) := by
        have hdown' : (!(s.taken (.secure p)).colo.identityUp) = true := by
          rw [show (s.taken (.secure p)).colo.identityUp = false from hdown]
          rfl
        simp only [exec, execIdentity, exchange_of_delivered hm, if_pos hdown']
      obtain ⟨-, hformes, hstack, hfuses⟩ := colophonAnswer_over (s.taken (.secure p)) p 0x0103 (msgTag m) 0x130B []
      rw [if_pos hdown]
      exact ⟨_, hexec, colophonAnswer_respondedWith rfl .., fun h => absurd h hup, hformes, hstack, hfuses⟩

end Sys2Proof.Machine
end

section
/-! Programming of fuses (R358 to R360). -/
namespace Sys2Proof.Machine

variable {s : State} {p : PortId} {m : Vector Word 16} {r : FuseRequest} {u : Fuses} {v : Vector HashSlot 4} {n free : Nat}

/-! ### Slots of a hash field (R359, R360) -/

theorem programSlot_toList (value : BitVec 256) (ok : Bool) : (programSlot v n value ok).toList =
    v.toList.set n { hash := value, programmed := true, revoked := !ok || (v.toList[n]?.map (·.revoked)).getD false } := by
  rw [programSlot, Vector.toList_setIfInBounds]

theorem programSlot_get (hn : n < 4) (value : BitVec 256) (ok : Bool) : (programSlot v n value ok).toList[n]? =
    some { hash := value, programmed := true, revoked := !ok || (v.toList[n]?.map (·.revoked)).getD false } := by
  rw [programSlot_toList, List.getElem?_set_self (by rw [Vector.length_toList]; exact hn)]

theorem revokeSlot_get (hn : n < 4) : ∃ k, (revokeSlot v n true).toList[n]? = some k ∧ k.revoked = true := by
  have hlen : n < v.toList.length := by rw [Vector.length_toList]; exact hn
  refine ⟨{ v.toList[n] with revoked := true }, ?_, rfl⟩
  simp only [revokeSlot, List.getElem?_eq_getElem hlen]
  rw [Vector.toList_setIfInBounds, List.getElem?_set_self hlen, Bool.or_true]

/-! ### The blow of each field (R358 to R360) -/

theorem blowFuses_rule (hf : r.field = 1) (hok : r.blown = true) : blowFuses u r free = { u with rules := u.rules ||| oneBit 6 r.slot.toNat } := by
  simp only [blowFuses, hf, hok, if_true]
  rfl

theorem blowFuses_svn (hf : r.field = 2) (hok : r.blown = true) : blowFuses u r free = { u with svnMin := r.value.toNat } := by
  simp only [blowFuses, hf, hok, if_true]
  rfl

theorem blowFuses_signer (hf : r.field = 3) : ∃ value, (r.blown = true → value = r.value) ∧
    blowFuses u r free = { u with signer := programSlot u.signer r.slot.toNat value r.blown } := by
  refine ⟨_, fun hok => ?_, by simp only [blowFuses, hf]; rfl⟩
  rw [if_pos hok]

theorem blowFuses_operator (hf : r.field = 5) : ∃ value, (r.blown = true → value = r.value) ∧
    blowFuses u r free = { u with operator := programSlot u.operator r.slot.toNat value r.blown } := by
  refine ⟨_, fun hok => ?_, by simp only [blowFuses, hf]; rfl⟩
  rw [if_pos hok]

theorem blowFuses_revokeSigner (hf : r.field = 4) : blowFuses u r free = { u with signer := revokeSlot u.signer r.slot.toNat r.blown } := by
  simp only [blowFuses, hf]
  rfl

theorem blowFuses_revokeOperator (hf : r.field = 6) : blowFuses u r free = { u with operator := revokeSlot u.operator r.slot.toNat r.blown } := by
  simp only [blowFuses, hf]
  rfl

/-! ### The checks (R359) -/

theorem fuseAllowed_of_check (h : fuseCheck s r = 0) : fuseAllowed s r = true := by
  refine Decidable.byContradiction (fun hno => ?_)
  have hno' : (!fuseAllowed s r) = true := by simpa using hno
  simp only [fuseCheck, if_pos hno'] at h
  split at h
  · exact absurd h (by decide)
  · split at h
    · exact absurd h (by decide)
    · split at h
      · exact absurd h (by decide)
      · split at h
        · exact absurd h (by decide)
        · exact absurd h (by decide)

/-- A slot that a request of a hash field names is one of the four. -/
theorem slot_lt_of_check (h : fuseCheck s r = 0) (hf : r.field = 3 ∨ r.field = 4 ∨ r.field = 5 ∨ r.field = 6) : r.slot.toNat < 4 := by
  have hok := fuseAllowed_of_check h
  rcases hf with hf | hf | hf | hf
  case inr.inl =>
    refine Decidable.byContradiction (fun hlen => ?_)
    have hnone : s.fuses.signer.toList[r.slot.toNat]? = none := List.getElem?_eq_none (by rw [Vector.length_toList]; omega)
    simp [fuseAllowed, hf, hnone] at hok
  all_goals
    simp only [fuseAllowed, hf, BitVec.reduceToNat, Bool.and_eq_true, decide_eq_true_eq] at hok
    exact hok.1

/-! ### The request (R359, R360) -/

theorem fuseProgram_of_refused (h : fuseCheck s r ≠ 0) : fuseProgram s p m (.data r) =
    dropNonce (colophonAnswer (colophonRead s p m[1] 5309) p 0x0107 (msgTag m) (fuseCheck s r) []) := by
  simp only [fuseProgram, fuseCheck_of_onlyPorts (colophonRead_asked s p m[1] 5309).onlyPorts, if_neg h]

/-- The module whose fuses are blown. -/
def blownState (s : State) (r : FuseRequest) : State := { s with fuses := blowFuses s.fuses r s.free, free := s.free + 4 }

theorem fuseProgram_of_allowed (h : fuseCheck s r = 0) : fuseProgram s p m (.data r) = dropNonce (colophonAnswer
    (blownState (colophonRead s p m[1] 5309) r) p 0x0107 (msgTag m) (if r.blown then 0 else 0x1308) []) := by
  simp only [fuseProgram, fuseCheck_of_onlyPorts (colophonRead_asked s p m[1] 5309).onlyPorts, if_pos h]
  rfl

/-- An allowed request blows its fuses, is answered, and consumes the nonce. -/
theorem exec_fuseProgram_allowed (hm : Delivered s (.secure p) 0x0107 m) (hready : s.boot.ready = true) (h : fuseCheck s r = 0) :
    ∃ t, exec (.fuseProgram p (.data r)) s = .next t ∧
      RespondedWith (.secure p) (mkResponse 0x0107 (msgTag m) (if r.blown then 0 else 0x1308) []) s t ∧ t.colo.nonce = none ∧
      t.fuses = blowFuses s.fuses r s.free := by
  have hexec := exec_fuseProgram_of_delivered hm hready (.data r)
  rw [fuseProgram_of_allowed (by rw [fuseCheck_of_onlyPorts (taken_secure_onlyPorts s p)]; exact h)] at hexec
  have hasked := colophonRead_asked (s.taken (.secure p)) p m[1] 5309
  obtain ⟨ps, o, hread⟩ := onlyPorts_iff.mp ((taken_secure_onlyPorts s p).trans hasked.onlyPorts)
  have hfuses := (colophonAnswer_over (blownState (colophonRead (s.taken (.secure p)) p m[1] 5309) r) p 0x0107 (msgTag m)
    (if r.blown then 0 else 0x1308) []).fuses
  have hmbox : (blownState (colophonRead (s.taken (.secure p)) p m[1] 5309) r).mbox (.secure p) = (s.taken (.secure p)).mbox (.secure p) :=
    hasked.mbox (.secure p)
  refine ⟨_, hexec, colophonAnswer_respondedWith hmbox .., rfl, hfuses.trans ?_⟩
  rw [hread]
  rfl

/-- Settles O55: the checks bound the slot, and each field's blow is an equation of its own. -/
theorem fusesProgram : Obligations.FusesProgram := by
  refine ⟨fun s p m r hm hready hcheck => ?_, fun s p m r hm hready hcheck hblown => ?_, fun s p m r hm hready hcheck hblown => ?_⟩
  · have htaken := fuseCheck_of_onlyPorts (taken_secure_onlyPorts s p)
    have hexec := exec_fuseProgram_of_delivered hm hready (.data r)
    rw [fuseProgram_of_refused (by rw [htaken]; exact hcheck), htaken] at hexec
    have hasked := colophonRead_asked (s.taken (.secure p)) p m[1] 5309
    obtain ⟨ps, o, hread⟩ := onlyPorts_iff.mp ((taken_secure_onlyPorts s p).trans hasked.onlyPorts)
    obtain ⟨-, hformes, -, hfuses⟩ := colophonAnswer_over (colophonRead (s.taken (.secure p)) p m[1] 5309) p 0x0107 (msgTag m) (fuseCheck s r) []
    refine ⟨_, hexec, colophonAnswer_respondedWith (hasked.mbox _) .., hfuses.trans ?_, rfl, hformes.trans ?_⟩ <;> rw [hread]
  · obtain ⟨t, hexec, hresp, hnonce, hfuses⟩ := exec_fuseProgram_allowed hm hready hcheck
    rw [hblown] at hresp
    refine ⟨t, hexec, hresp, hnonce, fun hf => ?_, fun hf => ?_, fun hf => ?_, fun hf => ?_, fun hf => ?_, fun hf => ?_⟩
    · rw [hfuses, blowFuses_rule hf hblown]
    · rw [hfuses, blowFuses_svn hf hblown]
    · obtain ⟨value, hvalue, hblow⟩ := blowFuses_signer (u := s.fuses) (free := s.free) hf
      rw [hfuses, hblow, programSlot_toList, hvalue hblown, hblown]
      rfl
    · obtain ⟨value, hvalue, hblow⟩ := blowFuses_operator (u := s.fuses) (free := s.free) hf
      rw [hfuses, hblow]
      exact ⟨rfl, _, programSlot_get (slot_lt_of_check hcheck (.inr (.inr (.inl hf)))) value r.blown, hvalue hblown, rfl⟩
    · rw [hfuses, blowFuses_revokeSigner hf, hblown]
      exact revokeSlot_get (slot_lt_of_check hcheck (.inr (.inl hf)))
    · rw [hfuses, blowFuses_revokeOperator hf, hblown]
      exact revokeSlot_get (slot_lt_of_check hcheck (.inr (.inr (.inr hf))))
  · obtain ⟨t, hexec, hresp, -, hfuses⟩ := exec_fuseProgram_allowed hm hready hcheck
    rw [hblown] at hresp
    refine ⟨t, hexec, hresp, fun hf => ?_⟩
    obtain ⟨value, -, hblow⟩ := blowFuses_signer (u := s.fuses) (free := s.free) hf
    rw [hfuses, hblow]
    refine ⟨_, programSlot_get (slot_lt_of_check hcheck (.inl hf)) value r.blown, ?_⟩
    rw [hblown]
    rfl

end Sys2Proof.Machine
end

section
/-! Mailboxes, and the power of compositors (R352 to R355). -/
namespace Sys2Proof.Machine

variable {s : State} {h : HostReq} {f : FormeId} {v : Word}

/-! ### The bits of a control word (R352) -/

theorem bitOf_or_placeBit_self {n : Nat} (hn : n < 64) (v : Word) : bitOf (v ||| placeBit n true) n = true := by
  have hbit : (placeBit n true).getLsbD n = true := by
    rw [placeBit, place, BitVec.getLsbD_shiftLeft]
    simp [hn]
  rw [bitOf, BitVec.getLsbD_or, hbit, Bool.or_true]

theorem ack_evtEn (v : Word) : bitOf (v ||| placeBit 1 true) 2 = v.getLsbD 2 := by
  rw [bitOf, BitVec.getLsbD_or]
  exact Bool.or_false _

/-! ### GO and ACK (R353) -/

/-- The channel whose message is sent. -/
def goneMbox (m : Mbox) : Mbox := { m with full := true }

theorem exec_mboxGo (htarget : hostTarget s h = .forme f) (hfull : (s.forme f).mbox.full = false) :
    exec (.mboxGo h v) s = .next ((s.modMbox (.plain f) goneMbox).rejectUndefined (.plain f)) := by
  have hmbox : (s.mbox (.plain f)).full = false := hfull
  simp only [exec, execMboxGo, htarget, writeInCtrl, bitOf_or_placeBit_self (show 0 < 64 by decide), Bool.not_true, Bool.false_eq_true,
    if_false, hmbox]
  rfl

theorem exec_mboxGo_full (htarget : hostTarget s h = .forme f) (hfull : (s.forme f).mbox.full = true) :
    exec (.mboxGo h v) s = .next (s.busError h) := by
  have hmbox : (s.mbox (.plain f)).full = true := hfull
  simp only [exec, execMboxGo, htarget, writeInCtrl, bitOf_or_placeBit_self (show 0 < 64 by decide), Bool.not_true, Bool.false_eq_true,
    if_false, hmbox, if_true]

/-- A message of a defined opcode waits for its exchange, and where there is none nothing is answered. -/
theorem State.rejectUndefined_of_defined (h : opcodeDefined (.plain f) (msgOpcode (s.forme f).mbox.inData) = true) :
    s.rejectUndefined (.plain f) = s := by
  have hdef : opcodeDefined (.plain f) (msgOpcode (s.mbox (.plain f)).inData) = true := h
  simp only [State.rejectUndefined, hdef, Bool.not_true, Bool.and_false, Bool.false_eq_true, if_false]

theorem State.rejectUndefined_of_empty (h : (s.forme f).mbox.full = false) : s.rejectUndefined (.plain f) = s := by
  have hfull : (s.mbox (.plain f)).full = false := h
  simp only [State.rejectUndefined, hfull, Bool.and_false, Bool.false_and, Bool.false_eq_true, if_false]

theorem State.rejectUndefined_of_undefined (hfull : (s.forme f).mbox.full = true) (hready : s.receiverReady (.plain f) = true)
    (h : opcodeDefined (.plain f) (msgOpcode (s.forme f).mbox.inData) = false) :
    s.rejectUndefined (.plain f) = (s.taken (.plain f)).respond (.plain f)
      (mkResponse (msgOpcode (s.forme f).mbox.inData) (msgTag (s.forme f).mbox.inData) 0x1201 []) := by
  have hfull' : (s.mbox (.plain f)).full = true := hfull
  have hdef : opcodeDefined (.plain f) (msgOpcode (s.mbox (.plain f)).inData) = false := h
  simp only [State.rejectUndefined, hfull', hready, hdef, Bool.not_false, Bool.and_self, if_true]
  rfl

/-- Whether a receiver can take a message does not depend on whether one waits. -/
theorem receiverReady_gone (s : State) (f : FormeId) :
    (s.modMbox (.plain f) goneMbox).receiverReady (.plain f) = s.receiverReady (.plain f) := by
  simp only [State.receiverReady, State.modMbox_mbox_self, goneMbox]
  simp only [State.modMbox, State.forme_modForme_self, State.mbox]
  rfl

theorem State.modMbox_modMbox (s : State) (f : FormeId) (g g' : Mbox → Mbox) :
    (s.modMbox (.plain f) g).modMbox (.plain f) g' = s.modMbox (.plain f) (fun m => g' (g m)) := by
  simp only [State.modMbox, State.modForme, State.forme_setForme_self, State.setForme_setForme]

theorem exec_mboxAck (htarget : hostTarget s h = .forme f) : exec (.mboxAck h v) s =
    .next (writeOutCtrl s (.plain f) (v ||| placeBit 1 true)) := by
  simp only [exec, execMboxAck, htarget]

/-- ACK of a response frees the channel's direction, with EVT_EN as written. -/
theorem writeOutCtrl_ack (hvalid : (s.forme f).mbox.valid = true) : writeOutCtrl s (.plain f) (v ||| placeBit 1 true) =
    mboxFree (s.modMbox (.plain f) (fun m => { m with evtEn := v.getLsbD 2 })) (.plain f) := by
  have hmbox : ((s.modMbox (.plain f) (fun m => { m with evtEn := v.getLsbD 2 })).mbox (.plain f)).valid = true := by
    rw [State.modMbox_mbox_self]
    exact hvalid
  simp only [writeOutCtrl, ack_evtEn, bitOf_or_placeBit_self (show 1 < 64 by decide), hmbox, Bool.and_self, if_true]

theorem mboxFree_of_none (hw : (s.forme f).mbox.waiting = []) : mboxFree s (.plain f) =
    (s.modMbox (.plain f) (fun m => { m with valid := false, waiting := m.waiting.tail })).rejectUndefined (.plain f) := by
  have hw' : (s.mbox (.plain f)).waiting = [] := hw
  simp only [mboxFree, hw']

theorem mboxFree_of_waiting {r : Vector Word 16} {rest : List (Vector Word 16)} (hw : (s.forme f).mbox.waiting = r :: rest) :
    mboxFree s (.plain f) =
      (((s.modMbox (.plain f) (fun m => { m with valid := false, waiting := m.waiting.tail })).respond (.plain f) r)).rejectUndefined (.plain f) := by
  have hw' : (s.mbox (.plain f)).waiting = r :: rest := hw
  simp only [mboxFree, hw']

/-- A response to a channel with nothing in its outbound direction stands there. -/
theorem State.respond_of_free {c : Chan} (hvalid : (s.mbox c).valid = false) (r : Vector Word 16) :
    (s.respond c r).mbox c = { s.mbox c with outData := r, valid := true } := by
  have hno : ¬ (s.mbox c).valid = true := by rw [hvalid]; exact Bool.false_ne_true
  rw [State.respond, if_neg hno, State.mboxEvent_mbox, State.modMbox_mbox_self]

/-! ### Compositor power (R354) -/

/-- Compositors and both memories stand. -/
def SamePower (s t : State) : Prop := t.comps = s.comps ∧ t.stack = s.stack ∧ t.galley = s.galley

theorem SamePower.refl (s : State) : SamePower s s := ⟨rfl, rfl, rfl⟩

theorem SamePower.trans {s t u : State} (h : SamePower s t) (k : SamePower t u) : SamePower s u :=
  ⟨k.1.trans h.1, k.2.1.trans h.2.1, k.2.2.trans h.2.2⟩

theorem OnlyPort.samePower {p : PortId} {t : State} (h : OnlyPort p s t) : SamePower s t := by
  obtain ⟨x, o, rfl⟩ := onlyPort_iff.mp h
  exact ⟨rfl, rfl, rfl⟩

theorem State.modMbox_samePower (s : State) (c : Chan) (g : Mbox → Mbox) : SamePower s (s.modMbox c g) := by
  cases c <;> exact ⟨rfl, rfl, rfl⟩

theorem State.mboxEvent_samePower (s : State) (c : Chan) : SamePower s (s.mboxEvent c) := by
  cases c with
  | secure p => exact (State.mboxEvent_secure_onlyPort s p).samePower
  | plain f =>
    unfold State.mboxEvent
    split
    · change SamePower s (s.formeEvent f 0x40)
      rcases s.formeEvent_quiet f 0x40 with h | ⟨p, o, h⟩
      · rw [h]
        exact SamePower.refl s
      · exact h.1.samePower
    · exact SamePower.refl s

theorem State.respond_samePower (s : State) (c : Chan) (r : Vector Word 16) : SamePower s (s.respond c r) := by
  unfold State.respond
  split
  · exact s.modMbox_samePower c _
  · exact (s.modMbox_samePower c _).trans (State.mboxEvent_samePower _ c)

theorem State.rejectUndefined_samePower (s : State) (c : Chan) : SamePower s (s.rejectUndefined c) := by
  have hite : ∀ (b : Bool) (t : State), SamePower s t → SamePower s (if b = true then t else s) := fun b t ht => by
    cases b
    · exact SamePower.refl s
    · exact ht
  exact hite _ _ ((s.modMbox_samePower c _).trans (State.respond_samePower _ c _))

theorem exec_compositorWake {c : CompId} (hwake : wakeDue s c = true) :
    ∃ t, exec (.compositorWake c) s = .next t ∧ SamePower (s.modComp c (fun k => { k with powered := true, idle := 0 })) t := by
  rw [exec, execCompositorWake, if_pos hwake]
  refine ⟨_, rfl, foldl_related SamePower.refl SamePower.trans (fun t f => ?_) allFormes _⟩
  split
  · split
    · exact t.rejectUndefined_samePower (.plain f)
    · exact SamePower.refl t
  · exact SamePower.refl t

/-- Settles O51: GO and ACK each act on one channel, and the wake and the gating on one compositor. -/
theorem mailboxes : Obligations.Mailboxes := by
  refine ⟨fun s h f v htarget hfull hdef => ?_, fun s h f v htarget hfull hdef hready => ?_,
    fun s h f v htarget hfull => ⟨_, exec_mboxGo_full htarget hfull, s.busError_sentOn h⟩, fun s h f v htarget hvalid hfull => ?_,
    fun s c hwake => ?_, fun s c f k hcfg hk hon hidle hwake => ?_⟩
  · have hgone : (s.modMbox (.plain f) goneMbox).forme f = { s.forme f with mbox := { (s.forme f).mbox with full := true } } :=
      s.forme_modForme_self f _
    refine ⟨s.modMbox (.plain f) goneMbox, ?_, s.modForme_onlyForme f (fun x => { x with mbox := goneMbox x.mbox }), hgone⟩
    rw [exec_mboxGo htarget hfull, State.rejectUndefined_of_defined]
    rw [hgone]
    exact hdef
  · have hgone : (s.modMbox (.plain f) goneMbox).forme f = { s.forme f with mbox := { (s.forme f).mbox with full := true } } :=
      s.forme_modForme_self f _
    refine ⟨_, exec_mboxGo htarget hfull, ?_⟩
    rw [State.rejectUndefined_of_undefined (by rw [hgone]) (by rw [receiverReady_gone]; exact hready) (by rw [hgone]; exact hdef), hgone]
    refine State.respond_respondedWith ?_ _
    simp only [State.taken, State.modMbox_mbox_self]
    rfl
  · have hexec := exec_mboxAck (v := v) htarget
    rw [writeOutCtrl_ack hvalid] at hexec
    generalize hu : s.modMbox (.plain f) (fun m => { m with evtEn := v.getLsbD 2 }) = u at hexec
    have hself : (u.forme f).mbox = { (s.forme f).mbox with evtEn := v.getLsbD 2 } := by
      rw [← hu]
      exact State.modMbox_mbox_self s (.plain f) _
    have hfree : ((u.modMbox (.plain f) (fun m => { m with valid := false, waiting := m.waiting.tail })).forme f).mbox =
        { (s.forme f).mbox with evtEn := v.getLsbD 2, valid := false, waiting := (s.forme f).mbox.waiting.tail } := by
      refine (State.modMbox_mbox_self u (.plain f) _).trans ?_
      rw [State.mbox, hself]
    cases hw : (s.forme f).mbox.waiting with
    | nil =>
      rw [mboxFree_of_none (by rw [hself]; exact hw), State.rejectUndefined_of_empty (by rw [hfree]; exact hfull)] at hexec
      refine ⟨_, hexec, by rw [hfree], by rw [hfree]; exact hfull, by rw [hfree, hw], by rw [hfree], ?_⟩
      rw [← hu, State.modMbox_modMbox]
      exact s.modForme_onlyForme f (fun x => { x with mbox := { x.mbox with
        evtEn := v.getLsbD 2, valid := false, waiting := x.mbox.waiting.tail } })
    | cons r rest =>
      have hresp := State.respond_of_free (s := u.modMbox (.plain f) (fun m => { m with valid := false, waiting := m.waiting.tail }))
        (c := .plain f) (by rw [State.mbox, hfree]) r
      rw [State.mbox, State.mbox, hfree] at hresp
      rw [mboxFree_of_waiting (by rw [hself]; exact hw), State.rejectUndefined_of_empty (by rw [hresp]; exact hfull)] at hexec
      refine ⟨_, hexec, by rw [hresp], by rw [hresp]; exact hfull, by rw [hresp, hw], by rw [hresp], by rw [hresp]⟩
  · obtain ⟨t, hexec, hcomps, hstack, hgalley⟩ := exec_compositorWake hwake
    have hcomp : t.comp c = { s.comp c with powered := true, idle := 0 } := by
      rw [State.comp, hcomps]
      simp [State.modComp]
    exact ⟨t, hexec, by rw [hcomp], by rw [hcomp], hstack, hgalley⟩
  · rw [exec, execCompositorPowerGate]
    refine congrArg Host.Outcome.next (if_pos ?_)
    simp only [hon, decide_eq_true hidle, hwake, Bool.not_false, Bool.and_true]
    exact List.any_eq_true.mpr ⟨f, List.mem_finRange f, by simp [hcfg, hk]⟩

end Sys2Proof.Machine
end

section
/-! Host ports: faults of the module's own requests, training and loss (R341, R344, R345, R350). -/
namespace Sys2Proof.Machine

variable {s t u : State} {f : FormeId} {p : PortId} {tag : SlugTag} {sl : Slug} {c : Code}

/-! ### What a fault leaves of the ports -/

/-- Of every port the link, the requests in flight and the reads held back stand. -/
def PortsStand (s t : State) : Prop :=
  ∀ p : PortId, (t.port p).link = (s.port p).link ∧ (t.port p).reqs = (s.port p).reqs ∧ (t.port p).heldReads = (s.port p).heldReads

theorem PortsStand.refl (s : State) : PortsStand s s := fun _ => ⟨rfl, rfl, rfl⟩

theorem PortsStand.trans (h : PortsStand s t) (k : PortsStand t u) : PortsStand s u := fun p => by
  obtain ⟨hl, hr, hh⟩ := h p
  obtain ⟨kl, kr, kh⟩ := k p
  exact ⟨kl.trans hl, kr.trans hr, kh.trans hh⟩

theorem PortsStand.of_ports (h : t.ports = s.ports) : PortsStand s t := fun p => by
  simp only [State.port, h, and_self]

theorem State.ecpOut_portsStand (s : State) (a : PortId) (cls : Fin 4) (n : Nat) (o : Output) : PortsStand s (s.ecpOut a cls n o) := fun p => by
  rw [State.ecpOut, State.port_emit]
  by_cases hp : a = p
  · subst hp
    rw [State.port_modPort_self]
    generalize hy : ({ s.port a with waiting := _ } : Port) = y
    obtain ⟨w, c, b, v, q, h⟩ := pumpPort_spec y
    rw [h, ← hy]
    exact ⟨rfl, rfl, rfl⟩
  · rw [State.port_modPort_of_ne _ _ _ _ hp]
    exact ⟨rfl, rfl, rfl⟩

theorem State.formeEvent_portsStand (s : State) (f : FormeId) (x : BitVec 8) : PortsStand s (s.formeEvent f x) := by
  unfold State.formeEvent
  split
  · dsimp only
    split
    · exact s.ecpOut_portsStand _ _ _ _
    · exact PortsStand.refl s
  · exact PortsStand.refl s

theorem State.noteCode_portsStand (s : State) (f : FormeId) (c : Code) : PortsStand s (s.noteCode f c) := by
  unfold State.noteCode
  dsimp only
  split
  · exact (PortsStand.of_ports rfl).trans (State.formeEvent_portsStand _ f _)
  · exact PortsStand.of_ports rfl

theorem State.faultSlug_portsStand (s : State) (f : FormeId) (tag : SlugTag) (st : SlugState) (c : Code) :
    PortsStand s (s.faultSlug f tag st c) := by
  unfold State.faultSlug
  split
  · split
    · exact PortsStand.refl s
    · exact PortsStand.trans (t := s.modForme f _) (PortsStand.of_ports rfl)
        ((State.noteCode_portsStand _ f c).trans (PortsStand.of_ports rfl))
  · exact PortsStand.refl s

/-! ### What a fault of host access leaves in the forme's window (R350) -/

theorem noteFormeCode_access (hc : c.toNat / 256 = 0x11) (x : Forme) : noteFormeCode x c = { x with ecp := { x.ecp with code := c } } := by
  simp only [noteFormeCode, hc]

/-- A slug that faults on host access leaves its code with the address and the status of the fault. -/
theorem State.faultSlug_ecp {st : SlugState} (hfind : findSlug (s.forme f) tag = some sl) (hopen : slugEnded sl = false)
    (hpast : pastPoint sl = false) (hc : c.toNat / 256 = 0x11) :
    ((s.faultSlug f tag st c).forme f).ecp = { (s.forme f).ecp with code := c } := by
  have hno : ¬ (slugEnded sl || pastPoint sl) = true := by rw [hopen, hpast]; exact Bool.false_ne_true
  generalize hu : s.modForme f (fun x => (x.noteSlugFault tag s.time.ticks c).endSlug tag st c) = u
  have hfault : s.faultSlug f tag st c = (u.noteCode f c).settle f := by
    simp only [State.faultSlug, hfind, if_neg hno, ← hu]
  have hecp : (u.forme f).ecp = (s.forme f).ecp := by
    obtain ⟨ls, hnote⟩ := (s.forme f).noteSlugFault_eq tag s.time.ticks c
    obtain ⟨l, hend⟩ := ((s.forme f).noteSlugFault tag s.time.ticks c).endSlug_onlySlugs tag st c
    rw [← hu, State.forme_modForme_self, hend, hnote]
  obtain ⟨sc, ls, sls, hsettle⟩ := (u.noteCode f c).settle_forme_rest f
  rw [hfault, hsettle]
  dsimp only
  rw [State.noteCode_forme, noteFormeCode_access hc, hecp]

/-- A slug's read that faults fails the slug, unless it copies another forme's leaves. -/
theorem slugReadFaults_of_running (hfind : findSlug (s.forme f) tag = some sl) (hwait : sl.wait ≠ .matchCopy) :
    slugReadFaults s f tag c = s.failSlug f tag c := by
  have hno : ¬ (sl.wait == SlugWait.matchCopy) = true := by rw [beq_iff_eq]; exact hwait
  simp only [slugReadFaults, hfind, if_neg hno]

theorem releaseHeld_of_none (h : (s.port p).heldReads = []) : releaseHeld s p = s := by
  simp only [releaseHeld, h, List.filter_nil, List.isEmpty_nil, if_true]

/-- The fault of a slug's read, from the address and status kept to the slug's end. -/
theorem slugReadFaults_spec {st : EcpStatus} {a : HostAddr} (hsole : Sole (s.forme f) tag sl) (hstate : sl.state = .running)
    (hwait : sl.wait ≠ .matchCopy) (hc : c.toNat / 256 = 0x11) :
    (∃ z, findSlug ((slugReadFaults (s.noteFault f a st) f tag c).forme f) tag = some z ∧ z.state = .failed ∧ z.status = c) ∧
    ((slugReadFaults (s.noteFault f a st) f tag c).forme f).ecp =
      { (s.forme f).ecp with faultAddr := a.truncate 52, faultStat := BitVec.ofNat 3 (ecpCode st), code := c } ∧
    PortsStand s (slugReadFaults (s.noteFault f a st) f tag c) := by
  have hself : (s.noteFault f a st).forme f = { s.forme f with ecp := { (s.forme f).ecp with
      faultAddr := a.truncate 52, faultStat := BitVec.ofNat 3 (ecpCode st) } } := s.forme_modForme_self f _
  have hsole' : Sole ((s.noteFault f a st).forme f) tag sl := by
    rw [hself]
    exact hsole
  have hopen : slugEnded sl = false := by rw [slugEnded, hstate]; rfl
  have hpast : pastPoint sl = false := by rw [pastPoint, hstate]; rfl
  rw [slugReadFaults_of_running hsole'.findSlug hwait, State.failSlug]
  obtain ⟨⟨z, hz, hzstate, hzstatus⟩, -, -, -⟩ := State.faultSlug_spec (st := .failed) (c := c) hsole' hopen hpast (.inl rfl)
  refine ⟨⟨z, hz, hzstate, hzstatus⟩, ?_, (PortsStand.of_ports rfl).trans (State.faultSlug_portsStand _ f tag .failed c)⟩
  rw [State.faultSlug_ecp hsole'.findSlug hopen hpast hc, hself]

/-! ### Training and loss (R341) -/

/-- The port that is down. -/
def downPort (now : Word) (k : Port) : Port :=
  { k with link := 0, since := now, waiting := Vector.replicate 4 0, backlog := 0, unacked := [] }

/-- The port that trains. -/
def trainingPort (now : Word) (k : Port) : Port := { k with link := 1, goodLanes := 0xFFFF, since := now }

theorem portFalls_of_idle (hreqs : (s.port p).reqs = []) (hheld : (s.port p).heldReads = []) :
    portFalls s p = s.modPort p (downPort s.time.ticks) := by
  have hport : (s.modPort p (downPort s.time.ticks)).port p = downPort s.time.ticks (s.port p) := s.port_modPort_self p _
  have hr : ((s.modPort p (downPort s.time.ticks)).port p).reqs = [] := by rw [hport]; exact hreqs
  have hh : ((s.modPort p (downPort s.time.ticks)).port p).heldReads = [] := by rw [hport]; exact hheld
  change releaseHeld (allFault p .timeout (s.modPort p (downPort s.time.ticks)) ((s.modPort p (downPort s.time.ticks)).port p).reqs) p = _
  rw [hr]
  exact releaseHeld_of_none hh

/-- What a port that comes up has: its link, and what it held. -/
theorem portRises_spec (s : State) (p : PortId) (k : BitVec 3) : OnlyPort p s (portRises s p k) ∧
    ((portRises s p k).port p).link = k ∧ ((portRises s p k).port p).goodLanes = (s.port p).goodLanes ∧
    ((portRises s p k).port p).reqs = (s.port p).reqs := by
  have hport : (portRises s p k).port p = pumpPort { s.port p with link := k, credits := ecpCredits, nakSent := false } := by
    unfold portRises
    dsimp only
    split
    · exact s.port_modPort_self p _
    · rw [State.port_emit]
      exact s.port_modPort_self p _
  refine ⟨?_, ?_⟩
  · unfold portRises
    dsimp only
    split
    · exact s.modPort_onlyPort p _
    · exact onlyPort_iff.mpr ⟨_, _, rfl⟩
  · rw [hport]
    obtain ⟨w, c, b, v, q, h⟩ := pumpPort_spec { s.port p with link := k, credits := ecpCredits, nakSent := false }
    rw [h]
    exact ⟨rfl, rfl, rfl⟩

/-- Training that ends in time, with a half without a failed lane. -/
theorem portTrained_rises {g : BitVec 16} (hlink : (s.port p).link = 1) (hin : (s.time.ticks - (s.port p).since).toNat ≤ 20000)
    (hhalf : lowHalf ((s.port p).goodLanes &&& g) = true ∨ highHalf ((s.port p).goodLanes &&& g) = true) :
    portTrained s p g = portRises (s.modPort p (fun k => { k with goodLanes := (s.port p).goodLanes &&& g })) p
      (if (s.port p).goodLanes &&& g = 0xFFFF#16 then 2 else 3) := by
  have hno : ¬ ((s.port p).link != 1) = true := by rw [hlink]; decide
  have hor : (lowHalf ((s.port p).goodLanes &&& g) || highHalf ((s.port p).goodLanes &&& g)) = true := by
    rw [Bool.or_eq_true]
    exact hhalf
  rw [portTrained]
  rw [if_neg hno, if_neg (Nat.not_lt.mpr hin), if_pos hor]
  by_cases hall : (s.port p).goodLanes &&& g = 0xFFFF#16
  · rw [if_pos hall, if_pos hall]
  · rw [if_neg hall, if_neg hall]

theorem portTrained_falls {g : BitVec 16} (hlink : (s.port p).link = 1) (hbad : 20000 < (s.time.ticks - (s.port p).since).toNat ∨
    (lowHalf ((s.port p).goodLanes &&& g) = false ∧ highHalf ((s.port p).goodLanes &&& g) = false)) :
    portTrained s p g = portFalls (s.modPort p (fun k => { k with goodLanes := (s.port p).goodLanes &&& g })) p := by
  have hno : ¬ ((s.port p).link != 1) = true := by rw [hlink]; decide
  rw [portTrained]
  rw [if_neg hno]
  by_cases hlate : 20000 < (s.time.ticks - (s.port p).since).toNat
  · rw [if_pos hlate]
  · obtain ⟨hlow, hhigh⟩ := hbad.resolve_left hlate
    have hall : ¬ (s.port p).goodLanes &&& g = 0xFFFF#16 := fun h => by
      rw [h, show lowHalf 0xFFFF#16 = true from by decide] at hlow
      exact Bool.noConfusion hlow
    rw [if_neg hlate, if_neg hall, if_neg (by rw [hlow, hhigh]; exact Bool.false_ne_true)]

/-- A lane that fails takes its own bit, and leaves one half whole. -/
theorem lanes_without_one : ∀ lane : Fin 16, ((0xFFFF : BitVec 16) &&& ~~~ oneBit 16 lane.val) ≠ 0xFFFF ∧
    (lowHalf ((0xFFFF : BitVec 16) &&& ~~~ oneBit 16 lane.val) || highHalf ((0xFFFF : BitVec 16) &&& ~~~ oneBit 16 lane.val)) = true ∧
    ∀ n : Fin 16, ((0xFFFF : BitVec 16) &&& ~~~ oneBit 16 lane.val).getLsbD n.val = decide (n.val ≠ lane.val) := by
  decide

/-- Settles O45: training and loss move one port, and the one request in flight of a port that falls faults its slug. -/
theorem portsTrain : Obligations.PortsTrain := by
  refine ⟨fun s p g hlink hin hhalf => ?_, fun s p g hlink hbad hreqs hheld => ?_, fun s p hpower hpwrgd hlink hdue => ?_,
    fun s p f q tag sl hlink hreqs hheld huse hsole hstate hwait => ?_, fun s p hreqs hheld hlink => ?_, fun s h v htarget => ?_,
    fun s p lane hup hall => ?_⟩
  · obtain ⟨honly, hl, hg, hr⟩ := portRises_spec (s.modPort p (fun k => { k with goodLanes := (s.port p).goodLanes &&& g })) p
      (if (s.port p).goodLanes &&& g = 0xFFFF#16 then 2 else 3)
    rw [State.port_modPort_self] at hg hr
    exact ⟨_, by rw [exec, execPortTrainingDone, portTrained_rises hlink hin hhalf], (s.modPort_onlyPort p _).trans honly, hg, hl, hr⟩
  · refine ⟨_, by rw [exec, execPortTrainingDone, portTrained_falls hlink hbad, portFalls_of_idle (by rw [State.port_modPort_self]; exact hreqs)
      (by rw [State.port_modPort_self]; exact hheld)], (s.modPort_onlyPort p _).trans (State.modPort_onlyPort _ p _), ?_, ?_⟩
    all_goals rw [State.port_modPort_self] <;> rfl
  · have hgo : (s.isOn && s.boot.pwrgd && (s.port p).link = 0 && decide (1000000 ≤ (s.time.ticks - (s.port p).since).toNat)) = true := by
      rw [State.isOn, hpower, hpwrgd, hlink, decide_eq_true hdue]
      rfl
    exact ⟨s.modPort p (trainingPort s.time.ticks), by rw [exec, execPortTrainRetry, if_pos hgo]; rfl, s.modPort_onlyPort p _,
      s.port_modPort_self p _⟩
  · generalize hw : (s.modPort p (downPort s.time.ticks)).retire p (fun r => r.tag == q.tag) = w
    have hport : w.port p = { downPort s.time.ticks (s.port p) with reqs := [] } := by
      rw [← hw, State.retire, State.port_modPort_self, State.port_modPort_self]
      simp [downPort, hreqs]
    have hforme : w.forme f = s.forme f := by rw [← hw]; rfl
    have hfalls : portFalls s p = releaseHeld (requestFaults w p q .timeout) p := by
      change releaseHeld (allFault p .timeout (s.modPort p (downPort s.time.ticks)) ((s.modPort p (downPort s.time.ticks)).port p).reqs) p = _
      rw [State.port_modPort_self, downPort, hreqs, ← hw]
      rfl
    have hfault : requestFaults w p q .timeout = slugReadFaults (w.noteFault f q.addr .timeout) f tag 0x1105 := by
      simp only [requestFaults, huse, slugCodeFor, hport, downPort, if_true]
    obtain ⟨⟨z, hz, hzstate, hzstatus⟩, hecp, hports⟩ := slugReadFaults_spec (s := w) (c := 0x1105) (st := .timeout) (a := q.addr)
      (by rw [hforme]; exact hsole) hstate hwait (by decide)
    obtain ⟨hl, hr, hh⟩ := hports p
    rw [hport] at hl hr hh
    have hexec : exec (.portDown p) s = .next (slugReadFaults (w.noteFault f q.addr .timeout) f tag 0x1105) := by
      rw [exec, execPortDown, if_neg hlink, hfalls, hfault, releaseHeld_of_none (hh.trans hheld)]
    exact ⟨_, z, hexec, hl, hr, by rw [hecp], by rw [hecp]; rfl, by rw [hecp], hz, hzstate, hzstatus⟩
  · exact ⟨_, by rw [exec, execPortDown, if_neg hlink, portFalls_of_idle hreqs hheld], s.modPort_onlyPort p _,
      by rw [State.port_modPort_self]; rfl⟩
  · refine ⟨s.modPort h.port (trainingPort s.time.ticks), ?_, s.modPort_onlyPort h.port _, s.port_modPort_self h.port _⟩
    simp only [exec, execPortRetrain, managementWrite, htarget, writePort, bitOf_or_placeBit_self (show 1 < 64 by decide), if_true]
    rfl
  · obtain ⟨hne, hhalf, hbits⟩ := lanes_without_one lane
    have hno : ¬ (!s.portUp p || decide ((s.port p).goodLanes &&& ~~~ oneBit 16 lane.val = (s.port p).goodLanes)) = true := by
      rw [hup, hall, decide_eq_false hne]
      exact Bool.false_ne_true
    have hno' : ¬ (!lowHalf ((s.port p).goodLanes &&& ~~~ oneBit 16 lane.val) &&
        !highHalf ((s.port p).goodLanes &&& ~~~ oneBit 16 lane.val)) = true := by
      rw [hall, ← Bool.not_or, hhalf]
      exact Bool.false_ne_true
    have hyes : (lowHalf (s.port p).goodLanes && highHalf (s.port p).goodLanes) = true := by rw [hall]; decide
    refine ⟨(s.modPort p (fun k => { k with goodLanes := (s.port p).goodLanes &&& ~~~ oneBit 16 lane.val })).modPort p
      (fun k => { k with link := 1, since := s.time.ticks }), by rw [exec, execEcpLaneFailed, laneFails, if_neg hno, if_neg hno', if_pos hyes],
      (s.modPort_onlyPort p _).trans (State.modPort_onlyPort _ p _), ?_, ?_, fun n => ?_⟩
    all_goals rw [State.port_modPort_self]
    rw [State.port_modPort_self]
    dsimp only
    rw [hall]
    by_cases hn : n < 16
    · rw [decide_eq_true hn, Bool.true_and]
      exact hbits ⟨n, hn⟩
    · rw [decide_eq_false hn, Bool.false_and]
      exact BitVec.getLsbD_of_ge _ _ (Nat.le_of_not_lt hn)

/-! ### Answers to the module's own requests (R344, R345, R350) -/

/-- A request that is answered is no longer in flight. -/
theorem request_retired (s : State) (p : PortId) (tag : BitVec 12) (w : Bool) :
    ((s.retire p (fun r => r.tag == tag && r.write == w)).port p).request tag w = none := by
  rw [State.retire, State.port_modPort_self, Port.request, List.find?_eq_none]
  intro r hr
  rw [Bool.not_eq_true]
  have hno := (List.mem_filter.mp hr).2
  rwa [Bool.not_eq_true'] at hno

theorem request_of_reqs {a b : Port} (h : b.reqs = a.reqs) (tag : BitVec 12) (w : Bool) : b.request tag w = a.request tag w := by
  rw [Port.request, Port.request, h]

/-- The state in which a request of a port is answered. -/
def answered (s : State) (p : PortId) (tag : BitVec 12) (w : Bool) : State := s.retire p (fun r => r.tag == tag && r.write == w)

theorem answered_port (s : State) (p : PortId) (tag : BitVec 12) (w : Bool) : ((answered s p tag w).port p).link = (s.port p).link ∧
    ((answered s p tag w).port p).heldReads = (s.port p).heldReads ∧ ((answered s p tag w).port p).request tag w = none := by
  refine ⟨?_, ?_, request_retired s p tag w⟩ <;> rw [answered, State.retire, State.port_modPort_self]

theorem exec_dcpl {q : EcpReq} {tag : BitVec 12} {st : EcpStatus} {d : List Byte} (hup : s.portUp p = true)
    (hq : (s.port p).request tag false = some q) : exec (.dcpl p tag st d) s = .next (releaseHeld
      (if st == .ok then requestData (answered s p tag false) p q d else requestFaults (answered s p tag false) p q st) p) := by
  simp only [exec, execDcpl, hq, hup, Bool.not_true, Bool.false_eq_true, if_false, answered, beq_false]

theorem exec_dack {q : EcpReq} {tag : BitVec 12} {st : EcpStatus} (hup : s.portUp p = true)
    (hq : (s.port p).request tag true = some q) : exec (.dack p tag st) s = .next (releaseHeld
      (if st == .ok then writeReached (answered s p tag true) q else requestFaults (answered s p tag true) p q st) p) := by
  simp only [exec, execDack, hq, hup, Bool.not_true, Bool.false_eq_true, if_false, answered, beq_true]

theorem link_ne_zero_of_portUp (hup : s.portUp p = true) : (s.port p).link ≠ 0 := fun h => by
  rw [State.portUp, h] at hup
  simp at hup

/-- A slug's read that faults on a port that is up: the request is retired, its address and status are kept, and the slug fails. -/
theorem readFault_answered {q : EcpReq} {tag : BitVec 12} {st : EcpStatus} {w : SlugTag} (hlink : (s.port p).link ≠ 0) (huse : q.use = .slugRead f w)
    (hheld : (s.port p).heldReads = []) (hsole : Sole (s.forme f) w sl) (hstate : sl.state = .running) (hwait : sl.wait ≠ .matchCopy) :
    releaseHeld (requestFaults (answered s p tag false) p q st) p = requestFaults (answered s p tag false) p q st ∧
    ((requestFaults (answered s p tag false) p q st).port p).request tag false = none ∧
    ((requestFaults (answered s p tag false) p q st).forme f).ecp.faultAddr = q.addr.truncate 52 ∧
    ((requestFaults (answered s p tag false) p q st).forme f).ecp.faultStat = BitVec.ofNat 3 (ecpCode st) ∧
    ∃ z, findSlug ((requestFaults (answered s p tag false) p q st).forme f) w = some z ∧ z.state = .failed ∧ z.status = 0x1102 := by
  obtain ⟨hl, hh, hnone⟩ := answered_port s p tag false
  have hfault : requestFaults (answered s p tag false) p q st =
      slugReadFaults ((answered s p tag false).noteFault f q.addr st) f w 0x1102 := by
    simp only [requestFaults, huse, slugCodeFor, hl, if_neg hlink]
  obtain ⟨hz, hecp, hports⟩ := slugReadFaults_spec (s := answered s p tag false) (c := 0x1102) (st := st) (a := q.addr) hsole hstate hwait
    (by decide)
  obtain ⟨-, hr, hh'⟩ := hports p
  rw [hfault]
  exact ⟨releaseHeld_of_none (hh'.trans (hh.trans hheld)), (request_of_reqs hr tag false).trans hnone, by rw [hecp], by rw [hecp], hz⟩

/-- Settles O47: the answered request is retired, and what its use says follows. -/
theorem hostAnswers : Obligations.HostAnswers := by
  refine ⟨fun s p tag d q f w sl a rest hup hq huse hheld hfind hacq hwait hasked => ?_,
    fun s p tag st d q f w sl hup hst hq huse hheld hsole hstate hwait => ?_, fun s p tag q f w hup hq huse hheld => ?_,
    fun s p tag st q f w sl hup hst hq huse hheld hfind => ?_, fun s p tag q f w sl hlink hq huse hheld hlate hsole hstate hwait => ?_⟩
  · obtain ⟨-, hh, hnone⟩ := answered_port s p tag false
    have hno : ¬ (sl.wait == SlugWait.matchCopy) = true := by rw [hwait]; decide
    have hno' : ¬ (acquireOp (s.forme f) sl).isSome = true := by rw [hacq]; exact Bool.false_ne_true
    have hdata : requestData (answered s p tag false) p q d = slugHas (answered s p tag false) f w a d := by
      simp only [requestData, huse, slugReadData, show findSlug ((answered s p tag false).forme f) w = some sl from hfind, if_neg hno,
        if_neg (show ¬ (acquireOp ((answered s p tag false).forme f) sl).isSome = true from hno'), hasked, if_true]
    refine ⟨slugHas (answered s p tag false) f w a d, ?_, hnone, rfl, rfl, ?_⟩
    · have hrel : releaseHeld (slugHas (answered s p tag false) f w a d) p = slugHas (answered s p tag false) f w a d :=
        releaseHeld_of_none (show ((answered s p tag false).port p).heldReads = [] from hh.trans hheld)
      rw [exec_dcpl hup hq, if_pos (show (EcpStatus.ok == EcpStatus.ok) = true from rfl), hdata, hrel]
    · rw [slugHas, State.forme_modForme_self]
      refine (findSlug_modSlug_self (g := givenSlug a d) (fun _ => rfl)).trans ?_
      rw [show findSlug ((answered s p tag false).forme f) w = some sl from hfind, Option.map_some, givenSlug, hwait]
      rfl
  · obtain ⟨hrel, hnone, haddr, hstat, z, hz, hzstate, hzstatus⟩ := readFault_answered (tag := tag) (st := st) (link_ne_zero_of_portUp hup) huse
      hheld hsole hstate hwait
    refine ⟨_, z, ?_, hnone, haddr, hstat, hz, hzstate, hzstatus⟩
    rw [exec_dcpl hup hq, if_neg (by rw [beq_iff_eq]; exact hst), hrel]
  · obtain ⟨-, hh, hnone⟩ := answered_port s p tag true
    refine ⟨answered s p tag true, ?_, s.modPort_onlyPort p (fun x => { x with reqs := x.reqs.filter (fun r => !(r.tag == tag && r.write == true)) }),
      hnone, rfl⟩
    have hwrite : writeReached (answered s p tag true) q = answered s p tag true := by simp only [writeReached, huse]
    rw [exec_dack hup hq, if_pos (show (EcpStatus.ok == EcpStatus.ok) = true from rfl), hwrite, releaseHeld_of_none (hh.trans hheld)]
  · obtain ⟨hl, hh, hnone⟩ := answered_port s p tag true
    have hfault : requestFaults (answered s p tag true) p q st = flagLost ((answered s p tag true).noteFault f q.addr st) f w 0x1102 := by
      simp only [requestFaults, huse, slugCodeFor, hl, if_neg (link_ne_zero_of_portUp hup)]
    generalize hu : (answered s p tag true).noteFault f q.addr st = u at hfault
    have hself : (u.forme f).slugs = (s.forme f).slugs ∧ PortsStand (answered s p tag true) u := by
      rw [← hu, State.noteFault, State.forme_modForme_self]
      exact ⟨rfl, PortsStand.of_ports rfl⟩
    obtain ⟨hslugs, hportsU⟩ := hself
    have hports : PortsStand (answered s p tag true) (flagLost u f w 0x1102) :=
      hportsU.trans (PortsStand.trans (t := u.modForme f _) (PortsStand.of_ports rfl) (State.noteCode_portsStand _ f 0x1102))
    obtain ⟨ls, hnote⟩ := (modSlug (u.forme f) w (fun z => { z with remoteLost := true })).noteSlugFault_eq w u.time.ticks 0x1102
    have hforme : (flagLost u f w 0x1102).forme f = noteFormeCode { modSlug (u.forme f) w (fun z => { z with remoteLost := true }) with
        launches := ls } 0x1102 := by
      rw [flagLost, State.noteCode_forme, State.forme_modForme_self, hnote]
    obtain ⟨-, hr, hh'⟩ := hports p
    refine ⟨flagLost u f w 0x1102, ?_, (request_of_reqs hr tag true).trans hnone, ?_, ?_⟩
    · rw [exec_dack hup hq, if_neg (by rw [beq_iff_eq]; exact hst), hfault, releaseHeld_of_none (hh'.trans (hh.trans hheld))]
    · rw [hforme, noteFormeCode_access (by decide)]
      refine (findSlug_modSlug_self (x := u.forme f) (g := fun z => { z with remoteLost := true }) (fun _ => rfl)).trans ?_
      rw [show findSlug (u.forme f) w = some sl by rw [findSlug, hslugs]; exact hfind]
      rfl
    · rw [hforme, noteFormeCode_access (by decide)]
  · obtain ⟨hrel, hnone, haddr, hstat, z, hz, hzstate, hzstatus⟩ := readFault_answered (tag := tag) (st := .timeout) hlink huse hheld hsole hstate
      hwait
    refine ⟨_, z, ?_, hnone, haddr, hstat, hz, hzstate, hzstatus⟩
    simp only [exec, execDrdTimeout, hq, if_pos hlate]
    rw [← hrel, answered]
    simp only [beq_false]

end Sys2Proof.Machine
end

section
/-! The services of a compositor program (R183, R189, R263). -/
namespace Sys2Proof.Machine

variable {s : State} {f : FormeId} {r : RingId} {q : Seq} {l : Launch} {x : Forme} {t : SlugTag} {sl : Slug}

/-! ### A slug that waits outside the step (R184) -/

/-- A slug outside the step is not started, and stays the only one of its tag. -/
theorem Sole.startReady {cores : List CoreId} {now : Word} (h : Sole x t sl) (hin : sl.inStep = false) : Sole (startReady cores now x) t sl := by
  unfold Machine.startReady
  generalize x.slugs.map (·.tag) = ts
  induction ts generalizing x with
  | nil => exact h
  | cons d ts ih =>
    rw [List.foldl_cons]
    apply ih
    split
    next w hw =>
      split
      next hgo =>
        have hd : d ≠ t := by
          rintro rfl
          rw [h.findSlug] at hw
          obtain rfl := Option.some.inj hw
          simp [hin] at hgo
        exact h.modSlug_of_ne (startSlug_tag cores now x) hd
      next => exact h
    next => exact h

theorem Sole.settle (h : Sole (s.forme f) t sl) (hin : sl.inStep = false) : Sole ((s.settle f).forme f) t sl := by
  rw [State.settle_forme]
  refine Sole.startReady ?_ hin
  rcases chunked_slugs s.time.ticks (s.forme f) with hs | hs
  · rw [Sole, hs]
    exact h
  · have hself : ({ sl with inStep := false } : Slug) = sl := by rw [← hin]
    rw [Sole, hs, List.filter_map]
    change List.map _ ((s.forme f).slugs.filter (fun d => d.tag == t)) = _
    rw [h, List.map_singleton, hself]

/-! ### ISSUE (R183) -/

/-- The forme that has issued a slug. -/
def issuedForme (r : RingId) (q : Seq) (update : Bool) (sl : Slug) (x : Forme) : Forme :=
  modLaunch { x with slugs := x.slugs.filter (fun k => k.tag != sl.tag) ++ [sl], nextTag := sl.tag + 1 } r q
    (fun l => { l with chunkSlugs := if update then l.chunkSlugs else l.chunkSlugs ++ [sl.tag] })

theorem issuedForme_sole (r : RingId) (q : Seq) (update : Bool) (sl : Slug) (x : Forme) : Sole (issuedForme r q update sl x) sl.tag sl := by
  have hnone : (x.slugs.filter (fun k => k.tag != sl.tag)).filter (fun d => d.tag == sl.tag) = [] := by
    rw [List.filter_filter, List.filter_eq_nil_iff]
    intro d _ hd
    simp at hd
  change List.filter _ (x.slugs.filter (fun k => k.tag != sl.tag) ++ [sl]) = [sl]
  rw [List.filter_append, hnone, List.nil_append]
  exact List.filter_cons_of_pos (p := fun d : Slug => d.tag == sl.tag) (beq_self_eq_true sl.tag)

/-- Reading a norm notes it on the launch. -/
theorem readNorm2_spec (s : State) (f : FormeId) (r : RingId) (q : Seq) (ops : List OpRec) : ∃ g, readNorm2 s f r q ops = s.modForme f
    (fun x => modLaunch x r q g) ∨ readNorm2 s f r q ops = s := by
  unfold readNorm2
  split
  · split
    · exact ⟨id, .inr rfl⟩
    · exact ⟨_, .inl rfl⟩
  · exact ⟨id, .inr rfl⟩

theorem exec_issue {n : BitVec 16} {cs : List Byte} {a : SlugTag} {v : Version} {k : SlugRec} (hl : programLaunch s f r q = some l)
    (hcount : slugsInFlight (s.forme f) < 64) (hv : findVersion (s.forme f) (entryMatter l.entry) l.version = some v)
    (hk : v.slugs[n.toNat]? = some k) (hok : issueStatus s f l (slugOps v n.toNat) a = none) :
    exec (.issue f r q n cs a) s = .next ((readNorm2 ((s.modForme f (issuedForme r q ((slugOps v n.toNat).any (fun o => opKind o == 8))
      (newSlug l (freeTag (s.forme f) 65536 (s.forme f).nextTag) n.toNat k (cs.take 192) a))).emit
        (.issued f (freeTag (s.forme f) 65536 (s.forme f).nextTag))) f r q (slugOps v n.toNat)).settle f) := by
  have hroom : ¬ Config.slugsPerCompositor ≤ slugsInFlight (s.forme f) := Nat.not_le.mpr hcount
  simp only [exec, execIssue, hl, if_neg hroom, hv, Option.bind_some, hk, Option.map_some, hok]
  rfl

/-! ### The end of a program (R263) -/

/-- The launch that has ended with a status. -/
def endedLaunch (st : Code) (b : List Byte) (l : Launch) : Launch := { l with ended := some st, result := b.take 32 }

theorem findLaunch_of_programLaunch (h : programLaunch s f r q = some l) : findLaunch (s.forme f) r q = some l := by
  unfold programLaunch at h
  split at h
  next a c ha hc =>
    split at h
    · rw [ha]
      exact h
    · cases h
  next => cases h

/-- A program's fault ends its launch with 0x0D0B, and is an event of its forme alone. -/
theorem programEnds_spec (hl : findLaunch (s.forme f) r q = some l) : ElsewhereKept f s (programEnds s f r q) ∧
    (programEnds s f r q).out = s.out ∧ ∃ l', findLaunch ((programEnds s f r q).forme f) r q = some l' ∧ l'.ended = some 0x0D0B := by
  unfold programEnds
  generalize hu : s.modForme f _ = u
  obtain ⟨hbeside, hstack, hout⟩ := u.settle_beside f
  have hmod : Beside f s u := by
    rw [← hu]
    exact s.modForme_beside f _
  have hkept := (hmod.trans hbeside).elsewhereKept (hstack.trans (by rw [← hu]; rfl))
  refine ⟨hkept, hout.trans (by rw [← hu]; rfl), ?_⟩
  have hlaunch : findLaunch (u.forme f) r q = some { l with ended := some 0x0D0B } := by
    rw [← hu, State.forme_modForme_self]
    dsimp only
    rw [findLaunch_modLaunch (g := fun l => { l with ended := some 0x0D0B }) (fun _ => ⟨rfl, rfl⟩), findLaunch,
      (foldl_onlySlugs (fun (y : Forme) (z : Slug) => y.endSlug_onlySlugs z.tag .discarded 0) _ (s.forme f)).launches, ← findLaunch, hl]
    rfl
  obtain ⟨c, d, last, ts, cut, fr, hnext⟩ := nextChunk_eq (u.forme f) { l with ended := some 0x0D0B }
  rw [State.findLaunch_settle, hlaunch, Option.map_some, hnext]
  exact ⟨_, rfl, rfl⟩

/-- Settles O26: a slug issued is outside the step, so settling leaves it, and a program's end is a change of its launch. -/
theorem programsIssueAndEnd : Obligations.ProgramsIssueAndEnd := by
  refine ⟨fun s f r q n cs a l v k hl hcount hv hk hok => ?_, fun s f t sl hfind hend => ?_, fun s f t o sl hfind hstate => ?_,
    fun s f r q st a b l v hl hv hst hroom => ?_, fun s f r q st a b l hl hne hlow => ?_, fun s f r q l hl => ?_⟩
  · generalize hsl : newSlug l (freeTag (s.forme f) 65536 (s.forme f).nextTag) n.toNat k (cs.take 192) a = sl
    have htag : freeTag (s.forme f) 65536 (s.forme f).nextTag = sl.tag := by rw [← hsl]; rfl
    have hexec := exec_issue (cs := cs) hl hcount hv hk hok
    rw [hsl, htag] at hexec
    rw [htag]
    generalize hu : (s.modForme f (issuedForme r q ((slugOps v n.toNat).any (fun o => opKind o == 8)) sl)).emit (.issued f sl.tag) = u at hexec
    have hself : u.forme f = issuedForme r q ((slugOps v n.toNat).any (fun o => opKind o == 8)) sl (s.forme f) := by
      rw [← hu, State.forme_emit, State.forme_modForme_self]
    have hread : ∃ ls, (readNorm2 u f r q (slugOps v n.toNat)).forme f = { u.forme f with launches := ls } ∧
        Beside f s (readNorm2 u f r q (slugOps v n.toNat)) ∧ (readNorm2 u f r q (slugOps v n.toNat)).stack = s.stack ∧
        (readNorm2 u f r q (slugOps v n.toNat)).out = s.out ++ [.issued f sl.tag] := by
      have hissued : Beside f s u := by
        rw [← hu]
        exact ⟨fun g hg => State.forme_modForme_of_ne s f g _ hg.symm, rfl, rfl, rfl, rfl, rfl, rfl, rfl⟩
      obtain ⟨g, h | h⟩ := readNorm2_spec u f r q (slugOps v n.toNat)
      · rw [h, State.forme_modForme_self]
        exact ⟨_, rfl, hissued.trans (u.modForme_beside f _), by rw [← hu]; rfl, by rw [← hu]; rfl⟩
      · rw [h]
        exact ⟨(u.forme f).launches, rfl, hissued, by rw [← hu]; rfl, by rw [← hu]; rfl⟩
    obtain ⟨ls, hforme, hbeside, hstack, hout⟩ := hread
    obtain ⟨hbesideS, hstackS, houtS⟩ := (readNorm2 u f r q (slugOps v n.toNat)).settle_beside f
    obtain ⟨sc, ls', sls, hsettled⟩ := (readNorm2 u f r q (slugOps v n.toNat)).settle_forme_rest f
    have hsole : Sole ((readNorm2 u f r q (slugOps v n.toNat)).forme f) sl.tag sl := by
      rw [hforme, hself]
      exact issuedForme_sole r q ((slugOps v n.toNat).any (fun o => opKind o == 8)) sl (s.forme f)
    have hall := hbeside.trans hbesideS
    refine ⟨_, hexec, houtS.trans hout, ?_, hsole.settle (by rw [← hsl]; rfl), hall.formes, hstackS.trans hstack, hall.galley, hall.time⟩
    rw [hsettled]
    dsimp only
    rw [hforme, hself]
    rfl
  · simp only [exec, execWait, hfind, hend, if_true]
    rfl
  · have hyes : (sl.state == SlugState.proved) = true := by rw [hstate]; rfl
    simp only [exec, execProofRead, hfind, if_pos hyes]
    rfl
  · have hgo : ((st == 0 || decide (0x8000 ≤ st.toNat)) && decide (a + 32 ≤ ceilDiv v.frame 256 * 256)) = true := by
      rw [Bool.and_eq_true, Bool.or_eq_true, beq_iff_eq, decide_eq_true_eq, decide_eq_true_eq]
      exact ⟨hst, hroom⟩
    refine ⟨s.modForme f (fun x => modLaunch x r q (endedLaunch st b)), ?_, s.modForme_onlyForme f _, ?_, ?_⟩
    · simp only [exec, execEndLaunch, hl, hv]
      rw [if_pos hgo]
      rfl
    · rw [State.forme_modForme_self, findLaunch_modLaunch (g := endedLaunch st b) (fun _ => ⟨rfl, rfl⟩), findLaunch_of_programLaunch hl]
      rfl
    · rw [State.forme_modForme_self]
      rfl
  · have hno : ∀ frame : Nat, ¬ ((st == 0 || decide (0x8000 ≤ st.toNat)) && decide (a + 32 ≤ frame)) = true := fun frame h => by
      rw [Bool.and_eq_true, Bool.or_eq_true, beq_iff_eq, decide_eq_true_eq] at h
      rcases h.1 with h | h
      · exact hne h
      · omega
    refine ⟨programEnds s f r q, ?_, programEnds_spec (findLaunch_of_programLaunch hl)⟩
    simp only [exec, execEndLaunch, hl, if_neg (hno _)]
  · refine ⟨programEnds s f r q, ?_, programEnds_spec (findLaunch_of_programLaunch hl)⟩
    simp only [exec, execProgramException, hl]

end Sys2Proof.Machine
end

section
/-! Training, narrowing and losing links (R303, R306, R311, R312, R328). -/
namespace Sys2Proof.Machine

variable {s t : State} {l : LinkId}

/-! ### The geometry's count (R20, R21) -/

theorem State.bumpGen_link (s : State) (k : LinkId) : s.bumpGen.link k = s.link k := rfl

theorem State.bumpGen_forme (s : State) (f : FormeId) : s.bumpGen.forme f = { s.forme f with geoGen := nextGen (s.forme f).geoGen } := by
  simp [State.bumpGen]

/-! ### The start of training (R303, R306) -/

/-- A link that was not up and starts training. -/
def freshLink (now : Word) (k : Link) : Link :=
  { k with state := .training, groups := 0, since := now, txSeq := 0, rxExpect := 0, nakSent := false, resends := 0, replay := [],
           credits := fullCredits }

/-- A link that was up and trains again. -/
def widerLink (now : Word) (k : Link) : Link := { k with state := .retraining, wider := true, since := now }

theorem startTraining_fresh (hvalid : selfValid s.selfReg = true) (hon : (s.link l).disable = false) (hup : (s.link l).state ≠ .up)
    (hre : (s.link l).state ≠ .retraining) : startTraining s l = s.modLink l (freshLink s.time.ticks) := by
  have hno : ¬ ((s.link l).state == .up || (s.link l).state == .retraining) = true := by
    rw [Bool.or_eq_true, beq_iff_eq, beq_iff_eq]
    exact not_or.mpr ⟨hup, hre⟩
  rw [startTraining, if_pos (by rw [hvalid, hon]; rfl)]
  simp only [State.modLink, if_neg hno]
  rfl

theorem startTraining_wider (hvalid : selfValid s.selfReg = true) (hon : (s.link l).disable = false) (hup : (s.link l).state = .up) :
    startTraining s l = s.modLink l (widerLink s.time.ticks) := by
  have hyes : ((s.link l).state == .up || (s.link l).state == .retraining) = true := by rw [hup]; rfl
  rw [startTraining, if_pos (by rw [hvalid, hon]; rfl)]
  simp only [State.modLink, if_pos hyes]
  rfl

theorem startTraining_off (h : ¬ (selfValid s.selfReg = true ∧ (s.link l).disable = false)) : startTraining s l = s := by
  have hno : ¬ (selfValid s.selfReg && !(s.link l).disable) = true := by
    rw [Bool.and_eq_true, Bool.not_eq_true']
    exact h
  exact if_neg hno

/-! ### ACZ_SELF (R303, R328) -/

/-- A link after ACZ_SELF is written: one that is down trains, where the module may train and the link is not disabled. -/
def selfLink (valid : Bool) (now : Word) (k : Link) : Link :=
  if k.state = .down ∧ valid = true ∧ k.disable = false then freshLink now k else k

theorem modLink_same {g : Link → Link} (h : g (s.link l) = s.link l) : s.modLink l g = s := by
  rw [State.modLink, h]
  simp [State.link]

theorem selfStep_eq (s : State) (l : LinkId) : (if (s.link l).state == .down then startTraining s l else s) =
    s.modLink l (selfLink (selfValid s.selfReg) s.time.ticks) := by
  by_cases hdown : (s.link l).state = .down
  · rw [if_pos (beq_iff_eq.mpr hdown)]
    by_cases hgo : selfValid s.selfReg = true ∧ (s.link l).disable = false
    · rw [startTraining_fresh hgo.1 hgo.2 (by rw [hdown]; exact nofun) (by rw [hdown]; exact nofun)]
      simp only [State.modLink, selfLink, hdown, true_and, if_pos hgo]
    · rw [startTraining_off hgo, modLink_same]
      exact if_neg (fun h => hgo h.2)
  · rw [if_neg (by rw [beq_iff_eq]; exact hdown), modLink_same]
    exact if_neg (fun h => hdown h.1)

/-- A change of each link of a list, each once. -/
theorem foldl_modLink_link (g : Link → Link) (ls : List LinkId) (hnd : ls.Nodup) (s : State) (k : LinkId) :
    (ls.foldl (fun t l => t.modLink l g) s).link k = if k ∈ ls then g (s.link k) else s.link k := by
  induction ls generalizing s with
  | nil => rfl
  | cons a ls ih =>
    obtain ⟨hnot, hnd⟩ := List.nodup_cons.mp hnd
    rw [List.foldl_cons, ih hnd]
    by_cases ha : a = k
    · subst ha
      rw [if_neg hnot, if_pos List.mem_cons_self, State.link_modLink_self]
    · rw [State.link_modLink_of_ne _ _ _ _ ha]
      simp [Ne.symm ha]

theorem foldl_selfStep (ls : List LinkId) (s : State) :
    ls.foldl (fun t l => if (t.link l).state == .down then startTraining t l else t) s =
      ls.foldl (fun t l => t.modLink l (selfLink (selfValid s.selfReg) s.time.ticks)) s := by
  suffices h : ∀ (v : Word) (now : Word) (t : State), t.selfReg = v → t.time.ticks = now →
      ls.foldl (fun t l => if (t.link l).state == .down then startTraining t l else t) t =
        ls.foldl (fun t l => t.modLink l (selfLink (selfValid v) now)) t from h _ _ s rfl rfl
  intro v now
  induction ls with
  | nil => exact fun _ _ _ => rfl
  | cons a ls ih =>
    intro t hv hnow
    rw [List.foldl_cons, List.foldl_cons, selfStep_eq, hv, hnow]
    exact ih _ hv hnow

theorem foldl_modLink_rest (g : Link → Link) (ls : List LinkId) (s : State) :
    ∃ ks, ls.foldl (fun t l => t.modLink l g) s = { s with links := ks } := by
  induction ls generalizing s with
  | nil => exact ⟨s.links, rfl⟩
  | cons a ls ih =>
    obtain ⟨ks, h⟩ := ih (s.modLink a g)
    exact ⟨ks, h⟩

/-- ACZ_SELF while no link is trained. -/
theorem writeSelf_spec {v : Word} (h : ∀ l : LinkId, (s.link l).state ≠ .up ∧ (s.link l).state ≠ .retraining) :
    (∃ ks, writeSelf s v = { s with selfReg := v &&& 0x1F1F0FFF, links := ks }) ∧
    ∀ l : LinkId, (writeSelf s v).link l = selfLink (selfValid (v &&& 0x1F1F0FFF)) s.time.ticks (s.link l) := by
  have hno : ¬ allLinks.any (fun l => (s.link l).state == .up || (s.link l).state == .retraining) = true := by
    rw [List.any_eq_true]
    rintro ⟨l, -, hl⟩
    rw [Bool.or_eq_true, beq_iff_eq, beq_iff_eq] at hl
    exact hl.elim (h l).1 (h l).2
  have heq : writeSelf s v = allLinks.foldl (fun t l => t.modLink l (selfLink (selfValid (v &&& 0x1F1F0FFF)) s.time.ticks))
      { s with selfReg := v &&& 0x1F1F0FFF } := by
    rw [writeSelf, if_neg hno]
    exact foldl_selfStep allLinks { s with selfReg := v &&& 0x1F1F0FFF }
  rw [heq]
  refine ⟨foldl_modLink_rest _ allLinks _, fun l => ?_⟩
  rw [foldl_modLink_link _ allLinks (List.nodup_finRange 6), if_pos (show l ∈ allLinks from List.mem_finRange l)]
  rfl

/-! ### The end of training (R303, R306) -/

/-- The link that is up at 16 lanes, or at those it was narrowed to. -/
def trainedLink (l : LinkId) (peer : BitVec 12) (ps : BitVec 24) (k : Link) : Link :=
  { k with state := .up, groups := if k.state == .training || k.wider then 0xF else k.groups, wider := false,
           peer := if 4 ≤ l.val then 0 else peer, loopPs := ps }

/-- Training that ends at the neighbour, with nothing to send again and nothing waiting. -/
theorem trainingDone_up {peer : BitVec 12} {ps : BitVec 24} (hstate : (s.link l).state = .training ∨ (s.link l).state = .retraining)
    (hvalid : selfValid s.selfReg = true) (hon : (s.link l).disable = false) (hpeer : ∀ n, neighbour s l = some n → n = peer)
    (hreplay : (s.link l).replay = []) (hqueue : (s.link l).queue = []) :
    trainingDone s l peer ps = countLanes s (s.modLink l (trainedLink l peer ps)) l := by
  have hno : ¬ (!((s.link l).state == .training || (s.link l).state == .retraining) || !selfValid s.selfReg || (s.link l).disable) = true := by
    rw [hvalid, hon]
    rcases hstate with h | h <;> rw [h] <;> exact Bool.false_ne_true
  have hno' : ¬ (neighbour s l).any (· != peer) = true := by
    cases hn : neighbour s l with
    | none => exact Bool.false_ne_true
    | some n => simp [hpeer n hn]
  have hlink : (countLanes s (s.modLink l (trainedLink l peer ps)) l).link l = trainedLink l peer ps (s.link l) := by
    unfold countLanes
    split
    · exact s.link_modLink_self l _
    · exact s.link_modLink_self l _
  have hresend : resend (countLanes s (s.modLink l (trainedLink l peer ps)) l) l = countLanes s (s.modLink l (trainedLink l peer ps)) l := by
    rw [resend, hlink, show (trainedLink l peer ps (s.link l)).replay = [] from hreplay]
    rfl
  rw [trainingDone]
  dsimp only
  rw [if_neg hno, if_neg hno']
  change drainQueue ((resend (countLanes s (s.modLink l (trainedLink l peer ps)) l) l).link l).queue.length
    (resend (countLanes s (s.modLink l (trainedLink l peer ps)) l) l) l = _
  rw [hresend, hlink, show (trainedLink l peer ps (s.link l)).queue = [] from hqueue]
  rfl

theorem bitsSet_length_iff : ∀ g : BitVec 4, 4 * (bitsSet g).length = 16 ↔ g = 0xF := by decide

/-- A lane group that drops changes the groups. -/
theorem groups_without_one : ∀ (g : BitVec 4) (i : Fin 4), g.getLsbD i.val = true → g &&& ~~~ oneBit 4 i.val ≠ g := by decide

/-! ### A link that is lost (R312, R327) -/

/-- The link that is gone. -/
def goneLink (st : LinkState) (now : Word) (k : Link) : Link :=
  { k with state := st, groups := 0, wider := false, since := now, replay := [], queue := [] }

/-- A fold whose step leaves the value it starts from gives that value. -/
theorem foldl_eq_self {α β : Type} {g : β → α → β} {b : β} (h : ∀ a, g b a = b) (l : List α) : l.foldl g b = b := by
  induction l with
  | nil => rfl
  | cons a l ih => rw [List.foldl_cons, h, ih]

/-- With no collective in progress nothing turns round. -/
theorem rerouteColls_of_none (h : ∀ (f : FormeId) (k : JobSlot), jobColl s f k = none) : rerouteColls s l = s := by
  unfold rerouteColls
  generalize allFormes = fs, jobSlots = ks
  apply foldl_eq_self
  intro f
  apply foldl_eq_self
  intro k
  rw [h f k]

theorem jobColl_of_quiet (h : ∀ (f : FormeId) (k : JobSlot) (j : Job), (s.forme f).job k = some j → j.coll = none) (f : FormeId) (k : JobSlot) :
    jobColl s f k = none := by
  rw [jobColl]
  cases hj : (s.forme f).job k with
  | none => rfl
  | some j => rw [Option.bind_some, h f k j hj, Option.map_none]

/-- A link that is lost with nothing to send again, nothing waiting, no collective in progress and marks that are not the active source. -/
theorem linkGone_spec {st : LinkState} (hquiet : LinkQuiet s l) (hactive : s.time.active.toNat ≠ l.val + 1) :
    (linkGone s l st).link l = goneLink st s.time.ticks (s.link l) ∧ (linkGone s l st).out = s.out ∧
    ∀ f : FormeId, (linkGone s l st).forme f = { s.forme f with geoGen := nextGen (s.forme f).geoGen } := by
  obtain ⟨hqueue, hreplay, hcoll⟩ := hquiet
  generalize hu : (s.modLink l (fun k => { k with state := st, groups := 0, wider := false, since := s.time.ticks })).bumpGen = u
  have hlink : u.link l = { s.link l with state := st, groups := 0, wider := false, since := s.time.ticks } := by
    rw [← hu, State.bumpGen_link]
    exact s.link_modLink_self l _
  have hforme : ∀ f : FormeId, u.forme f = { s.forme f with geoGen := nextGen (s.forme f).geoGen } := fun f => by
    rw [← hu, State.bumpGen_forme]
    rfl
  have hcolls : rerouteColls u l = u := rerouteColls_of_none (jobColl_of_quiet fun f k j hj => by
    rw [hforme f] at hj
    exact hcoll f k j hj)
  have hall : rerouteAll u l = u.modLink l (fun k => { k with replay := [], queue := [] }) := by
    have hheld : (u.link l).replay.flatMap (·.2) ++ (u.link l).queue = [] := by rw [hlink, hreplay, hqueue]; rfl
    rw [rerouteAll, hheld]
    rfl
  have hno : ¬ s.time.active.toNat = (markSource l).val := hactive
  have hgone : linkGone s l st = (u.modLink l (fun k => { k with replay := [], queue := [] })).modSource (markSource l)
      (fun m => { m with run := 0, locked := false, bad := 0 }) := by
    rw [linkGone, hu, hcolls, hall, sourceGone]
    refine if_neg ?_
    rw [← hu]
    exact hno
  rw [hgone]
  refine ⟨?_, by rw [← hu]; rfl, hforme⟩
  refine (u.link_modLink_self l (fun k => { k with replay := [], queue := [] })).trans ?_
  rw [hlink]
  rfl

/-! ### A lane that goes bad (R311) -/

/-- The link without the group of a lane. -/
def narrowedLink (lane : Fin 16) (k : Link) : Link :=
  { k with groups := k.groups &&& ~~~ oneBit 4 (lane.val / 4), degrades := satInc k.degrades }

theorem exec_laneBad {lane : Fin 16} (hup : (s.link l).state = .up) (hbit : (s.link l).groups.getLsbD (lane.val / 4) = true) :
    exec (.laneBad l lane) s = .next (if (s.link l).groups &&& ~~~ oneBit 4 (lane.val / 4) = 0 then linkGone (s.modLink l (narrowedLink lane)) l .lost
      else ((s.modLink l (narrowedLink lane)).modLink l (fun k => { k with state := .retraining, since := s.time.ticks })).bumpGen) := by
  have hno : ¬ (!linkTrained s l || (s.link l).groups &&& ~~~ oneBit 4 (lane.val / 4) == (s.link l).groups) = true := by
    rw [linkTrained, hup, Bool.or_eq_true, beq_iff_eq]
    exact fun h => h.elim Bool.noConfusion (groups_without_one (s.link l).groups ⟨lane.val / 4, by omega⟩ hbit)
  rw [exec, execLaneBad, if_neg hno]
  rfl

/-- Settles O38: each command is a change of its link, and a loss with nothing held and no collective is one more. -/
theorem linksTrainAndNarrow : Obligations.LinksTrainAndNarrow := by
  refine ⟨fun s l peer ps hstate hvalid hon hpeer hreplay hqueue => ?_, fun s l peer ps hstate hwider hvalid hon hpeer hreplay hqueue => ?_,
    fun s l peer n ps hstate hvalid hon hn hne => ?_, fun s l hstate hlate => ?_, fun s l hstate hlate hvalid hon => ?_,
    fun s l hpower hstate hvalid hon => ?_, fun s h v htarget hdown => ?_, fun s h v l htarget hup => ?_,
    fun s h v l htarget hup hbit hvalid => ?_, fun s h v l htarget hup hquiet hactive => ?_, fun s l lane hup hbit hleft => ?_,
    fun s l lane hup hbit hleft hquiet hactive => ?_, fun s l hup hquiet hactive => ?_⟩
  · have hgroups : (trainedLink l peer ps (s.link l)).groups = 0xF := by
      rw [trainedLink, hstate]
      rfl
    have hbefore : (s.link l).lanes = 0 := by
      rw [Link.lanes, hstate]
      rfl
    have hafter : (trainedLink l peer ps (s.link l)).lanes = 16 := by
      rw [Link.lanes, hgroups]
      rfl
    have hexec : exec (.linkTrainingDone l peer ps) s = .next (s.modLink l (trainedLink l peer ps)).bumpGen := by
      rw [exec, execLinkTrainingDone, trainingDone_up (.inl hstate) hvalid hon hpeer hreplay hqueue, countLanes, if_neg]
      rw [State.link_modLink_self, hbefore, hafter]
      decide
    have hlink : (s.modLink l (trainedLink l peer ps)).bumpGen.link l = trainedLink l peer ps (s.link l) := s.link_modLink_self l _
    refine ⟨_, hexec, by rw [hlink]; rfl, by rw [hlink, hgroups], by rw [hlink]; rfl, fun hl => ?_, fun k hk => ?_,
      fun f => State.bumpGen_forme _ f, rfl⟩
    · rw [hlink]
      exact if_neg (Nat.not_le.mpr hl)
    · exact State.link_modLink_of_ne _ _ _ _ (Ne.symm hk)
  · have hgroups : (trainedLink l peer ps (s.link l)).groups = 0xF := by
      rw [trainedLink, hwider, Bool.or_true]
      rfl
    have hlanes : ((s.link l).lanes == ((s.modLink l (trainedLink l peer ps)).link l).lanes) = decide ((s.link l).groups = 0xF) := by
      rw [State.link_modLink_self, Link.lanes, Link.lanes, hgroups, hstate]
      exact Bool.eq_iff_iff.mpr ((beq_iff_eq.trans (bitsSet_length_iff (s.link l).groups)).trans decide_eq_true_iff.symm)
    have hlink : (trainingDone s l peer ps).link l = trainedLink l peer ps (s.link l) ∧ (trainingDone s l peer ps).out = s.out ∧
        ∀ f : FormeId, (trainingDone s l peer ps).forme f = { s.forme f with
          geoGen := if (s.link l).groups = 0xF then (s.forme f).geoGen else nextGen (s.forme f).geoGen } := by
      rw [trainingDone_up (.inr hstate) hvalid hon hpeer hreplay hqueue, countLanes, hlanes]
      by_cases hall : (s.link l).groups = 0xF
      · rw [if_pos (decide_eq_true hall)]
        exact ⟨s.link_modLink_self l _, rfl, fun f => by rw [if_pos hall]; rfl⟩
      · rw [if_neg (by rw [decide_eq_false hall]; exact Bool.false_ne_true)]
        exact ⟨s.link_modLink_self l _, rfl, fun f => by rw [if_neg hall]; exact State.bumpGen_forme _ f⟩
    obtain ⟨hlink, hout, hforme⟩ := hlink
    exact ⟨_, rfl, by rw [hlink]; rfl, by rw [hlink, hgroups], by rw [hlink]; rfl, hforme, hout⟩
  · have hno : ¬ (!((s.link l).state == .training || (s.link l).state == .retraining) || !selfValid s.selfReg || (s.link l).disable) = true := by
      rw [hvalid, hon, hstate]
      exact Bool.false_ne_true
    have hyes : (neighbour s l).any (· != peer) = true := by
      rw [hn]
      exact bne_iff_ne.mpr hne
    have hno' : ¬ ((s.link l).state == LinkState.retraining) = true := by rw [hstate]; decide
    refine ⟨(s.modLink l (fun k => { k with peer := peer })).modLink l (fun k => { k with state := .refused, groups := 0, wider := false }), ?_,
      (s.modLink_onlyLink l _).trans (State.modLink_onlyLink _ l _), ?_⟩
    · rw [exec, execLinkTrainingDone, trainingDone]
      dsimp only
      rw [if_neg hno, if_pos hyes, if_neg hno']
    · rw [State.link_modLink_self]
      exact ⟨rfl, rfl⟩
  · have hyes : ((s.link l).state == LinkState.training) = true := by rw [hstate]; rfl
    refine ⟨s.modLink l (fun k => { k with state := .down, since := s.time.ticks }), ?_, s.modLink_onlyLink l _, s.link_modLink_self l _⟩
    rw [exec, execLinkTrainingTimeout]
    dsimp only
    rw [if_neg (Nat.not_lt.mpr hlate), if_pos hyes]
  · have hgo : ((s.link l).state == .down && decide (1000000 ≤ (s.time.ticks - (s.link l).since).toNat)) = true := by
      rw [hstate, decide_eq_true hlate]
      rfl
    refine ⟨s.modLink l (freshLink s.time.ticks), ?_, s.modLink_onlyLink l _, ?_⟩
    · rw [exec, execLinkTrainRetry, if_pos hgo, startTraining_fresh hvalid hon (by rw [hstate]; exact nofun) (by rw [hstate]; exact nofun)]
    · rw [State.link_modLink_self]
      exact ⟨rfl, rfl, rfl, rfl⟩
  · have hne : (s.link l).state ≠ .up ∧ (s.link l).state ≠ .retraining := by
      rcases hstate with h | h | h <;> rw [h] <;> exact ⟨nofun, nofun⟩
    have hgo : (s.isOn && !((s.link l).state == .up || (s.link l).state == .retraining)) = true := by
      rw [State.isOn, hpower]
      rcases hstate with h | h | h <;> rw [h] <;> rfl
    refine ⟨s.modLink l (freshLink s.time.ticks), ?_, s.modLink_onlyLink l _, ?_⟩
    · rw [exec, execCableConnected, if_pos hgo, startTraining_fresh hvalid hon hne.1 hne.2]
    · rw [State.link_modLink_self]
      exact ⟨rfl, rfl⟩
  · obtain ⟨⟨ks, hrest⟩, hlinks⟩ := writeSelf_spec (v := v) hdown
    refine ⟨writeSelf s v, by simp only [exec, execAczSelf, managementWrite, htarget], by rw [hrest], by rw [hrest], by rw [hrest], fun l => ?_⟩
    rw [hlinks l, selfLink]
    by_cases hgo : (s.link l).state = .down ∧ selfValid (v &&& 0x1F1F0FFF) = true ∧ (s.link l).disable = false
    · rw [if_pos hgo, if_pos ⟨hgo.2.1, hgo.2.2, hgo.1⟩]
      rfl
    · rw [if_neg hgo, if_neg (fun h => hgo ⟨h.2.2, h.1, h.2.1⟩)]
  · have hyes : allLinks.any (fun l => (s.link l).state == .up || (s.link l).state == .retraining) = true :=
      List.any_eq_true.mpr ⟨l, List.mem_finRange l, by rw [hup]; rfl⟩
    simp only [exec, execAczSelf, managementWrite, htarget, writeSelf, if_pos hyes]
  · have hoff : bitOf (v ||| placeBit 0 true) 1 = false := by
      rw [bitOf, BitVec.getLsbD_or, hbit]
      rfl
    have hlink : (s.modLink l (fun k => { k with disable := false })).link l = { s.link l with disable := false } := s.link_modLink_self l _
    have hwrite : writeLinkCtrl s l (v ||| placeBit 0 true) =
        (s.modLink l (fun k => { k with disable := false })).modLink l (widerLink s.time.ticks) := by
      rw [writeLinkCtrl, hoff]
      rw [if_neg Bool.false_ne_true, if_pos (bitOf_or_placeBit_self (by decide) v)]
      exact startTraining_wider (s := s.modLink l (fun k => { k with disable := false })) hvalid (by rw [hlink]) (by rw [hlink]; exact hup)
    refine ⟨_, by simp only [exec, execRetrain, managementWrite, htarget]; rw [hwrite],
      (s.modLink_onlyLink l _).trans (State.modLink_onlyLink _ l _), ?_⟩
    rw [State.link_modLink_self, hlink]
    exact ⟨rfl, rfl, rfl, rfl, rfl, rfl, rfl⟩
  · generalize hu : s.modLink l (fun k => { k with disable := true }) = u
    have hlink : u.link l = { s.link l with disable := true } := by
      rw [← hu]
      exact s.link_modLink_self l _
    have hquiet' : LinkQuiet u l := by
      obtain ⟨hqueue, hreplay, hcoll⟩ := hquiet
      rw [LinkQuiet, hlink, ← hu]
      exact ⟨hqueue, hreplay, hcoll⟩
    obtain ⟨hgone, hout, hforme⟩ := linkGone_spec (st := .down) hquiet' (by rw [← hu]; exact hactive)
    have htrained : linkTrained u l = true := by rw [linkTrained, hlink, hup]; rfl
    have hstays : startTraining (linkGone u l .down) l = linkGone u l .down := startTraining_off (fun h => by
      rw [hgone] at h
      exact Bool.noConfusion ((congrArg Link.disable hlink).symm.trans h.2))
    have hwrite : writeLinkCtrl s l (v ||| placeBit 1 true) = linkGone u l .down := by
      rw [writeLinkCtrl, bitOf_or_placeBit_self (by decide), hu]
      rw [if_pos rfl, if_pos htrained, hstays, ite_self]
    refine ⟨_, by simp only [exec, execDisable, managementWrite, htarget]; rw [hwrite], by rw [hgone]; rfl, ?_, by rw [hgone]; rfl, fun f => ?_, ?_⟩
    · rw [hgone, hlink]
      rfl
    · rw [hforme, ← hu]
      rfl
    · rw [hout, ← hu]
      rfl
  · have hlink : (s.modLink l (narrowedLink lane)).link l = narrowedLink lane (s.link l) := s.link_modLink_self l _
    refine ⟨((s.modLink l (narrowedLink lane)).modLink l (fun k => { k with state := .retraining, since := s.time.ticks })).bumpGen, ?_, ?_⟩
    · rw [exec_laneBad hup hbit, if_neg hleft]
    · rw [State.bumpGen_link, State.link_modLink_self, hlink]
      exact ⟨rfl, rfl, rfl, rfl, fun f => State.bumpGen_forme _ f⟩
  · have hlink : (s.modLink l (narrowedLink lane)).link l = narrowedLink lane (s.link l) := s.link_modLink_self l _
    have hquiet' : LinkQuiet (s.modLink l (narrowedLink lane)) l := by
      obtain ⟨hqueue, hreplay, hcoll⟩ := hquiet
      rw [LinkQuiet, hlink]
      exact ⟨hqueue, hreplay, hcoll⟩
    obtain ⟨hgone, -, hforme⟩ := linkGone_spec (st := .lost) hquiet' hactive
    exact ⟨_, by rw [exec_laneBad hup hbit, if_pos hleft], by rw [hgone]; rfl, by rw [hgone]; rfl, hforme⟩
  · have hyes : linkTrained s l = true := by rcases hup with h | h <;> rw [linkTrained, h] <;> rfl
    obtain ⟨hlink, hout, hforme⟩ := linkGone_spec (st := .lost) hquiet hactive
    exact ⟨_, by rw [exec, execLinkLost, if_pos hyes], by rw [hlink]; rfl, by rw [hlink]; rfl, by rw [hlink]; rfl, hforme, hout⟩

end Sys2Proof.Machine
end

section
/-! The make-ready table and its windows (R51 to R56, R323, R391). -/
namespace Sys2Proof.Machine

variable {s t : State} {f : FormeId} {e : MrtEntry} {es : List MrtEntry} {w : OpenWindow} {i : BitVec 8}

/-! ### GO (R55, R56) -/

theorem mrtGo_count (v : Word) : ((v ||| placeBit 16 true).truncate 9 : BitVec 9) = v.truncate 9 := by
  have hbit : ((placeBit 16 true).truncate 9 : BitVec 9) = 0 := by decide
  change BitVec.setWidth 9 (v ||| placeBit 16 true) = BitVec.setWidth 9 v
  rw [BitVec.setWidth_or]
  exact (congrArg (BitVec.setWidth 9 v ||| ·) hbit).trans (BitVec.or_zero)

theorem exec_mrtGo {h : HostReq} {v : Word} (htarget : hostTarget s h = .forme f) :
    exec (.mrtGo h v) s = .next (s.modForme f (fun x => writeMrtCtrl x (v ||| placeBit 16 true))) := by
  simp only [exec, execMrtGo, formeWrite, htarget]

theorem writeMrtCtrl_go {x : Forme} {v : Word} (h : x.mrt.sampled = none) : writeMrtCtrl x (v ||| placeBit 16 true) = { x with mrt := { x.mrt with
    count := v.truncate 9, state := 1, sampled := some (x.mrt.addr, v.truncate 9, x.mrt.activate) } } := by
  have hno : ¬ (!bitOf (v ||| placeBit 16 true) 16) = true := by
    rw [bitOf_or_placeBit_self (by decide)]
    exact Bool.false_ne_true
  have hno' : ¬ x.mrt.sampled.isSome = true := by rw [h]; exact Bool.false_ne_true
  rw [writeMrtCtrl, if_neg hno, if_neg hno', mrtGo_count]

theorem writeMrtCtrl_busy {x : Forme} {v : Word} (h : x.mrt.sampled.isSome = true) : writeMrtCtrl x (v ||| placeBit 16 true) =
    { x with mrt := { x.mrt with count := v.truncate 9, code := 0x0306, entry := 0 } } := by
  have hno : ¬ (!bitOf (v ||| placeBit 16 true) 16) = true := by
    rw [bitOf_or_placeBit_self (by decide)]
    exact Bool.false_ne_true
  rw [writeMrtCtrl, if_neg hno, if_pos h, mrtGo_count]

/-! ### The copy and its checks (R56) -/

theorem firstBad_none {α : Type} {p : α → Bool} : ∀ {n : Nat} {l : List α}, firstBad p n l = none → ∀ x ∈ l, p x = true
  | _, [], _ => fun _ hx => nomatch hx
  | n, x :: l, h => by
    rw [firstBad] at h
    split at h
    next hx =>
      intro y hy
      rcases List.mem_cons.mp hy with rfl | hy
      · exact hx
      · exact firstBad_none h y hy
    next => cases h

/-- A table that passes is the one that was read, and its offsets lie in a stroke. -/
theorem mrtStatus_ok {read : Option (List MrtEntry)} {st : Word} (h : mrtStatus s f read st = .ok es) :
    read = some es ∧ ∀ e ∈ es, mrtOffset e ≤ 767 := by
  cases read with
  | none => cases h
  | some as =>
    simp only [mrtStatus] at h
    split at h
    · cases h
    next hbad =>
      split at h
      · obtain rfl := Except.ok.inj h
        refine ⟨rfl, fun e he => ?_⟩
        have hfour := List.findSome?_eq_none_iff.mp hbad (4, 0x0303) (by simp)
        have hcheck := firstBad_none (Option.map_eq_none_iff.mp hfour) e he
        exact of_decide_eq_true hcheck
      · cases h

theorem mrtRead_length {a : BitVec 56} {n : Nat} {r : List MrtEntry × State} (h : mrtRead s f a n = some r) : r.1.length = n := by
  unfold mrtRead at h
  split at h
  · obtain ⟨p, -, rfl⟩ := Option.map_eq_some_iff.mp h
    simp
  · cases h

/-- The state after the table is read, or not. -/
def afterMrtRead (s : State) (f : FormeId) (a : BitVec 56) (n : Nat) : State := ((mrtRead s f a n).map (·.2)).getD s

theorem engineRead_beside {a : BitVec 56} {n : Nat} {p : List Byte × State} (h : engineRead s f a n = some p) :
    Beside f s p.2 ∧ p.2.stack.mem = s.stack.mem := by
  unfold engineRead at h
  split at h
  · split at h
    · obtain rfl := Option.some.inj h
      obtain ⟨⟨hformes, hgalley, htime, hboot, hfuses, hflash, hcolo, hlinks⟩, hmem, -⟩ := countPoison_steady s f 0 ‹_› n
      exact ⟨⟨hformes, hgalley, htime, hboot, hfuses, hflash, hcolo, hlinks⟩, hmem⟩
    · obtain ⟨bs, -, rfl⟩ := Option.map_eq_some_iff.mp h
      exact ⟨Beside.refl f s, rfl⟩
  · obtain rfl := Option.some.inj h
    exact ⟨Beside.refl f s, rfl⟩
  · cases h

/-- Reading the table counts what it detects, and moves nothing else. -/
theorem afterMrtRead_spec (s : State) (f : FormeId) (a : BitVec 56) (n : Nat) : Beside f s (afterMrtRead s f a n) ∧
    (afterMrtRead s f a n).stack.mem = s.stack.mem ∧ (afterMrtRead s f a n).out = s.out ∧
    ((afterMrtRead s f a n).forme f).mrt = (s.forme f).mrt := by
  unfold afterMrtRead
  cases hr : mrtRead s f a n with
  | none => exact ⟨Beside.refl f s, rfl, rfl, rfl⟩
  | some r =>
    unfold mrtRead at hr
    split at hr
    · obtain ⟨p, hp, rfl⟩ := Option.map_eq_some_iff.mp hr
      obtain ⟨hbeside, hmem⟩ := engineRead_beside hp
      obtain ⟨⟨d, hforme⟩, -, -, -, hout, -, -, -⟩ := engineRead_counted hp
      exact ⟨hbeside, hmem, hout, by rw [Option.map_some, Option.getD_some, hforme]⟩
    · cases hr

/-- The forme whose copied table is armed. -/
def armedForme (es : List MrtEntry) (st : Word) (x : Forme) : Forme :=
  { x with mrt := { x.mrt with sampled := none, code := 0, entry := 0, state := 2, armed := some (es, st) } }

/-- The forme whose copied table is refused. -/
def unarmedForme (c : Code) (i : Nat) (x : Forme) : Forme :=
  { x with mrt := { x.mrt with sampled := none, code := c, entry := BitVec.ofNat 8 i, state := if x.mrt.armed.isSome then 2 else 0 } }

section
variable {a : BitVec 51} {n : BitVec 9} {st : Word}

theorem exec_mrtCopyDone_ok (hs : (s.forme f).mrt.sampled = some (a, n, st))
    (hok : mrtStatus s f ((mrtRead s f (a.zeroExtend 56 <<< 5) n.toNat).map (·.1)) st = .ok es) :
    exec (.mrtCopyDone f) s = .next ((afterMrtRead s f (a.zeroExtend 56 <<< 5) n.toNat).modForme f (armedForme es st)) := by
  simp only [exec, execMrtCopyDone, hs, hok]
  rw [afterMrtRead]
  cases mrtRead s f (a.zeroExtend 56 <<< 5) n.toNat <;> rfl

theorem exec_mrtCopyDone_error {c : Code} {j : Nat} (hs : (s.forme f).mrt.sampled = some (a, n, st))
    (herr : mrtStatus s f ((mrtRead s f (a.zeroExtend 56 <<< 5) n.toNat).map (·.1)) st = .error (c, j)) :
    exec (.mrtCopyDone f) s = .next ((afterMrtRead s f (a.zeroExtend 56 <<< 5) n.toNat).modForme f (unarmedForme c j)) := by
  simp only [exec, execMrtCopyDone, hs, herr]
  rw [afterMrtRead]
  cases mrtRead s f (a.zeroExtend 56 <<< 5) n.toNat <;> rfl

end

/-! ### Windows (R51, R53, R391) -/

theorem windowDue_of_occurs {kind : Nat} (hentry : (tableNow s f)[i.toNat]? = some e) (hkind : mrtKind e = kind)
    (hoccurs : occursAt e (formeCount s f) = true) (hnone : (s.forme f).mrt.windows = []) : windowDue s f kind i = some e := by
  have hgo : (mrtKind e == kind && fires s f e &&
      !(s.forme f).mrt.windows.any (fun w => w.entry == i.toNat && w.words == e && w.opened == formeCount s f)) = true := by
    rw [hnone, fires, hoccurs, hkind, beq_self_eq_true]
    rfl
  simp only [windowDue, hentry, if_pos hgo]

theorem windowOver_of_last {kind : Nat} (hw : (s.forme f).mrt.windows = [w]) (hentry : w.entry = i.toNat) (hkind : mrtKind w.words = kind)
    (hlast : w.last.toNat < (formeCount s f).toNat) : windowOver s f kind i = some w := by
  rw [windowOver, hw]
  refine List.find?_cons_of_pos ?_
  simp [hentry, hkind, hlast]

/-- A change of cores one by one reaches exactly those named. -/
theorem foldl_modCore_of_not {g : Core → Core} {cs : List CoreId} {c : CoreId} (hc : c ∉ cs) (s : State) :
    (cs.foldl (fun t c => t.modCore c g) s).core c = s.core c := by
  induction cs generalizing s with
  | nil => rfl
  | cons a cs ih =>
    obtain ⟨hne, hnot⟩ := List.ne_and_not_mem_of_not_mem_cons hc
    rw [List.foldl_cons, ih hnot, State.core_modCore_of_ne _ _ _ _ (Ne.symm hne)]

/-- What a change sets and does not undo stands for every core named. -/
theorem foldl_modCore_of_mem {g : Core → Core} {P : Core → Prop} (hset : ∀ k, P (g k)) {cs : List CoreId} {c : CoreId} (hc : c ∈ cs) (s : State) :
    P ((cs.foldl (fun t c => t.modCore c g) s).core c) := by
  induction cs generalizing s with
  | nil => cases hc
  | cons a cs ih =>
    by_cases hin : c ∈ cs
    · exact ih hin _
    · obtain rfl : c = a := (List.mem_cons.mp hc).resolve_right hin
      rw [List.foldl_cons, foldl_modCore_of_not hin, State.core_modCore_self]
      exact hset _

theorem foldl_modCore_keeps {α : Type} {g : Core → Core} {proj : Core → α} (hg : ∀ k, proj (g k) = proj k) (cs : List CoreId) (s : State)
    (c : CoreId) : proj ((cs.foldl (fun t c => t.modCore c g) s).core c) = proj (s.core c) := by
  induction cs generalizing s with
  | nil => rfl
  | cons a cs ih =>
    rw [List.foldl_cons, ih]
    by_cases ha : a = c
    · subst ha
      rw [State.core_modCore_self, hg]
    · rw [State.core_modCore_of_ne _ _ _ _ ha]

theorem foldl_modCore_rest (g : Core → Core) (cs : List CoreId) (s : State) :
    ∃ ks, cs.foldl (fun t c => t.modCore c g) s = { s with cores := ks } := by
  induction cs generalizing s with
  | nil => exact ⟨s.cores, rfl⟩
  | cons a cs ih =>
    obtain ⟨ks, h⟩ := ih (s.modCore a g)
    exact ⟨ks, h⟩

/-- The core in filler work. -/
def fillerCore (e : MrtEntry) (k : Core) : Core := { k with filler := true, holdGalley := k.holdGalley || bitOf e.w3 16 }

/-- The core that no open window names. -/
def idleCore (k : Core) : Core := { k with filler := false, holdGalley := false }

theorem exec_fillerWindowOpen (h : windowDue s f 3 i = some e) : exec (.fillerWindowOpen f i) s =
    .next ((fillerCores (s.forme f) e).foldl (fun t c => t.modCore c (fillerCore e)) (openWindow s f i e)) := by
  simp only [exec, execFillerWindowOpen, h]
  rfl

theorem exec_fillerWindowEnd (hw : (s.forme f).mrt.windows = [w]) (h : windowOver s f 3 i = some w) : exec (.fillerWindowEnd f i) s =
    .next ((fillerCores (s.forme f) w.words).foldl (fun t c => t.modCore c idleCore) (dropWindow s f w)) := by
  have hnone : ((dropWindow s f w).forme f).mrt.windows = [] := by
    rw [dropWindow, State.forme_modForme_self, hw]
    simp
  simp only [exec, execFillerWindowEnd, h, hnone, List.filter_nil]
  rfl

/-- The job whose window has opened. -/
def windowedJob (s : State) (f : FormeId) (e : MrtEntry) (j : Job) : Job :=
  if j.isOpen then { j with window := some (formeCount s f, windowLast s f e, fld e.w3 23 8, fld e.w3 31 24, 0) } else j

/-- The job whose window has closed. -/
def closedJob (w : OpenWindow) (j : Job) : Job := { j with window := none, early := j.early.filter (fun e => e.2.2.1 != w.opened) }

/-- A collective window that ends with no collective of its slot in progress and no slug. -/
theorem exec_collectiveWindowClose {j : Job} (h : windowOver s f 2 i = some w)
    (hj : (s.forme f).job (Fin.ofNat 64 (fld w.words.w3 5 0)) = some j) (hmine : j.window.map (·.1) = some w.opened) (hcoll : j.coll = none)
    (hslugs : (s.forme f).slugs = []) : exec (.collectiveWindowClose f i) s =
      .next ((dropWindow s f w).modJob f (Fin.ofNat 64 (fld w.words.w3 5 0)) (closedJob w)) := by
  obtain ⟨v, hv, hopened⟩ := Option.map_eq_some_iff.mp hmine
  generalize hk : (Fin.ofNat 64 (fld w.words.w3 5 0) : JobSlot) = k at hj ⊢
  have hdropped : (dropWindow s f w).forme f = { s.forme f with
      mrt := { (s.forme f).mrt with windows := (s.forme f).mrt.windows.filter (· != w) } } :=
    s.forme_modForme_self f _
  have hjob : ((dropWindow s f w).forme f).job k = some j := by
    rw [hdropped]
    exact hj
  have hquiet : jobColl (dropWindow s f w) f k = none := by
    rw [jobColl, hjob, Option.bind_some, hcoll, Option.map_none]
  have hslugs' : (((dropWindow s f w).modJob f k (closedJob w)).forme f).slugs = [] := by
    rw [State.modJob_of_some hjob, hdropped]
    exact hslugs
  have hmine' : (v.1 == w.opened) = true := beq_iff_eq.mpr hopened
  simp only [exec, execCollectiveWindowClose, h, hk, hj, Option.any_some, hv, hmine', Bool.not_true, Bool.false_eq_true, if_false, hquiet]
  refine congrArg Host.Outcome.next ?_
  change (((((dropWindow s f w).modJob f k (closedJob w)).forme f).slugs.filter _).map _).foldl _ _ = _
  rw [hslugs']
  rfl

/-- Settles O17: a table is armed by the checks of its copy, and a window is a change of its forme and of the cores it names. -/
theorem tableAndWindows : Obligations.TableAndWindows := by
  refine ⟨fun s h f v htarget hnone => ?_, fun s h f v htarget hsome => ?_, fun s f a n st es hs hok => ?_, fun s f a n st c j hs herr => ?_,
    fun s f es st ha hdue => ?_, fun s f es st ha hearly => ?_, fun s f i e hentry hkind hoccurs hnone => ?_,
    fun s f i w hw hentry hkind hlast => ?_, fun s f i e j hentry hkind hoccurs hnone hstroke hj hopen => ?_,
    fun s f i w j hw hentry hkind hlast hj hmine hcoll hslugs => ?_⟩
  · refine ⟨_, exec_mrtGo htarget, s.modForme_onlyForme f _, ?_⟩
    rw [State.forme_modForme_self, writeMrtCtrl_go hnone]
  · refine ⟨_, exec_mrtGo htarget, s.modForme_onlyForme f _, ?_⟩
    rw [State.forme_modForme_self, writeMrtCtrl_busy hsome]
    exact ⟨rfl, rfl, rfl⟩
  · obtain ⟨hread, hoffsets⟩ := mrtStatus_ok hok
    obtain ⟨r, hr, rfl⟩ := Option.map_eq_some_iff.mp hread
    obtain ⟨hbeside, hmem, hout, hmrt⟩ := afterMrtRead_spec s f (a.zeroExtend 56 <<< 5) n.toNat
    have hall := hbeside.trans ((afterMrtRead s f (a.zeroExtend 56 <<< 5) n.toNat).modForme_beside f (armedForme r.1 st))
    refine ⟨_, exec_mrtCopyDone_ok hs hok, ?_, ?_, ?_, ?_, mrtRead_length hr, hoffsets, hall.time, hout, hall.galley, hmem, hall.formes⟩
    all_goals rw [State.forme_modForme_self]
    · rfl
    · rfl
    · rfl
    · rw [armedForme, hmrt]
  · obtain ⟨hbeside, hmem, hout, hmrt⟩ := afterMrtRead_spec s f (a.zeroExtend 56 <<< 5) n.toNat
    have hall := hbeside.trans ((afterMrtRead s f (a.zeroExtend 56 <<< 5) n.toNat).modForme_beside f (unarmedForme c j))
    refine ⟨_, exec_mrtCopyDone_error hs herr, ?_, ?_, ?_, ?_, hall.time, hout, hall.galley, hmem, hall.formes⟩
    all_goals rw [State.forme_modForme_self]
    · rw [unarmedForme, hmrt]
    · rfl
    · rfl
    · rw [unarmedForme, hmrt]
  · refine ⟨_, by simp only [exec, execMrtActivate, ha, if_pos hdue]; rfl, s.modForme_onlyForme f _, ?_⟩
    rw [State.forme_modForme_self]
    exact ⟨rfl, rfl⟩
  · simp only [exec, execMrtActivate, ha, if_neg (Nat.not_le.mpr hearly)]
  · obtain ⟨ks, hrest⟩ := foldl_modCore_rest (fillerCore e) (fillerCores (s.forme f) e) (openWindow s f i e)
    refine ⟨_, exec_fillerWindowOpen (windowDue_of_occurs hentry hkind hoccurs hnone), fun c => ?_,
      fun c => ⟨?_, ?_⟩, ?_, ?_, ?_, ?_, ?_, fun g hg => ?_⟩
    · by_cases hc : c ∈ fillerCores (s.forme f) e
      · rw [foldl_modCore_of_mem (P := fun k => k.filler = true) (fun _ => rfl) hc, decide_eq_true hc, Bool.true_or]
      · rw [foldl_modCore_of_not hc, decide_eq_false hc, Bool.false_or]
        rfl
    · exact (foldl_modCore_keeps (g := fillerCore e) (proj := Core.level) (fun _ => rfl) _ _ c)
    · exact (foldl_modCore_keeps (g := fillerCore e) (proj := Core.fenced) (fun _ => rfl) _ _ c)
    · rw [hrest]
      change ((openWindow s f i e).forme f).mrt.windows = _
      rw [openWindow, State.forme_modForme_self, hnone]
      rfl
    · rw [hrest]; rfl
    · rw [hrest]; rfl
    · rw [hrest]; rfl
    · rw [hrest]; rfl
    · rw [hrest]
      change (openWindow s f i e).forme g = s.forme g
      rw [openWindow, State.forme_modForme_of_ne _ _ _ _ hg.symm]
  · obtain ⟨ks, hrest⟩ := foldl_modCore_rest idleCore (fillerCores (s.forme f) w.words) (dropWindow s f w)
    refine ⟨_, exec_fillerWindowEnd hw (windowOver_of_last hw hentry hkind hlast), ?_, fun c hc => ?_, fun c hc => ?_, ?_, ?_⟩
    · rw [hrest]
      change ((dropWindow s f w).forme f).mrt.windows = _
      rw [dropWindow, State.forme_modForme_self, hw]
      simp
    · exact foldl_modCore_of_mem (P := fun k => k.filler = false ∧ k.holdGalley = false) (fun _ => ⟨rfl, rfl⟩) hc _
    · exact foldl_modCore_of_not hc _
    · rw [hrest]; rfl
    · rw [hrest]; rfl
  · have hallowed : windowsAllowed s = true := by
      rcases hstroke with h | h <;> rw [windowsAllowed, h] <;> rfl
    have hjob : ((openWindow s f i e).forme f).job (Fin.ofNat 64 (fld e.w3 5 0)) = some j := by
      rw [openWindow, State.forme_modForme_self]
      exact hj
    refine ⟨(openWindow s f i e).modJob f (Fin.ofNat 64 (fld e.w3 5 0)) (windowedJob s f e), ?_,
      (s.modForme_onlyForme f _).trans (State.modJob_onlyForme _ f _ _), ?_⟩
    · simp only [exec, execCollectiveWindowOpen, windowDue_of_occurs hentry hkind hoccurs hnone, if_pos hallowed]
      rfl
    · rw [State.modJob_of_some hjob, Forme.job_setJob_self, windowedJob, if_pos hopen]
  · have hdrop := exec_collectiveWindowClose (windowOver_of_last hw hentry hkind hlast) hj hmine hcoll hslugs
    have hjob : ((dropWindow s f w).forme f).job (Fin.ofNat 64 (fld w.words.w3 5 0)) = some j := by
      rw [dropWindow, State.forme_modForme_self]
      exact hj
    refine ⟨_, hdrop, (s.modForme_onlyForme f _).trans (State.modJob_onlyForme _ f _ _), ?_, ?_⟩
    · rw [State.modJob_of_some hjob]
      change ((dropWindow s f w).forme f).mrt.windows = []
      rw [dropWindow, State.forme_modForme_self, hw]
      simp
    · rw [State.modJob_of_some hjob, Forme.job_setJob_self]
      rfl

end Sys2Proof.Machine
end

section
/-! Requests to impose, and the check of an image (R24, R26, R32 to R34, R37, R405). -/
namespace Sys2Proof.Machine

variable {s : State} {p : PortId} {m : Vector Word 16}

/-! ### IMPOSE (R24, R26, R152) -/

/-- The image is read through the channel's port, for the request that asked. -/
def imposeRead (s : State) (p : PortId) (m : Vector Word 16) : State :=
  ({ s.taken (.secure p) with colo := { s.colo with phase := 1, requester := some (p, msgTag m) } }).sendDrd p 16 .imposition false m[1] 65536

theorem exec_impose_of_admitted (hm : Delivered s (.secure p) 0x0101 m) (hidle : impBusy s = false) (hin : s.stack.retired = false)
    (hlen : m[2] = 65536) : exec (.impose p) s = .next (imposeRead s p m) := by
  have hbusy : ¬ impBusy (s.taken (.secure p)) = true := by
    rw [show impBusy (s.taken (.secure p)) = false from hidle]
    exact Bool.false_ne_true
  have hret : ¬ (s.taken (.secure p)).stack.retired = true := by
    rw [show (s.taken (.secure p)).stack.retired = false from hin]
    exact Bool.false_ne_true
  have hwhole : ¬ (m[2] != 65536) = true := by simp [hlen]
  simp only [exec, execImpose, exchange_of_delivered hm, if_neg hbusy, if_neg hret, if_neg hwhole]
  rfl

theorem exec_impose_of_retired (hm : Delivered s (.secure p) 0x0101 m) (hidle : impBusy s = false) (hout : s.stack.retired = true) :
    exec (.impose p) s = .next (impRefuse (s.taken (.secure p)) p (msgTag m) 0x0803) := by
  have hbusy : ¬ impBusy (s.taken (.secure p)) = true := by
    rw [show impBusy (s.taken (.secure p)) = false from hidle]
    exact Bool.false_ne_true
  have hret : (s.taken (.secure p)).stack.retired = true := hout
  simp only [exec, execImpose, exchange_of_delivered hm, if_neg hbusy, if_pos hret]

/-- A refused request is answered with its code, which the colophon's registers keep. -/
theorem exec_impose_of_refused (hm : Delivered s (.secure p) 0x0101 m) (href : impBusy s = true ∨ s.stack.retired = true) :
    exec (.impose p) s = .next (impRefuse (s.taken (.secure p)) p (msgTag m) (if impBusy s then 0x0021 else 0x0803)) := by
  cases hbusy : impBusy s with
  | true => exact exec_impose_of_busy hm hbusy
  | false => exact exec_impose_of_retired hm hbusy (href.resolve_left (by rw [hbusy]; exact Bool.false_ne_true))

/-- The read of the image frees the mailbox's message and asks the host once. -/
theorem imposeRead_asks (s : State) (p : PortId) (m : Vector Word 16) :
    OnlyPort p { s.taken (.secure p) with colo := { s.colo with phase := 1, requester := some (p, msgTag m) } } (imposeRead s p m) ∧
    (imposeRead s p m).out = s.out ++ [.drd p 16 (s.reqTag p) false m[1] 65536] ∧ ((imposeRead s p m).mbox (.secure p)).full = false := by
  have hsent := State.sendDrd_sentOn { s.taken (.secure p) with colo := { s.colo with phase := 1, requester := some (p, msgTag m) } }
    p 16 .imposition false m[1] 65536
  have htag := taken_secure_reqTag s p
  refine ⟨hsent.1, ?_, ?_⟩
  · rw [imposeRead, hsent.2]
    exact congrArg (fun tag => s.out ++ [.drd p 16 tag false m[1] 65536]) htag
  · rw [imposeRead, State.sendDrd, State.ecpOut_mbox, State.modPort_mbox_of]
    · rw [show ∀ c, ({ s.taken (.secure p) with colo := { s.colo with phase := 1, requester := some (p, msgTag m) } } : State).mbox c =
        (s.taken (.secure p)).mbox c from fun c => by cases c <;> rfl, State.taken, State.modMbox_mbox_self]
    · exact fun _ => rfl

/-! ### The end of an imposition (R33) -/

section
variable {tag : BitVec 16}

/-- The colophon's registers when an imposition has ended with a refusal, or with none. -/
def imposeEnded (c : Colophon) (e : ImpRefusal) : Colophon :=
  { c with
    code := e.1, secType := BitVec.ofNat 8 e.2.1, formeNo := BitVec.ofNat 4 e.2.2, phase := 0, requester := none, reimp := none,
    named := 0, done := 0, abandoned := 0 }

theorem impEnd_onlyPort (hreq : s.colo.requester = some (p, tag)) (e : ImpRefusal) :
    OnlyPort p { s with colo := imposeEnded s.colo e } (impEnd s e) := by
  simp only [impEnd, hreq]
  exact State.respond_secure_onlyPort ..

/-- The state in which an image that has arrived is judged: its read is retired and the verdict on its signature is kept. -/
def judging (s : State) (p : PortId) (img : SignedImage) : State :=
  (judgeImage (s.retire p (fun q => q.use == .imposition)) img).2

theorem execImpositionFetched_eq (r : Fetched SignedImage) : exec (.impositionFetched r) s = .next (impositionFetched s r) := rfl

theorem impositionFetched_fault (hphase : s.colo.phase = 1) (hreq : s.colo.requester = some (p, tag)) (st : EcpStatus) (a : HostAddr) :
    impositionFetched s (.fault st a) = impEnd (s.retire p (fun q => q.use == .imposition)) (0x1102, 0, 0) := by
  simp only [impositionFetched, if_pos hphase, hreq]

variable {img : SignedImage}

/-- The check of an image as the model makes it: its signature's verdict stands for the signature. -/
def imposeVerdict (s : State) (img : SignedImage) : Option ImpRefusal :=
  impCheck s s.colo.committed { img with sigOk := signatureVerdict s img }

theorem impositionFetched_refused {e : ImpRefusal} (hphase : s.colo.phase = 1) (hreq : s.colo.requester = some (p, tag))
    (hbad : imposeVerdict s img = some e) : impositionFetched s (.data img) = impEnd (judging s p img) e := by
  have hcheck : impCheck (judging s p img) (judging s p img).colo.committed (judgeImage (s.retire p (fun q => q.use == .imposition)) img).1 =
      some e := hbad
  simp only [impositionFetched, if_pos hphase, hreq]
  rw [show (judgeImage (s.retire p (fun q => q.use == .imposition)) img).2 = judging s p img from rfl, hcheck]

/-- An image that passes is the committed one again, or opens a re-imposition (R34). -/
theorem impositionFetched_passes (hphase : s.colo.phase = 1) (hreq : s.colo.requester = some (p, tag))
    (hgood : imposeVerdict s img = none) : impositionFetched s (.data img) =
      if (impParse img.blob).sequence == s.colo.seq && impositionHash img.blob == s.colo.hash then impEnd (judging s p img) (0, 0, 0)
      else reimpose (judging s p img) { img with sigOk := signatureVerdict s img } (impParse img.blob) := by
  have hcheck : impCheck (judging s p img) (judging s p img).colo.committed (judgeImage (s.retire p (fun q => q.use == .imposition)) img).1 =
      none := hgood
  simp only [impositionFetched, if_pos hphase, hreq]
  rw [show (judgeImage (s.retire p (fun q => q.use == .imposition)) img).2 = judging s p img from rfl, hcheck]
  rfl

end

/-! ### A re-imposition opens (R34, R37) -/

/-- A draining forme has no ring that is enabled. -/
theorem drainForme_ring (x : Forme) (r : RingId) : ((drainForme x).ring r).state ≠ 1 := by
  have hring : (drainForme x).ring r =
      if ((abandonInk x).ring r).state == 1 then { (abandonInk x).ring r with state := 4 } else (abandonInk x).ring r := by
    simp [drainForme, Forme.ring]
  rw [hring]
  split
  · simp
  · rename_i hne
    exact fun h => hne (by rw [h]; rfl)

/-- The record of a phase goes into the journal, and into nothing else. -/
theorem journalPhase_spec (s : State) (phase : BitVec 3) (r : Reimp) :
    ∃ js, journalPhase s phase r = { s with flash := { s.flash with journal := js } } := ⟨_, rfl⟩

theorem reimpose_forme (s : State) (img : SignedImage) (i : Imposition) (f : FormeId) : (reimpose s img i).forme f =
    if (namedBy s i).getLsbD f.val && (s.forme f).cfg.isSome then drainForme (s.forme f) else s.forme f := by
  rw [reimpose, State.forme_mapFormes, (journalPhase_spec _ _ _).choose_spec]
  rfl

/-- The colophon's registers while a re-imposition drains (R37 phase 2). -/
def drainPhase (c : Colophon) (r : Reimp) : Colophon :=
  { c with phase := 2, reimp := some r, named := r.named, done := 0, abandoned := 0 }

/-- A re-imposition as it opens. -/
def reimpOpened (s : State) (img : SignedImage) (i : Imposition) : Reimp :=
  { image := img, imp := i, hash := impositionHash img.blob, full := !i.partial', named := namedBy s i, done := 0, abandoned := 0 }

theorem reimpose_rest (s : State) (img : SignedImage) (i : Imposition) :
    (reimpose s img i).colo = drainPhase s.colo (reimpOpened s img i) ∧ (reimpose s img i).fuses = s.fuses ∧
    (reimpose s img i).stack = s.stack := by
  obtain ⟨js, hjs⟩ := journalPhase_spec { s with colo := drainPhase s.colo (reimpOpened s img i) } 2 (reimpOpened s img i)
  unfold drainPhase reimpOpened at hjs ⊢
  simp only [reimpose]
  rw [hjs]
  exact ⟨rfl, rfl, rfl⟩

/-- Settles O12: the read asks the host once, an end answers the requester, and a re-imposition drains the formes its image names. -/
theorem impose : Obligations.Impose := by
  refine ⟨fun s p m hm hidle hin hlen => ?_, fun s p m hm href => ?_, fun s p tag st a hphase hreq => ?_,
    fun s p tag img e hphase hreq hbad => ?_, fun s p tag img hphase hreq hgood hnewer => ?_,
    fun s p tag img hphase hreq hgood hseq hhash => ?_⟩
  · obtain ⟨hport, hout, hfull⟩ := imposeRead_asks s p m
    obtain ⟨x, o, ht⟩ := onlyPort_iff.mp hport
    refine ⟨_, exec_impose_of_admitted hm hidle hin hlen, ?_, hout, hfull, ?_, ?_, ?_⟩ <;> rw [ht] <;> rfl
  · obtain ⟨x, o, ht⟩ := onlyPort_iff.mp (impRefuse_onlyPort s p (msgTag m) (if impBusy s then 0x0021 else 0x0803))
    refine ⟨_, exec_impose_of_refused hm href, impRefuse_respondedWith s p (msgTag m) _, ?_⟩
    rw [ht]
    exact ⟨rfl, rfl, rfl, rfl⟩
  · obtain ⟨x, o, ht⟩ := onlyPort_iff.mp (impEnd_onlyPort (s := s.retire p (fun q => q.use == .imposition)) hreq (0x1102, 0, 0))
    refine ⟨_, execImpositionFetched_eq _, ?_⟩
    rw [impositionFetched_fault hphase hreq, ht]
    exact ⟨rfl, rfl, rfl, rfl, rfl, rfl⟩
  · obtain ⟨x, o, ht⟩ := onlyPort_iff.mp (impEnd_onlyPort (s := judging s p img) hreq e)
    refine ⟨_, execImpositionFetched_eq _, ?_⟩
    rw [impositionFetched_refused hphase hreq hbad, ht]
    exact ⟨rfl, rfl, rfl, rfl, rfl, rfl, rfl, rfl, rfl, rfl, rfl⟩
  · have hother : ¬ ((impParse img.blob).sequence == s.colo.seq && impositionHash img.blob == s.colo.hash) = true := fun h => by
      have hsame : (impParse img.blob).sequence = s.colo.seq := by simpa using (Bool.and_eq_true_iff.mp h).1
      rw [hsame] at hnewer
      exact Nat.lt_irrefl _ hnewer
    have hexec : exec (.impositionFetched (.data img)) s =
        .next (reimpose (judging s p img) { img with sigOk := signatureVerdict s img } (impParse img.blob)) := by
      rw [execImpositionFetched_eq, impositionFetched_passes hphase hreq hgood, if_neg hother]
    obtain ⟨hcolo, hfuses, hstack⟩ := reimpose_rest (judging s p img) { img with sigOk := signatureVerdict s img } (impParse img.blob)
    refine ⟨_, hexec, by rw [hcolo] <;> rfl, by rw [hcolo]; exact hreq, fun hpartial => ?_, by rw [hcolo] <;> rfl, by rw [hcolo] <;> rfl,
      by rw [hcolo] <;> rfl, by rw [hcolo] <;> rfl, hfuses, hstack, fun f hf => ?_, fun f hf hcfg => ?_⟩
    · rw [hcolo]
      exact if_pos hpartial
    · rw [reimpose_forme, if_neg]
      · rfl
      · rw [show (namedBy (judging s p img) (impParse img.blob)).getLsbD f.val = false from hf]
        exact Bool.false_ne_true
    · rw [reimpose_forme, if_pos]
      · exact ⟨rfl, drainForme_ring _⟩
      · rw [show (namedBy (judging s p img) (impParse img.blob)).getLsbD f.val = true from hf]
        exact hcfg
  · have hexec : exec (.impositionFetched (.data img)) s = .next (impEnd (judging s p img) (0, 0, 0)) := by
      rw [execImpositionFetched_eq, impositionFetched_passes hphase hreq hgood, if_pos (by rw [hseq, hhash]; simp)]
    obtain ⟨x, o, ht⟩ := onlyPort_iff.mp (impEnd_onlyPort (s := judging s p img) hreq (0, 0, 0))
    refine ⟨_, hexec, ?_⟩
    rw [ht]
    exact ⟨rfl, rfl, rfl, rfl, rfl, rfl, rfl⟩

end Sys2Proof.Machine
end

section
/-! What the clearing of a forme leaves of the module that holds it (R38, R264, R381, R406). -/
namespace Sys2Proof.Machine

/-- The boot's registers, the fuses and the flash: what no forme's work changes. -/
def State.firm (s : State) : Boot × Fuses × Flash := (s.boot, s.fuses, s.flash)

theorem State.firm_iff {s t : State} : t.firm = s.firm ↔ t.boot = s.boot ∧ t.fuses = s.fuses ∧ t.flash = s.flash := by
  simp only [State.firm, Prod.mk.injEq]

/-- Usable memory follows the channels that the flash lists (R148). -/
theorem pastUsable_of_mapOut {s t : State} (h : t.flash.mapOut = s.flash.mapOut) (i : Imposition) (f : Nat) :
    pastUsable t i f = pastUsable s i f := by
  have husable : t.usableGib = s.usableGib := by rw [State.usableGib, State.usableGib, State.mappedOut, State.mappedOut, h]
  unfold pastUsable
  rw [husable] <;> rfl

/-- A fold whose step keeps the firm part keeps it. -/
theorem foldl_firm {α : Type} {g : State → α → State} (hg : ∀ u x, (g u x).firm = u.firm) (l : List α) (s : State) :
    (l.foldl g s).firm = s.firm := foldl_keeps_of_step hg l s

section
variable (s : State) (f : FormeId)

theorem State.formeDwr_firm (u : EcpUse) (a : HostAddr) (d : List Byte) : (s.formeDwr f u a d).firm = s.firm := by
  unfold State.formeDwr
  split <;> rfl

theorem State.markPage_firm (page : Nat) : (s.markPage f page).firm = s.firm := by
  unfold State.markPage
  split <;> rfl

theorem State.spillDwr_firm (u : EcpUse) (page : Nat) (a : HostAddr) (d : List Byte) : (s.spillDwr f u page a d).firm = s.firm := by
  unfold State.spillDwr
  split
  · rw [State.markPage_firm, State.formeDwr_firm]
  · rfl

theorem spillPageWrite_firm (u : EcpUse) (page off : Nat) (d : List Byte) : (spillPageWrite s f u page off d).firm = s.firm := by
  unfold spillPageWrite
  split
  · split
    · exact State.spillDwr_firm ..
    · rfl
  · rfl

theorem State.stackStore_firm (h : Hint) (off : Nat) (d : List Byte) : (s.stackStore f h off d).firm = s.firm := by
  unfold State.stackStore
  split
  · rfl
  · split <;> rfl

theorem watchedWrite_firm (off : Nat) (d : List Byte) : (watchedWrite s f off d).firm = s.firm := s.stackStore_firm f .normal off d

theorem leafWrite_firm (u : EcpUse) (l : LeafEntry) (off : Nat) (d : List Byte) : (leafWrite s f u l off d).firm = s.firm := by
  unfold leafWrite
  split
  · rfl
  · split
    · exact spillPageWrite_firm ..
    · exact watchedWrite_firm ..

theorem copyRun_firm (g : FormeId) (sl : Slug) (r : RunRec) : (copyRun f g sl s r).firm = s.firm := by
  unfold copyRun
  split
  · rfl
  · exact foldl_firm (fun u _ => leafWrite_firm u f ..) _ _

theorem State.retireUse_firm (u : EcpUse) : (s.retireUse u).firm = s.firm := rfl

theorem holdRuns_firm (ids : List Nat) (take : Bool) : (holdRuns s f ids take).firm = s.firm := rfl

theorem endCopy_firm (t : SlugTag) (n : Nat) : (endCopy s f t n).firm = s.firm := by
  unfold endCopy
  split
  · split
    · exact (foldl_firm (fun u r => copyRun_firm u f ..) _ _).trans (s.retireUse_firm _)
    · rfl
  · rfl

theorem endCopies_firm : (endCopies s f).firm = s.firm := by
  refine foldl_firm (fun t g => ?_) _ _
  split
  · rfl
  · refine foldl_firm (fun u sl => ?_) _ _
    exact (endCopy_firm ..).trans rfl

theorem dropDomain_firm : (dropDomain s f).firm = s.firm := by
  unfold dropDomain
  split
  · split <;> rfl
  · rfl

theorem State.rampDown_firm (c : CoreId) : (s.rampDown f c).firm = s.firm := rfl

theorem clearCores_firm (cs : List CoreId) : (clearCores s f cs).firm = s.firm := by
  refine (foldl_firm (fun t c => ?_) cs (s.clearGalley cs)).trans rfl
  exact t.rampDown_firm f c

theorem trimShared_firm : (trimShared s).firm = s.firm := by
  have hforme : ∀ (t : State) (o : FormeId), (allBindings.foldl (fun u b => trimBinding u o b) t).firm = t.firm := fun t o =>
    foldl_firm (g := fun u b => trimBinding u o b) (fun _ _ => rfl) allBindings t
  have hall := foldl_firm hforme allFormes s
  rw [trimShared_eq]
  generalize List.foldl _ s allFormes = v at hall
  exact hall

theorem leaveShared_firm (before : State) : (leaveShared before s).firm = s.firm := by
  refine foldl_firm (fun t i => ?_) _ _
  rfl

theorem clearForme_firm (y : Forme) : (clearForme s f y).firm = s.firm := by
  unfold clearForme
  dsimp only
  rw [leaveShared_firm, trimShared_firm]
  exact (clearCores_firm ..).trans ((dropDomain_firm ..).trans (endCopies_firm s f))

theorem scrubForme_firm : (scrubForme s f).firm = s.firm := by
  obtain ⟨k, hk⟩ := scrubForme_spec s f
  rw [hk]
  rfl

theorem unassignForme_firm : (unassignForme s f).firm = s.firm := (scrubForme_firm ..).trans (clearForme_firm s f Forme.reset)

/-! ### The colophon loses a domain's secret at most -/

/-- The colophon, but for the secrets of the domains. -/
def Colophon.unkeyed (c : Colophon) : Colophon := { c with kDom := Colophon.reset.kDom }

theorem dropDomain_unkeyed : (dropDomain s f).colo.unkeyed = s.colo.unkeyed := by
  unfold dropDomain
  split
  · split <;> rfl
  · rfl

theorem clearForme_unkeyed (y : Forme) : (clearForme s f y).colo.unkeyed = s.colo.unkeyed := by
  unfold clearForme
  dsimp only
  rw [leaveShared_colo, trimShared_colo]
  dsimp only
  rw [State.setForme_colo, clearCores_colo, dropDomain_unkeyed, purgeForme_colo, endCopies_colo]

theorem unassignForme_unkeyed : (unassignForme s f).colo.unkeyed = s.colo.unkeyed := by
  obtain ⟨k, hk⟩ := scrubForme_spec (clearForme s f Forme.reset) f
  rw [unassignForme, State.modForme_colo, hk]
  exact clearForme_unkeyed s f Forme.reset

end

end Sys2Proof.Machine
end

section
/-! The phases of a re-imposition (R37, R38). -/
namespace Sys2Proof.Machine

variable {s : State} {r : Reimp}

/-! ### The journal (R38) -/

/-- The last entries of a list end with what was appended last. -/
theorem getLast?_drop_concat {α : Type} (l : List α) (x : α) (k : Nat) (hk : 0 < k) :
    ((l ++ [x]).drop ((l ++ [x]).length - k)).getLast? = some x := by
  have hlen : ¬ (l ++ [x]).length ≤ (l ++ [x]).length - k := by
    rw [List.length_append, List.length_singleton]
    omega
  rw [List.getLast?_drop, if_neg hlen, List.getLast?_concat]

/-- The record written last stands at the journal's end, numbered and intact. -/
theorem writeJournal_getLast? (s : State) (j : JournalRec) :
    ∃ n, (writeJournal s j).flash.journal.getLast? = some { j with number := n, intact := true } := by
  rw [writeJournal]
  dsimp only
  rw [getLast?_drop_concat _ _ _ (Nat.zero_lt_succ 255)]
  exact ⟨_, rfl⟩

/-- A phase's record names the image and the formes of the re-imposition. -/
theorem journalPhase_getLast? (s : State) (phase : BitVec 3) (r : Reimp) : ∃ j, (journalPhase s phase r).flash.journal.getLast? = some j ∧
    j.phase = phase ∧ j.newHash = some r.hash ∧ j.named = r.named ∧ j.intact = true := by
  unfold journalPhase
  obtain ⟨n, hn⟩ := writeJournal_getLast? s _
  exact ⟨_, hn, rfl, rfl, rfl, rfl⟩

theorem journalPhase_colo (s : State) (phase : BitVec 3) (r : Reimp) : (journalPhase s phase r).colo = s.colo := by
  obtain ⟨js, hjs⟩ := journalPhase_spec s phase r
  rw [hjs]

/-! ### Masks of formes -/

theorem getLsbD_oneBit_forme : ∀ g f : FormeId, (oneBit 16 g.val).getLsbD f.val = decide (g = f) := by decide

/-- The mask of the formes of a list that a condition holds of. -/
theorem getLsbD_foldl_oneBit (P : FormeId → Bool) (l : List FormeId) (m : BitVec 16) (f : FormeId) :
    (l.foldl (fun m g => if P g then m ||| oneBit 16 g.val else m) m).getLsbD f.val = (m.getLsbD f.val || (decide (f ∈ l) && P f)) := by
  induction l generalizing m with
  | nil => simp
  | cons g l ih =>
    rw [List.foldl_cons, ih]
    by_cases hg : g = f
    · subst hg
      cases hP : P g
      · simp [hP]
      · rw [if_pos rfl, BitVec.getLsbD_or, getLsbD_oneBit_forme]
        simp
    · have hmem : decide (f ∈ g :: l) = decide (f ∈ l) := by simp [Ne.symm hg]
      have hbit : (if P g then m ||| oneBit 16 g.val else m).getLsbD f.val = m.getLsbD f.val := by
        split
        · rw [BitVec.getLsbD_or, getLsbD_oneBit_forme, decide_eq_false hg, Bool.or_false]
        · rfl
      rw [hbit, hmem]

theorem getLsbD_keyedMask (r : Reimp) (f : FormeId) :
    (keyedMask r).getLsbD f.val = (decide (f ∈ stillNamed r) && (formeRecs r.imp f.val).isSome) := by
  rw [keyedMask, getLsbD_foldl_oneBit (fun f => (formeRecs r.imp f.val).isSome),
    show (0 : BitVec 16).getLsbD f.val = false from BitVec.getLsbD_zero, Bool.false_or]

/-! ### Phases 3 and 6 (R37) -/

theorem exec_reimposeDrainDone (hreimp : s.colo.reimp = some r) (hphase : s.colo.phase = 2)
    (hidle : ∀ f ∈ stillNamed r, (∀ l ∈ (s.forme f).launches, launchOpen l = false) ∧ ∀ g : RingId, ((s.forme f).ring g).fetching = false) :
    ∃ u : State, exec .reimposeDrainDone s = .next (journalPhase { u with colo := { u.colo with phase := 3 } } 3 r) := by
  have hdrained : (s.colo.phase = 2 && (stillNamed r).all (fun f => (s.forme f).launches.all (fun l => !launchOpen l) &&
      !(s.forme f).rings.toList.any (·.fetching))) = true := by
    rw [Bool.and_eq_true, List.all_eq_true]
    refine ⟨decide_eq_true hphase, fun f hf => ?_⟩
    obtain ⟨hl, hr⟩ := hidle f hf
    rw [Bool.and_eq_true, List.all_eq_true, Bool.not_eq_true']
    refine ⟨fun l hm => by rw [hl l hm]; rfl, Bool.eq_false_iff.mpr fun hany => ?_⟩
    obtain ⟨g, hg, hfetch⟩ := List.any_eq_true.mp hany
    obtain ⟨i, hi, hget⟩ := List.getElem_of_mem hg
    have := hr ⟨i, by simpa using hi⟩
    rw [Forme.ring] at this
    simp_all
  simp only [exec, execReimposeDrainDone, hreimp, hdrained, if_true]
  exact ⟨_, rfl⟩

theorem exec_reimposeScrubDone (hreimp : s.colo.reimp = some r) (hphase : s.colo.phase = 3)
    (hon : ∀ f ∈ stillNamed r, (s.forme f).domainsOff = false) (hfits : ∀ f ∈ stillNamed r, pastUsable s r.imp f.val = false)
    (hmgmt : s.colo.mgmtOnly = false) : ∃ u : State, exec (.reimposeScrubDone true) s =
      .next (journalPhase { u with colo := { u.colo with phase := 6, done := keyedMask r, reimp := some { r with done := keyedMask r } } } 6 r) := by
  have hpowered : (s.colo.phase = 3 && (stillNamed r).all (fun f => !(s.forme f).domainsOff)) = true := by
    rw [Bool.and_eq_true, List.all_eq_true]
    exact ⟨decide_eq_true hphase, fun f hf => by rw [hon f hf]; rfl⟩
  have hpast : reimpPast s r = none := List.find?_eq_none.mpr fun f hf => by rw [hfits f hf]; exact Bool.false_ne_true
  simp only [exec, execReimposeScrubDone, hreimp, hpowered, if_true, reimpKey, hpast, hmgmt, Bool.not_false, Bool.and_self]
  exact ⟨_, rfl⟩

/-! ### The commit (R37 phase 6, R38) -/

/-- A forme at the commit. -/
def commitForme (r : Reimp) (rings : List (Nat × Nat)) (live : BitVec 16) (count : Bool) (f : FormeId) (x : Forme) : Forme :=
  let y := assignForme r.imp rings live count f x
  if r.abandoned.getLsbD f.val then { y with ringsHeld := match rings.find? (·.1 == f.val) with | some p => p.2 | none => y.ringsHeld } else y

/-- The mask of the formes that go live. -/
def liveMask (r : Reimp) : BitVec 16 := (stillNamed r).foldl (fun m f => m ||| oneBit 16 f.val) 0

theorem getLsbD_liveMask (r : Reimp) (f : FormeId) : (liveMask r).getLsbD f.val = decide (f ∈ stillNamed r) := by
  have hmask := getLsbD_foldl_oneBit (fun _ => true) (stillNamed r) 0 f
  simp only [if_true, Bool.and_true] at hmask
  rw [liveMask, hmask, show (0 : BitVec 16).getLsbD f.val = false from BitVec.getLsbD_zero, Bool.false_or]

/-- A named forme with records in the new image goes live with them. -/
theorem commitForme_live (rings : List (Nat × Nat)) (count : Bool) {f : FormeId} (hf : f ∈ stillNamed r)
    (hrecs : (formeRecs r.imp f.val).isSome = true) (x : Forme) : (commitForme r rings (liveMask r) count f x).live = true ∧
    (commitForme r rings (liveMask r) count f x).drained = false ∧ (commitForme r rings (liveMask r) count f x).cfg.isSome = true := by
  obtain ⟨q, hq⟩ := Option.isSome_iff_exists.mp hrecs
  have hlive : (liveMask r).getLsbD f.val = true := (getLsbD_liveMask r f).trans (decide_eq_true hf)
  have hassign : (assignForme r.imp rings (liveMask r) count f x).live = true ∧
      (assignForme r.imp rings (liveMask r) count f x).drained = false ∧ (assignForme r.imp rings (liveMask r) count f x).cfg.isSome = true := by
    simp only [assignForme, hq, hlive, if_true, Option.isSome_some, and_self]
  unfold commitForme
  dsimp only
  split <;> exact hassign

/-- The slot of the flash that the standing record does not name takes the image. -/
def commitSlot (s : State) : Fin 2 := match (standingRecord s).bind (·.slot) with | some k => Fin.ofNat 2 (1 - k.val) | none => 0

/-- The journal's record of a commit. -/
def commitRecord (s : State) (r : Reimp) : JournalRec where
  number := 0
  hash := r.hash
  newHash := none
  seq := r.imp.sequence
  newSeq := none
  named := 0
  phase := 0
  withheld := commitMask s r
  slot := some (commitSlot s)
  intact := true

/-- The image is in its slot and the commit's record in the journal. -/
def commitStored (s : State) (r : Reimp) : State := writeJournal
  { s with flash := { s.flash with slots := s.flash.slots.set (commitSlot s).val (some r.image) (commitSlot s).isLt } } (commitRecord s r)

/-- The formes that the new image has no records for hold nothing. -/
def commitDropped (s : State) (r : Reimp) : State := allFormes.foldl (dropNamed r) (commitStored s r)

/-- The colophon's registers name the new image. -/
def commitNamed (s : State) (r : Reimp) : State :=
  { commitDropped s r with
    colo := { (commitDropped s r).colo with committed := some r.imp, seq := r.imp.sequence, hash := r.hash, withheld := commitMask s r } }

/-- The commit as it stands before it answers: each forme has what the image gives it. -/
def commitState (s : State) (r : Reimp) : State := (commitNamed s r).mapFormes (commitForme r (assignRings (commitDropped s r) r.imp r.named)
  (liveMask r) (s.colo.committed.any (fun o => o.formeCount != r.imp.formeCount)))

/-- A forme that a map-out since phase 4 left past usable memory is withheld. -/
def withholdPast (r : Reimp) (t : State) (f : FormeId) : State :=
  if ((t.forme f).cfg).isSome && pastUsable t r.imp f.val then withholdForme t f 0x0802 else t

theorem reimpCommit_eq (s : State) (r : Reimp) : reimpCommit s r =
    withholdBoot (allFormes.foldl (withholdPast r) (impEnd (commitState s r) (0, 0, 0))) := rfl

theorem dropNamed_firm (r : Reimp) (t : State) (f : FormeId) : (dropNamed r t f).firm = t.firm := by
  unfold dropNamed
  dsimp only
  split
  · refine Eq.trans (b := (if ((t.forme f).cfg).isSome = true then unassignForme t f else t).firm) rfl ?_
    split
    · exact unassignForme_firm t f
    · rfl
  · rfl

theorem withholdBoot_of_firmware (hfw : s.boot.code ≠ 0x1504) : withholdBoot s = s := if_neg hfw

/-- Formes withheld for want of firmware leave the firm part, and of the colophon all but the mask and their domains' secrets. -/
theorem withholdBoot_kept (s : State) : (withholdBoot s).firm = s.firm ∧
    { (withholdBoot s).colo.unkeyed with withheld := 0 } = { s.colo.unkeyed with withheld := 0 } := by
  unfold withholdBoot
  split
  · have hstep : ∀ (t : State) (f : FormeId), ((if ((t.forme f).cfg).isSome then unassignForme t f else t).firm = t.firm) ∧
        (if ((t.forme f).cfg).isSome then unassignForme t f else t).colo.unkeyed = t.colo.unkeyed := fun t f => by
      split
      · exact ⟨unassignForme_firm t f, unassignForme_unkeyed t f⟩
      · exact ⟨rfl, rfl⟩
    have hfirm := foldl_firm (fun t f => (hstep t f).1) allFormes s
    have hcolo := foldl_keeps_of_step (proj := fun t => t.colo.unkeyed) (fun t f => (hstep t f).2) allFormes s
    dsimp only at hcolo ⊢
    generalize List.foldl _ s allFormes = v at hfirm hcolo
    exact ⟨hfirm, congrArg (fun c : Colophon => { c with withheld := 0 }) hcolo⟩
  · exact ⟨rfl, rfl⟩

theorem commitStored_kept (s : State) (r : Reimp) : (commitStored s r).boot = s.boot ∧ (commitStored s r).fuses = s.fuses ∧
    (commitStored s r).flash.mapOut = s.flash.mapOut := ⟨rfl, rfl, rfl⟩

theorem commitState_firm (s : State) (r : Reimp) : (commitState s r).firm = (commitStored s r).firm :=
  foldl_firm (dropNamed_firm r) allFormes (commitStored s r)

/-- The end of an imposition is an answer, and the colophon's registers as they read between impositions. -/
theorem impEnd_onlyPorts (s : State) (e : ImpRefusal) : OnlyPorts { s with colo := imposeEnded s.colo e } (impEnd s e) := by
  unfold impEnd
  dsimp only
  split
  · exact (State.respond_secure_onlyPort ..).onlyPorts
  · exact OnlyPorts.refl _

theorem foldl_withholdPast_of_fits (hfits : ∀ f : FormeId, pastUsable s r.imp f.val = false) (l : List FormeId) :
    l.foldl (withholdPast r) s = s := by
  induction l with
  | nil => rfl
  | cons f l ih =>
    have hstep : withholdPast r s f = s := if_neg (by rw [hfits f, Bool.and_false]; exact Bool.false_ne_true)
    rw [List.foldl_cons, hstep, ih]

/-- Settles O14: each phase's record is the journal's last, and the clearing of formes keeps boot, fuses and flash as they are. -/
theorem reimpositionPhases : Obligations.ReimpositionPhases := by
  refine ⟨fun s r hreimp hphase hidle => ?_, fun s r hreimp hphase hon hfits hmgmt => ?_, fun s r hreimp hphase hfits => ?_⟩
  · obtain ⟨u, hexec⟩ := exec_reimposeDrainDone hreimp hphase hidle
    obtain ⟨j, hlast, hj, hhash, hnamed, hintact⟩ := journalPhase_getLast? { u with colo := { u.colo with phase := 3 } } 3 r
    exact ⟨_, hexec, by rw [journalPhase_colo], j, hlast, hj, hhash, hnamed, hintact⟩
  · obtain ⟨u, hexec⟩ := exec_reimposeScrubDone hreimp hphase hon hfits hmgmt
    obtain ⟨j, hlast, hj, hhash, -, hintact⟩ := journalPhase_getLast?
      { u with colo := { u.colo with phase := 6, done := keyedMask r, reimp := some { r with done := keyedMask r } } } 6 r
    refine ⟨_, hexec, by rw [journalPhase_colo], fun f => ?_, j, hlast, hj, hhash, hintact⟩
    rw [journalPhase_colo]
    exact getLsbD_keyedMask r f
  · obtain ⟨hboot, hfuses, hmap⟩ := commitStored_kept s r
    obtain ⟨hboot', hfuses', hflash'⟩ := State.firm_iff.mp (commitState_firm s r)
    obtain ⟨ps, o, hend⟩ := onlyPorts_iff.mp (impEnd_onlyPorts (commitState s r) (0, 0, 0))
    obtain ⟨n, hlast⟩ := writeJournal_getLast?
      { s with flash := { s.flash with slots := s.flash.slots.set (commitSlot s).val (some r.image) (commitSlot s).isLt } } (commitRecord s r)
    generalize hv : impEnd (commitState s r) (0, 0, 0) = v at hend
    have hvfits : ∀ f : FormeId, pastUsable v r.imp f.val = false := fun f => by
      rw [pastUsable_of_mapOut (s := s), hfits f]
      rw [hend]
      exact (congrArg Flash.mapOut hflash').trans hmap
    have hcommit : reimpCommit s r = withholdBoot v := by rw [reimpCommit_eq, hv, foldl_withholdPast_of_fits hvfits]
    obtain ⟨hfirm, hcolo⟩ := withholdBoot_kept v
    obtain ⟨-, hfuses'', hflash''⟩ := State.firm_iff.mp hfirm
    have hvcolo : v.colo = imposeEnded (commitState s r).colo (0, 0, 0) := by rw [hend]
    have hkept : ∀ {α : Type} (g : Colophon → α), (∀ c m, g { c.unkeyed with withheld := m } = g c) →
        g (withholdBoot v).colo = g (imposeEnded (commitState s r).colo (0, 0, 0)) := fun g hg => by
      rw [← hg (withholdBoot v).colo 0, hcolo, hg, hvcolo]
    refine ⟨withholdBoot v, ?_, hkept (·.committed) fun _ _ => rfl, hkept (·.seq) fun _ _ => rfl, hkept (·.hash) fun _ _ => rfl,
      hkept (·.phase) fun _ _ => rfl, hkept (·.code) fun _ _ => rfl, hkept (·.reimp) fun _ _ => rfl, ?_, fun hfw f hf hrecs => ?_, ?_⟩
    · simp only [exec, execReimposeCommit, hreimp, hphase, if_true, hcommit]
    · rw [hfuses'', hend]
      exact hfuses'.trans hfuses
    · have hvboot : v.boot = s.boot := by
        rw [hend]
        exact hboot'.trans hboot
      have hforme : v.forme f = commitForme r (assignRings (commitDropped s r) r.imp r.named) (liveMask r)
          (s.colo.committed.any (fun o => o.formeCount != r.imp.formeCount)) f ((commitNamed s r).forme f) := by
        rw [hend]
        exact State.forme_mapFormes _ _ f
      rw [withholdBoot_of_firmware (by rw [hvboot]; exact hfw), hforme]
      exact commitForme_live _ _ hf hrecs _
    · have hvflash : v.flash = (commitStored s r).flash := by
        rw [hend]
        exact hflash'
      rw [hflash'', hvflash]
      exact ⟨_, hlast, rfl, rfl, rfl, rfl⟩

end Sys2Proof.Machine
end

section
/-! Step boundaries and share periods (R269, R273, R275, R283, R388). -/
namespace Sys2Proof.Machine

variable {s t u : State} {f : FormeId}

/-! ### What a boundary's bindings leave of the scheduler (R234 to R236) -/

/-- Time, power, the colophon, and the forme's scheduler and records stand. -/
structure SchedStands (f : FormeId) (s t : State) : Prop where
  time   : t.time = s.time
  platen : t.platen = s.platen
  colo   : t.colo = s.colo
  sched  : (t.forme f).sched = (s.forme f).sched
  cfg    : (t.forme f).cfg = (s.forme f).cfg

theorem SchedStands.refl (s : State) : SchedStands f s s := ⟨rfl, rfl, rfl, rfl, rfl⟩

theorem SchedStands.trans (h : SchedStands f s t) (k : SchedStands f t u) : SchedStands f s u :=
  ⟨k.time.trans h.time, k.platen.trans h.platen, k.colo.trans h.colo, k.sched.trans h.sched, k.cfg.trans h.cfg⟩

theorem State.modForme_schedStands (s : State) (o : FormeId) (g : Forme → Forme) (hg : ∀ x, (g x).sched = x.sched ∧ (g x).cfg = x.cfg) :
    SchedStands f s (s.modForme o g) := by
  have hforme : ((s.modForme o g).forme f).sched = (s.forme f).sched ∧ ((s.modForme o g).forme f).cfg = (s.forme f).cfg := by
    by_cases ho : o = f
    · subst ho
      rw [State.forme_modForme_self]
      exact hg _
    · rw [State.forme_modForme_of_ne _ _ _ _ ho]
      exact ⟨rfl, rfl⟩
  exact ⟨rfl, rfl, rfl, hforme.1, hforme.2⟩

theorem OnlyPort.schedStands {p : PortId} (h : OnlyPort p s t) : SchedStands f s t := by
  obtain ⟨x, o, rfl⟩ := onlyPort_iff.mp h
  exact ⟨rfl, rfl, rfl, rfl, rfl⟩

theorem State.formeEvent_schedStands (s : State) (o : FormeId) (source : BitVec 8) : SchedStands f s (s.formeEvent o source) := by
  unfold State.formeEvent
  split
  · dsimp only
    split
    · exact (State.ecpOut_sentOn ..).1.schedStands
    · exact SchedStands.refl s
  · exact SchedStands.refl s

theorem State.modMbox_plain_schedStands (s : State) (o : FormeId) (g : Mbox → Mbox) : SchedStands f s (s.modMbox (.plain o) g) := by
  rw [State.modMbox]
  refine s.modForme_schedStands o _ ?_
  exact fun _ => ⟨rfl, rfl⟩

theorem State.respond_schedStands (s : State) (o : FormeId) (r : Vector Word 16) : SchedStands f s (s.respond (.plain o) r) := by
  unfold State.respond
  split
  · exact State.modMbox_plain_schedStands ..
  · refine (s.modMbox_plain_schedStands o (fun m => { m with outData := r, valid := true })).trans ?_
    unfold State.mboxEvent
    split
    · exact State.formeEvent_schedStands ..
    · exact SchedStands.refl _

theorem State.modBinding_schedStands (s : State) (o : FormeId) (b : BindingId) (g : Binding → Binding) : SchedStands f s (s.modBinding o b g) := by
  refine s.modForme_schedStands o _ ?_
  exact fun _ => ⟨rfl, rfl⟩

theorem resumeService_stands (x : Forme) : (resumeService x).sched = x.sched ∧ (resumeService x).cfg = x.cfg := by
  unfold resumeService
  split <;> exact ⟨rfl, rfl⟩

theorem switchBinding_schedStands (s : State) (o : FormeId) : SchedStands f s (switchBinding s o) := by
  unfold switchBinding
  split
  · split
    · split
      · refine (State.modBinding_schedStands ..).trans (State.modForme_schedStands _ _ _ ?_)
        exact fun x => resumeService_stands _
      · exact SchedStands.refl s
    · exact SchedStands.refl s
  · exact SchedStands.refl s

theorem emptyBinding_schedStands (s : State) (o : FormeId) (b : BindingId) : SchedStands f s (emptyBinding s o b) := by
  unfold emptyBinding
  split
  · exact (State.modBinding_schedStands ..).trans (State.respond_schedStands ..)
  · exact SchedStands.refl s

theorem releaseCopies_schedStands (s : State) (o : FormeId) (b : BindingId) : SchedStands f s (releaseCopies s o b) := by
  unfold releaseCopies
  exact (State.modBinding_schedStands ..).trans (State.modBinding_schedStands ..)

theorem foldl_schedStands {α : Type} {g : State → α → State} (hg : ∀ u x, SchedStands f u (g u x)) (l : List α) (s : State) :
    SchedStands f s (l.foldl g s) :=
  foldl_related (R := SchedStands f) SchedStands.refl SchedStands.trans hg l s

theorem trimShared_schedStands (s : State) : SchedStands f s (trimShared s) := by
  have hforme : ∀ (t : State) (o : FormeId), SchedStands f t (allBindings.foldl (fun u b => trimBinding u o b) t) := fun t o =>
    foldl_schedStands (g := fun u b => trimBinding u o b) (fun u b => u.modBinding_schedStands o b _) allBindings t
  have hall := foldl_schedStands hforme allFormes s
  rw [trimShared_eq]
  generalize List.foldl _ s allFormes = v at hall
  exact ⟨hall.time, hall.platen, hall.colo, hall.sched, hall.cfg⟩

theorem leaveShared_schedStands (before s : State) : SchedStands f s (leaveShared before s) := by
  refine foldl_schedStands (fun t i => ?_) _ _
  exact ⟨rfl, rfl, rfl, rfl, rfl⟩

/-- What a boundary does to the bindings leaves the scheduler. -/
theorem bindingBoundary_schedStands (s : State) : SchedStands f s (bindingBoundary s f) := by
  unfold bindingBoundary
  dsimp only
  refine SchedStands.trans ?_ (leaveShared_schedStands s _)
  refine SchedStands.trans ?_ (trimShared_schedStands _)
  refine SchedStands.trans ?_ (foldl_schedStands (fun t b => releaseCopies_schedStands t f b) allBindings _)
  exact (switchBinding_schedStands s f).trans (foldl_schedStands (fun t b => emptyBinding_schedStands t f b) allBindings _)

/-! ### The outcome of a boundary (R269, R388) -/

/-- The scheduler's registers at a boundary: what was written is latched, and the boundary is remembered. -/
def boundarySched (s : State) (f : FormeId) (x : Forme) : Forme :=
  { x with sched := { latchSched x.sched with lastBoundary := some (s.time.ticks, formeCount s f) } }

/-- The state in which a boundary is judged. -/
def boundaryBound (s : State) (f : FormeId) : State := bindingBoundary (s.modForme f (boundarySched s f)) f

theorem boundaryBound_kept (s : State) (f : FormeId) : (boundaryBound s f).time = s.time ∧ (boundaryBound s f).platen = s.platen ∧
    (boundaryBound s f).colo = s.colo ∧ ((boundaryBound s f).forme f).sched = (boundarySched s f (s.forme f)).sched ∧
    ((boundaryBound s f).forme f).cfg = (s.forme f).cfg := by
  obtain ⟨htime, hplaten, hcolo, hsched, hcfg⟩ := bindingBoundary_schedStands (f := f) (s.modForme f (boundarySched s f))
  rw [State.forme_modForme_self] at hsched hcfg
  exact ⟨htime, hplaten, hcolo, hsched, hcfg⟩

/-- The account is tested by the forme's share, the measured power and the cap (R388). -/
theorem accountOver_congr (hplaten : t.platen = s.platen) (hcolo : t.colo = s.colo) (hcfg : (t.forme f).cfg = (s.forme f).cfg) :
    accountOver t f = accountOver s f := by
  unfold accountOver moduleCap accountOf measuredSum
  rw [hplaten, hcolo, hcfg] <;> rfl

theorem preempt_of_off (hoff : (s.forme f).sched.preempt = false) : preempt s f = s := by
  simp only [preempt, hoff, Bool.false_and, Bool.false_eq_true, if_false]

/-- Settling leaves of the scheduler all but the running step. -/
theorem State.settle_sched (s : State) (f : FormeId) :
    ∃ on done, ((s.settle f).forme f).sched = { (s.forme f).sched with stepOn := on, stepEnd := done } := by
  obtain ⟨l, h⟩ := startReady_onlySlugs (s.liveCores f) s.time.ticks (chunked s.time.ticks (s.forme f))
  rw [State.settle_forme, h]
  unfold chunked settleStep
  split <;> exact ⟨_, _, rfl⟩

/-- What a boundary leaves of the registers it has latched. -/
structure Latches (f : FormeId) (s t : State) : Prop where
  time         : t.time = s.time
  lastBoundary : (t.forme f).sched.lastBoundary = (s.forme f).sched.lastBoundary
  residentMax  : (t.forme f).sched.residentMax = (s.forme f).sched.residentMax
  rowsMax      : (t.forme f).sched.rowsMax = (s.forme f).sched.rowsMax
  chunksMax    : (t.forme f).sched.chunksMax = (s.forme f).sched.chunksMax

theorem Latches.refl (s : State) : Latches f s s := ⟨rfl, rfl, rfl, rfl, rfl⟩

theorem Latches.trans (h : Latches f s t) (k : Latches f t u) : Latches f s u :=
  ⟨k.time.trans h.time, k.lastBoundary.trans h.lastBoundary, k.residentMax.trans h.residentMax, k.rowsMax.trans h.rowsMax,
    k.chunksMax.trans h.chunksMax⟩

theorem State.settle_latches (s : State) : Latches f s (s.settle f) := by
  obtain ⟨on, done, h⟩ := s.settle_sched f
  exact ⟨rfl, by rw [h], by rw [h], by rw [h], by rw [h]⟩

theorem State.modForme_latches (g : Forme → Forme) (hg : ∀ x, ∃ on n again missed, (g x).sched = { x.sched with
    stepOn := on, steps := n, replay := again, missed := missed }) (s : State) : Latches f s (s.modForme f g) := by
  obtain ⟨on, n, again, missed, h⟩ := hg (s.forme f)
  refine ⟨rfl, ?_, ?_, ?_, ?_⟩ <;> rw [State.forme_modForme_self, h]

theorem preempt_latches (s : State) : Latches f s (preempt s f) := by
  have hslug : ∀ (x : Forme) (sl : Slug), (preemptSlug x sl).sched = x.sched := fun x sl => by
    unfold preemptSlug
    split
    · rfl
    · split <;> rfl
  unfold preempt
  dsimp only
  split
  · refine (State.modForme_latches _ (fun x => ?_) s).trans (State.settle_latches _)
    exact ⟨_, _, _, _, foldl_keeps_of_step (proj := Forme.sched) hslug _ _⟩
  · exact Latches.refl s

theorem startStep_latches (s : State) (tags : List SlugTag) : Latches f s (startStep s f tags) := by
  refine (State.modForme_latches _ (fun x => ?_) s).trans (State.settle_latches _)
  exact ⟨_, _, _, _, rfl⟩

/-- The parts that R273 admits at a boundary of an argument. -/
def admittedAt (x : Forme) (arg : Word) : List Cand :=
  formStep (candidates x) (if fld arg 15 0 = 0 then x.sched.rowsMax else fld arg 15 0)
    (if fld arg 23 16 = 0 then x.sched.chunksMax else fld arg 23 16) x.sched.prefillEighths (bitOf arg 24)

/-- The slugs that a fence discarded and that run again. -/
def replayed (x : Forme) : List SlugTag := (x.slugs.filter (fun sl => x.sched.replay.contains sl.tag && sl.state == .queued)).map (·.tag)

/-- The admitted parts wait no more. -/
def counted (s : State) (f : FormeId) (arg : Word) : State :=
  s.modForme f (fun x => countReady x (candidates (s.forme f)) (admittedAt (s.forme f) arg))

theorem nextStep_eq (s : State) (f : FormeId) (arg : Word) : nextStep s f arg =
    if !(replayed (s.forme f)).isEmpty then startStep s f (replayed (s.forme f))
    else if (admittedAt (s.forme f) arg).isEmpty then counted s f arg
    else startStep (counted s f arg) f ((admittedAt (s.forme f) arg).flatMap (partTags (s.forme f))) := rfl

theorem counted_latches (s : State) (arg : Word) : Latches f s (counted s f arg) := by
  refine State.modForme_latches _ (fun x => ?_) s
  exact ⟨_, _, _, _, rfl⟩

theorem nextStep_latches (s : State) (arg : Word) : Latches f s (nextStep s f arg) := by
  rw [nextStep_eq]
  split
  · exact startStep_latches ..
  · split
    · exact counted_latches ..
    · exact (counted_latches s arg).trans (startStep_latches ..)

theorem countHeld_latches (s : State) : Latches f s (countHeld s f) := ⟨rfl, rfl, rfl, rfl, rfl⟩

theorem boundaryOutcome_latches (s : State) (running : Bool) (arg : Word) : Latches f s (boundaryOutcome s f running arg) := by
  unfold boundaryOutcome
  split
  · exact countHeld_latches s
  · split
    · refine State.modForme_latches _ (fun x => ?_) s
      exact ⟨_, _, _, _, rfl⟩
    · split
      · exact Latches.refl s
      · exact nextStep_latches ..

/-! ### The boundary itself (R269, R273) -/

section
variable {arg : Word}

/-- A forme that a boundary bears on: it has records, is live and has power. -/
def Bears (s : State) (f : FormeId) : Prop := (s.forme f).cfg.isSome = true ∧ (s.forme f).live = true ∧ (s.forme f).domainsOff = false

theorem exec_stepBoundary (hbears : Bears s f) (harg : boundaryArg s f = some arg) : exec (.stepBoundary f) s = .next (boundaryOutcome
    (if (s.forme f).sched.stepOn then (preempt (boundaryBound s f) f).modForme f (fun x => countReady x (candidates x) [])
      else boundaryBound s f) f (s.forme f).sched.stepOn arg) := by
  obtain ⟨hcfg, hlive, hon⟩ := hbears
  have hnone : (s.forme f).cfg.isNone = false := by rw [← Option.not_isSome, hcfg]; rfl
  simp only [exec, execStepBoundary, stepBoundary, hnone, hlive, hon, harg, Bool.not_true, Bool.or_self, Bool.false_eq_true, if_false]
  rfl

/-- A step starts with one more in STEPS. -/
theorem startStep_steps (s : State) (f : FormeId) (tags : List SlugTag) :
    ((startStep s f tags).forme f).sched.steps = (s.forme f).sched.steps + 1 := by
  rw [startStep]
  obtain ⟨on, done, h⟩ := State.settle_sched (s.modForme f (fun x => { x with
    slugs := x.slugs.map (fun (sl : Slug) => if sl.state == .queued && tags.contains sl.tag then { sl with inStep := true } else sl),
    sched := { x.sched with stepOn := true, steps := x.sched.steps + 1, replay := [] }
    makeup := { x.makeup with halted := [] } })) f
  rw [h, State.forme_modForme_self]

/-- Where there is a part to place and the boundary is not bound to tokens, one is admitted (R273). -/
theorem formStep_ne_nil {cands : List Cand} (hcands : cands ≠ []) (rowsMax chunksMax eighths : Nat) :
    formStep cands rowsMax chunksMax eighths false ≠ [] := by
  obtain ⟨limit8, -, hstep⟩ := formStep_cases cands rowsMax chunksMax eighths false
  rw [hstep]
  split
  · obtain ⟨c, cs, rfl⟩ := List.exists_cons_of_ne_nil hcands
    simp
  next hsome => exact fun h => hsome (List.isEmpty_iff.mpr h)

theorem nextStep_steps (hcands : candidates (s.forme f) ≠ []) (hany : arg.getLsbD 24 = false) :
    ((nextStep s f arg).forme f).sched.steps = (s.forme f).sched.steps + 1 := by
  have hadmit : ¬ (admittedAt (s.forme f) arg).isEmpty = true := by
    rw [List.isEmpty_iff, admittedAt, bitOf, hany]
    exact formStep_ne_nil hcands _ _ _
  rw [nextStep_eq, if_neg hadmit]
  split
  · exact startStep_steps ..
  · rw [startStep_steps, counted, State.forme_modForme_self]
    rfl

end

/-! ### The end of a share period (R275) -/

theorem exec_sharePeriodEnd {c : FormeCfg} (hcfg : (s.forme f).cfg = some c)
    (hdue : (s.forme f).sched.periodInForce ≤ (s.time.ticks - (s.forme f).sched.periodStart).toNat) :
    exec (.sharePeriodEnd f) s = .next (s.modForme f (sharePeriodEnd s.time.ticks)) := by
  simp only [exec, execSharePeriodEnd, hcfg, Option.isSome_some, decide_eq_true hdue, Bool.and_self, if_true]

/-- A context's deficit moves by its share of all charges less its own, within its limits. -/
theorem periodContext_deficit (u w : Nat) (busy : Bool) {k : Context} (hactive : k.active = true) : (periodContext u w busy k).deficit =
    max (-2147483648) (min 2147483647 (k.deficit + ((u * k.weight / max 1 w : Nat) : Int) - (k.charges : Int))) := by
  simp only [periodContext, hactive, if_true, limitDeficit]

/-- Settles O18: the bindings, the pre-emption and the settling of a step leave what a boundary latches, and a part to place starts one. -/
theorem boundariesAndShares : Obligations.BoundariesAndShares := by
  refine ⟨fun s f arg hcfg hlive hon harg => ?_, fun s f arg hcfg hlive hon harg hrun hoff => ?_,
    fun s f arg hcfg hlive hon harg hidle hany hover => ?_, fun s f c hcfg hdue => ?_⟩
  · obtain ⟨htime, -, -, hsched, -⟩ := boundaryBound_kept s f
    have hpre : Latches f (boundaryBound s f) (if (s.forme f).sched.stepOn then
        (preempt (boundaryBound s f) f).modForme f (fun x => countReady x (candidates x) []) else boundaryBound s f) := by
      split
      · refine (preempt_latches _).trans (State.modForme_latches _ (fun x => ?_) _)
        exact ⟨_, _, _, _, rfl⟩
      · exact Latches.refl _
    obtain ⟨hticks, hlast, hres, hrows, hchunks⟩ := hpre.trans (boundaryOutcome_latches _ (s.forme f).sched.stepOn arg)
    refine ⟨_, exec_stepBoundary ⟨hcfg, hlive, hon⟩ harg, ?_, ?_, ?_, ?_, hticks.trans htime⟩
    · rw [hlast, hsched]
      rfl
    · rw [hres, hsched]
      rfl
    · rw [hrows, hsched]
      rfl
    · rw [hchunks, hsched]
      rfl
  · obtain ⟨htime, hplaten, hcolo, hsched, hcfg'⟩ := boundaryBound_kept s f
    have hpre : ((boundaryBound s f).forme f).sched.preempt = false := by
      rw [hsched]
      exact hoff
    have hexec := exec_stepBoundary ⟨hcfg, hlive, hon⟩ harg
    rw [hrun, if_pos rfl, preempt_of_off hpre] at hexec
    have hticks : ((boundaryBound s f).modForme f (fun x => countReady x (candidates x) [])).time = s.time ∧
        ((boundaryBound s f).modForme f (fun x => countReady x (candidates x) [])).platen = s.platen := ⟨htime, hplaten⟩
    have hcount : (((boundaryBound s f).modForme f (fun x => countReady x (candidates x) [])).forme f).sched =
        (boundarySched s f (s.forme f)).sched := by
      rw [State.forme_modForme_self]
      exact hsched
    have hover' : accountOver ((boundaryBound s f).modForme f (fun x => countReady x (candidates x) [])) f = accountOver s f := by
      refine accountOver_congr hplaten hcolo ?_
      rw [State.forme_modForme_self]
      exact hcfg'
    generalize (boundaryBound s f).modForme f (fun x => countReady x (candidates x) []) = v at hexec hticks hcount hover'
    obtain ⟨hvtime, hvplaten⟩ := hticks
    have hsteps : (v.forme f).sched.steps = (s.forme f).sched.steps := by rw [hcount] <;> rfl
    have hmissed : (v.forme f).sched.missed = (s.forme f).sched.missed := by rw [hcount] <;> rfl
    refine ⟨_, hexec, ?_⟩
    unfold boundaryOutcome
    rw [hover']
    split
    next hover =>
      refine ⟨hsteps, hvtime, ?_⟩
      refine ⟨?_, hmissed⟩
      rw [countHeld, hvplaten]
      exact congrArg Account.held (Vector.getElem_set_self ..)
    next hin =>
      rw [if_pos rfl]
      refine ⟨?_, hvtime, hvplaten, ?_⟩
      · rw [State.forme_modForme_self]
        exact hsteps
      · rw [State.forme_modForme_self]
        exact congrArg satInc hmissed
  · obtain ⟨htime, hplaten, hcolo, hsched, hcfg'⟩ := boundaryBound_kept s f
    intro s2 hbar hplan hcores hcands
    have hexec := exec_stepBoundary ⟨hcfg, hlive, hon⟩ harg
    have hover' : accountOver (boundaryBound s f) f = false := (accountOver_congr hplaten hcolo hcfg').trans hover
    have hstarts : ¬ (startBarred s2 f || planDue s2 f || (s2.liveCores f).isEmpty) = true := by
      rw [hbar, hplan, hcores]
      exact Bool.false_ne_true
    have hnext : boundaryOutcome (boundaryBound s f) f false arg = nextStep (boundaryBound s f) f arg := by
      rw [boundaryOutcome, hover', if_neg Bool.false_ne_true, if_neg Bool.false_ne_true]
      exact if_neg hstarts
    rw [hidle, if_neg Bool.false_ne_true, hnext] at hexec
    refine ⟨_, hexec, ?_, (nextStep_latches (f := f) (boundaryBound s f) arg).time.trans htime⟩
    rw [nextStep_steps (s := boundaryBound s f) hcands hany, hsched]
    rfl
  · refine ⟨_, exec_sharePeriodEnd hcfg hdue, State.modForme_onlyForme s f _, ?_⟩
    rw [State.forme_modForme_self]
    refine ⟨rfl, rfl, List.length_map _, fun i k hk => ?_⟩
    have hget : (sharePeriodEnd s.time.ticks (s.forme f)).ctxs[i]? = some (periodContext
        (sumNat (((s.forme f).ctxs.filter (·.active)).map (·.charges))) (sumNat (((s.forme f).ctxs.filter (·.active)).map (·.weight)))
        ((s.forme f).launches.any (fun l => launchOpen l && entryContext l.entry == k.num)) k) := by
      rw [sharePeriodEnd, List.getElem?_map, hk]
      rfl
    exact ⟨_, hget, rfl, rfl, fun hactive => periodContext_deficit _ _ _ hactive⟩

end Sys2Proof.Machine
end

section
/-! Channels that leave service (R148, R149, R151, R152, R155). -/
namespace Sys2Proof.Machine

variable {s : State} {ch : ChannelId}

/-! ### A channel is mapped out (R148, R149) -/

/-- Every forme of the module ends below the limit that one more channel leaves. -/
def FitsBelow (s : State) : Prop :=
  ∀ (f : FormeId) (c : FormeCfg), (s.forme f).cfg = some c → ∀ r ∈ c.regions, r.base + r.len + 4 ≤ s.usableGib

/-- The flash lists one more channel. -/
def listed (s : State) (ch : ChannelId) : State := { s with flash := { s.flash with mapOut := s.flash.mapOut ++ [ch] } }

theorem listed_usableGib (hlen : s.flash.mapOut.length < 32) (ch : ChannelId) : (listed s ch).usableGib + 4 = s.usableGib := by
  rw [State.usableGib, State.usableGib, State.mappedOut, State.mappedOut, listed, List.length_append, List.length_singleton, Config.usableGib]
  omega

theorem listed_mappedOut (s : State) (ch : ChannelId) : (listed s ch).mappedOut = s.flash.mapOut.length + 1 := by
  rw [State.mappedOut, listed, List.length_append, List.length_singleton]

/-- The withdrawal holds nothing of a forme that ends below the new limit. -/
theorem withdraw_of_fits (hfits : ∀ f : FormeId, holdsPast s (s.bumpGen.forme f) = false) (hreimp : s.colo.reimp = none) :
    withdraw s = s.bumpGen := by
  have hstep : ∀ f : FormeId, (if holdsPast s.bumpGen (s.bumpGen.forme f) && !namedNow s.bumpGen f then withholdForme s.bumpGen f 0x0802
      else s.bumpGen) = s.bumpGen := fun f =>
    if_neg (by rw [show holdsPast s.bumpGen (s.bumpGen.forme f) = false from hfits f]; exact Bool.false_ne_true)
  have hfold : ∀ l : List FormeId, l.foldl (fun t f => if holdsPast t (t.forme f) && !namedNow t f then withholdForme t f 0x0802 else t)
      s.bumpGen = s.bumpGen := fun l => by
    induction l with
    | nil => rfl
    | cons f l ih => rw [List.foldl_cons, hstep, ih]
  have hnone : s.bumpGen.colo.reimp = none := hreimp
  unfold withdraw
  dsimp only
  rw [hfold, hnone]

theorem holdsPast_listed (hlen : s.flash.mapOut.length < 32) (hfits : FitsBelow s) (f : FormeId) :
    holdsPast (listed s ch) ((listed s ch).bumpGen.forme f) = false := by
  have husable := listed_usableGib hlen ch
  rw [State.bumpGen_forme]
  unfold holdsPast
  split
  next c hc =>
    rw [List.any_eq_false]
    intro r hr
    have := hfits f c hc r hr
    rw [decide_eq_true_iff]
    omega
  next => rfl

/-- The state in which the channel's lines move. -/
def leaving (s : State) (ch : ChannelId) (failed : Bool) : State :=
  { (listed s ch).bumpGen with stack := { s.stack with migrating := some (ch, failed) } }

/-- The inked copies of a module are read off its formes' bindings and requests, and not off the GEN. -/
theorem State.bumpGen_copies (s : State) : s.bumpGen.copies = s.copies := by
  have hformes : s.bumpGen.formes = s.formes.map (fun x => { x with geoGen := nextGen x.geoGen }) := by
    ext i hi
    simp [State.bumpGen, State.mapFormes]
  unfold State.copies
  rw [hformes, Vector.toList_map, List.flatMap_map]
  rfl

theorem mapOut_of_fits (hlen : s.flash.mapOut.length < 32) (hreimp : s.colo.reimp = none) (hmig : s.stack.migrating = none)
    (hfits : FitsBelow s) (failed : Bool) : mapOut s ch failed =
      if failed then poisonChannel (leaving s ch failed) ch 0 else leaving s ch failed := by
  have hfew : ¬ 33 ≤ (listed s ch).mappedOut := by
    rw [listed_mappedOut]
    omega
  have hwithdraw : withdraw (listed s ch) = (listed s ch).bumpGen := withdraw_of_fits (holdsPast_listed hlen hfits) hreimp
  have hmig' : (listed s ch).bumpGen.stack.migrating = none := hmig
  unfold mapOut
  rw [← listed]
  dsimp only
  rw [if_neg hfew, hwithdraw]
  simp only [startMigration, hmig']
  rfl

/-- With nothing inked, only the channel's displaced lines are poisoned. -/
theorem poisonChannel_of_no_copies (hcopies : s.copies = []) (low : Nat) : poisonChannel s ch low = { s with stack := { s.stack with
    poisonSets := s.stack.poisonSets ++ [{ channel := ch, low := low, limit := s.usableGib * 2 ^ 22, cleared := [] }] } } := by
  have hfold : ∀ (g : State → ImageCopy → State) (u : State), u.copies = [] → u.copies.foldl g u = u := fun g u hu => by rw [hu]; rfl
  exact hfold _ _ hcopies

/-- The channel's lines outside the relocation area are poisoned. -/
def failedSet (s : State) (ch : ChannelId) : PoisonSet where
  channel := ch
  low := 0
  limit := (listed s ch).usableGib * 2 ^ 22
  cleared := []

theorem isPoisoned_of_set {k : Stack} {p : PoisonSet} {l : Nat} (hp : p ∈ k.poisonSets) (hch : channelOf (256 * l) = p.channel)
    (hlow : p.low ≤ l) (hlim : l < p.limit ∨ Config.usableGib * 2 ^ 22 ≤ l) (hclear : p.cleared = []) : k.isPoisoned l = true := by
  rw [Stack.isPoisoned, Bool.or_eq_true]
  refine .inr (List.any_eq_true.mpr ⟨p, hp, ?_⟩)
  simp only [hch, beq_self_eq_true, decide_eq_true hlow, hclear, List.any_nil, Bool.not_false, Bool.and_true, Bool.true_and, Bool.or_eq_true,
    decide_eq_true_eq]
  exact hlim

/-- The module after a channel has left it, failed or draining. -/
def left (s : State) (ch : ChannelId) (failed : Bool) : State :=
  { leaving s ch failed with stack := { s.stack with
    migrating := some (ch, failed), poisonSets := if failed then s.stack.poisonSets ++ [failedSet s ch] else s.stack.poisonSets } }

theorem mapOut_eq (hlen : s.flash.mapOut.length < 32) (hreimp : s.colo.reimp = none) (hmig : s.stack.migrating = none)
    (hcopies : s.copies = []) (hfits : FitsBelow s) (failed : Bool) : mapOut s ch failed = left s ch failed := by
  rw [mapOut_of_fits hlen hreimp hmig hfits]
  cases failed with
  | false => rfl
  | true =>
    have hnone : (leaving s ch true).copies = [] := ((listed s ch).bumpGen_copies).trans hcopies
    rw [if_pos rfl, poisonChannel_of_no_copies hnone]
    rfl

theorem left_forme (s : State) (ch : ChannelId) (failed : Bool) (f : FormeId) :
    (left s ch failed).forme f = { s.forme f with geoGen := nextGen (s.forme f).geoGen } := State.bumpGen_forme (listed s ch) f

/-! ### The 33rd channel (R152) -/

theorem stopRetired_of_bare (hbare : ∀ f : FormeId, (s.forme f).cfg = none) : stopRetired s = s := by
  have hstep : ∀ f : FormeId, (if ((s.forme f).cfg).isSome then unassignForme (stopForme s f 0x0803) f else s) = s := fun f =>
    if_neg (by rw [hbare f]; exact Bool.false_ne_true)
  unfold stopRetired
  generalize allFormes = l
  induction l with
  | nil => rfl
  | cons f l ih => rw [List.foldl_cons, hstep, ih]

/-- The mask of withheld formes stands in the colophon and in the journal. -/
theorem setWithheld_spec (s : State) (mask : BitVec 16) : ∃ js, setWithheld s mask =
    { s with colo := { s.colo with withheld := mask }, flash := { s.flash with journal := js } } := by
  unfold setWithheld rewriteJournal
  split
  · exact ⟨_, rfl⟩
  · exact ⟨s.flash.journal, rfl⟩

/-- The module whose 33rd channel has left. -/
def retiring (s : State) (ch : ChannelId) : State :=
  { listed s ch with stack := { s.stack with retired := true, migrating := none, pendingMig := [] } }

theorem mapOut_retires (hlen : s.flash.mapOut.length = 32) (hphase : s.colo.phase = 0) (hbare : ∀ f : FormeId, (s.forme f).cfg = none)
    (failed : Bool) : mapOut s ch failed = setWithheld (retiring s ch) 0xFFFF := by
  have hfull : 33 ≤ (listed s ch).mappedOut := by
    rw [listed_mappedOut]
    omega
  have hphase' : (retiring s ch).colo.phase = 0 := hphase
  unfold mapOut
  rw [← listed]
  dsimp only
  rw [if_pos hfull, show retireModule (listed s ch) = setWithheld (endRetired (stopRetired (retiring s ch))) 0xFFFF from rfl,
    stopRetired_of_bare (s := retiring s ch) hbare, endRetired, if_pos hphase']

/-! ### The commands (R148, R151, R155) -/

theorem exec_channelMapOut {kind : MapOutKind} (hon : s.boot.power = .on) (hin : s.stack.retired = false) (hch : ch ∉ s.flash.mapOut)
    (hseen : kind = .draining → 16 ≤ linesDetected s ch) : exec (.channelMapOut ch kind) s = .next (mapOut s ch (kind == .failed)) := by
  have hserves : (!s.isOn || s.stack.retired || s.flash.mapOut.contains ch) = false := by simp [State.isOn, hon, hin, hch]
  cases kind with
  | draining =>
    simp only [exec, execChannelMapOut, hserves, Bool.false_eq_true, if_false, if_pos (hseen rfl)]
    rfl
  | failed =>
    simp only [exec, execChannelMapOut, hserves, Bool.false_eq_true, if_false]
    rfl

theorem exec_channelCommandTimeout {n : Nat} {up : Bool} (hon : s.boot.power = .on) (hin : s.stack.retired = false)
    (hch : ch ∉ s.flash.mapOut) (hlost : 4 ≤ n ∨ up = false) : exec (.channelCommandTimeout ch n up) s = .next (mapOut s ch true) := by
  have hfails : (!s.isOn || s.stack.retired || (n < 4 && up)) = false := by
    rcases hlost with hn | rfl
    · simp [State.isOn, hon, hin, Nat.not_lt.mpr hn]
    · simp [State.isOn, hon, hin]
  have hout : ¬ s.flash.mapOut.contains ch = true := by simpa using hch
  simp only [exec, execChannelCommandTimeout, hfails, Bool.false_eq_true, if_false, if_neg hout]

/-- The lines that a migration writes poisoned. -/
def migrated (s : State) (ch : ChannelId) (failed : Bool) (ls : List Nat) : List Nat :=
  ls.filter (fun l => (!failed || s.stack.poisonSets.any (fun p => p.channel == ch && l < p.low)) && channelOf (256 * l) == ch &&
    outsideRelocation s.flash.mapOut l && !s.stack.poisoned.contains l)

theorem exec_migrationComplete {failed : Bool} (hmig : s.stack.migrating = some (ch, failed)) (ls : List Nat) :
    exec (.migrationComplete ls) s = .next { s with stack := { s.stack with
      detects := s.stack.detects ++ (migrated s ch failed ls).map (fun l => (ch, l, s.time.stroke))
      poisoned := s.stack.poisoned ++ migrated s ch failed ls, migrating := s.stack.pendingMig.head?,
      pendingMig := s.stack.pendingMig.tail } } := by
  simp only [exec, execMigrationComplete, hmig]
  rfl

/-- Settles O34: with no copy inked and no forme past the limit, a map-out is the list, the GEN, the migration and the poison. -/
theorem channelsLeaveService : Obligations.ChannelsLeaveService := by
  refine ⟨fun s ch failed hon hin hch hlen hreimp hmig hcopies hseen hfits => ?_,
    fun s ch n up hon hin hch hlen hreimp hmig hcopies hlost hfits => ?_, fun s ch n hn => ?_,
    fun s ch hon hin hch hlen hphase hbare => ?_, fun s ch failed ls hmig => ?_⟩
  · have hmap : exec (.channelMapOut ch (if failed then .failed else .draining)) s = .next (left s ch failed) := by
      rw [exec_channelMapOut hon hin hch, ← mapOut_eq hlen hreimp hmig hcopies hfits]
      · cases failed <;> rfl
      · cases failed with
        | false => exact fun _ => hseen rfl
        | true => exact nofun
    refine ⟨_, hmap, rfl, listed_usableGib hlen ch, rfl, rfl, left_forme s ch failed, fun hf => ⟨?_, rfl⟩, fun hf l hl hout => ?_⟩
    · rw [hf]
      rfl
    · subst hf
      refine isPoisoned_of_set (p := failedSet s ch) ?_ hl (Nat.zero_le l) hout rfl
      exact List.mem_append_right _ (List.mem_singleton_self _)
  · refine ⟨_, ?_, rfl, rfl, left_forme s ch true⟩
    rw [exec_channelCommandTimeout hon hin hch hlost, mapOut_eq hlen hreimp hmig hcopies hfits]
  · have hfew : (!s.isOn || s.stack.retired || (n < 4 && true)) = true := by simp [hn]
    simp only [exec, execChannelCommandTimeout, hfew, if_true]
  · obtain ⟨js, hheld⟩ := setWithheld_spec (retiring s ch) 0xFFFF
    have hexec := exec_channelMapOut (kind := .failed) hon hin hch nofun
    rw [mapOut_retires hlen hphase hbare, hheld] at hexec
    exact ⟨_, hexec, rfl, rfl, rfl, rfl, rfl⟩
  · refine ⟨_, exec_migrationComplete hmig ls, rfl, rfl, rfl, fun l hl => List.mem_append_left _ hl, fun hf l hl hch hout => ?_, rfl, rfl, rfl⟩
    by_cases hheld : l ∈ s.stack.poisoned
    · exact List.mem_append_left _ hheld
    · refine List.mem_append_right _ (List.mem_filter.mpr ⟨hl, ?_⟩)
      simp [hf, hch, hout, hheld]

end Sys2Proof.Machine
end

section
/-! Collectives of a member: what sending of a job leaves, and how a collective faults (R322, R326, R327). -/
namespace Sys2Proof.Machine

variable {s t u : State} {f : FormeId} {k : JobSlot} {j : Job} {c : Coll} {tag : SlugTag} {sl : Slug}

/-! ### What sending leaves (R307, R313, R317) -/

/-- Links and outputs apart, only one forme has changed. -/
def Sends (f : FormeId) (s t : State) : Prop := ∃ ls o x, t = ({ s with links := ls, out := o }).setForme f x

theorem OnlyForme.sends (h : OnlyForme f s t) : Sends f s t := by
  obtain ⟨x, rfl⟩ := onlyForme_iff.mp h
  exact ⟨s.links, s.out, x, rfl⟩

theorem Sends.trans (h : Sends f s t) (g : Sends f t u) : Sends f s u := by
  obtain ⟨ls, o, x, rfl⟩ := h
  obtain ⟨ls', o', y, rfl⟩ := g
  exact ⟨ls', o', y, State.setForme_setForme { s with links := ls', out := o' } f x y⟩

theorem Sends.kept (h : Sends f s t) : t.stack = s.stack ∧ t.galley = s.galley ∧ t.time = s.time ∧ t.selfReg = s.selfReg := by
  obtain ⟨ls, o, x, rfl⟩ := h
  exact ⟨rfl, rfl, rfl, rfl⟩

/-- What waits on a link leaves over it: nothing but the link and the outputs changes. -/
theorem drainQueue_spec (n : Nat) (s : State) (l : LinkId) : ∃ ls o, drainQueue n s l = { s with links := ls, out := o } := by
  induction n generalizing s with
  | zero => exact ⟨s.links, s.out, rfl⟩
  | succ n ih =>
    unfold drainQueue
    dsimp only
    split
    · exact ⟨s.links, s.out, rfl⟩
    · split
      · obtain ⟨ls, o, h⟩ := ih (List.foldl _ _ _)
        rw [h, foldl_emit_flit]
        exact ⟨ls, o, rfl⟩
      · exact ⟨s.links, s.out, rfl⟩

theorem enqueue_spec (s : State) (l : LinkId) (p : Packet) : ∃ ls o, enqueue s l p = { s with links := ls, out := o } := by
  obtain ⟨ls, o, h⟩ := drainQueue_spec _ (s.modLink l (fun k => { k with queue := k.queue ++ [{ p with cls := classOn s l p.cls }] })) l
  exact ⟨ls, o, h⟩

theorem forward_spec (s : State) (via : Option LinkId) (p : Packet) : ∃ ls o, forward s via p = { s with links := ls, out := o } := by
  unfold forward
  split
  · exact enqueue_spec ..
  · split
    · exact ⟨s.links, s.out, rfl⟩
    · dsimp only
      split
      · exact enqueue_spec ..
      · exact ⟨s.links, s.out, rfl⟩

/-- A job whose packets have been numbered. -/
def numbered (j : Job) (a : Word) (b : List (BitVec 12 × BitVec 32)) : Job := { j with pktNum := a, dseq := b }

/-- Packets of a job have left: its numbers have moved on, and besides it links and outputs alone have changed. -/
structure Posted (f : FormeId) (k : JobSlot) (s t : State) : Prop where
  sends : Sends f s t
  forme : ∀ j, (s.forme f).job k = some j → ∃ a b, t.forme f = (s.forme f).setJob k (some (numbered j a b))

theorem Forme.setJob_job {x : Forme} (hj : x.job k = some j) : x.setJob k (some j) = x := by
  have hset : x.jobs.set k.val (some j) k.isLt = x.jobs := by
    rw [Forme.job] at hj
    rw [← hj, Vector.set_getElem_self]
  rw [Forme.setJob, hset]

theorem Posted.refl (s : State) : Posted f k s s :=
  ⟨⟨s.links, s.out, s.forme f, by simp [State.setForme, State.forme]⟩, fun j hj => ⟨j.pktNum, j.dseq, (Forme.setJob_job hj).symm⟩⟩

theorem Posted.trans (h : Posted f k s t) (g : Posted f k t u) : Posted f k s u := by
  refine ⟨h.sends.trans g.sends, fun j hj => ?_⟩
  obtain ⟨a, b, hab⟩ := h.forme j hj
  obtain ⟨a', b', hab'⟩ := g.forme (numbered j a b) (by rw [hab, Forme.job_setJob_self])
  exact ⟨a', b', by rw [hab', hab, Forme.setJob_setJob]; rfl⟩

theorem sendJob_posted (s : State) (f : FormeId) (k : JobSlot) (dst : BitVec 12) (ty : BitVec 4) (vc : Fin 4) (n : Nat) (arg : BitVec 32)
    (body : PacketBody) : Posted f k s (sendJob s f k dst ty vc n arg body) := by
  unfold sendJob jobPacket
  cases hj : (s.forme f).job k with
  | none => exact Posted.refl s
  | some j =>
    dsimp only
    obtain ⟨ls, o, h⟩ := forward_spec (s.modJob f k (fun j => { j with
      pktNum := j.pktNum + 1, dseq := (j.dseq.filter (·.1 != dst)) ++ [(dst, dseqOf j dst + 1)] })) none {
        ptype := ty, vc := vc, src := s.selfModule, dst := dst, len := BitVec.ofNat 9 n, cls := false, reversed := false,
        hops := 0, jobId := j.jobId, pktNum := j.pktNum, dseq := dseqOf j dst, arg := arg, body := body, tagOk := true }
    rw [h]
    refine ⟨⟨ls, o, _, rfl⟩, fun i hi => ?_⟩
    obtain rfl := Option.some.inj (hj.symm.trans hi)
    have hforme := State.modJob_of_some hj (fun j => { j with
      pktNum := j.pktNum + 1, dseq := (j.dseq.filter (·.1 != dst)) ++ [(dst, dseqOf j dst + 1)] })
    exact ⟨_, _, hforme⟩

theorem foldl_posted {α : Type} {g : State → α → State} (hg : ∀ u x, Posted f k u (g u x)) (l : List α) (s : State) :
    Posted f k s (l.foldl g s) :=
  foldl_related (R := Posted f k) Posted.refl Posted.trans hg l s

theorem sendAll_posted (s : State) (f : FormeId) (k : JobSlot) (body : PacketBody) : Posted f k s (sendAll s f k body) := by
  unfold sendAll
  split
  · refine foldl_posted (fun t m => ?_) _ s
    split
    · exact sendJob_posted ..
    · exact Posted.refl t
  · exact Posted.refl s

/-! ### A fault of a collective (R326, R327) -/

theorem noteFormeCode_of_work (x : Forme) (e : Code) (ls : List Launch) (sls : List Slug) :
    noteFormeCode { x with launches := ls, slugs := sls } e = { noteFormeCode x e with launches := ls, slugs := sls } := by
  unfold noteFormeCode
  split
  case h_1 => split <;> rfl
  all_goals rfl

/-- The forme of a slug that faults: its code is kept, and the step goes on without the slug. -/
theorem State.faultSlug_forme {st : SlugState} {e : Code} (h : Sole (s.forme f) tag sl) (hopen : slugEnded sl = false)
    (hpast : pastPoint sl = false) : ∃ sc ls sls,
    (s.faultSlug f tag st e).forme f = { noteFormeCode (s.forme f) e with sched := sc, launches := ls, slugs := sls } := by
  have hno : ¬ (slugEnded sl || pastPoint sl) = true := by rw [hopen, hpast]; exact Bool.false_ne_true
  obtain ⟨ls, hnote⟩ := (s.forme f).noteSlugFault_eq tag s.time.ticks e
  obtain ⟨sls, hend⟩ := Forme.endSlug_onlySlugs ((s.forme f).noteSlugFault tag s.time.ticks e) tag st e
  have hforme : ((s.modForme f (fun x => (x.noteSlugFault tag s.time.ticks e).endSlug tag st e)).noteCode f e).forme f =
      { noteFormeCode (s.forme f) e with launches := ls, slugs := sls } := by
    rw [State.noteCode_forme, State.forme_modForme_self, hend, hnote]
    exact noteFormeCode_of_work (s.forme f) e ls sls
  obtain ⟨sc, ls', sls', hsettle⟩ := State.settle_forme_rest
    ((s.modForme f (fun x => (x.noteSlugFault tag s.time.ticks e).endSlug tag st e)).noteCode f e) f
  refine ⟨sc, ls', sls', ?_⟩
  simp only [State.faultSlug, h.findSlug, if_neg hno]
  rw [hsettle, hforme]

theorem noteFormeCode_coll (x : Forme) : noteFormeCode x 0x1001 = { x with collCode := 0x1001 } := rfl

/-- The job whose collective has ended. -/
def uncollected (c : Coll) (j : Job) : Job := { j with coll := none, early := j.early.filter (fun e => c.k < e.2.1 || e.2.2.1 != c.stroke) }

/-- The forme that keeps why a collective of a slot faulted. -/
def collCaused (k : JobSlot) (cause : BitVec 3) (x : Forme) : Forme := { x with collCause := cause, collSlot := BitVec.ofNat 6 k.val }

theorem collFault_eq (hj : (s.forme f).job k = some j) (hc : j.coll = some c) (cause : BitVec 3) (abort : Bool) :
    collFault s f k cause 0x1001 abort = ((((if abort then sendAll s f k .abort else s).modJob f k (uncollected c)).modForme f
      (collCaused k cause)).faultSlug f c.tag .discarded 0x1001) := by
  simp only [collFault, hj, hc]
  rfl

/-- A collective that faults is over, its slug is discarded and the cause is kept, whether or not the others are told. -/
theorem collFault_spec (hj : (s.forme f).job k = some j) (hc : j.coll = some c) (hsole : Sole (s.forme f) c.tag sl) (hrun : sl.state = .running)
    (cause : BitVec 3) (abort : Bool) : CollFaulted f k c.tag cause (collFault s f k cause 0x1001 abort) ∧
    ∀ i, ((collFault s f k cause 0x1001 abort).forme f).job k = some i → i.rx = j.rx := by
  rw [collFault_eq hj hc]
  have hpost : Posted f k s (if abort then sendAll s f k .abort else s) := by
    split
    · exact sendAll_posted ..
    · exact Posted.refl s
  generalize (if abort then sendAll s f k .abort else s) = u at hpost
  obtain ⟨a, b, hu⟩ := hpost.forme j hj
  have hju : (u.forme f).job k = some (numbered j a b) := by rw [hu, Forme.job_setJob_self]
  have hv : ((u.modJob f k (uncollected c)).modForme f (collCaused k cause)).forme f =
      collCaused k cause ((s.forme f).setJob k (some (uncollected c (numbered j a b)))) := by
    rw [State.forme_modForme_self, State.modJob_of_some hju, hu, Forme.setJob_setJob]
  generalize (u.modJob f k (uncollected c)).modForme f (collCaused k cause) = v at hv
  have hsole' : Sole (v.forme f) c.tag sl := by
    rw [hv]
    exact hsole
  have hopen : slugEnded sl = false := by simp [slugEnded, hrun]
  have hpast : pastPoint sl = false := by simp [pastPoint, hrun]
  obtain ⟨hended, -, -, -⟩ := State.faultSlug_spec (c := 0x1001) hsole' hopen hpast (.inr rfl)
  obtain ⟨sc, ls, sls, hforme⟩ := State.faultSlug_forme (st := .discarded) (e := 0x1001) hsole' hopen hpast
  rw [noteFormeCode_coll, hv] at hforme
  have hslot : (BitVec.ofNat 6 k.val).toNat = k.val := by rw [BitVec.toNat_ofNat, Nat.mod_eq_of_lt k.isLt]
  have hjob : ((v.faultSlug f c.tag .discarded 0x1001).forme f).job k = some (uncollected c (numbered j a b)) := by
    rw [hforme]
    exact Forme.job_setJob_self (s.forme f) k (some (uncollected c (numbered j a b)))
  refine ⟨⟨⟨_, hjob, rfl⟩, ?_, ?_, ?_, hended⟩, fun i hi => ?_⟩
  · rw [hforme]
    rfl
  · rw [hforme]
    exact hslot
  · rw [hforme]
  · rw [hjob] at hi
    rw [← Option.some.inj hi]
    rfl

/-! ### A collective in progress (R324, R325) -/

theorem jobColl_of_some (hj : (s.forme f).job k = some j) (hc : j.coll = some c) : jobColl s f k = some (j, c) := by
  rw [jobColl, hj, Option.bind_some, hc]
  rfl

/-- A job with its collective in progress changed. -/
def withColl (j : Job) (c : Coll) : Job := { j with coll := some c }

theorem State.modColl_forme (hj : (s.forme f).job k = some j) (hc : j.coll = some c) (g : Coll → Coll) :
    (s.modColl f k g).forme f = (s.forme f).setJob k (some (withColl j (g c))) := by
  rw [State.modColl, State.modJob_of_some hj, hc]
  rfl

theorem State.modColl_job (hj : (s.forme f).job k = some j) (hc : j.coll = some c) (g : Coll → Coll) :
    ((s.modColl f k g).forme f).job k = some (withColl j (g c)) := by
  rw [State.modColl_forme hj hc, Forme.job_setJob_self]

theorem State.modColl_onlyForme (s : State) (f : FormeId) (k : JobSlot) (g : Coll → Coll) : OnlyForme f s (s.modColl f k g) :=
  s.modJob_onlyForme f k _

/-- Who has joined follows the module's own number, the job's members and the collective. -/
theorem allJoined_congr {i : Job} (hself : t.selfReg = s.selfReg) (hmembers : jobMembers i = jobMembers j) (d : Coll) :
    allJoined t i d = allJoined s j d := by
  have hme : t.selfModule = s.selfModule := by rw [State.selfModule, hself, State.selfModule]
  rw [allJoined, myIndex, hmembers, hme, allJoined, myIndex]

/-- With nothing held, nothing is taken up again. -/
theorem resumeHeld_of_empty (hj : (s.forme f).job k = some j) (hc : j.coll = some c) (hheld : c.held = []) :
    resumeHeld s f k = s.modColl f k (fun c => { c with held := [] }) := by
  have hcoll := State.modColl_job hj hc (fun c => { c with held := [] })
  have hnext := jobColl_of_some hcoll rfl
  rw [resumeHeld, jobColl_of_some hj hc]
  dsimp only
  rw [drainHeld, jobColl_of_some hj hc]
  dsimp only
  rw [hheld, List.foldl_nil, hnext]
  rfl

end Sys2Proof.Machine
end

section
/-! Collective packets at a member (R37, R324 to R327). -/
namespace Sys2Proof.Machine

variable {s t : State} {f : FormeId} {k : JobSlot} {j : Job} {c : Coll} {p : Packet} {sl : Slug}

/-! ### The commands -/

theorem exec_collData (hpower : s.boot.power = .on) (hdst : p.dst = s.selfModule) (hty : p.ptype = 5) :
    exec (.collData p) s = .next (endpoint s p) := packetCommand_here hpower hdst (by rw [hty]; rfl)

theorem ctrlCommand_here {m : Ctrl} (hpower : s.boot.power = .on) (hdst : p.dst = s.selfModule) (hty : p.ptype = 6)
    (hm : ctrlOf p.body = some m) : ctrlCommand s m p = .next (endpoint s p) := by
  rw [ctrlCommand, hm, if_pos (beq_self_eq_true _)]
  exact packetCommand_here hpower hdst (by rw [hty]; rfl)

/-! ### A packet of a collective is delivered (R318) -/

/-- A job with the delivery state of its sources. -/
def withRx (j : Job) (rx : List Reorder) : Job := { j with rx := rx }

/-- A packet of a collective in order acts where only its source's count has moved on, and leaves the delivery state. -/
theorem collective_delivered (h : InOrder s f k j p) (hty : p.ptype = 5 ∨ p.ptype = 6) : ∃ t rx, Delivering s f k j p.src t ∧
    t.forme f = (s.forme f).setJob k (some (withRx j rx)) ∧
    ((∀ i, ((actPacket t f k p).forme f).job k = some i → i.rx = rx) → endpoint s p = actPacket t f k p) := by
  obtain ⟨t, ht, hend⟩ := endpoint_inOrder h (by rcases hty with h | h <;> rw [h] <;> decide) (by rcases hty with h | h <;> rw [h] <;> decide)
  obtain ⟨i, hforme, ⟨rx, rfl⟩, hwindow⟩ := ht.forme
  refine ⟨t, rx, ht, hforme, fun hrx => hend fun i hi => ?_⟩
  rw [reorderOf, hrx i hi]
  exact hwindow

/-! ### JOIN (R324) -/

theorem actPacket_join {n : Nat} {st : Word} {dg : BitVec 128} (hj : (s.forme f).job k = some j) (hlive : (s.forme f).drained = false)
    (hbody : p.body = .join n st dg) : actPacket s f k p = takePeerJoin s f k j p.src n st dg := by
  simp only [actPacket, hj, hbody, hlive, Bool.false_eq_true, if_false]

/-- A collective with one more member joined. -/
def joinedBy (member : Nat) (c : Coll) : Coll := { c with joined := if c.joined.contains member then c.joined else c.joined ++ [member] }

theorem takePeerJoin_current {src : BitVec 12} {dg : BitVec 128} (hc : j.coll = some c) :
    takePeerJoin s f k j src c.k c.stroke dg = takeJoin s f k ((jobMembers j).findIdx (· == src)) dg := by
  simp only [takePeerJoin, hc, decide_true, beq_self_eq_true, Bool.and_self, if_true]

theorem takeJoin_agreed {member : Nat} (hj : (s.forme f).job k = some j) (hc : j.coll = some c)
    (hmissing : allJoined s j (joinedBy member c) = false) : takeJoin s f k member c.digest = s.modColl f k (joinedBy member) := by
  have hjob := State.modColl_job hj hc (joinedBy member)
  have hwait : ¬ (!(joinedBy member c).moving && allJoined (s.modColl f k (joinedBy member)) (withColl j (joinedBy member c)) (joinedBy member c))
      = true := by
    have hsame : allJoined (s.modColl f k (joinedBy member)) (withColl j (joinedBy member c)) (joinedBy member c) =
        allJoined s j (joinedBy member c) := allJoined_congr rfl rfl _
    rw [hsame, hmissing, Bool.and_false]
    exact Bool.false_ne_true
  have hsame : ¬ (c.digest != c.digest) = true := by simp
  rw [takeJoin, jobColl_of_some hj hc]
  dsimp only
  rw [if_neg hsame, show (s.modColl f k (fun c => { c with joined := if c.joined.contains member then c.joined else c.joined ++ [member] })) =
    s.modColl f k (joinedBy member) from rfl, maybeMove, jobColl_of_some hjob rfl]
  exact if_neg hwait

theorem takeJoin_mismatched {member : Nat} {dg : BitVec 128} (hj : (s.forme f).job k = some j) (hc : j.coll = some c) (hne : c.digest ≠ dg) :
    takeJoin s f k member dg = collFault s f k 2 0x1001 true := by
  rw [takeJoin, jobColl_of_some hj hc]
  exact if_pos (bne_iff_ne.mpr (Ne.symm hne))

/-- A JOIN kept for an occurrence that is open. -/
def keptEarly (e : Nat × Nat × Word × BitVec 128) (j : Job) : Job := { j with early := j.early ++ [e] }

theorem takePeerJoin_early {src : BitVec 12} {n : Nat} {st : Word} {dg : BitVec 128} {w : Word × Word × Nat × Nat × Nat} (hnone : j.coll = none)
    (hw : j.window = some w) (hst : w.1 = st) : takePeerJoin s f k j src n st dg =
      s.modJob f k (keptEarly ((jobMembers j).findIdx (· == src), n, st, dg)) := by
  simp only [takePeerJoin, hnone, takePeerJoin.early, hw, hst, beq_self_eq_true, Bool.true_or, if_true]
  rfl

/-! ### COLL_DATA (R325) -/

theorem actPacket_collData {run phase half step first : Nat} {es : List (BitVec 32)} (hj : (s.forme f).job k = some j)
    (hlive : (s.forme f).drained = false) (hc : j.coll = some c) (harg : p.arg.toNat % 256 = c.k % 256)
    (hbody : p.body = .collData run phase half step first es) :
    actPacket s f k p = resumeHeld (collPacket s f k (.collData run phase half step first es)) f k := by
  have hfor : forColl j p = true := by simp [forColl, hc, harg]
  simp only [actPacket, hj, hbody, hlive, Bool.false_eq_true, if_false, hfor, if_true]

/-- A collective with output elements kept. -/
def outputKept (evs : List (Nat × BitVec 32)) (c : Coll) : Coll := { c with output := c.output.filter (fun o => !evs.any (·.1 == o.1)) ++ evs }

theorem collPacket_block {half step first : Nat} {es : List (BitVec 32)} (hj : (s.forme f).job k = some j) (hc : j.coll = some c)
    (hmoving : c.moving = true) : collPacket s f k (.collData (halfRun c half) 0 half step first es) =
      s.modColl f k (outputKept (packetElems first es)) := by
  simp only [collPacket, jobColl_of_some hj hc, hmoving, Bool.not_true, Bool.false_or, decide_eq_true_eq, Nat.lt_irrefl, if_false, if_true]
  rfl

theorem mem_packetElems (first : Nat) (vs : List (BitVec 32)) {i : Nat} (hi : i < vs.length) : (first + i, vs[i]) ∈ packetElems first vs := by
  rw [packetElems, List.mem_mapIdx]
  exact ⟨i, hi, rfl⟩

/-- Elements reduced with the member's own values. -/
def reduced (c : Coll) (es own : List (BitVec 32)) : List (BitVec 32 × Bool) := (es.zip own).map (fun p => reduceTwo c.dtype c.red p.1 p.2)

/-- A collective that has met the saturation of a reduction. -/
def saturatedBy (rs : List (BitVec 32 × Bool)) (c : Coll) : Coll := { c with sat := c.sat || rs.any (·.2) }

theorem collPacket_reduce {half first : Nat} {es own : List (BitVec 32)} (hj : (s.forme f).job k = some j) (hc : j.coll = some c)
    (hmoving : c.moving = true) (hown : ownVals c 1 first es.length = some own) (hx : j.nxj = 2) :
    collPacket s f k (.collData (halfRun c half) 1 half 0 first es) =
      collReady 8 (s.modColl f k (saturatedBy (reduced c es own))) f k 2 (packetElems first ((reduced c es own).map (·.1))) := by
  have hlast : ¬ 0 + 2 < axisSize j (1 - 1) := by
    rw [show axisSize j (1 - 1) = j.nxj from rfl, hx]
    decide
  simp only [collPacket, jobColl_of_some hj hc, hmoving, hown, if_neg hlast, Bool.not_true, Bool.false_or, decide_eq_true_eq, Nat.lt_irrefl, if_false,
    Nat.one_ne_zero, Nat.reduceLeDiff, if_true]
  rfl

/-- An axis with one place is passed over. -/
theorem collReady_single {n phase : Nat} {evs : List (Nat × BitVec 32)} (hj : (s.forme f).job k = some j) (hc : j.coll = some c)
    (hevs : evs ≠ []) (hphase : phase ≤ 3) (hone : axisSize j (phase - 1) ≤ 1) :
    collReady (n + 1) s f k phase evs = collReady n s f k (phase + 1) evs := by
  rw [collReady, jobColl_of_some hj hc]
  dsimp only
  rw [if_neg (by simpa using hevs), if_pos hphase, if_pos hone]

/-- The owner of reduced elements keeps them. -/
theorem collReady_owner {n : Nat} {evs : List (Nat × BitVec 32)} (hj : (s.forme f).job k = some j) (hc : j.coll = some c) (hevs : evs ≠ [])
    (hop : c.opcode = 2) :
    collReady (n + 1) s f k 4 evs = s.modColl f k (outputKept (evs.map (fun e => (outIndex s j c e.1, e.2)))) := by
  rw [collReady, jobColl_of_some hj hc]
  dsimp only
  rw [if_neg (by simpa using hevs), if_neg (by decide), if_pos rfl, if_pos hop]
  rfl

theorem mem_reduced {es own : List (BitVec 32)} (first : Nat) {i : Nat} (hi : i < es.length) (hi' : i < own.length) :
    (first + i, (reduceTwo c.dtype c.red es[i] own[i]).1) ∈ packetElems first ((reduced c es own).map (·.1)) := by
  have hlen : i < ((reduced c es own).map (·.1)).length := by
    rw [reduced, List.length_map, List.length_map, List.length_zip]
    omega
  have hget : ((reduced c es own).map (·.1))[i] = (reduceTwo c.dtype c.red es[i] own[i]).1 := by simp [reduced]
  rw [← hget]
  exact mem_packetElems first _ hlen

theorem length_of_mapM_eq_some {α β : Type} {g : α → Option β} {l : List α} {r : List β} (h : l.mapM g = some r) : r.length = l.length := by
  induction l generalizing r with
  | nil =>
    rw [List.mapM_nil] at h
    rw [← Option.some.inj h]
    rfl
  | cons a l ih =>
    rw [List.mapM_cons] at h
    obtain ⟨b, -, h⟩ := Option.bind_eq_some_iff.mp h
    obtain ⟨bs, hbs, h⟩ := Option.bind_eq_some_iff.mp h
    rw [← Option.some.inj h, List.length_cons, List.length_cons, ih hbs]

theorem ownVals_length {phase first n : Nat} {own : List (BitVec 32)} (h : ownVals c phase first n = some own) : own.length = n := by
  rw [length_of_mapM_eq_some h, List.length_range]

/-! ### REROUTE and ABORT (R327) -/

theorem forColl_of_some (hc : j.coll = some c) (harg : p.arg.toNat % 256 = c.k % 256) : forColl j p = true := by
  simp [forColl, hc, harg]

/-- A collective with a half turned round before anything moves. -/
def turned (s : State) (j : Job) (ax half : Nat) (c : Coll) : Coll :=
  { c with
    flips := c.flips ++ [(ax, half)],
    vals := c.vals.filter (fun v => halfOf c v.2.1 != half),
    output := c.output.filter (fun o => !(List.range c.elements).any (fun e => outIndex s j c e == o.1 && halfOf c e == half)) }

theorem actPacket_reroute {ax half : Nat} (hj : (s.forme f).job k = some j) (hc : j.coll = some c) (harg : p.arg.toNat % 256 = c.k % 256)
    (hbody : p.body = .reroute ax half) (hstill : c.moving = false) (hnew : c.flips.contains (ax, half) = false) :
    ∃ g, actPacket s f k p = s.modColl f k g ∧ (g c).flips = c.flips ++ [(ax, half)] ∧ (g c).moving = false := by
  have hact : actPacket s f k p = rerouteHalf s f k ax half false := by
    simp only [actPacket, hj, hbody, forColl_of_some hc harg, if_true]
  rw [hact, rerouteHalf, jobColl_of_some hj hc]
  simp only [hnew, hstill, Bool.false_and, Bool.false_eq_true, if_false]
  exact ⟨_, rfl, rfl, hstill⟩

theorem actPacket_abort (hj : (s.forme f).job k = some j) (hc : j.coll = some c) (harg : p.arg.toNat % 256 = c.k % 256)
    (hbody : p.body = .abort) (hpart : outWhole j c = false) : actPacket s f k p = collFault s f k 5 0x1001 true := by
  have hgo : (forColl j p && j.coll.any (fun c => !outWhole j c)) = true := by simp [forColl_of_some hc harg, hc, hpart]
  simp only [actPacket, hj, hbody]
  exact if_pos hgo

/-- A draining forme refuses what comes for a collective. -/
theorem actPacket_drained (hj : (s.forme f).job k = some j) (hdrain : (s.forme f).drained = true)
    (hbody : (∃ r h n m e es, p.body = .collData r h n m e es) ∨ ∃ n st dg, p.body = .join n st dg) :
    actPacket s f k p = nackBack s p ∧ bodyTag p.body = 0 := by
  rcases hbody with ⟨r, h, n, m, e, es, hbody⟩ | ⟨n, st, dg, hbody⟩
  all_goals
    rw [hbody]
    refine ⟨?_, rfl⟩
    simp only [actPacket, hj, hbody, hdrain, if_true]

theorem nackBack_spec (s : State) (p : Packet) : ∃ ls o, nackBack s p = { s with links := ls, out := o } := by
  unfold nackBack
  split
  · exact ⟨s.links, s.out, rfl⟩
  · exact forward_spec ..

/-! ### What a delivered packet does to the collective -/

/-- A packet whose act changes the collective alone: its command does that, and nothing leaves. -/
theorem collective_changes {P : Coll → Prop} (h : InOrder s f k j p) (hty : p.ptype = 5 ∨ p.ptype = 6)
    (hact : ∀ t rx, Delivering s f k j p.src t → (t.forme f).job k = some (withRx j rx) → (t.forme f).drained = (s.forme f).drained →
      ∃ d, OnlyForme f t (actPacket t f k p) ∧ ((actPacket t f k p).forme f).job k = some (withColl (withRx j rx) d) ∧ P d) :
    ∃ k' c', ((endpoint s p).forme f).job k = some k' ∧ k'.coll = some c' ∧ P c' ∧ (endpoint s p).out = s.out := by
  obtain ⟨t, rx, ht, hforme, hend⟩ := collective_delivered h hty
  have hjob : (t.forme f).job k = some (withRx j rx) := by rw [hforme, Forme.job_setJob_self]
  obtain ⟨d, honly, hdone, hP⟩ := hact t rx ht hjob (by rw [hforme]; rfl)
  rw [hend fun i hi => by rw [← Option.some.inj (hdone.symm.trans hi)]; rfl]
  exact ⟨_, d, hdone, rfl, hP, honly.rest.2.2.2.2.1.trans ht.onlyForme.rest.2.2.2.2.1⟩

/-- A packet whose act faults the collective: its command does that. -/
theorem collective_faults {cause : BitVec 3} (h : InOrder s f k j p) (hty : p.ptype = 5 ∨ p.ptype = 6) (hc : j.coll = some c)
    (hsole : Sole (s.forme f) c.tag sl) (hrun : sl.state = .running)
    (hact : ∀ t rx, (t.forme f).job k = some (withRx j rx) → (t.forme f).drained = (s.forme f).drained →
      actPacket t f k p = collFault t f k cause 0x1001 true) : CollFaulted f k c.tag cause (endpoint s p) := by
  obtain ⟨t, rx, ht, hforme, hend⟩ := collective_delivered h hty
  have hjob : (t.forme f).job k = some (withRx j rx) := by rw [hforme, Forme.job_setJob_self]
  have hsole' : Sole (t.forme f) c.tag sl := by rw [hforme]; exact hsole
  obtain ⟨hfault, hrx⟩ := collFault_spec hjob hc hsole' hrun cause true
  rw [hact t rx hjob (by rw [hforme]; rfl)] at hend
  rw [hend hrx]
  exact hfault

/-- A JOIN that agrees counts its member. -/
theorem join_agreed {n : Nat} {st : Word} {dg : BitVec 128} {member : Nat} (h : InOrder s f k j p) (hlive : (s.forme f).drained = false)
    (hty : p.ptype = 6) (hbody : p.body = .join n st dg) (hc : j.coll = some c) (hn : c.k = n) (hst : c.stroke = st) (hdg : c.digest = dg)
    (hmember : (jobMembers j).findIdx (· == p.src) = member) (hmissing : allJoined s j (joinedBy member c) = false) :
    ∃ k' c', ((endpoint s p).forme f).job k = some k' ∧ k'.coll = some c' ∧ c' = joinedBy member c ∧ (endpoint s p).out = s.out := by
  subst hn hst hdg
  refine collective_changes (P := (· = joinedBy member c)) h (.inr hty) fun t rx ht hjob hdrain => ⟨joinedBy member c, ?_⟩
  have hmissing' : allJoined t (withRx j rx) (joinedBy member c) = false :=
    (allJoined_congr ht.onlyForme.rest.2.1 rfl _).trans hmissing
  have hact : actPacket t f k p = t.modColl f k (joinedBy member) := by
    rw [actPacket_join hjob (hdrain.trans hlive) hbody, takePeerJoin_current (j := withRx j rx) hc,
      show (jobMembers (withRx j rx)).findIdx (· == p.src) = member from hmember, takeJoin_agreed hjob hc hmissing']
  rw [hact]
  exact ⟨State.modColl_onlyForme .., State.modColl_job hjob hc _, rfl⟩

/-- Elements that arrive are kept as output. -/
theorem block_kept {half step first : Nat} {es : List (BitVec 32)} (h : InOrder s f k j p) (hlive : (s.forme f).drained = false)
    (hty : p.ptype = 5) (hc : j.coll = some c) (harg : p.arg.toNat % 256 = c.k % 256) (hmoving : c.moving = true) (hheld : c.held = [])
    (hbody : p.body = .collData (halfRun c half) 0 half step first es) :
    ∃ k' c', ((endpoint s p).forme f).job k = some k' ∧ k'.coll = some c' ∧ (∀ i (h : i < es.length), (first + i, es[i]) ∈ c'.output) ∧
      (endpoint s p).out = s.out := by
  refine collective_changes h (.inl hty) fun t rx ht hjob hdrain => ⟨{ outputKept (packetElems first es) c with held := [] }, ?_⟩
  have hkept := State.modColl_job hjob hc (outputKept (packetElems first es))
  have hact : actPacket t f k p = (t.modColl f k (outputKept (packetElems first es))).modColl f k (fun c => { c with held := [] }) := by
    rw [actPacket_collData hjob (hdrain.trans hlive) hc harg hbody, collPacket_block hjob hc hmoving, resumeHeld_of_empty hkept rfl hheld]
  rw [hact]
  exact ⟨(State.modColl_onlyForme ..).trans (State.modColl_onlyForme ..), State.modColl_job hkept rfl _,
    fun i hi => List.mem_append_right _ (mem_packetElems first es hi)⟩

/-- Elements that arrive at the last member of a ring of two are reduced with its own, and kept. -/
theorem block_reduced {half first : Nat} {es own : List (BitVec 32)} (h : InOrder s f k j p) (hlive : (s.forme f).drained = false)
    (hty : p.ptype = 5) (hc : j.coll = some c) (harg : p.arg.toNat % 256 = c.k % 256) (hmoving : c.moving = true) (hheld : c.held = [])
    (hop : c.opcode = 2) (hx : j.nxj = 2) (hy : j.nyj = 1) (hpods : (bitsSet j.podMask).length = 1) (hes : es ≠ [])
    (hbody : p.body = .collData (halfRun c half) 1 half 0 first es) (hown : ownVals c 1 first es.length = some own) :
    ∃ k' c', ((endpoint s p).forme f).job k = some k' ∧ k'.coll = some c' ∧ (∀ i (_ : i < es.length) (_ : i < own.length),
      (outIndex s j c (first + i), (reduceTwo c.dtype c.red es[i] own[i]).1) ∈ c'.output) ∧ (endpoint s p).out = s.out := by
  refine collective_changes h (.inl hty) fun t rx ht hjob hdrain => ?_
  have hsat := State.modColl_job hjob hc (saturatedBy (reduced c es own))
  have hself : (t.modColl f k (saturatedBy (reduced c es own))).selfReg = s.selfReg :=
    (State.modColl_onlyForme t f k _).rest.2.1.trans ht.onlyForme.rest.2.1
  have honly := State.modColl_onlyForme t f k (saturatedBy (reduced c es own))
  have hact : actPacket t f k p = resumeHeld (collReady 8 (t.modColl f k (saturatedBy (reduced c es own))) f k 2
      (packetElems first ((reduced c es own).map (·.1)))) f k := by
    rw [actPacket_collData hjob (hdrain.trans hlive) hc harg hbody, collPacket_reduce hjob hc hmoving hown hx]
  generalize t.modColl f k (saturatedBy (reduced c es own)) = u at hsat hself honly hact
  have hne : packetElems first ((reduced c es own).map (·.1)) ≠ [] := by
    have hpos : 0 < es.length := List.length_pos_iff.mpr hes
    exact List.ne_nil_of_mem (mem_reduced (c := c) first hpos (by rw [ownVals_length hown]; exact hpos))
  have hindex : ∀ e, outIndex u (withColl (withRx j rx) (saturatedBy (reduced c es own) c)) (saturatedBy (reduced c es own) c) e =
      outIndex s j c e := fun e => by
    have hme : u.selfModule = s.selfModule := by rw [State.selfModule, hself, ← State.selfModule]
    rw [outIndex, myIndex, hme]
    rfl
  rw [collReady_single hsat rfl hne (by decide) (by exact Nat.le_of_eq hy), collReady_single hsat rfl hne (by decide) (by exact Nat.le_of_eq hpods),
    collReady_owner hsat rfl hne hop] at hact
  have hkept := State.modColl_job hsat rfl (outputKept ((packetElems first ((reduced c es own).map (·.1))).map (fun e =>
    (outIndex u (withColl (withRx j rx) (saturatedBy (reduced c es own) c)) (saturatedBy (reduced c es own) c) e.1, e.2))))
  rw [resumeHeld_of_empty hkept rfl hheld] at hact
  rw [hact]
  refine ⟨_, (honly.trans (State.modColl_onlyForme ..)).trans (State.modColl_onlyForme ..), State.modColl_job hkept rfl _, fun i hi hi' => ?_⟩
  rw [← hindex]
  exact List.mem_append_right _ (List.mem_map.mpr ⟨_, mem_reduced first hi hi', rfl⟩)

/-- Settles O43: a packet in order acts once its source's count has moved on, and every act keeps that count. -/
theorem collectivesMove : Obligations.CollectivesMove := by
  refine ⟨fun s f k j c p n st dg h hlive hty hbody hc hn hst hdg hnew hmissing => ?_,
    fun s f k j c p n st dg sl h hlive hty hbody hc hn hst hdg hsole hrun => ?_,
    fun s f k j p n st dg w h hlive hty hbody hnone hw hst => ?_,
    fun s f k j c p half step first es h hlive hty hc harg hmoving hheld hbody => ?_,
    fun s f k j c p half first es own h hlive hty hc harg hmoving hheld hop hx hy hpods hes hbody hown => ?_,
    fun s f k j c p ax half h hty hbody hc harg hstill hnew => ?_,
    fun s f k j c p sl h hty hbody hc harg hpart hsole hrun => ?_,
    fun s f k j p l rev h hdrain hbody hroute hr => ?_⟩
  · have hexec : exec (.join p) s = .next (endpoint s p) := ctrlCommand_here h.1 h.2.1 hty (by rw [hbody]; rfl)
    have hjoined : joinedBy ((jobMembers j).findIdx (· == p.src)) c = { c with joined := c.joined ++ [(jobMembers j).findIdx (· == p.src)] } := by
      rw [joinedBy, hnew, if_neg Bool.false_ne_true]
    obtain ⟨k', c', hjob, hcoll, hd, hout⟩ := join_agreed h hlive hty hbody hc hn hst hdg rfl (by rw [hjoined, hmissing])
    exact ⟨_, k', c', hexec, hjob, hcoll, hout, hd.trans hjoined⟩
  · have hexec : exec (.join p) s = .next (endpoint s p) := ctrlCommand_here h.1 h.2.1 hty (by rw [hbody]; rfl)
    subst hn hst
    refine ⟨_, hexec, collective_faults h (.inr hty) hc hsole hrun fun t rx hjob hdrain => ?_⟩
    rw [actPacket_join hjob (hdrain.trans hlive) hbody, takePeerJoin_current (j := withRx j rx) hc, takeJoin_mismatched hjob hc hdg]
  · obtain ⟨t, rx, ht, hforme, hend⟩ := collective_delivered h (.inr hty)
    have hjob : (t.forme f).job k = some (withRx j rx) := by rw [hforme, Forme.job_setJob_self]
    have hlive' : (t.forme f).drained = false := by rw [hforme]; exact hlive
    have hact : actPacket t f k p = t.modJob f k (keptEarly ((jobMembers j).findIdx (· == p.src), n, st, dg)) := by
      rw [actPacket_join hjob hlive' hbody, takePeerJoin_early (j := withRx j rx) hnone hw hst]
      rfl
    have hdone : ((t.modJob f k (keptEarly ((jobMembers j).findIdx (· == p.src), n, st, dg))).forme f).job k =
        some (keptEarly ((jobMembers j).findIdx (· == p.src), n, st, dg) (withRx j rx)) := by
      rw [State.modJob_of_some hjob, Forme.job_setJob_self]
    rw [hact] at hend
    have hexec : exec (.join p) s = .next (endpoint s p) := ctrlCommand_here h.1 h.2.1 hty (by rw [hbody]; rfl)
    rw [hend fun i hi => by rw [← Option.some.inj (hdone.symm.trans hi)]; rfl] at hexec
    exact ⟨_, _, hexec, hdone, rfl, (State.modJob_onlyForme t f k _).rest.2.2.2.2.1.trans ht.onlyForme.rest.2.2.2.2.1⟩
  · obtain ⟨k', c', hjob, hcoll, hmem, hout⟩ := block_kept h hlive hty hc harg hmoving hheld hbody
    exact ⟨_, k', c', exec_collData h.1 h.2.1 hty, hjob, hcoll, hmem, hout⟩
  · obtain ⟨k', c', hjob, hcoll, hmem, hout⟩ := block_reduced h hlive hty hc harg hmoving hheld hop hx hy hpods hes hbody hown
    exact ⟨_, k', c', exec_collData h.1 h.2.1 hty, hjob, hcoll, hmem, hout⟩
  · have hexec : exec (.reroute p) s = .next (endpoint s p) := ctrlCommand_here h.1 h.2.1 hty (by rw [hbody]; rfl)
    obtain ⟨k', c', hjob, hcoll, ⟨hflips, hmoves⟩, hout⟩ := collective_changes
      (P := fun d => d.flips = c.flips ++ [(ax, half)] ∧ d.moving = false) h (.inr hty) fun t rx ht hjob hdrain => by
        obtain ⟨g, hact, hflips, hmoves⟩ := actPacket_reroute hjob hc harg hbody hstill hnew
        rw [hact]
        exact ⟨g c, State.modColl_onlyForme .., State.modColl_job hjob hc g, hflips, hmoves⟩
    exact ⟨_, k', c', hexec, hjob, hcoll, hflips, hmoves, hout⟩
  · have hexec : exec (.abort p) s = .next (endpoint s p) := ctrlCommand_here h.1 h.2.1 hty (by rw [hbody]; rfl)
    exact ⟨_, hexec, collective_faults h (.inr hty) hc hsole hrun fun t rx hjob _ => actPacket_abort hjob hc harg hbody hpart⟩
  · have hty : p.ptype = 5 ∨ p.ptype = 6 := hbody.imp And.left And.left
    obtain ⟨t, rx, ht, hforme, hend⟩ := collective_delivered h hty
    have hjob : (t.forme f).job k = some (withRx j rx) := by rw [hforme, Forme.job_setJob_self]
    have hdrain' : (t.forme f).drained = true := by rw [hforme]; exact hdrain
    obtain ⟨hact, htag⟩ := actPacket_drained hjob hdrain' (hbody.imp And.right And.right)
    obtain ⟨hroute', hr', hself, hout⟩ := ht.route hroute hr
    obtain ⟨-, -, hstack, hgalley, -⟩ := ht.onlyForme.rest
    obtain ⟨⟨q, x, ⟨h1, h2, h3⟩, hmem⟩, -, hformes⟩ := nackBack_ready hroute' hr' (by rcases hty with h | h <;> rw [h] <;> decide)
      (by rcases hty with h | h <;> rw [h] <;> decide)
    obtain ⟨ls, o, hnack⟩ := nackBack_spec t p
    rw [hact] at hend
    have hdone : endpoint s p = nackBack t p := hend fun i hi => by
      rw [State.forme, hformes, ← State.forme, hjob] at hi
      rw [← Option.some.inj hi]
      rfl
    refine ⟨nackBack t p, ?_, by rw [hnack]; exact hstack, by rw [hnack]; exact hgalley, q, x, ⟨h1, h2, ?_⟩, by rw [← hout]; exact hmem⟩
    · rw [← hdone]
      rcases hbody with ⟨hty, -⟩ | ⟨hty, n, st, dg, hb⟩
      · rw [if_pos hty, exec_collData h.1 h.2.1 hty]
      · rw [if_neg (by rw [hty]; decide)]
        exact ctrlCommand_here h.1 h.2.1 hty (by rw [hb]; rfl)
    · rw [h3, htag, hself]

end Sys2Proof.Machine
end

section
/-! Ops of a slug, and the start and end of a collective (R184, R197, R238, R322 to R326). -/
namespace Sys2Proof.Machine

variable {s t u : State} {f : FormeId} {tag : SlugTag} {sl : Slug}

/-! ### The inked copies of the module (R231, R234) -/

/-- The copies that an inker holds. -/
def inkerCopies (k : Inker) : List ImageCopy :=
  k.bindings.toList.flatMap (fun b => b.image.toList ++ b.old) ++ (match k.req with | some q => q.copy.toList | none => [])

theorem State.copies_eq (s : State) : s.copies = allFormes.flatMap (fun g => inkerCopies (s.forme g).inker) ++ s.orphans := by
  have hformes : s.formes.toList = allFormes.map s.forme := by
    refine List.ext_getElem (by simp [allFormes]) fun i h1 h2 => ?_
    simp [allFormes, State.forme]
  unfold State.copies
  rw [hformes, List.flatMap_map]
  rfl

theorem State.copies_of_inkers (hinkers : ∀ g : FormeId, (t.forme g).inker = (s.forme g).inker) (horphans : t.orphans = s.orphans) :
    t.copies = s.copies := by
  rw [State.copies_eq, State.copies_eq, horphans]
  simp only [hinkers]

theorem State.modForme_copies (s : State) {g : Forme → Forme} (hg : ∀ x, (g x).inker = x.inker) : (s.modForme f g).copies = s.copies := by
  refine State.copies_of_inkers (fun o => ?_) rfl
  by_cases ho : f = o
  · subst ho
    rw [State.forme_modForme_self, hg]
  · rw [State.forme_modForme_of_ne _ _ _ _ ho]

/-- A change of a copy by its serial number. -/
def changeCopy (gen : Nat) (g : ImageCopy → ImageCopy) (i : ImageCopy) : ImageCopy := if i.gen == gen then g i else i

/-- An inker with a copy changed wherever it holds it. -/
def inkerChanged (gen : Nat) (g : ImageCopy → ImageCopy) (k : Inker) : Inker :=
  { k with
    bindings := k.bindings.map (fun b => { b with image := b.image.map (changeCopy gen g), old := b.old.map (changeCopy gen g) })
    req := k.req.map (fun q => { q with copy := q.copy.map (changeCopy gen g) }) }

theorem State.modCopy_forme (s : State) (gen : Nat) (g : ImageCopy → ImageCopy) (f : FormeId) :
    (s.modCopy gen g).forme f = { s.forme f with inker := inkerChanged gen g (s.forme f).inker } := by
  have hcopy : s.modCopy gen g = { s.mapFormes (fun _ x => { x with inker := inkerChanged gen g x.inker }) with
    orphans := s.orphans.map (changeCopy gen g) } := rfl
  rw [hcopy]
  exact s.forme_mapFormes (fun _ x => { x with inker := inkerChanged gen g x.inker }) f

theorem inkerCopies_changed (gen : Nat) (g : ImageCopy → ImageCopy) (k : Inker) :
    inkerCopies (inkerChanged gen g k) = (inkerCopies k).map (changeCopy gen g) := by
  have hbinding : ∀ b : Binding, (b.image.map (changeCopy gen g)).toList ++ b.old.map (changeCopy gen g) =
      (b.image.toList ++ b.old).map (changeCopy gen g) := fun b => by
    cases b.image <;> simp
  unfold inkerCopies inkerChanged
  rw [List.map_append, Vector.toList_map, List.flatMap_map, List.map_flatMap]
  simp only [hbinding]
  congr 1
  cases k.req with
  | none => rfl
  | some q => cases hq : q.copy <;> simp [hq]

theorem State.modCopy_copies (s : State) (gen : Nat) (g : ImageCopy → ImageCopy) :
    (s.modCopy gen g).copies = s.copies.map (changeCopy gen g) := by
  rw [State.copies_eq, State.copies_eq, List.map_append, List.map_flatMap]
  simp only [State.modCopy_forme, inkerCopies_changed]
  rfl

/-! ### Chunks read clean (R238) -/

/-- Only what ink holds has changed, and no copy has a chunk lost for good that had none. -/
structure Refreshed (s t : State) : Prop where
  inkers : OnlyInkers s t
  alive  : (∀ k ∈ s.copies, k.dead = []) → ∀ k ∈ t.copies, k.dead = []
  kept   : t.stack = s.stack ∧ t.galley = s.galley ∧ t.out = s.out ∧ t.time = s.time ∧ t.cores = s.cores

theorem Refreshed.refl (s : State) : Refreshed s s := ⟨OnlyInkers.refl s, id, rfl, rfl, rfl, rfl, rfl⟩

theorem Refreshed.trans (h : Refreshed s t) (k : Refreshed t u) : Refreshed s u := by
  obtain ⟨h1, h2, h3, h4, h5⟩ := h.kept
  obtain ⟨k1, k2, k3, k4, k5⟩ := k.kept
  exact ⟨h.inkers.trans k.inkers, k.alive ∘ h.alive, k1.trans h1, k2.trans h2, k3.trans h3, k4.trans h4, k5.trans h5⟩

theorem State.modCopy_refreshed (s : State) (gen : Nat) {g : ImageCopy → ImageCopy} (hg : ∀ i, (g i).dead = i.dead) :
    Refreshed s (s.modCopy gen g) := by
  refine ⟨fun f => ⟨_, s.modCopy_forme gen g f⟩, fun h k hk => ?_, rfl, rfl, rfl, rfl, rfl⟩
  rw [State.modCopy_copies] at hk
  obtain ⟨i, hi, rfl⟩ := List.mem_map.mp hk
  rw [changeCopy]
  split
  · rw [hg, h i hi]
  · exact h i hi

theorem readClean_refreshed (s : State) (f : FormeId) (tag : SlugTag) : Refreshed s (readClean s f tag) := by
  unfold readClean
  split
  · refine foldl_related (R := Refreshed) Refreshed.refl Refreshed.trans (fun u b => ?_) _ s
    split
    · split
      · exact Refreshed.refl u
      · refine u.modCopy_refreshed _ ?_
        exact fun _ => rfl
    · exact Refreshed.refl u
  · exact Refreshed.refl s

/-- With no chunk lost for good, no slug has read one. -/
theorem readsChunk_dead_of_alive (halive : ∀ k ∈ s.copies, k.dead = []) : readsChunk s f sl (·.dead) = false := by
  unfold readsChunk
  rw [List.any_eq_false]
  intro b _
  split
  next i hi =>
    have hmem : i ∈ s.copies := by
      unfold slugImage at hi
      dsimp only at hi
      split at hi
      · cases hi
      · exact List.mem_of_find?_eq_some hi
    rw [show (fun i : ImageCopy => i.dead) i = [] from halive i hmem]
    exact Bool.false_ne_true
  next => exact Bool.false_ne_true

/-! ### An op is done (R184) -/

/-- A slug whose op is done: it stands at its next one. -/
def doneSlug (g : Slug → Slug) (z : Slug) : Slug := { g z with op := z.op + 1, wait := .none, fetched := [], asked := [] }

/-- A slug with no op left is PROVED, and its cores are free. -/
def provedSlug (z : Slug) : Slug := { z with state := .proved, cores := [] }

/-- The state in which a done op is judged. -/
def opJudged (s : State) (f : FormeId) (tag : SlugTag) (g : Slug → Slug) : State :=
  (readClean (s.modForme f (fun x => modSlug x tag (doneSlug g))) f tag).modForme f trimStaged

theorem opJudged_forme (s : State) (f : FormeId) (tag : SlugTag) (g : Slug → Slug) : ∃ i m, (opJudged s f tag g).forme f =
    { modSlug (s.forme f) tag (doneSlug g) with inker := i, makeup := m } := by
  obtain ⟨i, hi⟩ := (readClean_refreshed (s.modForme f (fun x => modSlug x tag (doneSlug g))) f tag).inkers f
  rw [opJudged, State.forme_modForme_self, hi, State.forme_modForme_self]
  exact ⟨i, _, rfl⟩

theorem opJudged_alive {g : Slug → Slug} (halive : ∀ k ∈ s.copies, k.dead = []) : ∀ k ∈ (opJudged s f tag g).copies, k.dead = [] := by
  rw [opJudged, State.modForme_copies _ (g := trimStaged) fun _ => rfl]
  refine (readClean_refreshed _ f tag).alive ?_
  rw [State.modForme_copies _ (g := fun x => modSlug x tag (doneSlug g)) fun _ => rfl]
  exact halive

theorem opJudged_kept (s : State) (f : FormeId) (tag : SlugTag) (g : Slug → Slug) :
    (opJudged s f tag g).stack = s.stack ∧ (opJudged s f tag g).galley = s.galley ∧ (opJudged s f tag g).out = s.out := by
  obtain ⟨h1, h2, h3, -, -⟩ := (readClean_refreshed (s.modForme f (fun x => modSlug x tag (doneSlug g))) f tag).kept
  exact ⟨h1, h2, h3⟩

/-- What becomes of a slug whose op is done: a chunk lost for good, or proofs past PROOF_KIB, fail it. -/
def opOutcome (s : State) (f : FormeId) (tag : SlugTag) (sl : Slug) : State :=
  if readsChunk s f sl (·.dead) then s.failSlug f tag 0x0C01
  else if sl.proofKib * 4 < proofLines sl.proofs then s.failSlug f tag 0x0A02
  else if (opsOf (s.forme f) sl).length ≤ sl.op then (s.modForme f (fun x => modSlug x tag provedSlug)).settle f
  else s

theorem opDone_eq {g : Slug → Slug} {z : Slug} (hz : findSlug ((opJudged s f tag g).forme f) tag = some z) :
    opDone s f tag g = opOutcome (opJudged s f tag g) f tag z := by
  unfold opDone
  dsimp only
  rw [show (readClean (s.modForme f (fun x => modSlug x tag (fun sl => { g sl with op := sl.op + 1, wait := .none, fetched := [], asked := [] })))
    f tag).modForme f trimStaged = opJudged s f tag g from rfl, hz]
  rfl

theorem opOutcome_spec (hfind : findSlug (s.forme f) tag = some sl) (halive : ∀ k ∈ s.copies, k.dead = []) (hrun : sl.state ≠ .queued)
    (hfits : proofLines sl.proofs ≤ sl.proofKib * 4) : (∃ b, findSlug ((opOutcome s f tag sl).forme f) tag =
      some (if (opsOf (s.forme f) sl).length ≤ sl.op then { provedSlug sl with inStep := b } else sl)) ∧
    (opOutcome s f tag sl).stack = s.stack ∧ (opOutcome s f tag sl).galley = s.galley ∧ (opOutcome s f tag sl).out = s.out ∧
    ((opOutcome s f tag sl).forme f).jobs = (s.forme f).jobs := by
  have hclean : ¬ readsChunk s f sl (·.dead) = true := by
    rw [readsChunk_dead_of_alive halive]
    exact Bool.false_ne_true
  rw [opOutcome, if_neg hclean, if_neg (Nat.not_lt.mpr hfits)]
  split
  · have hproved : findSlug ((s.modForme f (fun x => modSlug x tag provedSlug)).forme f) tag = some (provedSlug sl) := by
      rw [State.forme_modForme_self, findSlug_modSlug_self (g := provedSlug) (fun _ => rfl), hfind]
      rfl
    obtain ⟨b, hb⟩ := State.findSlug_settle hproved nofun
    obtain ⟨-, hstack, hout⟩ := (s.modForme f (fun x => modSlug x tag provedSlug)).settle_beside f
    obtain ⟨sc, ls, sls, hforme⟩ := (s.modForme f (fun x => modSlug x tag provedSlug)).settle_forme_rest f
    refine ⟨⟨b, hb⟩, hstack, rfl, hout, ?_⟩
    rw [hforme, State.forme_modForme_self]
    rfl
  · exact ⟨⟨sl.inStep, hfind⟩, rfl, rfl, rfl, rfl⟩

/-- An op that leaves PROOF_KIB kept and no lost chunk read is done: the slug stands at its next op, or is PROVED after the last. -/
theorem opDone_spec {g : Slug → Slug} (hfind : findSlug (s.forme f) tag = some sl) (hg : ∀ z, (g z).tag = z.tag) (hrun : (g sl).state ≠ .queued)
    (halive : ∀ k ∈ s.copies, k.dead = []) (hfits : proofLines (g sl).proofs ≤ (g sl).proofKib * 4) :
    (∃ b, findSlug ((opDone s f tag g).forme f) tag = some (if (opsOf (s.forme f) (g sl)).length ≤ sl.op + 1 then
      { provedSlug (doneSlug g sl) with inStep := b } else doneSlug g sl)) ∧
    (opDone s f tag g).stack = s.stack ∧ (opDone s f tag g).galley = s.galley ∧ (opDone s f tag g).out = s.out ∧
    ((opDone s f tag g).forme f).jobs = (s.forme f).jobs := by
  obtain ⟨i, m, hforme⟩ := opJudged_forme s f tag g
  obtain ⟨hstack, hgalley, hout⟩ := opJudged_kept s f tag g
  have hfind' : findSlug ((opJudged s f tag g).forme f) tag = some (doneSlug g sl) := by
    rw [hforme]
    change findSlug (modSlug (s.forme f) tag (doneSlug g)) tag = _
    rw [findSlug_modSlug_self (g := doneSlug g) hg, hfind]
    rfl
  obtain ⟨⟨b, hb⟩, hstack', hgalley', hout', hjobs⟩ := opOutcome_spec hfind' (opJudged_alive halive) hrun hfits
  have hops : opsOf ((opJudged s f tag g).forme f) (doneSlug g sl) = opsOf (s.forme f) (g sl) := by
    rw [hforme]
    rfl
  rw [hops] at hb
  rw [opDone_eq hfind']
  refine ⟨⟨b, hb⟩, hstack'.trans hstack, hgalley'.trans hgalley, hout'.trans hout, ?_⟩
  rw [hjobs, hforme]
  rfl

end Sys2Proof.Machine
end

section
/-! The start of a collective, its early end and its completion (R50, R197, R322 to R324, R326, R327). -/
namespace Sys2Proof.Machine

variable {s t : State} {f : FormeId} {k : JobSlot} {j : Job} {c : Coll} {tag : SlugTag} {sl : Slug} {o : OpRec}

/-! ### Waiting for a window (R323) -/

/-- A slug that waits. -/
def waitsFor (w : SlugWait) (z : Slug) : Slug := { z with wait := w }

/-- A slug stands at a collective op of a job that has no collective in progress. -/
structure AtColl (s : State) (f : FormeId) (tag : SlugTag) (sl : Slug) (o : OpRec) (j : Job) : Prop where
  found : findSlug (s.forme f) tag = some sl
  runs  : sl.state = .running
  waits : sl.wait = .none ∨ sl.wait = .window
  op    : (opsOf (s.forme f) sl)[sl.op]? = some o
  kind  : opKind o = 7
  job   : (s.forme f).job (collSlot o) = some j
  free  : j.coll = none

theorem AtColl.stands (h : AtColl s f tag sl o j) : ¬ (!(sl.state == .running && (sl.wait == .none || sl.wait == .window))) = true := by
  rcases h.waits with hw | hw <;> simp [h.runs, hw]

theorem AtColl.isColl (h : AtColl s f tag sl o j) : ¬ (opKind o != 7) = true := by simp [h.kind]

theorem exec_collectiveStart_closed (h : AtColl s f tag sl o j) (hw : j.window = none) : exec (.collectiveStart f tag) s =
    .next (if collStopped s then s.faultSlug f tag .discarded 0x0310 else s.modForme f (fun x => modSlug x tag (waitsFor .window))) := by
  simp only [exec, execCollectiveStart, h.found, if_neg h.stands, h.op, if_neg h.isColl, h.job, h.free, hw]
  rfl

theorem exec_collectiveStart_open {w : Word × Word × Nat × Nat × Nat} (h : AtColl s f tag sl o j) (hw : j.window = some w)
    (hopen : j.isOpen = true) (hroom : w.2.2.2.2 < w.2.2.2.1) (hfirst : firstAtColl s f sl (collSlot o) = true) :
    exec (.collectiveStart f tag) s = .next (beginColl s f sl o (collSlot o) j w.1 w.2.2.2.2) := by
  obtain ⟨st, a, b, m, n⟩ := w
  have hgo : (j.isOpen && n < m && firstAtColl s f sl (collSlot o)) = true := by rw [hopen, hfirst, decide_eq_true hroom]; rfl
  simp only [exec, execCollectiveStart, h.found, if_neg h.stands, h.op, if_neg h.isColl, h.job, h.free, hw, if_pos hgo]

/-! ### A collective begins (R324) -/

/-- The collective as it begins. -/
def begunColl (s : State) (f : FormeId) (sl : Slug) (o : OpRec) (stroke : Word) (begun : Nat) : Coll where
  tag := sl.tag
  k := begun + 1
  op := opWord o 0
  elements := collElements o
  joinAt := s.time.stroke
  stroke := stroke
  digest := joinDigest o
  joined := []
  input := collInput s f sl o
  vals := []
  held := []
  output := []
  sat := false
  flips := []
  moving := false

/-- The job whose next collective has begun, with no JOIN kept for it. -/
def begunJob (c : Coll) (begun : Nat) (j : Job) : Job :=
  { j with
    coll := some c, early := j.early.filter (fun e => !([] : List (Nat × Nat × Word × BitVec 128)).contains e),
    window := j.window.map (fun w => (w.1, w.2.1, w.2.2.1, w.2.2.2.1, begun + 1)) }

/-- The slug of a collective in progress. -/
def joiningSlug (z : Slug) : Slug := { z with wait := .collective, sentColl := true }

/-- The state in which a member sends its JOIN. -/
def joining (s : State) (f : FormeId) (sl : Slug) (k : JobSlot) (c : Coll) (begun : Nat) : State :=
  (s.modJob f k (begunJob c begun)).modForme f (fun x => modSlug x sl.tag joiningSlug)

theorem joining_forme (hj : (s.forme f).job k = some j) (begun : Nat) :
    (joining s f sl k c begun).forme f = modSlug ((s.forme f).setJob k (some (begunJob c begun j))) sl.tag joiningSlug := by
  rw [joining, State.forme_modForme_self, State.modJob_of_some hj]

theorem joining_onlyForme (s : State) (f : FormeId) (sl : Slug) (k : JobSlot) (c : Coll) (begun : Nat) :
    OnlyForme f s (joining s f sl k c begun) :=
  (s.modJob_onlyForme f k _).trans (State.modForme_onlyForme _ f _)

/-- A route's link and the forme's right to it do not follow the job. -/
theorem reachable_congr (hself : t.selfReg = s.selfReg) (hlinks : t.links = s.links) (hcfg : (t.forme f).cfg = (s.forme f).cfg) (m : BitVec 12) :
    reachable t f m = reachable s f m := by
  unfold reachable
  rw [route_congr hself hlinks, hcfg] <;> rfl

theorem joining_reachable (hj : (s.forme f).job k = some j) (begun : Nat) (m : BitVec 12) :
    reachable (joining s f sl k c begun) f m = reachable s f m := by
  have hforme := joining_forme (sl := sl) (c := c) hj begun
  obtain ⟨hlinks, hself, -⟩ := (joining_onlyForme s f sl k c begun).rest
  generalize joining s f sl k c begun = u at hforme hlinks hself ⊢
  refine reachable_congr hself hlinks ?_ m
  rw [hforme]
  rfl

/-- A collective of two members or more waits for the others' JOINs. -/
theorem allJoined_of_none (hnone : c.joined = []) (htwo : 2 ≤ (jobMembers j).length) : allJoined s j c = false := by
  have hlone : ∃ i, i < (jobMembers j).length ∧ i ≠ myIndex s j := by
    by_cases h0 : myIndex s j = 0
    · exact ⟨1, htwo, by omega⟩
    · exact ⟨0, by omega, Ne.symm h0⟩
  obtain ⟨i, hi, hne⟩ := hlone
  rw [allJoined, List.all_eq_false]
  exact ⟨i, List.mem_range.mpr hi, by simp [hnone, hne]⟩

theorem beginColl_eq {stroke : Word} {begun : Nat} (hj : (s.forme f).job k = some j) (hearly : j.early = [])
    (hreach : ∀ m ∈ jobMembers j, m ≠ s.selfModule → reachable s f m = true) : beginColl s f sl o k j stroke begun =
      maybeMove (sendAll (joining s f sl k (begunColl s f sl o stroke begun) begun) f k (.join (begun + 1) stroke (joinDigest o))) f k := by
  have hall : ((jobMembers j).filter (· != s.selfModule)).all (reachable (joining s f sl k (begunColl s f sl o stroke begun) begun) f) = true := by
    rw [List.all_eq_true]
    intro m hm
    obtain ⟨hmem, hother⟩ := List.mem_filter.mp hm
    rw [joining_reachable hj, hreach m hmem (by simpa using hother)]
  unfold beginColl
  dsimp only
  rw [hearly, List.filter_nil, List.foldl_nil]
  exact if_pos hall

/-- A collective that begins waits for the other members, and its slug with it. -/
theorem beginColl_spec {stroke : Word} {begun : Nat} (hfind : findSlug (s.forme f) sl.tag = some sl) (hj : (s.forme f).job k = some j)
    (hearly : j.early = []) (htwo : 2 ≤ (jobMembers j).length) (hreach : ∀ m ∈ jobMembers j, m ≠ s.selfModule → reachable s f m = true) :
    findSlug ((beginColl s f sl o k j stroke begun).forme f) sl.tag = some (joiningSlug sl) ∧
    (∃ i, ((beginColl s f sl o k j stroke begun).forme f).job k = some i ∧ i.coll = some (begunColl s f sl o stroke begun)) ∧
    (beginColl s f sl o k j stroke begun).stack = s.stack ∧ (beginColl s f sl o k j stroke begun).galley = s.galley ∧
    (beginColl s f sl o k j stroke begun).time = s.time := by
  have hjoin := joining_forme (sl := sl) (c := begunColl s f sl o stroke begun) hj begun
  have honly := joining_onlyForme s f sl k (begunColl s f sl o stroke begun) begun
  have hslug : findSlug ((joining s f sl k (begunColl s f sl o stroke begun) begun).forme f) sl.tag = some (joiningSlug sl) := by
    rw [hjoin, findSlug_modSlug_self (g := joiningSlug) fun _ => rfl]
    change Option.map joiningSlug (findSlug (s.forme f) sl.tag) = _
    rw [hfind]
    rfl
  have hjob : ((joining s f sl k (begunColl s f sl o stroke begun) begun).forme f).job k =
      some (begunJob (begunColl s f sl o stroke begun) begun j) := by
    rw [hjoin]
    exact Forme.job_setJob_self (s.forme f) k _
  rw [beginColl_eq hj hearly hreach]
  have hpost := sendAll_posted (joining s f sl k (begunColl s f sl o stroke begun) begun) f k (.join (begun + 1) stroke (joinDigest o))
  generalize joining s f sl k (begunColl s f sl o stroke begun) begun = u at honly hslug hjob hpost
  generalize sendAll u f k (.join (begun + 1) stroke (joinDigest o)) = v at hpost
  obtain ⟨hstack, hgalley, htime, -⟩ := (honly.sends.trans hpost.sends).kept
  obtain ⟨a, b, hforme⟩ := hpost.forme _ hjob
  have hvjob : (v.forme f).job k = some (numbered (begunJob (begunColl s f sl o stroke begun) begun j) a b) := by
    rw [hforme, Forme.job_setJob_self]
  have hwait : ¬ (!(begunColl s f sl o stroke begun).moving && allJoined v (numbered (begunJob (begunColl s f sl o stroke begun) begun j) a b)
      (begunColl s f sl o stroke begun)) = true := by
    have hnone : allJoined v (numbered (begunJob (begunColl s f sl o stroke begun) begun j) a b) (begunColl s f sl o stroke begun) = false :=
      allJoined_of_none rfl htwo
    rw [hnone, Bool.and_false]
    exact Bool.false_ne_true
  have hstays : maybeMove v f k = v := by
    rw [maybeMove, jobColl_of_some hvjob rfl]
    exact if_neg hwait
  rw [hstays]
  refine ⟨?_, ⟨_, hvjob, rfl⟩, hstack, hgalley, htime⟩
  rw [hforme]
  exact hslug

/-! ### The end of a collective (R197, R324, R326) -/

theorem exec_joinTimeout {w : Word × Word × Nat × Nat × Nat} (hj : (s.forme f).job k = some j) (hc : j.coll = some c) (hw : j.window = some w)
    (hmissing : allJoined s j c = false) (hlate : c.joinAt.toNat + w.2.2.1 ≤ s.time.stroke.toNat) :
    exec (.joinTimeout f k) s = .next (collFault s f k 1 0x1001 true) := by
  have hgo : (!allJoined s j c && decide (c.joinAt.toNat + w.2.2.1 ≤ s.time.stroke.toNat)) = true := by
    rw [hmissing, decide_eq_true hlate]
    rfl
  simp only [exec, execJoinTimeout, jobColl_of_some hj hc, hw, if_pos hgo]

/-- A job without a collective in progress. -/
def idleJob (j : Job) : Job := { j with coll := none }

theorem exec_collectiveComplete {v : Version} (hfind : findSlug (s.forme f) tag = some sl) (hop : (opsOf (s.forme f) sl)[sl.op]? = some o)
    (hv : slugVersion (s.forme f) sl = some v) (hkind : opKind o = 7) (hj : (s.forme f).job (collSlot o) = some j) (hc : j.coll = some c)
    (htag : c.tag = tag) (hrun : sl.state = .running) (hwait : sl.wait = .collective) (hwhole : outWhole j c = true)
    (hheld : sl.heldDetect = none) : exec (.collectiveComplete f tag) s =
      .next (opDone (s.modJob f (collSlot o) idleJob) f tag (sealSlug v o (collOutput j c))) := by
  have hgo : (decide (opKind o = 7) && decide (c.tag = tag) && sl.state == .running && sl.wait == .collective && outWhole j c) = true := by
    simp [hkind, htag, hrun, hwait, hwhole]
  simp only [exec, execCollectiveComplete, hfind, hop, hv, jobColl_of_some hj hc, if_pos hgo, hheld]
  rfl

theorem State.modJob_copies (s : State) (f : FormeId) (k : JobSlot) (g : Job → Job) : (s.modJob f k g).copies = s.copies := by
  unfold State.modJob
  refine State.modForme_copies s fun x => ?_
  split <;> rfl

/-- A kept tensor is a proof or a local of its slug, and nothing else of it changes. -/
theorem keepTensor_spec (v : Version) (h : BitVec 32) (d : List Byte) (z : Slug) :
    ∃ ps ls, keepTensor v h d z = { z with proofs := ps, locals := ls } := by
  unfold keepTensor
  split
  · exact ⟨z.proofs, _, rfl⟩
  · exact ⟨_, z.locals, rfl⟩

theorem sealSlug_spec (v : Version) (o : OpRec) (out : List Byte × BitVec 3) (z : Slug) : (sealSlug v o out z).tag = z.tag ∧
    (sealSlug v o out z).state = z.state ∧ (sealSlug v o out z).proofKib = z.proofKib ∧ (sealSlug v o out z).reads = noReads ∧
    ∃ q, (sealSlug v o out z).sealed = some q ∧ q.op = z.op + 1 ∧ q.proofs = (sealSlug v o out z).proofs := by
  obtain ⟨ps, ls, h⟩ := keepTensor_spec v (handleHi o 1) out.1 { z with flags := z.flags ||| out.2, replayed := false }
  rw [sealSlug, h]
  exact ⟨rfl, rfl, rfl, rfl, _, rfl, rfl, rfl⟩

/-- PROVED or not, a slug keeps its place, its proofs, what it has read and its seal. -/
theorem provedIf_kept (p : Prop) [Decidable p] (z : Slug) (b : Bool) : (if p then { provedSlug z with inStep := b } else z).op = z.op ∧
    (if p then { provedSlug z with inStep := b } else z).proofs = z.proofs ∧ (if p then { provedSlug z with inStep := b } else z).reads = z.reads ∧
    (if p then { provedSlug z with inStep := b } else z).sealed = z.sealed := by
  split <;> exact ⟨rfl, rfl, rfl, rfl⟩

/-- Settles O42: a collective waits for a window, begins with its JOINs, ends early by a fault, and completes as its slug's op. -/
theorem collectivesStart : Obligations.CollectivesStart := by
  refine ⟨fun s f tag sl o j hfind hrun hwait hop hkind hj hfree hw hgoes => ?_,
    fun s f tag sl o j hsole hrun hwait hop hkind hj hfree hw hstop => ?_,
    fun s f tag sl o j w hfind hrun hwait hop hkind hj hopen hfree hw hroom hfirst hearly htwo hreach => ?_,
    fun s f k j c w sl hj hc hw hmissing hlate hsole hrun => ?_,
    fun s f tag sl o v j c hfind hop hv hkind hj hc htag hrun hwait hwhole hheld halive hfits => ?_⟩
  · refine ⟨_, exec_collectiveStart_closed ⟨hfind, hrun, .inl hwait, hop, hkind, hj, hfree⟩ hw, ?_⟩
    rw [if_neg (by rw [hgoes]; exact Bool.false_ne_true)]
    refine ⟨State.modForme_onlyForme s f _, ?_, ?_⟩
    · rw [State.forme_modForme_self, findSlug_modSlug_self (g := waitsFor .window) fun _ => rfl, hfind]
      rfl
    · rw [State.forme_modForme_self]
      rfl
  · have hfind := Sole.findSlug hsole
    obtain ⟨⟨z, hz, hstate, hstatus⟩, -⟩ := State.faultSlug_spec (st := .discarded) (c := 0x0310) hsole (by simp [slugEnded, hrun])
      (by simp [pastPoint, hrun]) (.inr rfl)
    refine ⟨_, z, exec_collectiveStart_closed ⟨hfind, hrun, .inl hwait, hop, hkind, hj, hfree⟩ hw, ?_⟩
    rw [if_pos hstop]
    exact ⟨hz, hstate, hstatus⟩
  · have htag := findSlug_tag hfind
    subst htag
    obtain ⟨hslug, ⟨i, hi, hcoll⟩, hstack, hgalley, htime⟩ := beginColl_spec (o := o) (stroke := w.1) (begun := w.2.2.2.2) hfind hj hearly htwo hreach
    exact ⟨_, exec_collectiveStart_open ⟨hfind, hrun, hwait, hop, hkind, hj, hfree⟩ hw hopen hroom hfirst, ⟨_, hslug, rfl, rfl, hrun⟩,
      ⟨i, _, hi, hcoll, rfl, rfl, rfl, rfl, rfl, rfl, rfl, rfl⟩, hstack, hgalley, htime⟩
  · exact ⟨_, exec_joinTimeout hj hc hw hmissing hlate, (collFault_spec hj hc hsole hrun 1 true).1⟩
  · obtain ⟨-, hstate, hkib, hreads, q, hq, hqop, hqproofs⟩ := sealSlug_spec v o (collOutput j c) sl
    have honly := s.modJob_onlyForme f (collSlot o) idleJob
    have hforme := State.modJob_of_some hj idleJob
    have hfind' : findSlug ((s.modJob f (collSlot o) idleJob).forme f) tag = some sl := by
      rw [hforme]
      exact hfind
    have halive' : ∀ k ∈ (s.modJob f (collSlot o) idleJob).copies, k.dead = [] := by
      rw [State.modJob_copies]
      exact halive
    obtain ⟨⟨b, hz⟩, hstack, hgalley, hout, hjobs⟩ := opDone_spec (g := sealSlug v o (collOutput j c)) hfind'
      (fun z => (sealSlug_spec v o (collOutput j c) z).1) (by rw [hstate, hrun]; exact nofun) halive' (by rw [hkib]; exact hfits)
    obtain ⟨-, -, hstack', hgalley', hout', -⟩ := honly.rest
    have hexec := exec_collectiveComplete hfind hop hv hkind hj hc htag hrun hwait hwhole hheld
    generalize opDone (s.modJob f (collSlot o) idleJob) f tag (sealSlug v o (collOutput j c)) = t at *
    obtain ⟨hzop, hzproofs, hzreads, hzsealed⟩ := provedIf_kept ((opsOf ((s.modJob f (collSlot o) idleJob).forme f)
      (sealSlug v o (collOutput j c) sl)).length ≤ sl.op + 1) (doneSlug (sealSlug v o (collOutput j c)) sl) b
    refine ⟨t, idleJob j, _, q, hexec, ?_, rfl, hz, hzop, hzproofs, hzreads.trans hreads, hzsealed.trans hq, hqop, hqproofs.trans hzproofs.symm,
      hstack.trans hstack', hgalley.trans hgalley', hout.trans hout'⟩
    rw [Forme.job, hjobs, ← Forme.job, hforme, Forme.job_setJob_self]

end Sys2Proof.Machine
end

section
/-! Inking a copy, its chunks, and the refetch of bad ones (R230, R234, R235, R237, R238, R240). -/
namespace Sys2Proof.Machine

variable {s t u : State} {f : FormeId} {q : InkReq} {i : ImageCopy} {c : FormeCfg}

/-! ### What the writing of sheets leaves (R130, R230, R231) -/

/-- Stack memory, the energy account and the staging of one forme apart, nothing has changed. -/
def Sheeted (f : FormeId) (s t : State) : Prop := ∃ k p m, t = ({ s with stack := k, platen := p }).modForme f (fun x => { x with makeup := m })

theorem State.setForme_self (s : State) (f : FormeId) : s.setForme f (s.forme f) = s := by simp [State.setForme, State.forme]

theorem Sheeted.of_store (s : State) (f : FormeId) (k : Stack) (p : Platen) : Sheeted f s { s with stack := k, platen := p } :=
  ⟨k, p, (s.forme f).makeup, (State.setForme_self { s with stack := k, platen := p } f).symm⟩

theorem Sheeted.refl (s : State) : Sheeted f s s := Sheeted.of_store s f s.stack s.platen

theorem Sheeted.trans (h : Sheeted f s t) (g : Sheeted f t u) : Sheeted f s u := by
  obtain ⟨k, p, m, rfl⟩ := h
  obtain ⟨k', p', m', rfl⟩ := g
  refine ⟨k', p', m', ?_⟩
  simp [State.modForme, State.setForme, State.forme]

theorem Sheeted.forme (h : Sheeted f s t) : ∃ m, t.forme f = { s.forme f with makeup := m } := by
  obtain ⟨k, p, m, rfl⟩ := h
  exact ⟨m, State.forme_modForme_self ..⟩

theorem Sheeted.kept (h : Sheeted f s t) : t.galley = s.galley ∧ t.out = s.out ∧ t.time = s.time ∧ t.ports = s.ports := by
  obtain ⟨k, p, m, rfl⟩ := h
  exact ⟨rfl, rfl, rfl, rfl⟩

theorem Sheeted.copies (h : Sheeted f s t) : t.copies = s.copies := by
  obtain ⟨k, p, m, rfl⟩ := h
  exact State.modForme_copies _ fun _ => rfl

theorem watchedStore_sheeted (s : State) (f : FormeId) (h : Hint) (off : Nat) (d : List Byte) : Sheeted f s (watchedStore s f h off d) := by
  refine ⟨(s.stackStore f h off d).stack, (s.stackStore f h off d).platen,
    (invalidatePages ((s.stackStore f h off d).forme f) (pagesOf off d.length)).makeup, ?_⟩
  rw [← State.stackStore_eq]
  rfl

theorem copyWrite_sheeted (s : State) (f : FormeId) (i : ImageCopy) (off : Nat) (d : List Byte) : Sheeted f s (copyWrite s f i off d) := by
  unfold copyWrite
  split
  · exact Sheeted.of_store s f _ _
  · exact watchedStore_sheeted ..

theorem writeTile_sheeted (f : FormeId) (i : ImageCopy) (x : ImageTensor) (s : State) (tile : Nat) : Sheeted f s (writeTile f i x s tile) := by
  unfold writeTile
  dsimp only
  split
  · exact ((copyWrite_sheeted ..).trans (copyWrite_sheeted ..)).trans (copyWrite_sheeted ..)
  · exact (copyWrite_sheeted ..).trans (copyWrite_sheeted ..)

theorem foldl_sheeted {α : Type} {g : State → α → State} (hg : ∀ u x, Sheeted f u (g u x)) (l : List α) (s : State) : Sheeted f s (l.foldl g s) :=
  foldl_related (R := Sheeted f) Sheeted.refl Sheeted.trans hg l s

/-- A chunk at hand: sheets are written, and of the copy only its chunks and reference exponents move on. -/
theorem takeChunk_spec (s : State) (f : FormeId) (i : ImageCopy) (n : Nat) (bs : List Byte) : Sheeted f s (takeChunk s f i n bs).1 ∧
    ∃ ps rs, (takeChunk s f i n bs).2 = { i with plain := ps, refs := rs } := by
  refine ⟨?_, _, _, rfl⟩
  refine foldl_sheeted (fun u x => ?_) _ s
  exact foldl_sheeted (fun v tile => writeTile_sheeted f _ x v tile) _ u

/-! ### Reading chunks -/

theorem State.modInker_forme (s : State) (f : FormeId) (g : Inker → Inker) :
    (s.modInker f g).forme f = { s.forme f with inker := g (s.forme f).inker } := State.forme_modForme_self ..

theorem readChunk_sentOn (hcfg : (s.forme f).cfg = some c) (q : InkReq) (n : Nat) :
    SentOn c.port (.drd c.port c.fnId (s.reqTag c.port) false (q.source + BitVec.ofNat 64 (4096 + n * 1048576)) 1048576) s (readChunk s f q n) :=
  State.formeDrd_sentOn hcfg ..

theorem readChunk_onlyPorts (s : State) (f : FormeId) (q : InkReq) (n : Nat) : OnlyPorts s (readChunk s f q n) := by
  unfold readChunk State.formeDrd
  split
  · exact (State.sendDrd_sentOn ..).1.onlyPorts
  · exact OnlyPorts.refl s

/-- The request with its copy, as an inker keeps it. -/
def copying (q : InkReq) (i : ImageCopy) (done : BitVec 32) (k : Inker) : Inker := { k with done := done, req := some { q with copy := some i } }

/-- The leading chunks are taken one after the other. -/
theorem foldl_takeChunk_spec (s : State) (f : FormeId) (i : ImageCopy) (l : List (Nat × List Byte)) :
    Sheeted f s (l.foldl (fun (a : State × ImageCopy) ch => takeChunk a.1 f a.2 ch.1 ch.2) (s, i)).1 ∧
    ∃ ps rs, (l.foldl (fun (a : State × ImageCopy) ch => takeChunk a.1 f a.2 ch.1 ch.2) (s, i)).2 = { i with plain := ps, refs := rs } := by
  induction l generalizing s i with
  | nil => exact ⟨Sheeted.refl s, i.plain, i.refs, rfl⟩
  | cons ch l ih =>
    obtain ⟨hstate, ps, rs, hcopy⟩ := takeChunk_spec s f i ch.1 ch.2
    obtain ⟨hstate', ps', rs', hcopy'⟩ := ih (takeChunk s f i ch.1 ch.2).1 (takeChunk s f i ch.1 ch.2).2
    rw [List.foldl_cons]
    refine ⟨hstate.trans hstate', ps', rs', hcopy'.trans ?_⟩
    rw [hcopy]

/-- The copy begins: its leading chunks are in, and the next one is asked for. -/
theorem inkLead_spec (s : State) (f : FormeId) (q : InkReq) (i : ImageCopy) : ∃ ps rs m,
    (inkLead s f q i).forme f = { s.forme f with
      makeup := m, inker := copying q { i with plain := ps, refs := rs } (BitVec.ofNat 32 i.plain.length) (s.forme f).inker } ∧
    (i.plain.length < i.chunks → ∀ c, (s.forme f).cfg = some c → ∃ tag, (inkLead s f q i).out = s.out ++ [.drd c.port c.fnId tag false
      (q.source + BitVec.ofNat 64 (4096 + i.plain.length * 1048576)) 1048576]) := by
  obtain ⟨hstate, ps, rs, hcopy⟩ := foldl_takeChunk_spec s f { i with plain := [] } i.plain
  have hlead : inkLead s f q i = (if i.plain.length < i.chunks then readChunk ((i.plain.foldl (fun (a : State × ImageCopy) ch =>
      takeChunk a.1 f a.2 ch.1 ch.2) (s, { i with plain := [] })).1.modInker f (copying q (i.plain.foldl (fun (a : State × ImageCopy) ch =>
      takeChunk a.1 f a.2 ch.1 ch.2) (s, { i with plain := [] })).2 (BitVec.ofNat 32 i.plain.length))) f q i.plain.length
    else (i.plain.foldl (fun (a : State × ImageCopy) ch => takeChunk a.1 f a.2 ch.1 ch.2) (s, { i with plain := [] })).1.modInker f
      (copying q (i.plain.foldl (fun (a : State × ImageCopy) ch => takeChunk a.1 f a.2 ch.1 ch.2) (s, { i with plain := [] })).2
        (BitVec.ofNat 32 i.plain.length))) := rfl
  rw [hlead, hcopy]
  generalize (i.plain.foldl (fun (a : State × ImageCopy) ch => takeChunk a.1 f a.2 ch.1 ch.2) (s, { i with plain := [] })).1 = u at hstate
  obtain ⟨m, hm⟩ := hstate.forme
  have hforme := u.modInker_forme f (copying q { i with plain := ps, refs := rs } (BitVec.ofNat 32 i.plain.length))
  rw [hm] at hforme
  refine ⟨ps, rs, m, ?_, fun hmore c hcfg => ?_⟩
  · split
    · rw [(onlyPorts_iff.mp (readChunk_onlyPorts _ f q i.plain.length)).choose_spec.choose_spec]
      exact hforme
    · exact hforme
  · have hcfg' : ((u.modInker f (copying q { i with plain := ps, refs := rs } (BitVec.ofNat 32 i.plain.length))).forme f).cfg = some c := by
      rw [hforme]
      exact hcfg
    rw [if_pos hmore, (readChunk_sentOn hcfg' q i.plain.length).2]
    exact ⟨_, congrArg (· ++ _) hstate.kept.2.1⟩

end Sys2Proof.Machine
end

section
/-! The chunks of a copy in progress, its switch, and the refetch of bad chunks (R230, R234, R235, R237, R238, R240). -/
namespace Sys2Proof.Machine

variable {s t u : State} {f : FormeId} {q : InkReq} {i : ImageCopy} {c : FormeCfg} {tag : SlugTag}

/-! ### What the end of slugs leaves of the inkers (R238) -/

/-- The work of slugs and the kept code of the inkers have changed, and nothing else of the formes. -/
def InkCoded (s t : State) : Prop := (∀ g : FormeId, ∃ sc ls sls e, t.forme g = { s.forme g with
  sched := sc, launches := ls, slugs := sls, inker := { (s.forme g).inker with code := e } }) ∧ t.orphans = s.orphans

theorem InkCoded.refl (s : State) : InkCoded s s :=
  ⟨fun g => ⟨(s.forme g).sched, (s.forme g).launches, (s.forme g).slugs, (s.forme g).inker.code, rfl⟩, rfl⟩

theorem InkCoded.trans (h : InkCoded s t) (k : InkCoded t u) : InkCoded s u := by
  refine ⟨fun g => ?_, k.2.trans h.2⟩
  obtain ⟨_, _, _, _, h1⟩ := h.1 g
  obtain ⟨sc, ls, sls, e, h2⟩ := k.1 g
  exact ⟨sc, ls, sls, e, by rw [h2, h1]⟩

theorem InkCoded.copies (h : InkCoded s t) : t.copies = s.copies := by
  rw [State.copies_eq, State.copies_eq, h.2]
  congr 1
  refine congrArg (List.flatMap · allFormes) (funext fun g => ?_)
  obtain ⟨sc, ls, sls, e, hg⟩ := h.1 g
  rw [hg]
  rfl

theorem State.modForme_inkCoded (s : State) (f : FormeId) (g : Forme → Forme) (hg : ∀ x, ∃ sc ls sls e, g x = { x with
    sched := sc, launches := ls, slugs := sls, inker := { x.inker with code := e } }) : InkCoded s (s.modForme f g) := by
  refine ⟨fun o => ?_, rfl⟩
  by_cases ho : f = o
  · subst ho
    rw [State.forme_modForme_self]
    exact hg _
  · rw [State.forme_modForme_of_ne _ _ _ _ ho]
    exact (InkCoded.refl s).1 o

theorem noteFormeCode_ink {e : Code} (he : e.toNat / 256 = 0x0C) (x : Forme) :
    noteFormeCode x e = { x with inker := { x.inker with code := e } } := by
  simp only [noteFormeCode, he]

/-- A code of the inker is kept, and raises no event. -/
theorem State.noteCode_ink {e : Code} (he : e.toNat / 256 = 0x0C) (s : State) (f : FormeId) :
    s.noteCode f e = s.modForme f (fun x => { x with inker := { x.inker with code := e } }) := by
  rw [State.noteCode_of_ne (by rw [he]; decide)]
  exact congrArg (s.modForme f) (funext (noteFormeCode_ink he))

theorem State.noteCode_inkCoded {e : Code} (he : e.toNat / 256 = 0x0C) (s : State) (f : FormeId) : InkCoded s (s.noteCode f e) := by
  rw [State.noteCode_ink he]
  refine s.modForme_inkCoded f _ fun x => ?_
  exact ⟨x.sched, x.launches, x.slugs, e, rfl⟩

theorem State.settle_inkCoded (s : State) (f : FormeId) : InkCoded s (s.settle f) := by
  refine ⟨fun g => ?_, rfl⟩
  by_cases hg : f = g
  · subst hg
    obtain ⟨sc, ls, sls, h⟩ := s.settle_forme_rest f
    exact ⟨sc, ls, sls, (s.forme f).inker.code, h⟩
  · have hother : (s.settle f).forme g = s.forme g := (s.settle_beside f).1.formes g (Ne.symm hg)
    rw [hother]
    exact (InkCoded.refl s).1 g

theorem State.faultSlug_inkCoded {e : Code} (he : e.toNat / 256 = 0x0C) (s : State) (f : FormeId) (tag : SlugTag) (st : SlugState) :
    InkCoded s (s.faultSlug f tag st e) := by
  have hwork : InkCoded s (s.modForme f (fun x => (x.noteSlugFault tag s.time.ticks e).endSlug tag st e)) := by
    refine s.modForme_inkCoded f _ fun x => ?_
    obtain ⟨ls, hnote⟩ := x.noteSlugFault_eq tag s.time.ticks e
    obtain ⟨sls, hend⟩ := (x.noteSlugFault tag s.time.ticks e).endSlug_onlySlugs tag st e
    exact ⟨x.sched, ls, sls, x.inker.code, by rw [hend, hnote]⟩
  unfold State.faultSlug
  split
  · split
    · exact InkCoded.refl s
    · exact (hwork.trans (State.noteCode_inkCoded he _ f)).trans (State.settle_inkCoded _ f)
  · exact InkCoded.refl s

/-! ### The chunks of a copy in progress (R230, R240) -/

/-- An inker that has taken one more chunk of its copy. -/
def tookChunk (q : InkReq) (d : ImageCopy) (k : Inker) : Inker := { k with done := k.done + 1, req := some { q with copy := some d } }

theorem exec_inkChunkDone_data {b : Blob} (hreq : (s.forme f).inker.req = some q) (hcopy : q.copy = some i) (hstate : (s.forme f).inker.state = 1)
    (hmore : (s.forme f).inker.done.toNat < i.chunks) {k : State} {d : ImageCopy} (hk : takeChunk (s.retireUse (.inkChunk f)) f i
      (s.forme f).inker.done.toNat (chunkPlain i.key i.nonce (s.forme f).inker.done.toNat b) = (k, d)) :
    exec (.inkChunkDone f (.data b)) s = .next (if (s.forme f).inker.done.toNat + 1 < i.chunks then
      readChunk (k.modInker f (fun x => { x with done := x.done + 1, req := some { q with copy := some d } })) f q ((s.forme f).inker.done.toNat + 1)
      else k.modInker f (fun x => { x with done := x.done + 1, req := some { q with copy := some d } })) := by
  have hgo : (((s.forme f).inker.state == 1 || ((s.forme f).inker.state == 3 && q.dropped)) &&
      decide ((s.forme f).inker.done.toNat < i.chunks)) = true := by
    rw [hstate, decide_eq_true hmore]
    rfl
  simp only [exec, execInkChunkDone, inkChunkDone, hreq, hcopy, hgo, if_true, hk]

theorem exec_inkChunkDone_fault {st : EcpStatus} {a : HostAddr} (hreq : (s.forme f).inker.req = some q) (hcopy : q.copy = some i)
    (hstate : (s.forme f).inker.state = 1) (hmore : (s.forme f).inker.done.toNat < i.chunks) :
    exec (.inkChunkDone f (.fault st a)) s = .next (inkFails ((s.retireUse (.inkChunk f)).noteFault f a st) f) := by
  have hgo : (((s.forme f).inker.state == 1 || ((s.forme f).inker.state == 3 && q.dropped)) &&
      decide ((s.forme f).inker.done.toNat < i.chunks)) = true := by
    rw [hstate, decide_eq_true hmore]
    rfl
  simp only [exec, execInkChunkDone, inkChunkDone, hreq, hcopy, hgo, if_true]

/-- Service that goes on touches the rings and its own mark. -/
theorem resumeService_spec (x : Forme) : ∃ st rs, resumeService x = { x with stopped := st, rings := rs } := by
  unfold resumeService
  split
  · exact ⟨_, _, rfl⟩
  · exact ⟨x.stopped, x.rings, rfl⟩

/-- An ink that fails leaves the bindings, and keeps its code. -/
theorem inkFails_spec (s : State) (f : FormeId) : ∃ st rs, (inkFails s f).forme f = { s.forme f with
    stopped := st, rings := rs, inker := { (s.forme f).inker with code := 0x0C05, req := none, state := 0 } } ∧ (inkFails s f).stack = s.stack := by
  rw [inkFails, State.noteCode_ink (by decide), State.forme_modForme_self, State.forme_modForme_self]
  obtain ⟨st, rs, h⟩ := resumeService_spec { s.forme f with inker := { (s.forme f).inker with code := 0x0C05, req := none, state := 0 } }
  exact ⟨st, rs, h, rfl⟩

/-! ### The switch and the end of the old copy (R234, R235) -/

theorem exec_inkCopyComplete (hreq : (s.forme f).inker.req = some q) (hcopy : q.copy = some i)
    (hstate : (s.forme f).inker.state = 1 ∨ (s.forme f).inker.state = 3) (hall : (s.forme f).inker.done.toNat = i.chunks) :
    exec (.inkCopyComplete f) s = .next (s.modInker f (fun k => { k with state := 2 })) := by
  have hgo : (decide ((s.forme f).inker.done.toNat = i.chunks) && ((s.forme f).inker.state == 1 || (s.forme f).inker.state == 3)) = true := by
    rw [decide_eq_true hall, Bool.true_and, Bool.or_eq_true, beq_iff_eq, beq_iff_eq]
    exact hstate
  simp only [exec, execInkCopyComplete, hreq, Option.bind_some, hcopy, hgo, if_true]

/-- The binding whose old copy goes, a shared one that others read apart. -/
def bindingDropped (s : State) (b : Binding) : Binding :=
  { b with image := none, old := b.old ++ b.image.toList.filter (fun i => i.shared && copyAttached s i.gen), set := .none, bHash := 0 }

theorem exec_stopServiceDrained (hreq : (s.forme f).inker.req = some q) (hcopy : q.copy = some i) (hfresh : q.dropped = false)
    (hstate : (s.forme f).inker.state = 3) (hidle : formeInflight (s.forme f) = 0) : exec (.stopServiceDrained f) s =
      .next (inkLead (leaveShared s (s.modBinding f q.binding (bindingDropped s))) f { q with dropped := true } i) := by
  have hgo : ((s.forme f).inker.state == 3 && !q.dropped && q.copy.isSome && decide (formeInflight (s.forme f) = 0)) = true := by
    rw [hstate, hfresh, hcopy, decide_eq_true hidle]
    rfl
  simp only [exec, execStopServiceDrained, hreq]
  rw [if_pos hgo, dropOld, hcopy]
  rfl

theorem State.modBinding_binding (s : State) (f : FormeId) (b : BindingId) (g : Binding → Binding) :
    ((s.modBinding f b g).forme f).binding b = g ((s.forme f).binding b) := by
  rw [State.modBinding, State.forme_modForme_self, Forme.binding]
  exact Vector.getElem_set_self ..

theorem leaveShared_out (before s : State) : (leaveShared before s).out = s.out := by
  unfold leaveShared
  refine foldl_keeps_of_step (proj := State.out) (fun t i => ?_) _ _
  rfl

/-! ### Refetched chunks (R237, R238) -/

/-- A refetched chunk is decoded into its sheets. -/
theorem rewriteSheets_spec (s : State) (f : FormeId) (i : ImageCopy) (n : Nat) (bs : List Byte) : Sheeted f s (rewriteSheets s f i n bs).1 ∧
    ∃ ps, (rewriteSheets s f i n bs).2 = { i with bad := i.bad.filter (· != n), fresh := i.fresh ++ [n], plain := ps } := by
  refine ⟨?_, _, rfl⟩
  refine foldl_sheeted (fun u x => ?_) _ s
  exact foldl_sheeted (fun v tile => writeTile_sheeted f _ x v tile) _ u

/-- Wherever a copy of a serial number is held it has been changed. -/
theorem gen_modCopy {g : ImageCopy → ImageCopy} {P : ImageCopy → Prop} (hP : ∀ k, P (g k)) {k : ImageCopy} (hk : k ∈ (s.modCopy i.gen g).copies)
    (hgen : k.gen = i.gen) : P k := by
  rw [State.modCopy_copies] at hk
  obtain ⟨k0, -, rfl⟩ := List.mem_map.mp hk
  rw [changeCopy] at hgen ⊢
  by_cases hk0 : k0.gen = i.gen
  · rw [if_pos (beq_iff_eq.mpr hk0)]
    exact hP k0
  · rw [if_neg (by simpa using hk0)] at hgen
    exact absurd hgen hk0

theorem exec_chunkRefetchDone_data {b : BindingId} {n : Nat} (hi : refetchCopy s f b n = some i) (d : Blob) :
    exec (.chunkRefetchDone f b n (.data d)) s = .next
      ((rewriteSheets (s.retireUse (.inkRefetch f b n)) f i n (chunkPlain i.key i.nonce n d)).1.modCopy i.gen
        (fun _ => (rewriteSheets (s.retireUse (.inkRefetch f b n)) f i n (chunkPlain i.key i.nonce n d)).2)) := by
  simp only [exec, execChunkRefetchDone, refetchDone, hi]

theorem exec_chunkRefetchDone_fault {b : BindingId} {n : Nat} (hi : refetchCopy s f b n = some i) (st : EcpStatus) (a : HostAddr) :
    exec (.chunkRefetchDone f b n (.fault st a)) s =
      .next ((deadChunk ((s.retireUse (.inkRefetch f b n)).noteFault f a st) i.gen n).noteCode f 0x0C01) := by
  simp only [exec, execChunkRefetchDone, refetchDone, hi]

/-- A copy with a chunk lost for good. -/
def deadened (n : Nat) (i : ImageCopy) : ImageCopy := { i with dead := i.dead ++ [n] }

theorem deadChunk_inkCoded (s : State) (gen n : Nat) : InkCoded (s.modCopy gen (deadened n)) (deadChunk s gen n) := by
  unfold deadChunk
  dsimp only
  rw [show (s.modCopy gen fun i => { i with dead := i.dead ++ [n] }) = s.modCopy gen (deadened n) from rfl]
  generalize s.modCopy gen (deadened n) = u
  refine foldl_related (R := InkCoded) InkCoded.refl InkCoded.trans (fun v r => ?_) _ u
  exact v.faultSlug_inkCoded (by decide) r.1 r.2 .failed

/-- Settles O36: chunks go into sheets and of the requester only its request moves on; a bad chunk is rewritten or lost in every copy. -/
theorem inkCopiesAndChunks : Obligations.InkCopiesAndChunks := by
  refine ⟨fun s f q i b c hreq hcopy hstate hmore hcfg => ?_, fun s f q i st a hreq hcopy hstate hmore => ?_,
    fun s f q i hreq hcopy hstate hall => ?_, fun s f q i o c hreq hcopy hfresh hstate hidle hcfg himage hshared => ?_,
    fun s f b n d i hi => ?_, fun s f b n st a i hi => ?_⟩
  · obtain ⟨hsheets, -⟩ := takeChunk_spec (s.retireUse (.inkChunk f)) f i (s.forme f).inker.done.toNat
      (chunkPlain i.key i.nonce (s.forme f).inker.done.toNat b)
    have hexec := fun k d => exec_inkChunkDone_data (b := b) (k := k) (d := d) hreq hcopy hstate hmore
    dsimp only
    generalize takeChunk (s.retireUse (.inkChunk f)) f i (s.forme f).inker.done.toNat
      (chunkPlain i.key i.nonce (s.forme f).inker.done.toNat b) = p at hexec hsheets ⊢
    obtain ⟨m, hm⟩ := hsheets.forme
    obtain ⟨hgalley, hout, -⟩ := hsheets.kept
    have hforme := p.1.modInker_forme f (tookChunk q p.2)
    rw [hm] at hforme
    have hcfg' : ((p.1.modInker f (tookChunk q p.2)).forme f).cfg = some c := by
      rw [hforme]
      exact hcfg
    refine ⟨_, hexec p.1 p.2 rfl, ?_⟩
    by_cases hnext : (s.forme f).inker.done.toNat + 1 < i.chunks
    · obtain ⟨hports, hsent⟩ := readChunk_sentOn hcfg' q ((s.forme f).inker.done.toNat + 1)
      obtain ⟨x, o, hread⟩ := onlyPort_iff.mp hports
      rw [if_pos hnext, if_pos hnext]
      refine ⟨?_, ?_, ?_, ?_, ?_, _, hsent.trans (congrArg (· ++ _) hout)⟩
      all_goals rw [show (p.1.modInker f fun x => { x with done := x.done + 1, req := some { q with copy := some p.2 } }) =
        p.1.modInker f (tookChunk q p.2) from rfl, hread]
      · exact congrArg (fun x => x.inker.done) hforme
      · exact congrArg (fun x => x.inker.req) hforme
      · exact congrArg (fun x => x.inker.bindings) hforme
      · exact hgalley
      · rfl
    · rw [if_neg hnext, if_neg hnext]
      exact ⟨congrArg (fun x => x.inker.done) hforme, congrArg (fun x => x.inker.req) hforme, congrArg (fun x => x.inker.bindings) hforme,
        hgalley, rfl, hout⟩
  · obtain ⟨st', rs, hforme, hstack⟩ := inkFails_spec ((s.retireUse (.inkChunk f)).noteFault f a st) f
    refine ⟨_, exec_inkChunkDone_fault hreq hcopy hstate hmore, ?_, ?_, ?_, ?_, ?_, hstack⟩
    all_goals rw [hforme]
    · rw [State.noteFault, State.forme_modForme_self]
    · rw [State.noteFault, State.forme_modForme_self]
      rfl
  · refine ⟨_, exec_inkCopyComplete hreq hcopy hstate hall, s.modForme_onlyForme f _, s.modInker_forme f _⟩
  · have hdrop := s.modBinding_binding f q.binding (bindingDropped s)
    have hleft : (leaveShared s (s.modBinding f q.binding (bindingDropped s))).forme f = (s.modBinding f q.binding (bindingDropped s)).forme f := by
      rw [State.forme, leaveShared_formes, ← State.forme]
    have hcfg' : ((leaveShared s (s.modBinding f q.binding (bindingDropped s))).forme f).cfg = some c := by
      rw [hleft, State.modBinding, State.forme_modForme_self]
      exact hcfg
    have hout : (leaveShared s (s.modBinding f q.binding (bindingDropped s))).out = s.out := by
      rw [leaveShared_out]
      rfl
    obtain ⟨ps, rs, m, hforme, hmore⟩ := inkLead_spec (leaveShared s (s.modBinding f q.binding (bindingDropped s))) f { q with dropped := true } i
    have hexec := exec_stopServiceDrained hreq hcopy hfresh hstate hidle
    generalize leaveShared s (s.modBinding f q.binding (bindingDropped s)) = u at hleft hcfg' hout hforme hmore hexec
    generalize inkLead u f { q with dropped := true } i = t at hforme hmore hexec
    have hbinding : (t.forme f).binding q.binding = bindingDropped s ((s.forme f).binding q.binding) := by
      rw [← hdrop, ← hleft, hforme]
      rfl
    refine ⟨t, hexec, ⟨{ i with plain := ps, refs := rs }, ?_, rfl⟩, ?_, ?_, ?_, fun hlen => ?_⟩
    · rw [hforme]
      rfl
    · rw [hbinding]
      rfl
    · rw [hbinding, bindingDropped, himage]
      simp [hshared]
    · rw [hforme]
      exact BitVec.toNat_ofNat ..
    · obtain ⟨tag, htag⟩ := hmore hlen c hcfg'
      exact ⟨tag, by rw [htag, hout]⟩
  · obtain ⟨hsheets, ps, hp⟩ := rewriteSheets_spec (s.retireUse (.inkRefetch f b n)) f i n (chunkPlain i.key i.nonce n d)
    obtain ⟨hgalley, hout, htime, -⟩ := hsheets.kept
    refine ⟨_, exec_chunkRefetchDone_data hi d, fun k hk hgen => ?_, hout, hgalley, htime⟩
    refine gen_modCopy (i := i) (P := fun k => n ∉ k.bad ∧ n ∈ k.fresh) (fun _ => ?_) hk hgen
    rw [hp]
    exact ⟨fun hmem => by simpa using (List.mem_filter.mp hmem).2, List.mem_append_right _ (List.mem_singleton_self n)⟩
  · have hcoded := deadChunk_inkCoded ((s.retireUse (.inkRefetch f b n)).noteFault f a st) i.gen n
    refine ⟨_, exec_chunkRefetchDone_fault hi st a, fun k hk hgen => ?_, ?_, ?_⟩
    · rw [(hcoded.trans (State.noteCode_inkCoded (by decide) _ f)).copies] at hk
      exact gen_modCopy (i := i) (P := fun k => n ∈ k.dead) (fun k => List.mem_append_right _ (List.mem_singleton_self n)) hk hgen
    · rw [State.noteCode_ink (by decide), State.forme_modForme_self]
    · rw [State.noteCode_ink (by decide), State.forme_modForme_self]
      obtain ⟨sc, ls, sls, e, hforme⟩ := hcoded.1 f
      rw [hforme, State.modCopy_forme, State.noteFault, State.forme_modForme_self]

end Sys2Proof.Machine
end

section
/-! Requests to ink: their admission, and the checks of an image's header and leading chunks (R228 to R230, R233, R240). -/
namespace Sys2Proof.Machine

variable {s t u : State} {f : FormeId} {m : Vector Word 16} {q : InkReq} {h : InkHeader} {c : FormeCfg}

/-! ### Answers on a forme's channel (R353, R412) -/

theorem State.modMbox_plain_forme (s : State) (f : FormeId) (g : Mbox → Mbox) :
    (s.modMbox (.plain f) g).forme f = { s.forme f with mbox := g (s.forme f).mbox } := by
  rw [State.modMbox, State.forme_modForme_self]

/-- An answer touches the forme's channel, and may raise the forme's event. -/
theorem State.respond_plain_spec (s : State) (f : FormeId) (r : Vector Word 16) :
    (∃ b, (s.respond (.plain f) r).forme f = { s.forme f with mbox := b }) ∧
    (s.respond (.plain f) r).stack = s.stack ∧ (s.respond (.plain f) r).galley = s.galley := by
  unfold State.respond
  split
  · exact ⟨⟨_, s.modMbox_plain_forme f _⟩, rfl, rfl⟩
  · have hmod := s.modMbox_plain_forme f (fun b => { b with outData := r, valid := true })
    have hkept : (s.modMbox (.plain f) (fun b => { b with outData := r, valid := true })).stack = s.stack ∧
        (s.modMbox (.plain f) (fun b => { b with outData := r, valid := true })).galley = s.galley := ⟨rfl, rfl⟩
    generalize s.modMbox (.plain f) (fun b => { b with outData := r, valid := true }) = v at hmod hkept
    unfold State.mboxEvent
    dsimp only
    split
    · rw [State.formeEvent_forme]
      rcases v.formeEvent_quiet f 0x40 with hq | ⟨p, o, ho, -⟩
      · exact ⟨⟨_, hmod⟩, by rw [hq]; exact hkept.1, by rw [hq]; exact hkept.2⟩
      · obtain ⟨x, o', hport⟩ := onlyPort_iff.mp ho
        exact ⟨⟨_, hmod⟩, by rw [hport]; exact hkept.1, by rw [hport]; exact hkept.2⟩
    · exact ⟨⟨_, hmod⟩, hkept⟩

/-- What an answer with a code of the inker leaves: the channel answered, the code kept. -/
structure InkAnswered (f : FormeId) (r : Vector Word 16) (e : Code) (s t : State) : Prop where
  answered : Answered (.plain f) r s t
  full     : (t.mbox (.plain f)).full = (s.mbox (.plain f)).full
  forme    : ∃ b, t.forme f = { s.forme f with mbox := b, inker := { (s.forme f).inker with code := e } }
  kept     : t.stack = s.stack ∧ t.galley = s.galley

theorem State.answer_ink {e : Code} (he : e.toNat / 256 = 0x0C) (s : State) (f : FormeId) (op : Nat) (tag : BitVec 16) :
    InkAnswered f (mkResponse op tag e []) e s (s.answer f op tag e) := by
  have hne : e ≠ 0 := fun h0 => by rw [h0] at he; exact absurd he (by decide)
  rw [State.answer, if_neg hne, State.noteCode_ink he]
  have hforme := s.forme_modForme_self f (fun x => { x with inker := { x.inker with code := e } })
  have hmbox : (s.modForme f (fun x => { x with inker := { x.inker with code := e } })).mbox (.plain f) = s.mbox (.plain f) := by
    rw [State.mbox, hforme, State.mbox]
  have hkept : (s.modForme f (fun x => { x with inker := { x.inker with code := e } })).stack = s.stack ∧
    (s.modForme f (fun x => { x with inker := { x.inker with code := e } })).galley = s.galley := ⟨rfl, rfl⟩
  generalize s.modForme f (fun x => { x with inker := { x.inker with code := e } }) = v at hforme hmbox hkept
  obtain ⟨⟨b, hb⟩, hstack, hgalley⟩ := v.respond_plain_spec f (mkResponse op tag e [])
  have hans := v.respond_answered (.plain f) (mkResponse op tag e [])
  refine ⟨?_, ?_, ⟨b, by rw [hb, hforme]⟩, hstack.trans hkept.1, hgalley.trans hkept.2⟩
  · rwa [Answered, hmbox] at hans
  · rw [State.respond_full, hmbox]

/-- The taken message answered ends the exchange. -/
theorem Answered.respondedWith {r : Vector Word 16} {ch : Chan} (h : Answered ch r (s.taken ch) t)
    (hfull : (t.mbox ch).full = ((s.taken ch).mbox ch).full) :
    RespondedWith ch r s t := by
  have hmbox : (s.taken ch).mbox ch = { s.mbox ch with full := false } := by rw [State.taken, State.modMbox_mbox_self]
  rw [hmbox] at hfull
  rw [Answered, hmbox] at h
  exact ⟨hfull, h⟩

/-! ### INK (R228, R229) -/

/-- The inker of a request that starts. -/
def inkStarted (q : InkReq) (k : Inker) : Inker :=
  { k with req := some q, state := 1, binding := BitVec.ofNat 3 q.binding.val, done := 0, total := 0 }

theorem inkStart_eq (s : State) (f : FormeId) (q : InkReq) :
    inkStart s f q = (s.modInker f (inkStarted q)).formeDrd f (.inkHeader f) false q.source 4096 := rfl

theorem exec_ink_idle (hm : Delivered s (.plain f) 1 m) (hidle : (s.forme f).inker.req = none) : exec (.ink f) s =
    .next (if modeFits ((s.forme f).binding (inkReq m).binding) (inkReq m).mode.toNat then inkStart (s.taken (.plain f)) f (inkReq m)
      else (s.taken (.plain f)).answer f 1 (inkReq m).tag 0x0C08) := by
  simp only [exec, execInk, hidle, exchange_of_delivered hm]

theorem exec_ink_busy (hm : Delivered s (.plain f) 1 m) (hreq : (s.forme f).inker.req = some q)
    (hsame : q.binding = (inkReq m).binding) :
    exec (.ink f) s = .next ((s.taken (.plain f)).answer f 1 (msgTag m) 0x0C06) := by
  have hin : (s.forme f).mbox.inData = m := hm.2.2.1
  have hgo : ¬ (msgOpcode (s.forme f).mbox.inData == 1 && (inkReq (s.forme f).mbox.inData).binding != q.binding) = true := by
    rw [hin, hsame]
    simp
  simp only [exec, execInk, hreq]
  rw [if_neg hgo, exchange_of_delivered hm]

theorem taken_plain_forme (s : State) (f : FormeId) :
    (s.taken (.plain f)).forme f = { s.forme f with mbox := { (s.forme f).mbox with full := false } } := by
  rw [State.taken, State.modMbox_plain_forme]

/-! ### An image refused (R230) -/

/-- The inker of a request that ends without an image. -/
def inkRefused (e : Code) (k : Inker) : Inker := { k with code := e, req := none, state := 0 }

theorem inkRefuse_spec {e : Code} (he : e.toNat / 256 = 0x0C) (s : State) (f : FormeId) (tag : BitVec 16) :
    Answered (.plain f) (mkResponse 1 tag e []) s (inkRefuse s f tag e) ∧
    (∃ b, (inkRefuse s f tag e).forme f = { s.forme f with mbox := b, inker := inkRefused e (s.forme f).inker }) ∧
    (inkRefuse s f tag e).stack = s.stack ∧ (inkRefuse s f tag e).galley = s.galley := by
  obtain ⟨hans, -, ⟨b, hb⟩, hstack, hgalley⟩ := State.answer_ink he s f 1 tag
  rw [inkRefuse]
  have hforme := (s.answer f 1 tag e).modInker_forme f (fun k => { k with req := none, state := 0 })
  have hmbox : ((s.answer f 1 tag e).modInker f (fun k => { k with req := none, state := 0 })).mbox (.plain f) =
      (s.answer f 1 tag e).mbox (.plain f) := by
    rw [State.mbox, hforme, State.mbox]
  refine ⟨?_, ⟨b, by rw [hforme, hb]; rfl⟩, hstack, hgalley⟩
  rwa [Answered, hmbox]

/-! ### The checks of an image (R226, R230) -/

/-- The header has been read and its TOTAL is known; reads of leading chunks may have gone out. -/
structure HeaderIn (f : FormeId) (s t : State) : Prop where
  forme : ∃ n, t.forme f = { s.forme f with inker := { (s.forme f).inker with total := n } }
  kept  : t.stack = s.stack ∧ t.galley = s.galley

theorem OnlyPorts.headerIn (hp : OnlyPorts s t) (h : HeaderIn f u s) : HeaderIn f u t := by
  obtain ⟨ps, o, rfl⟩ := onlyPorts_iff.mp hp
  exact ⟨h.forme, h.kept⟩

/-- The state in which an image's key is tried. -/
def headerRead (s : State) (f : FormeId) (h : InkHeader) : State :=
  (s.retireUse (.inkHeader f)).modInker f (fun k => { k with total := BitVec.ofNat 32 (blobLe h.blob 8 4) })

theorem headerRead_headerIn (s : State) (f : FormeId) (h : InkHeader) : HeaderIn f s (headerRead s f h) :=
  ⟨⟨_, State.modInker_forme ..⟩, rfl, rfl⟩

theorem readLead_onlyPorts (s : State) (f : FormeId) (q : InkReq) (n : Nat) : OnlyPorts s (readLead s f q n) :=
  (foldl_onlyPorts (fun t k => readChunk_onlyPorts t f q k) _ s).trans (State.retireUse_onlyPorts _ _)

theorem Answered.congr {r : Vector Word 16} {ch : Chan} (hmbox : u.mbox ch = s.mbox ch) (h : Answered ch r u t) : Answered ch r s t := by
  rwa [Answered, hmbox] at h

/-- An image refused once its header is in: the request is over, the bindings stand. -/
theorem inkRefuse_headerIn {e : Code} (he : e.toNat / 256 = 0x0C) (h : HeaderIn f s t) (tag : BitVec 16) :
    Answered (.plain f) (mkResponse 1 tag e []) s (inkRefuse t f tag e) ∧ ((inkRefuse t f tag e).forme f).inker.req = none ∧
    ((inkRefuse t f tag e).forme f).inker.state = 0 ∧ ((inkRefuse t f tag e).forme f).inker.code = e ∧
    ((inkRefuse t f tag e).forme f).inker.bindings = (s.forme f).inker.bindings ∧ (inkRefuse t f tag e).stack = s.stack := by
  obtain ⟨hans, ⟨b, hb⟩, hstack, -⟩ := inkRefuse_spec he t f tag
  obtain ⟨n, hn⟩ := h.forme
  have hmbox : t.mbox (.plain f) = s.mbox (.plain f) := by rw [State.mbox, hn, State.mbox]
  refine ⟨hans.congr hmbox, ?_, ?_, ?_, ?_, hstack.trans h.kept.1⟩
  all_goals
    rw [hb]
    try rw [hn]
    rfl

/-- The copy of an image that is accepted. -/
def acceptedCopy (s : State) (q : InkReq) (b : Blob) (d : ImageDir) (key : List Byte) (plain : List (Nat × List Byte)) (base : Nat) : ImageCopy where
  gen := s.draws + 1
  imageId := BitVec.ofNat 256 (blobLe b 0x20 32)
  chunks := blobLe b 8 4
  tiles := imageTiles d
  base := base
  pages := footprintPages d
  source := q.source
  key := key
  nonce := BitVec.ofNat 64 (blobLe b 0x10 8)
  dir := d
  refs := []
  plain := plain
  shareMask := q.shareMask
  shared := q.shareMask != 0
  bad := []
  dead := []
  fresh := []

theorem inkAccept_eq (s : State) (f : FormeId) (q : InkReq) (b : Blob) (d : ImageDir) (key : List Byte) (plain : List (Nat × List Byte))
    (base : Nat) : inkAccept s f q b d key plain base false =
      inkLead ((({ s with draws := s.draws + 1 }).respond (.plain f) (mkResponse 1 q.tag 0 [])).modInker f
      (fun k => { k with req := some { q with copy := some (acceptedCopy s q b d key plain base) }, state := 1 })) f q
      (acceptedCopy s q b d key plain base) := rfl

/-- What is known of a request whose header is in and whose MODE asks for a copy of its own. -/
structure HeaderGood (s : State) (f : FormeId) (q : InkReq) (h : InkHeader) : Prop where
  own : q.shareMask = 0
  ok  : inkHeaderOk h.blob = true

/-- The leading chunks of an image, unwrapped and numbered. -/
def leadPlain (key : List Byte) (h : InkHeader) (bs : List Blob) : List (Nat × List Byte) :=
  (bs.take (blobLe h.blob 8 4)).zipIdx.map (fun b => (b.2, chunkPlain key (BitVec.ofNat 64 (blobLe h.blob 0x10 8)) b.2 b.1))

/-- The directory that the leading chunks of an image hold. -/
def leadDir (key : List Byte) (h : InkHeader) (bs : List Blob) : ImageDir := readDir ((leadPlain key h bs).flatMap (·.2))

/-- The state in which the directory is judged: the reads of the leading chunks are over. -/
def leadIn (s : State) (f : FormeId) (q : InkReq) (h : InkHeader) (key : List Byte) (bs : List Blob) : State :=
  readLead (headerRead s f h) f q (leadPlain key h bs).length

theorem leadIn_headerIn (s : State) (f : FormeId) (q : InkReq) (h : InkHeader) (key : List Byte) (bs : List Blob) :
    HeaderIn f s (leadIn s f q h key bs) :=
  (readLead_onlyPorts _ f q _).headerIn (headerRead_headerIn s f h)

theorem exec_headerData (hreq : (s.forme f).inker.req = some q) (hcopy : q.copy = none) :
    exec (.inkHeaderReadDone f (.data h)) s = .next (inkChecks (s.retireUse (.inkHeader f)) f q h) := by
  simp only [exec, execInkHeaderReadDone, inkHeaderDone, hreq, hcopy]
  rfl

theorem inkChecks_malformed (hbad : inkHeaderOk h.blob = false) : inkChecks s f q h = inkRefuse s f q.tag 0x0C02 := by
  simp only [inkChecks, hbad]
  rfl

theorem inkChecks_keyless (hq : HeaderGood s f q h) (hkey : (s.forme f).inkKey.bind (fun n => imageKey n h.blob) = none) :
    inkChecks (s.retireUse (.inkHeader f)) f q h = inkRefuse (headerRead s f h) f q.tag 0x0C03 := by
  have hkey' : ((s.retireUse (.inkHeader f)).forme f).inkKey.bind (fun n => imageKey n h.blob) = none := hkey
  simp only [inkChecks, hq.ok, hq.own, hkey']
  rfl

theorem inkChecks_leadFault {key : List Byte} {st : EcpStatus} {a : HostAddr} (hq : HeaderGood s f q h)
    (hkey : (s.forme f).inkKey.bind (fun n => imageKey n h.blob) = some key) (hlead : h.lead = .fault st a) :
    inkChecks (s.retireUse (.inkHeader f)) f q h = inkRefuse ((readLead (headerRead s f h) f q 1).noteFault f a st) f q.tag 0x0C05 := by
  have hkey' : ((s.retireUse (.inkHeader f)).forme f).inkKey.bind (fun n => imageKey n h.blob) = some key := hkey
  simp only [inkChecks, hq.ok, hq.own, hkey', hlead]
  rfl

section
variable {key : List Byte} {bs : List Blob} (hq : HeaderGood s f q h)
  (hkey : (s.forme f).inkKey.bind (fun n => imageKey n h.blob) = some key) (hlead : h.lead = .data bs)
include hq hkey hlead

theorem inkChecks_partsBad (hparts : inkPartsOk (blobLe h.blob 8 4) (leadDir key h bs) = false) :
    inkChecks (s.retireUse (.inkHeader f)) f q h = inkRefuse (leadIn s f q h key bs) f q.tag 0x0C02 := by
  have hkey' : ((s.retireUse (.inkHeader f)).forme f).inkKey.bind (fun n => imageKey n h.blob) = some key := hkey
  unfold leadDir leadPlain at hparts
  simp only [inkChecks, hq.ok, hq.own, hkey', hlead, hparts, Bool.not_true, Bool.not_false, Bool.false_eq_true, if_false,
    if_true, bne_self_eq_false, Bool.false_and, Bool.or_false]
  rfl

theorem inkChecks_waits (hparts : inkPartsOk (blobLe h.blob 8 4) (leadDir key h bs) = true)
    (hhold : leadHolds (leadPlain key h bs).length (leadDir key h bs) = false) :
    inkChecks (s.retireUse (.inkHeader f)) f q h = s.retireUse (.inkHeader f) := by
  have hkey' : ((s.retireUse (.inkHeader f)).forme f).inkKey.bind (fun n => imageKey n h.blob) = some key := hkey
  unfold leadDir leadPlain at hparts hhold
  simp only [inkChecks, hq.ok, hq.own, hkey', hlead, hparts, hhold, Bool.not_true, Bool.not_false, Bool.false_eq_true, if_false, if_true,
    bne_self_eq_false, Bool.false_and, Bool.or_false]

theorem inkChecks_dirBad (hparts : inkPartsOk (blobLe h.blob 8 4) (leadDir key h bs) = true)
    (hhold : leadHolds (leadPlain key h bs).length (leadDir key h bs) = true) (hdir : inkDirOk (blobLe h.blob 8 4) (leadDir key h bs) = false) :
    inkChecks (s.retireUse (.inkHeader f)) f q h = inkRefuse (leadIn s f q h key bs) f q.tag 0x0C02 := by
  have hkey' : ((s.retireUse (.inkHeader f)).forme f).inkKey.bind (fun n => imageKey n h.blob) = some key := hkey
  unfold leadDir leadPlain at hparts hhold hdir
  simp only [inkChecks, hq.ok, hq.own, hkey', hlead, hparts, hhold, hdir, Bool.not_true, Bool.not_false, Bool.false_eq_true, if_false,
    if_true, bne_self_eq_false, Bool.false_and, Bool.or_false]
  rfl

theorem inkChecks_live (hparts : inkPartsOk (blobLe h.blob 8 4) (leadDir key h bs) = true)
    (hhold : leadHolds (leadPlain key h bs).length (leadDir key h bs) = true) (hdir : inkDirOk (blobLe h.blob 8 4) (leadDir key h bs) = true)
    (hroom : privateRoom (s.forme f) q (footprintPages (leadDir key h bs)) = .live) :
    inkChecks (s.retireUse (.inkHeader f)) f q h =
      inkAccept (leadIn s f q h key bs) f q h.blob (leadDir key h bs) key (leadPlain key h bs) q.base false := by
  have hkey' : ((s.retireUse (.inkHeader f)).forme f).inkKey.bind (fun n => imageKey n h.blob) = some key := hkey
  have hroom' : privateRoom ((s.retireUse (.inkHeader f)).forme f) q (footprintPages (leadDir key h bs)) = .live := hroom
  unfold leadDir leadPlain at hparts hhold hdir hroom'
  simp only [inkChecks, hq.ok, hq.own, hkey', hlead, hparts, hhold, hdir, hroom', Bool.not_true, Bool.not_false,
    Bool.false_eq_true, if_false,
    if_true, bne_self_eq_false, Bool.false_and, Bool.or_false]
  rfl

theorem inkChecks_stop (hparts : inkPartsOk (blobLe h.blob 8 4) (leadDir key h bs) = true)
    (hhold : leadHolds (leadPlain key h bs).length (leadDir key h bs) = true) (hdir : inkDirOk (blobLe h.blob 8 4) (leadDir key h bs) = true)
    (hroom : privateRoom (s.forme f) q (footprintPages (leadDir key h bs)) = .stop) :
    inkChecks (s.retireUse (.inkHeader f)) f q h =
      inkAccept (leadIn s f q h key bs) f q h.blob (leadDir key h bs) key (leadPlain key h bs) q.base true := by
  have hkey' : ((s.retireUse (.inkHeader f)).forme f).inkKey.bind (fun n => imageKey n h.blob) = some key := hkey
  have hroom' : privateRoom ((s.retireUse (.inkHeader f)).forme f) q (footprintPages (leadDir key h bs)) = .stop := hroom
  unfold leadDir leadPlain at hparts hhold hdir hroom'
  simp only [inkChecks, hq.ok, hq.own, hkey', hlead, hparts, hhold, hdir, hroom', Bool.not_true, Bool.not_false,
    Bool.false_eq_true, if_false,
    if_true, bne_self_eq_false, Bool.false_and, Bool.or_false]
  rfl

theorem inkChecks_refused {e : Code} (hparts : inkPartsOk (blobLe h.blob 8 4) (leadDir key h bs) = true)
    (hhold : leadHolds (leadPlain key h bs).length (leadDir key h bs) = true) (hdir : inkDirOk (blobLe h.blob 8 4) (leadDir key h bs) = true)
    (hroom : privateRoom (s.forme f) q (footprintPages (leadDir key h bs)) = .refused e) :
    inkChecks (s.retireUse (.inkHeader f)) f q h = inkRefuse (leadIn s f q h key bs) f q.tag e := by
  have hkey' : ((s.retireUse (.inkHeader f)).forme f).inkKey.bind (fun n => imageKey n h.blob) = some key := hkey
  have hroom' : privateRoom ((s.retireUse (.inkHeader f)).forme f) q (footprintPages (leadDir key h bs)) = .refused e := hroom
  unfold leadDir leadPlain at hparts hhold hdir hroom'
  simp only [inkChecks, hq.ok, hq.own, hkey', hlead, hparts, hhold, hdir, hroom', Bool.not_true, Bool.not_false,
    Bool.false_eq_true, if_false,
    if_true, bne_self_eq_false, Bool.false_and, Bool.or_false]
  rfl

end

/-- R233 refuses an image with a code of the inker. -/
theorem privateRoom_refused {x : Forme} {n : Nat} {e : Code} (hroom : privateRoom x q n = .refused e) : e.toNat / 256 = 0x0C := by
  unfold privateRoom at hroom
  dsimp only at hroom
  repeat' split at hroom
  all_goals simp only [Room.refused.injEq, reduceCtorEq] at hroom
  all_goals
    rw [← hroom]
    decide

/-- An image accepted: the request holds its copy, its answer is given and its leading chunks are taken. -/
theorem inkAccept_spec (hin : HeaderIn f s t) (hreq : (s.forme f).inker.req = some q) (b : Blob) (d : ImageDir) (key : List Byte)
    (plain : List (Nat × List Byte)) : ∃ ps rs,
    Answered (.plain f) (mkResponse 1 q.tag 0 []) s (inkAccept t f q b d key plain q.base false) ∧
    ((inkAccept t f q b d key plain q.base false).forme f).inker.bindings = (s.forme f).inker.bindings ∧
    ((inkAccept t f q b d key plain q.base false).forme f).inker.state = 1 ∧
    ((inkAccept t f q b d key plain q.base false).forme f).inker.req =
      some { q with copy := some { acceptedCopy t q b d key plain q.base with plain := ps, refs := rs } } ∧
    (plain.length < blobLe b 8 4 → ∀ c : FormeCfg, (s.forme f).cfg = some c → ∃ tag, (inkAccept t f q b d key plain q.base false).out.getLast? =
      some (.drd c.port c.fnId tag false (q.source + BitVec.ofNat 64 (4096 + plain.length * 1048576)) 1048576)) := by
  obtain ⟨n, hn⟩ := hin.forme
  rw [inkAccept_eq]
  obtain ⟨⟨b', hb⟩, -, -⟩ := State.respond_plain_spec { t with draws := t.draws + 1 } f (mkResponse 1 q.tag 0 [])
  have hans := State.respond_answered { t with draws := t.draws + 1 } (.plain f) (mkResponse 1 q.tag 0 [])
  generalize State.respond { t with draws := t.draws + 1 } (.plain f) (mkResponse 1 q.tag 0 []) = v at hb hans
  have hv := v.modInker_forme f (fun k => { k with req := some { q with copy := some (acceptedCopy t q b d key plain q.base) }, state := 1 })
  generalize v.modInker f (fun k => { k with req := some { q with copy := some (acceptedCopy t q b d key plain q.base) }, state := 1 }) = w at hv
  have ht : State.forme { t with draws := t.draws + 1 } f = t.forme f := rfl
  rw [hb, ht, hn] at hv
  obtain ⟨ps, rs, m, hforme, hout⟩ := inkLead_spec w f q (acceptedCopy t q b d key plain q.base)
  rw [hv] at hforme
  have hmbox : (inkLead w f q (acceptedCopy t q b d key plain q.base)).mbox (.plain f) = v.mbox (.plain f) := by
    rw [State.mbox, hforme, State.mbox, hb]
  have hbefore : State.mbox { t with draws := t.draws + 1 } (.plain f) = s.mbox (.plain f) := by
    rw [State.mbox, ht, hn, State.mbox]
  refine ⟨ps, rs, ?_, ?_, ?_, ?_, fun hmore c hcfg => ?_⟩
  · rw [Answered, hbefore] at hans
    rwa [Answered, hmbox]
  · rw [hforme]
    rfl
  · rw [hforme]
    rfl
  · rw [hforme]
    rfl
  · obtain ⟨tag, htag⟩ := hout hmore c (by rw [hv]; exact hcfg)
    exact ⟨tag, by rw [htag, List.getLast?_append]; rfl⟩

/-- An image that waits for its forme to stop leaves the bindings. -/
theorem inkAccept_stop_bindings (hin : HeaderIn f s t) (b : Blob) (d : ImageDir) (key : List Byte) (plain : List (Nat × List Byte)) :
    ((inkAccept t f q b d key plain q.base true).forme f).inker.bindings = (s.forme f).inker.bindings := by
  obtain ⟨n, hn⟩ := hin.forme
  obtain ⟨⟨b', hb⟩, -, -⟩ := State.respond_plain_spec { t with draws := t.draws + 1 } f (mkResponse 1 q.tag 0 [])
  have ht : State.forme { t with draws := t.draws + 1 } f = t.forme f := rfl
  have hstop : inkAccept t f q b d key plain q.base true =
      ((({ t with draws := t.draws + 1 }).respond (.plain f) (mkResponse 1 q.tag 0 [])).modInker f
      (fun k => { k with req := some { q with copy := some (acceptedCopy t q b d key plain q.base) }, state := 3 })).modForme f stopService := rfl
  rw [hstop, State.forme_modForme_self, State.modInker_forme, hb, ht, hn]
  rfl

theorem inkRefuse_bindings {e : Code} (he : e.toNat / 256 = 0x0C) (hin : HeaderIn f s t) :
    ((inkRefuse t f q.tag e).forme f).inker.bindings = (s.forme f).inker.bindings :=
  (inkRefuse_headerIn he hin q.tag).2.2.2.2.1

section
variable (hq : HeaderGood s f q h)
include hq

/-- A readable header with leading chunks read: what the checks leave, in the three outcomes that R230 and R233 name. -/
theorem inkChecks_lead {key : List Byte} {bs : List Blob} (hreq : (s.forme f).inker.req = some q)
    (hkey : (s.forme f).inkKey.bind (fun n => imageKey n h.blob) = some key) (hlead : h.lead = .data bs) :
    ((inkChecks (s.retireUse (.inkHeader f)) f q h).forme f).inker.bindings = (s.forme f).inker.bindings ∧
    (inkPartsOk (blobLe h.blob 8 4) (leadDir key h bs) = false ∨ (leadHolds (leadPlain key h bs).length (leadDir key h bs) = true ∧
        inkDirOk (blobLe h.blob 8 4) (leadDir key h bs) = false) →
      Answered (.plain f) (mkResponse 1 q.tag 0x0C02 []) s (inkChecks (s.retireUse (.inkHeader f)) f q h) ∧
      ((inkChecks (s.retireUse (.inkHeader f)) f q h).forme f).inker.req = none ∧
      ((inkChecks (s.retireUse (.inkHeader f)) f q h).forme f).inker.code = 0x0C02) := by
  have hin := leadIn_headerIn s f q h key bs
  obtain ⟨hans, hreq', -, hcode, hbindings, -⟩ := inkRefuse_headerIn (e := 0x0C02) (by decide) hin q.tag
  cases hparts : inkPartsOk (blobLe h.blob 8 4) (leadDir key h bs)
  case false =>
    rw [inkChecks_partsBad hq hkey hlead hparts]
    exact ⟨hbindings, fun _ => ⟨hans, hreq', hcode⟩⟩
  case true =>
    cases hhold : leadHolds (leadPlain key h bs).length (leadDir key h bs)
    case false =>
      rw [inkChecks_waits hq hkey hlead hparts hhold]
      exact ⟨rfl, fun hbad => by simp at hbad⟩
    case true =>
      cases hdir : inkDirOk (blobLe h.blob 8 4) (leadDir key h bs)
      case false =>
        rw [inkChecks_dirBad hq hkey hlead hparts hhold hdir]
        exact ⟨hbindings, fun _ => ⟨hans, hreq', hcode⟩⟩
      case true =>
        refine ⟨?_, fun hbad => by simp at hbad⟩
        cases hroom : privateRoom (s.forme f) q (footprintPages (leadDir key h bs)) with
        | live =>
          rw [inkChecks_live hq hkey hlead hparts hhold hdir hroom]
          obtain ⟨-, -, -, hkept, -⟩ := inkAccept_spec hin hreq h.blob (leadDir key h bs) key (leadPlain key h bs)
          exact hkept
        | stop =>
          rw [inkChecks_stop hq hkey hlead hparts hhold hdir hroom]
          exact inkAccept_stop_bindings hin _ _ _ _
        | refused e =>
          rw [inkChecks_refused hq hkey hlead hparts hhold hdir hroom]
          exact inkRefuse_bindings (privateRoom_refused hroom) hin

/-- An accepted image with room of its own (R230). -/
theorem inkChecks_accepts {key : List Byte} {bs : List Blob} (hreq : (s.forme f).inker.req = some q)
    (hkey : (s.forme f).inkKey.bind (fun n => imageKey n h.blob) = some key) (hlead : h.lead = .data bs)
    (hparts : inkPartsOk (blobLe h.blob 8 4) (leadDir key h bs) = true) (hhold : leadHolds (leadPlain key h bs).length (leadDir key h bs) = true)
    (hdir : inkDirOk (blobLe h.blob 8 4) (leadDir key h bs) = true)
    (hroom : privateRoom (s.forme f) q (footprintPages (leadDir key h bs)) = .live) :
    Answered (.plain f) (mkResponse 1 q.tag 0 []) s (inkChecks (s.retireUse (.inkHeader f)) f q h) ∧
    ((inkChecks (s.retireUse (.inkHeader f)) f q h).forme f).inker.state = 1 ∧
    (∃ i, ((inkChecks (s.retireUse (.inkHeader f)) f q h).forme f).inker.req = some { q with copy := some i } ∧ i.base = q.base ∧
      i.pages = footprintPages (leadDir key h bs) ∧ i.chunks = blobLe h.blob 8 4 ∧ i.key = key ∧ i.dir = leadDir key h bs ∧ i.shared = false) ∧
    ((leadPlain key h bs).length < blobLe h.blob 8 4 → ∀ c : FormeCfg, (s.forme f).cfg = some c →
      ∃ tag, (inkChecks (s.retireUse (.inkHeader f)) f q h).out.getLast? = some (.drd c.port c.fnId tag false
        (q.source + BitVec.ofNat 64 (4096 + (leadPlain key h bs).length * 1048576)) 1048576)) := by
  rw [inkChecks_live hq hkey hlead hparts hhold hdir hroom]
  obtain ⟨ps, rs, hans, -, hstate, hcopy, hout⟩ :=
    inkAccept_spec (leadIn_headerIn s f q h key bs) hreq h.blob (leadDir key h bs) key (leadPlain key h bs)
  have hown : (q.shareMask != 0) = false := by rw [hq.own]; rfl
  exact ⟨hans, hstate, ⟨_, hcopy, rfl, rfl, rfl, rfl, rfl, hown⟩, hout⟩

/-- A leading chunk that faults ends the request with 0x0C05 (R350). -/
theorem inkChecks_faults {key : List Byte} {st : EcpStatus} {a : HostAddr}
    (hkey : (s.forme f).inkKey.bind (fun n => imageKey n h.blob) = some key) (hlead : h.lead = .fault st a) :
    ((inkChecks (s.retireUse (.inkHeader f)) f q h).forme f).inker.bindings = (s.forme f).inker.bindings ∧
    Answered (.plain f) (mkResponse 1 q.tag 0x0C05 []) s (inkChecks (s.retireUse (.inkHeader f)) f q h) ∧
    ((inkChecks (s.retireUse (.inkHeader f)) f q h).forme f).inker.req = none ∧
    ((inkChecks (s.retireUse (.inkHeader f)) f q h).forme f).ecp.faultAddr = a.truncate 52 := by
  rw [inkChecks_leadFault hq hkey hlead]
  obtain ⟨n, hn⟩ := ((readLead_onlyPorts (headerRead s f h) f q 1).headerIn (headerRead_headerIn s f h)).forme
  generalize readLead (headerRead s f h) f q 1 = t at hn
  have hfault : (t.noteFault f a st).forme f = { t.forme f with ecp := { (t.forme f).ecp with
      faultAddr := a.truncate 52, faultStat := BitVec.ofNat 3 (ecpCode st) } } := State.forme_modForme_self ..
  obtain ⟨hans, ⟨b, hb⟩, -, -⟩ := inkRefuse_spec (e := 0x0C05) (by decide) (t.noteFault f a st) f q.tag
  rw [hfault, hn] at hb
  rw [hb]
  refine ⟨rfl, hans.congr ?_, rfl, rfl⟩
  rw [State.mbox, hfault, hn, State.mbox]

end

/-- Settles O35, by the outcomes of an INK message and of the checks of its header. -/
theorem inkRequests : Obligations.InkRequests := by
  refine ⟨fun s f m c hm hidle hcfg hfits => ?_, fun s f m hm hidle hfits => ?_, fun s f m q hm hreq hsame => ?_,
    fun s f q h hreq hcopy hown hok => ?_, fun s f q h hreq hcopy hbad => ?_⟩
  · refine ⟨_, exec_ink_idle hm hidle, ?_⟩
    rw [if_pos hfits, inkStart_eq]
    have hforme := (s.taken (.plain f)).modInker_forme f (inkStarted (inkReq m))
    rw [taken_plain_forme] at hforme
    have hcfg' : (((s.taken (.plain f)).modInker f (inkStarted (inkReq m))).forme f).cfg = some c := by rw [hforme]; exact hcfg
    obtain ⟨hport, hout⟩ := State.formeDrd_sentOn hcfg' (.inkHeader f) false (inkReq m).source 4096
    obtain ⟨x, o, hstate⟩ := onlyPort_iff.mp hport
    have hafter : (((s.taken (.plain f)).modInker f (inkStarted (inkReq m))).formeDrd f (.inkHeader f) false (inkReq m).source 4096).forme f =
        ((s.taken (.plain f)).modInker f (inkStarted (inkReq m))).forme f := by rw [hstate]; rfl
    rw [hforme] at hafter
    refine ⟨?_, ?_, ?_, ?_, hout, ?_⟩
    · rw [State.mbox, hafter]
    · rw [hafter]; rfl
    · rw [hafter]; rfl
    · rw [hafter]; rfl
    · rw [hstate]; rfl
  · obtain ⟨hans, hfull, ⟨b, hb⟩, -⟩ := State.answer_ink (e := 0x0C08) (by decide) (s.taken (.plain f)) f 1 (inkReq m).tag
    refine ⟨_, exec_ink_idle hm hidle, ?_⟩
    rw [if_neg (by rw [hfits]; exact Bool.false_ne_true)]
    refine ⟨hans.respondedWith hfull, ?_⟩
    rw [hb, taken_plain_forme]
    exact ⟨rfl, hidle⟩
  · obtain ⟨hans, hfull, ⟨b, hb⟩, -⟩ := State.answer_ink (e := 0x0C06) (by decide) (s.taken (.plain f)) f 1 (msgTag m)
    refine ⟨_, exec_ink_busy hm hreq hsame, hans.respondedWith hfull, ?_⟩
    rw [hb, taken_plain_forme]
    exact hreq
  · have hq : HeaderGood s f q h := ⟨hown, hok⟩
    refine ⟨_, exec_headerData hreq hcopy, ?_⟩
    cases hkey : (s.forme f).inkKey.bind (fun n => imageKey n h.blob) with
    | none =>
      rw [inkChecks_keyless hq hkey]
      obtain ⟨hans, hreq', hstate, hcode, hbindings, hstack⟩ := inkRefuse_headerIn (e := 0x0C03) (by decide) (headerRead_headerIn s f h) q.tag
      exact ⟨hbindings, hans, hreq', hstate, hcode, hstack⟩
    | some key =>
      cases hlead : h.lead with
      | fault st a => exact inkChecks_faults hq hkey hlead
      | data bs =>
        obtain ⟨hbindings, hrefused⟩ := inkChecks_lead hq hreq hkey hlead
        exact ⟨hbindings, hrefused, inkChecks_accepts hq hreq hkey hlead⟩
  · obtain ⟨hans, ⟨b, hb⟩, hstack, hgalley⟩ := inkRefuse_spec (e := 0x0C02) (by decide) (s.retireUse (.inkHeader f)) f q.tag
    refine ⟨_, exec_headerData hreq hcopy, ?_⟩
    rw [inkChecks_malformed hbad]
    have hforme : (s.retireUse (.inkHeader f)).forme f = s.forme f := rfl
    rw [hforme] at hb
    refine ⟨hans.congr rfl, ?_, ?_, ?_, ?_, hstack, hgalley⟩
    all_goals
      rw [hb]
      rfl

end Sys2Proof.Machine
end

section
/-! Ops of a slug (R184, R288): OP_COMPLETE counts the tensors of its work operand among what the op reads, whatever the op is, so a
RELEASE op given the work of a finishing op waits for them. -/
namespace Sys2Proof.Machine

/-- A RELEASE op (R288). -/
def releaseOp : OpRec := ⟨#v[9, 0, 0, 0, 0, 0, 0, 0]⟩

/-- A tensor of the arena (R119), with one sheet in the plan. -/
def arenaTensor : TensorRec :=
  { handle := 7, format := 0, cls := 2, scaleSeq := false, pin := false, isLocal := false, binding := 0, qdesc := 0, rows := 1, cols := 1,
    uses := 0, offset := 0 }

def arenaSheet : SheetId := { ctx := 0, handle := 7, index := 0 }

def arenaPlan : PlanRec := { sheet := arenaSheet, cls := 2, pages := 1, core := 0, home := .stackPage 0, src := none, spill := none, once := false }

/-- Matter with one slug, whose one op is the RELEASE. -/
def releaseVersion : Version :=
  { number := 1, length := 0, entry := 0, frame := 0, explicitNeed := 0, binding := 0, tensors := [arenaTensor],
    slugs := [{ ctrl := 0, firstOp := 0, opCount := 1 }], ops := [releaseOp], image := { length := 0, cells := [] }, since := 0 }

def releaseMatter : Matter := { id := 1, newest := some 1, versions := [releaseVersion] }

def releaseSlug : Slug := { (default : Slug) with state := .running, wait := .none, matter := 1, version := 1 }

/-- A forme whose RELEASE op stands at its point while the sheet of an arena tensor awaits its fetch. -/
def releaseState : State :=
  { State.reset with
    formes := Vector.replicate 16 { Forme.reset with
      matters := [releaseMatter]
      slugs := [releaseSlug]
      makeup := { Makeup.reset with plan := [arenaPlan], stale := [arenaSheet] } } }

/-- Work that reads the arena tensor. -/
def arenaWork : FinWork := .scaleGrads 0 7 0 default

/-- The slug still stands at its RELEASE. -/
theorem releaseState_op_stands : ∀ t, exec (.opComplete 0 0 0 (some arenaWork)) releaseState = .next t →
    (findSlug (t.forme 0) 0).map (·.op) = some 0 := by
  intro t ht
  obtain rfl : _ = t := Host.Outcome.next.inj ht
  decide +kernel

/-- Refutes O30: the first clause has a RELEASE op move its slug on whatever work the command is given, but the tensors that the work names
count as read by the op, and the op waits for one whose sheet awaits its fetch. -/
theorem not_opsComplete : ¬ Obligations.OpsComplete := by
  intro ⟨hrelease, _⟩
  obtain ⟨t, ht, ⟨z, hz, hop, -⟩, -⟩ := hrelease releaseState 0 0 0 (some arenaWork) releaseSlug releaseOp releaseVersion
    (by decide +kernel) (by decide +kernel) (by decide +kernel) (by decide +kernel) (fun c hc => nomatch hc) (by decide +kernel)
  have hstands := releaseState_op_stands t ht
  rw [hz, Option.map_some, hop] at hstands
  exact absurd hstands (by decide)

end Sys2Proof.Machine
end

section
/-! Swaps (R282): a move of images out of the save area is judged by the context of each number, and an image is moved by its number too. -/
namespace Sys2Proof.Machine

/-- A forme with a share of no octet, and one GiB of spill space. -/
def spillCfg : FormeCfg :=
  { octets := 0, compositor := 0, clientTag := 0, domain := 0, galleyMib := 0, proofMib := 0, swapMib := 0, regions := [], port := 0,
    fn := 0, spillGib := 1, linkMask := 0, remoteLoad := false, remoteStore := false, collective := false, remoteBase := 0, remoteCount := 0,
    maxJobs := 0, weight := 0, capShare := 0, localTime := false, rings := 0, allot := 0 }

/-- Two contexts of number 1: the first has no page of image but a list of save pages, the second an image of one page. -/
def emptyImage : Context := { (default : Context) with num := 1, state := .swapped, image := 0, imageAt := .save [0] }

def oldImage : Context := { (default : Context) with num := 1, state := .swapped, image := 1, imageAt := .save [5] }

/-- The resident context, with an image sheet of one page in galley. -/
def residentCtx : Context := { (default : Context) with num := 2, state := .resident }

def residentSheet : PlanRec :=
  { sheet := { ctx := 2, handle := 0, index := 0 }, cls := 2, pages := 1, core := 0, home := .galley 0 0, src := none, spill := none, once := false }

/-- The context that comes in: a slug of it runs. -/
def incomingCtx : Context := { (default : Context) with num := 3, state := .swapped }

def incomingSlug : Slug := { (default : Slug) with ctx := 3, state := .running, wait := .none }

/-- The image of number 1 moves to page 0 of the spill range, whose entry is valid. -/
def swapState : State :=
  { State.reset with
    formes := Vector.replicate 16 { Forme.reset with
      cfg := some spillCfg
      ctxs := [emptyImage, oldImage, residentCtx, incomingCtx]
      slugs := [incomingSlug]
      sched := { Sched.reset with residentMax := 0, swapHorizon := 0 }
      ecp := { Forme.reset.ecp with spillEn := true, spillMap := [(0, 1)] }
      makeup := { Makeup.reset with plan := [residentSheet] } } }

/-- A page leaves for the host. -/
theorem swapState_sends : ∀ t, exec (.swapStart 0) swapState = .next t → t.out.isEmpty = false := by
  intro t ht
  obtain rfl : _ = t := Host.Outcome.next.inj ht
  decide +kernel

/-- Refutes O33: its second clause takes moves that name no spill page to send nothing, but the pages are those of the first context of the
number, and what moves are the save pages that context lists; with two contexts of one number, the first without an image, a page goes to
the spill range. -/
theorem not_swaps : ¬ Obligations.Swaps := by
  intro ⟨_, hmoves, _⟩
  obtain ⟨t, ht, -, -, -, -, hout, -⟩ := hmoves swapState 0 incomingCtx residentCtx [(1, .spill 0)] (.inl (by decide +kernel))
    (by decide +kernel) (by decide +kernel) (by decide +kernel) (by decide +kernel) (by decide +kernel)
  have hsends := swapState_sends t ht
  rw [hout] at hsends
  exact absurd hsends (by decide +kernel)

end Sys2Proof.Machine
end

section
/-! Plans that take effect (R126, R134 to R136), run-ahead (R127, R128) and the explicit region (R134). -/
namespace Sys2Proof.Machine

variable {s t u : State} {f : FormeId} {r : RingId} {q : Seq} {l : Launch}

/-! ### The plan in force -/

/-- The plan in force, as the registers count and name it. -/
def State.planned (s : State) (f : FormeId) : BitVec 32 × List PlanRec × Word × Nat :=
  ((s.forme f).makeup.plans, (s.forme f).makeup.plan, (s.forme f).makeup.digest, (s.forme f).makeup.explicitActive)

theorem State.planned_eq (h : (t.forme f).makeup = (s.forme f).makeup) : t.planned f = s.planned f := by rw [State.planned, h, State.planned]

theorem OnlyPorts.planned (h : OnlyPorts s t) : t.planned f = s.planned f := by
  obtain ⟨ps, o, rfl⟩ := onlyPorts_iff.mp h
  rfl

/-- A change of the forme that keeps the four keeps the plan in force. -/
theorem State.modForme_planned (s : State) {g : Forme → Forme} (hplans : (g (s.forme f)).makeup.plans = (s.forme f).makeup.plans)
    (hplan : (g (s.forme f)).makeup.plan = (s.forme f).makeup.plan) (hdigest : (g (s.forme f)).makeup.digest = (s.forme f).makeup.digest)
    (hactive : (g (s.forme f)).makeup.explicitActive = (s.forme f).makeup.explicitActive) : (s.modForme f g).planned f = s.planned f := by
  rw [State.planned, State.forme_modForme_self, hplans, hplan, hdigest, hactive, State.planned]

/-- A fold whose step keeps the plan in force keeps it. -/
theorem foldl_planned {α : Type} {g : State → α → State} (hg : ∀ u x, (g u x).planned f = u.planned f) (l : List α) (s : State) :
    (l.foldl g s).planned f = s.planned f := foldl_keeps_of_step (proj := fun t => t.planned f) hg l s

/-! ### What moves keep of it (R122, R126) -/

theorem formeDwr_onlyPorts (s : State) (f : FormeId) (e : EcpUse) (a : HostAddr) (d : List Byte) : OnlyPorts s (s.formeDwr f e a d) := by
  unfold State.formeDwr
  split
  · exact (State.sendDwr_sentOn ..).1.onlyPorts
  · exact OnlyPorts.refl s

theorem State.markPage_onlyPorts (s : State) (f : FormeId) (page : Nat) : OnlyPorts s (s.markPage f page) := by
  unfold State.markPage
  split
  · exact (State.modPort_onlyPort ..).onlyPorts
  · exact OnlyPorts.refl s

theorem spillPageWrite_planned (s : State) (f : FormeId) (e : EcpUse) (page off : Nat) (d : List Byte) :
    (spillPageWrite s f e page off d).planned f = s.planned f := by
  have hsent (a : HostAddr) : OnlyPorts s (s.spillDwr f e page a d) := by
    unfold State.spillDwr
    split
    · exact (formeDwr_onlyPorts s f e a d).trans (State.markPage_onlyPorts _ f page)
    · exact OnlyPorts.refl s
  unfold spillPageWrite
  split
  · split
    · exact (State.modForme_planned _ rfl rfl rfl rfl).trans (hsent _).planned
    · rfl
  · rfl

theorem homeWrite_planned (s : State) (f : FormeId) (e : EcpUse) (h : Home) (d : List Byte) :
    (homeWrite s f e h d).planned f = s.planned f := by
  cases h with
  | galley c g => rfl
  | stackPage a =>
    obtain ⟨k, p, hw⟩ := watchedWrite_eq s f (a * 65536) d
    rw [homeWrite, hw]
    exact State.modForme_planned _ rfl rfl rfl rfl
  | spillPage a => exact foldl_planned (fun t _ => spillPageWrite_planned t f ..) _ s
  | sharedPage a => rfl

theorem keepHost_onlyPorts (s : State) (f : FormeId) (page : Nat) : OnlyPorts s (keepHost s f page) := by
  unfold keepHost
  split
  · exact (State.modPort_onlyPort ..).onlyPorts
  · exact OnlyPorts.refl s

theorem usePages_planned (s : State) (f : FormeId) (pages : List Nat) : (usePages s f pages).planned f = s.planned f := by
  refine (State.modForme_planned _ rfl rfl rfl rfl).trans ?_
  exact foldl_planned (fun t p => ((keepHost_onlyPorts t f p).trans (State.retireUse_onlyPorts _ _)).planned) pages s

theorem clearLeft_formes (s : State) (f : FormeId) (ms : List Move) : (clearLeft s f ms).formes = s.formes := by
  refine foldl_keeps_of_step (proj := State.formes) (fun t m => ?_) ms s
  split
  · split <;> rfl
  · rfl

theorem moveCharge_formes (s : State) (f : FormeId) (m : Move) : (moveCharge s f m).formes = s.formes := by
  unfold moveCharge
  dsimp only
  cases m.src <;> cases m.dst <;> rfl

theorem Forme.failLaunch_makeup (x : Forme) (now : Word) (r : RingId) (q : Seq) (c : Code) : (x.failLaunch now r q c).makeup = x.makeup :=
  foldl_keeps_of_step (proj := Forme.makeup) (fun y sl => by
    obtain ⟨l, hl⟩ := y.endSlug_onlySlugs sl.tag .failed c
    rw [hl]) _ x

theorem contextFails_makeup (s : State) (f : FormeId) (n : BitVec 16) (c : Code) :
    ((contextFails s f n c).forme f).makeup = (s.forme f).makeup := by
  unfold contextFails
  obtain ⟨sc, ls, sls, h⟩ := State.settle_forme_rest (s.modForme f (fun x =>
    (x.launches.filter (fun l => l.phase == .running && entryOpcode l.entry == 1 && entryContext l.entry == n)).foldl
      (fun y l => y.failLaunch s.time.ticks l.ring l.seq c) x)) f
  rw [h, State.forme_modForme_self]
  exact foldl_keeps_of_step (proj := Forme.makeup) (fun y (l : Launch) => y.failLaunch_makeup _ l.ring l.seq c) _ _

theorem moveDetects_makeup (s : State) (f : FormeId) (m : Move) : ((moveDetects s f m).forme f).makeup = (s.forme f).makeup := by
  have hcount (a : Nat) (l : List Nat) :
      ((l.foldl (fun t i => countPoison t f (a * 65536 + 256 * i) 256) s).forme f).makeup = (s.forme f).makeup := by
    refine foldl_keeps_of_step (proj := fun t => (t.forme f).makeup) (fun t i => ?_) l s
    obtain ⟨d, hd⟩ := (countPoison_counted t f (a * 65536 + 256 * i) 256).forme
    rw [hd]
  unfold moveDetects
  split
  next a k hsrc hk =>
    dsimp only
    split
    · rfl
    · split
      · exact hcount a _
      · exact (contextFails_makeup ..).trans (hcount a _)
  next => rfl

/-! ### The plan takes effect (R126, R134, R135) -/

theorem foldl_placeLeaf_rest (ps : List Placed) (x : Forme) :
    (ps.foldl placeLeaf x).makeup = x.makeup ∧ (ps.foldl placeLeaf x).launches = x.launches := by
  refine ⟨foldl_keeps_of_step (proj := Forme.makeup) (fun y p => ?_) ps x, foldl_keeps_of_step (proj := Forme.launches) (fun y p => ?_) ps x⟩ <;>
  · unfold placeLeaf
    split <;> rfl

/-- The forme as a plan of records that comes into force leaves it. -/
def planAdopted (k : PlanKey) (ps : List Placed) (x : Forme) : Forme :=
  ps.foldl placeLeaf (adoptRecs x k (ps.map (planRec x.makeup.explicitActive)))

theorem takePlan_planned (s : State) (f : FormeId) (k : PlanKey) (ps : List Placed) : (takePlan s f k ps).planned f =
    ((s.forme f).makeup.plans + 1, ps.map (planRec (s.forme f).makeup.explicitActive),
      planDigest (ps.map (planRec (s.forme f).makeup.explicitActive)), (s.forme f).makeup.explicitActive) := by
  have hadopted : (s.modForme f (planAdopted k ps)).planned f = ((s.forme f).makeup.plans + 1, ps.map (planRec (s.forme f).makeup.explicitActive),
      planDigest (ps.map (planRec (s.forme f).makeup.explicitActive)), (s.forme f).makeup.explicitActive) := by
    rw [State.planned, State.forme_modForme_self, planAdopted, (foldl_placeLeaf_rest ..).1]
    rfl
  rw [← hadopted]
  unfold takePlan
  dsimp only
  refine (foldl_planned (fun t m => ?_) _ _).trans ((foldl_planned (fun t m => homeWrite_planned ..) _ _).trans ((usePages_planned ..).trans ?_))
  · refine (State.planned_eq (moveDetects_makeup ..)).trans (State.planned_eq ?_)
    rw [State.forme, moveCharge_formes, State.forme]
  · refine State.planned_eq ?_
    rw [State.forme, clearLeft_formes]
    rfl

/-- A plan that moves nothing changes the forme alone, and no launch. -/
theorem takePlan_still {k : PlanKey} {ps : List Placed} (hstill : planMoves (s.forme f) ps = []) :
    OnlyForme f s (takePlan s f k ps) ∧ ((takePlan s f k ps).forme f).launches = (s.forme f).launches := by
  have hplan : takePlan s f k ps = (s.modForme f (planAdopted k ps)).modForme f
      (fun x => { x with makeup := { x.makeup with arrived := x.makeup.arrived.filter (fun a => !([] : List Nat).contains a.1) } }) := by
    unfold takePlan
    dsimp only
    rw [hstill]
    rfl
  rw [hplan]
  refine ⟨(State.modForme_onlyForme ..).trans (State.modForme_onlyForme ..), ?_⟩
  rw [State.forme_modForme_self, State.forme_modForme_self]
  exact (foldl_placeLeaf_rest ..).2

theorem exec_planComplete_takes {ps : List Placed} (hend : planMayEnd s f = true) (hps : makePlan s f = some ps)
    (hspill : ∀ m ∈ planMoves (s.forme f) ps, spillPagesOf m.src m.pages = [] ∧ spillPagesOf m.dst m.pages = []) :
    exec (.planComplete f) s = .next (takePlan s f (keyWith s f (tuneWord (s.forme f).makeup)) ps) := by
  have hsrc : (planMoves (s.forme f) ps).flatMap (fun m => spillPagesOf m.src m.pages) = [] :=
    List.flatMap_eq_nil_iff.mpr (fun m hm => (hspill m hm).1)
  have hdst : (planMoves (s.forme f) ps).flatMap (fun m => spillPagesOf m.dst m.pages) = [] :=
    List.flatMap_eq_nil_iff.mpr (fun m hm => (hspill m hm).2)
  have hread : readPages s f [] none = .ready [] := rfl
  simp only [exec, execPlanComplete, hend, if_true, finishPlan, hps, hsrc, hdst, hread, List.any_nil, Bool.false_eq_true, if_false]

/-! ### A plan that places not every sheet (R123, R136) -/

theorem Forme.releaseCtx_makeup (x : Forme) (n : BitVec 16) : (x.releaseCtx n).makeup = x.makeup := by
  unfold Forme.releaseCtx
  split <;> rfl

theorem foldl_releaseCtx_makeup (cs : List Context) (x : Forme) : (cs.foldl (fun z k => z.releaseCtx k.num) x).makeup = x.makeup :=
  foldl_keeps_of_step (proj := Forme.makeup) (fun y k => y.releaseCtx_makeup k.num) cs x

theorem completing_makeup (x : Forme) (r : RingId) (q : Seq) (k : Record) : (completing x r q k).makeup = x.makeup :=
  foldl_releaseCtx_makeup _ _

/-- A code of the make-up engine is kept with the plan (R412). -/
theorem ending_makeup (x : Forme) (r : RingId) (q : Seq) : (ending x r q 0x0701).makeup = { x.makeup with code := 0x0701 } := by
  have hnote (y : Forme) : (noteFormeCode y 0x0701).makeup = { y.makeup with code := 0x0701 } := rfl
  rw [ending, hnote, foldl_releaseCtx_makeup]
  rfl

/-- The forme after the slugs of a launch are discarded with a code. -/
def discardAll (r : RingId) (q : Seq) (c : Code) (x : Forme) : Forme :=
  (x.slugs.filter (fun sl => sl.ring == r && sl.seq == q)).foldl (fun y sl => y.endSlug sl.tag .discarded c) x

theorem discardAll_onlySlugs (r : RingId) (q : Seq) (c : Code) (x : Forme) : OnlySlugs x (discardAll r q c x) := by
  unfold discardAll
  generalize x.slugs.filter (fun sl => sl.ring == r && sl.seq == q) = sls
  induction sls generalizing x with
  | nil => exact OnlySlugs.refl x
  | cons sl sls ih => exact (x.endSlug_onlySlugs sl.tag .discarded c).trans (ih _)

/-- The key is in force, and no launch waits for its plan. -/
def planKeyed (k : PlanKey) (x : Forme) : Forme := { x with makeup := { x.makeup with key := some k, keyMaker := none } }

/-- The launch that made the key completes without having run. -/
theorem exec_planComplete_fails (hend : planMayEnd s f = true) (hps : makePlan s f = none) (hmaker : (s.forme f).makeup.keyMaker = some (r, q))
    (hl : findLaunch (s.forme f) r q = some l) (hrun : l.phase = .running) : exec (.planComplete f) s = .next
      (((s.modForme f (planKeyed (keyWith s f (tuneWord (s.forme f).makeup)))).modForme f (discardAll r q 0x0701)).completeWith f r q 0x0701) := by
  generalize hk : keyWith s f (tuneWord (s.forme f).makeup) = k
  have hl' : findLaunch ((s.modForme f (planKeyed k)).forme f) r q = some l := by
    rw [State.forme_modForme_self]
    exact hl
  have hfail : failPlan s f k 0x0701 = failMaker (s.modForme f (planKeyed k)) f (s.forme f).makeup.keyMaker 0x0701 := rfl
  simp only [exec, execPlanComplete, hend, if_true, finishPlan, hps, hk, hfail, hmaker, failMaker, hl', hrun, beq_self_eq_true]
  rfl

/-- A launch that completes with 0x0701 leaves the plan in force. -/
theorem completeWith_makeup {c : FormeCfg} (hl : findLaunch (s.forme f) r q = some l) (hstate : ((s.forme f).ring r).state ≠ 2)
    (hcfg : (s.forme f).cfg = some c) : ((s.completeWith f r q 0x0701).forme f).makeup = { (s.forme f).makeup with code := 0x0701 } := by
  obtain ⟨t, ht, hforme, -⟩ := completeWith_forme s f r q 0x0701
  have hl' : findLaunch (t.forme f) r q = some { l with ended := some 0x0701, phase := .running } := by
    rw [hforme, findLaunch_ending, hl]
    rfl
  have hring : (t.forme f).ring r = (s.forme f).ring r := by rw [hforme, ending_ring]
  have hcfg' : (t.forme f).cfg = some c := by
    obtain ⟨hc, -⟩ := Feed.mk.inj (ending_feed (s.forme f) r q 0x0701)
    rw [hforme, hc]
    exact hcfg
  rw [ht, (completeEntry_written hl' (by rw [hring]; exact hstate) hcfg').1, completing_makeup, hforme, ending_makeup]

/-! ### Run-ahead (R127, R128) -/

theorem State.charge_current (s : State) (f : FormeId) (n : Nat) :
    ((s.charge f n).platen.account[f.val]).current = (s.platen.account[f.val]).current + n := by
  rw [State.charge]
  simp only [Vector.getElem_set_self]

/-- A fetch from the stack charges its bytes; where no forme is, it has no page to read. -/
theorem fetchStack_spec (s : State) (f : FormeId) (p : PlanRec) (hcfg : (s.forme f).cfg = none → p.pages = 0) :
    (fetchStack s f p).formes = s.formes ∧
    ((fetchStack s f p).platen.account[f.val]).current = (s.platen.account[f.val]).current + 65536 * p.pages * stackByteFj ∧
    (fetchStack s f p).stack.mem = s.stack.mem ∧ (fetchStack s f p).galley = s.galley := by
  unfold fetchStack State.stackFetch
  generalize fetchLines s f p = ls
  cases hc : (s.forme f).cfg with
  | none => exact ⟨rfl, by rw [hcfg hc]; rfl, rfl, rfl⟩
  | some c => exact ⟨rfl, State.charge_current .., rfl, rfl⟩

theorem mayStage_pages {c : CoreId} {p : PlanRec} (hmay : mayStage s f c p = true) (hcfg : (s.forme f).cfg = none) : p.pages = 0 := by
  have hfree : freePages (s.forme f) c = 0 := by simp only [freePages, hcfg]
  simp only [mayStage, hfree, Bool.and_eq_true, decide_eq_true_eq] at hmay
  omega

theorem exec_runahead_staged {c : CoreId} {h : SheetId} {p : PlanRec} {a : Nat} {d : List Byte}
    (hp : (s.forme f).makeup.plan.find? (·.sheet == h) = some p) (hstale : (s.forme f).makeup.stale.contains h = false)
    (hhome : p.home = .stackPage a)
    (hmay : mayStage s f c p = true) (hclean : (fetchLines s f p).any s.stack.isPoisoned = false) :
    exec (.runaheadFetchDone f c { id := h, data := .data d }) s = .next (putStaged (fetchStack s f p) f c p (some a) none []) := by
  have hsheet : p.sheet = h := by simpa using List.find?_some hp
  simp only [exec, execRunaheadFetchDone, hp, hsheet, hstale, hmay, Bool.false_and, Bool.false_eq_true, if_false, if_true, stageSheet, hhome, hclean]

/-- A staged sheet is charged for its write to galley, and stands last among the staged. -/
theorem putStaged_spec (s : State) (f : FormeId) (c : CoreId) (p : PlanRec) (a : Option Nat) :
    ((putStaged s f c p a none []).forme f).makeup.staged =
      (s.forme f).makeup.staged ++ [{ core := c, sheet := p.sheet, src := a, spill := none, data := [] }] ∧
    ((putStaged s f c p a none []).platen.account[f.val]).current = (s.platen.account[f.val]).current + 65536 * p.pages * galleyByteFj ∧
    (putStaged s f c p a none []).stack = s.stack ∧ (putStaged s f c p a none []).galley = s.galley ∧
    ∀ g : FormeId, g ≠ f → (putStaged s f c p a none []).forme g = s.forme g := by
  unfold putStaged snapStaged
  refine ⟨?_, State.charge_current .., rfl, rfl, fun g hg => ?_⟩
  · rw [State.forme_modForme_self, State.forme_modForme_self]
    rfl
  · rw [State.forme_modForme_of_ne _ f g _ hg.symm, State.forme_modForme_of_ne _ f g _ hg.symm]
    rfl

/-! ### The explicit region (R134) -/

section
variable {α : Type} {g : Memory → α → Memory} {x : Nat}

/-- Clears leave an unlisted byte unlisted. -/
theorem foldl_memGet_none (hg : ∀ m a, memGet m x = none → memGet (g m a) x = none) (l : List α) {m : Memory} (h : memGet m x = none) :
    memGet (l.foldl g m) x = none := by
  induction l generalizing m with
  | nil => exact h
  | cons a l ih => exact ih (hg m a h)

theorem foldl_memGet_none_of_mem (hg : ∀ m a, memGet m x = none → memGet (g m a) x = none) {l : List α} {a : α} (ha : a ∈ l)
    (hclear : ∀ m, memGet (g m a) x = none) (m : Memory) : memGet (l.foldl g m) x = none := by
  induction l generalizing m with
  | nil => cases ha
  | cons b l ih =>
    rcases List.mem_cons.mp ha with rfl | ha
    · exact foldl_memGet_none hg l (hclear m)
    · exact ih ha _

theorem foldl_memGet_of_not {l : List α} (h : ∀ a ∈ l, ∀ m, memGet (g m a) x = memGet m x) (m : Memory) :
    memGet (l.foldl g m) x = memGet m x := by
  induction l generalizing m with
  | nil => rfl
  | cons b l ih => exact (ih (fun a ha => h a (List.mem_cons_of_mem b ha)) _).trans (h b List.mem_cons_self m)

end

/-- A page of galley is a home of a sheet of class 2 or 3 in the plan in force. -/
def isHome (x : Forme) (c : CoreId) (g : Nat) : Bool := x.makeup.plan.any (fun p => 2 ≤ p.cls && (match p.home with
  | .galley d a => d == c && decide (a ≤ g) && decide (g < a + p.pages)
  | _ => false))

/-- The clear of one page of a core's explicit region. -/
def clearPage (x : Forme) (c : CoreId) (m : Memory) (g : Nat) : Memory :=
  if isHome x c g then m else memClear m (c.val * 2 ^ 28 + g * 65536) 65536

theorem clearExplicit_galley (s : State) (f : FormeId) (mib : Nat) : (clearExplicit s f mib).galley =
    (s.forme f).cores.foldl (fun m c => (List.range (16 * mib)).foldl (clearPage (s.forme f) c) m) s.galley := rfl

theorem clearPage_none {x : Forme} {c : CoreId} {y : Nat} (m : Memory) (g : Nat) (h : memGet m y = none) : memGet (clearPage x c m g) y = none := by
  unfold clearPage
  split
  · exact h
  · rw [memGet_memClear, h, ite_self]

/-- A byte of an explicit region that no home holds reads zero. -/
theorem clearExplicit_clears {mib : Nat} {c : CoreId} (hc : c ∈ (s.forme f).cores) {o : Nat} (ho : o < 2 ^ 20 * mib)
    (hfree : isHome (s.forme f) c (o / 65536) = false) : galleyByte (clearExplicit s f mib).galley (c.val * 2 ^ 28 + o) = 0 := by
  have hclear (m : Memory) : memGet (clearPage (s.forme f) c m (o / 65536)) (c.val * 2 ^ 28 + o) = none := by
    rw [clearPage, if_neg (by rw [hfree]; exact Bool.false_ne_true), memGet_memClear]
    exact if_pos (by omega)
  have hget : memGet (clearExplicit s f mib).galley (c.val * 2 ^ 28 + o) = none := by
    rw [clearExplicit_galley]
    refine foldl_memGet_none_of_mem (fun m d h => foldl_memGet_none (fun m g => clearPage_none m g) _ h) hc (fun m => ?_) _
    exact foldl_memGet_none_of_mem (fun m g => clearPage_none m g) (List.mem_range.mpr (by omega)) hclear m
  rw [galleyByte, hget]
  rfl

/-- A byte outside the explicit regions stands. -/
theorem clearExplicit_outside {mib y : Nat}
    (hout : ∀ c ∈ (s.forme f).cores, y < c.val * 2 ^ 28 ∨ c.val * 2 ^ 28 + 2 ^ 20 * mib ≤ y) :
    galleyByte (clearExplicit s f mib).galley y = galleyByte s.galley y := by
  have hget : memGet (clearExplicit s f mib).galley y = memGet s.galley y := by
    rw [clearExplicit_galley]
    refine foldl_memGet_of_not (fun c hc m => foldl_memGet_of_not (fun g hg m => ?_) m) _
    have hgm := List.mem_range.mp hg
    have hy := hout c hc
    unfold clearPage
    split
    · rfl
    · rw [memGet_memClear, if_neg (by omega)]
  rw [galleyByte, hget, galleyByte]

/-- The forme with its new explicit region. -/
def explicitApplied (x : Forme) : Forme :=
  { x with makeup := { x.makeup with explicitActive := x.makeup.explicitMib, explicitDue := false } }

theorem exec_explicitRegionApply (hdue : (s.forme f).makeup.explicitDue = true) (hidle : formeInflight (s.forme f) = 0) :
    exec (.explicitRegionApply f) s = .next ((clearExplicit s f (s.forme f).makeup.explicitMib).modForme f explicitApplied) := by
  simp only [exec, execExplicitRegionApply, hdue, hidle, decide_true, Bool.and_self, if_true]
  rfl

/-- Settles O32, by the outcomes of a plan and of a fetch, and the pages that an explicit region covers. -/
theorem plansAndStaging : Obligations.PlansAndStaging := by
  refine ⟨fun s f ps hend hps hspill => ?_, fun s f r q l c hend hps hmaker hl hrun himposed hfault hseq hcfg hring => ?_, fun s f hend => ?_,
    fun s f c h p a d hp hstale hhome hmay hclean => ?_, fun s f hdue hidle => ?_⟩
  · obtain ⟨hplans, hplan, hdigest, hactive⟩ : _ ∧ _ ∧ _ ∧ _ := by
      simpa only [State.planned, Prod.mk.injEq] using takePlan_planned s f (keyWith s f (tuneWord (s.forme f).makeup)) ps
    exact ⟨_, exec_planComplete_takes hend hps hspill, hplans, hplan, hdigest, hactive, takePlan_still⟩
  · refine ⟨_, exec_planComplete_fails hend hps hmaker hl hrun, ?_⟩
    generalize keyWith s f (tuneWord (s.forme f).makeup) = k
    obtain ⟨sls, hslugs⟩ := discardAll_onlySlugs r q 0x0701 (planKeyed k (s.forme f))
    generalize hv : (s.modForme f (planKeyed k)).modForme f (discardAll r q 0x0701) = v
    have hforme : v.forme f = { planKeyed k (s.forme f) with slugs := sls } := by
      rw [← hv, State.forme_modForme_self, State.forme_modForme_self, hslugs]
    have hout : v.out = s.out := by rw [← hv]; rfl
    have hlv : findLaunch (v.forme f) r q = some l := by rw [hforme]; exact hl
    have hringv : ((v.forme f).ring r).state ≠ 2 := by rw [hforme]; exact hring
    have hcfgv : (v.forme f).cfg = some c := by rw [hforme]; exact hcfg
    have hmakeup := completeWith_makeup hlv hringv hcfgv
    have hsent := completeWith_recordSent (v := 0x0701) hlv hringv hcfgv
    rw [hforme] at hmakeup
    refine ⟨?_, ?_, ?_, makeRecord v.time.ticks { l with ended := some 0x0701, phase := .running }, launchStatus_ended himposed hfault, hseq, ?_⟩
    · rw [hmakeup]; rfl
    · rw [hmakeup]; rfl
    · rw [hmakeup]
    · unfold RecordSent at hsent ⊢
      rw [hforme, hout] at hsent
      exact hsent
  · simp only [exec, execPlanComplete, hend, Bool.false_eq_true, if_false]
  · obtain ⟨hstaged, hcurrent, hstack, hgalley, hothers⟩ := putStaged_spec (fetchStack s f p) f c p (some a)
    obtain ⟨hformes, hcharged, hmem, hgalley'⟩ := fetchStack_spec s f p (mayStage_pages hmay)
    have hforme (g : FormeId) : (fetchStack s f p).forme g = s.forme g := by rw [State.forme, hformes, State.forme]
    have hsheet : p.sheet = h := by simpa using List.find?_some hp
    refine ⟨_, exec_runahead_staged hp hstale hhome hmay hclean, ?_, ?_, ?_, hgalley.trans hgalley', fun g hg => ?_⟩
    · rw [hstaged, hforme, hsheet]
    · rw [hcurrent, hcharged, Nat.mul_add, ← Nat.add_assoc]
      rfl
    · rw [hstack, hmem]
    · rw [hothers g hg, hforme]
  · refine ⟨_, exec_explicitRegionApply hdue hidle, ?_, fun c hc o ho hfree => ?_, fun x hx => clearExplicit_outside hx, rfl, fun g hg => ?_⟩
    · rw [State.forme_modForme_self]
      rfl
    · refine clearExplicit_clears hc ho (Bool.eq_false_iff.mpr (fun hany => ?_))
      obtain ⟨p, hp, hhome⟩ := List.any_eq_true.mp hany
      obtain ⟨hcls, hhome⟩ := Bool.and_eq_true_iff.mp hhome
      split at hhome
      next d a hd =>
        simp only [Bool.and_eq_true, beq_iff_eq, decide_eq_true_eq] at hhome hcls
        obtain ⟨⟨rfl, hlo⟩, hhi⟩ := hhome
        have := hfree p hp a hd hcls
        omega
      next => exact absurd hhome (by decide)
    · rw [State.forme_modForme_of_ne _ f g _ hg.symm]
      rfl

end Sys2Proof.Machine
end
